-- ==== Sys2Proof/Word.lean ====
section
/-! DEFINITION. The word types of the Gudom: bytes, 512-byte rows (R217), and the sparse tables in which its
addressed storage is held. -/

namespace Sys2Proof

/-- One byte. -/
abbrev Byte := BitVec 8

/-- A 512-byte scratch or buffer row; byte i is bits [8i + 7:8i] (R9, R217). -/
abbrev Row := BitVec 4096

/-- One accumulator tile row: 64 words of 32 bits; word c is bits [32c + 31:32c] (R130). -/
abbrev TileRow := BitVec 2048

/-- A sparse table in canonical form: keys strictly rising, and no entry equal to what an unlisted key reads as.
With `Byte` values it is a list of `Host.Cell`. -/
abbrev KMap (α : Type) := List (Nat × α)

/-- Byte-addressed memory. -/
abbrev Memory := List Host.Cell

end Sys2Proof
end

