-- ==== Sys2Proof/Syntax.lean ====
section
/-! DEFINITION. The commands of the Gudom, one constructor for each row of spec/opcode_table.json, with the operands the spec
gives the step. A command comes from a Route's sequencer (the issue of one descriptor occurrence), from a host view, from
the other units and pins, or from the surroundings (an arrival, a sensor sample, a frame). -/

namespace Sys2Proof

/-- One occurrence of a descriptor, as the sequencer hands it to its unit (R34, R35, R80): the issuing core, the fields of
R80 with the operands already advanced by the loop indices (R106), and the linear loop index (R177). Its issue tick is the
segment tick at which the command runs. -/
structure Inst where
  core : BitVec 8
  lane : BitVec 2
  v : Bool
  spec : Bool
  tag : BitVec 24
  opa : BitVec 24
  opb : BitVec 24
  opd : BitVec 24
  count : BitVec 16
  mod : BitVec 20
  dep0 : BitVec 12
  dep1 : BitVec 12
  ext : BitVec 40
  lin : Nat
  deriving DecidableEq, Repr

/-- Queues of a core's network stop from which a message is delivered (R392). -/
inductive MsgQueue where
  | route
  | host
  | reply
  deriving DecidableEq, Repr

/-- What the return test of a core finds: the rows and spares that fail, as bank * 1024 + row with spare k as row 576 + k, and whether every
result of the test Route is equal (R125). -/
structure CoreTestResult where
  failed : List (BitVec 13)
  equal : Bool
  deriving DecidableEq, Repr

/-- Why a half-row was delayed, as its controller marked it (R299). -/
inductive DelayMark where
  | none
  | resend
  | refresh
  | translation
  deriving DecidableEq, Repr

/-- Who read the block that failed its check (R292, R293). -/
inductive BlockReader where
  | scheduled (core : BitVec 8) (tag : BitVec 24)
  | cxlMem
  | copyEngine
  | digestEngine
  | mergeWrite
  deriving DecidableEq, Repr

/-- What a read of a scratch row finds in its words (R237, R238): no error, a single-bit error that it corrects, or a word that
cannot be corrected. -/
inductive CellErr where
  | none
  | corrected
  | uncorrectable
  deriving DecidableEq, Repr

/-- Which part of a 64-bit register a write includes (R13, R332, R430). -/
inductive RegPart where
  | whole
  | low
  | high
  deriving DecidableEq, Repr

/-- The wake events of R341. -/
inductive WakeEvent where
  | startOrLoad
  | ctrlWake
  | cxlMem
  | gateReady
  | launchNear
  | budget
  deriving DecidableEq, Repr

/-- A waiter on a Beacon: the segment gate, or host wait register n (R385). -/
inductive Waiter where
  | gate
  | host (n : BitVec 8)
  deriving DecidableEq, Repr

/-- How a fill's source failed (R487). -/
inductive SourceFail where
  | timeout
  | abort
  | hostError
  deriving DecidableEq, Repr

/-- The header fields of a received Waymark frame that the receiver acts on (R451), with its receive stamp (R440), the CE
mark of its IPv6 header (R457) and whether its CRC-32C and checks passed (R453). -/
structure Frame where
  convoy : BitVec 9
  src : BitVec 15
  block : BitVec 16
  num : BitVec 64
  resend : Bool
  echo : Bool
  ce : Bool
  intact : Bool
  stamp : BitVec 64
  port : BitVec 3
  deriving DecidableEq, Repr

/-- One configuration request (R500). -/
inductive CfgOp where
  | read
  | write (value : BitVec 32)
  deriving DecidableEq, Repr

/-- A freeze form of R570. -/
inductive Freeze where
  | now
  | at (t : BitVec 40)
  | mark (m : BitVec 32)
  deriving DecidableEq, Repr

/-- What the boundary-scan port is driven to do (R587). -/
inductive TapOp where
  | shiftIR (code : BitVec 8)
  | shiftDR (bits : List Bool)
  deriving DecidableEq, Repr

/-- What the health monitor's rail samples show since its last update: samples below 95 % of nominal (R479). -/
structure RiskInput where
  droops : Nat
  deriving DecidableEq, Repr

/-- The commands. -/
inductive Instr where
  -- data-path units of a core (R96)
  | fetchRow (i : Inst)
  | fetchVbuf (i : Inst)
  | fetchWgt (i : Inst)
  | matStream (i : Inst)
  | matStreamT (i : Inst)
  | gemvLoadv (i : Inst)
  | gemvMac (i : Inst)
  | tileOpComplete (core : BitVec 8) (lane : BitVec 1) (tile : BitVec 3)
  | lvDrain (i : Inst)
  | lvEw (i : Inst)
  | lvFunc (i : Inst)
  | redSum (i : Inst)
  | redSmax (i : Inst)
  | redNorm (i : Inst)
  | redTopk (i : Inst)
  | stRow (i : Inst)
  | stMem (i : Inst)
  | mshSend (i : Inst)
  | mshFan (i : Inst)
  | mshConf (i : Inst)
  | rlyPass (i : Inst)
  | rlyFwd (i : Inst)
  | bcnSig (i : Inst)
  | bcnMsg (i : Inst)
  | messageSend (core : BitVec 8)
  | messageDelivery (core : BitVec 8) (q : MsgQueue)
  | hostRingRecord (t : BitVec 4)
  | combiningContribution (e : BitVec 8)
  | ctlNop (i : Inst)
  | ctlFork (i : Inst)
  | windowForkResolve (core : BitVec 8)
  | exitForkResolve (core : BitVec 8)
  | ctlPpoint (i : Inst)
  | ctlTime (i : Inst)
  | ctlRand (i : Inst)
  | ctlHlth (i : Inst)
  | stepOpen (i : Inst)
  | stepCommit (i : Inst)
  | ctlMark (i : Inst)
  | tcfg (i : Inst)
  | tmov (i : Inst)
  | tzero (i : Inst)
  | dmaRd (i : Inst)
  | dmaWr (i : Inst)
  | dmaSgather (i : Inst)
  | dmaSscatter (i : Inst)
  -- arrivals, checks, the Eclipse, segments
  | halfRowArrival (core : BitVec 8) (bank : BitVec 3) (row : BitVec 10) (half : BitVec 1)
      (hostData : BitVec 2048) (mark : DelayMark) (delay : BitVec 16)
  | dueTickCheck (core : BitVec 8)
  | writeAckCheck (core : BitVec 8)
  | eclipseBegin
  | eclipseRelease
  | routeWatchdog
  | meshSlipOverrun (router : BitVec 8) (port : BitVec 3) (plus : Bool)
  | segmentBoundary
  | gateRelease
  | scoreboardSegmentEnd
  | preemptionTaken
  -- Route commands
  | load (b : BitVec 4) (t : BitVec 4)
  | loadComplete
  | start (b : BitVec 4) (t : BitVec 4)
  | stop (b : BitVec 4)
  | preempt (b : BitVec 4)
  | coreRetire (b : BitVec 4) (core : BitVec 8)
  | coreTest (b : BitVec 4) (core : BitVec 8)
  | coreTestDone (found : CoreTestResult)
  | coreReturn (b : BitVec 4) (core : BitVec 8)
  | streamEntryWrite (b : BitVec 4) (core : BitVec 8) (h : BitVec 6) (stride : Bool) (value : BitVec 64)
  -- scratch tests, non-scheduled accesses, the host debug window
  | scratchTestStart (core : BitVec 8)
  | scratchTestStep (core : BitVec 8) (err : CellErr) (matches_ : Bool)
  | nonScheduledAccess (core : BitVec 8) (bank : BitVec 3) (write : Bool) (err : CellErr)
  | hdwRead (b : BitVec 4)
  | hdwWrite (b : BitVec 4)
  -- device memory
  | imapApply (b : BitVec 4)
  | channelRetire (b : BitVec 4) (ch : BitVec 7)
  | channelTest (b : BitVec 4) (ch : BitVec 7)
  | channelTestDone (ch : BitVec 7) (pass : Bool)
  | rejoin (b : BitVec 4) (ch : BitVec 7)
  | digest (b : BitVec 4)
  | digestDone (failed : Bool)
  | blockCheckFail (ch : BitVec 7) (off : BitVec 33) (checkBlock : Bool) (rereads : BitVec 2) (persistent : Bool)
      (by_ : BlockReader)
  | channelLost (ch : BitVec 7)
  | plannedRefresh (ch : BitVec 7)
  | forcedRefresh (ch : BitVec 7) (bank : BitVec 4)
  | mr4Poll (pkg : BitVec 4) (reading : Option (BitVec 2))
  | stepCopyDone
  | heldWriteRelease (addr : BitVec 40)
  -- clocks and power
  | ownStretch (island : BitVec 5) (margin : BitVec 6)
  | shadowStretch
  | stretchHigh (island : BitVec 5)
  | clkMarginLost (island : BitVec 5)
  | clkOppAtWrite (b : BitVec 4) (part : RegPart) (value : BitVec 64)
  | oppSwitch
  | sensorSample (die : List (BitVec 5 × Int)) (watts : Nat)
  | throttleLevelChange
  | powerLimit
  | thermalTrip
  | powerStateEntry
  | wake (ev : WakeEvent)
  | pwrCtrlWake (b : BitVec 4)
  | pwrBudgetNsWrite (b : BitVec 4) (t : BitVec 4) (ns : BitVec 32)
  -- Beacons, sessions, tenancies
  | beaconSet (b : BitVec 4) (bcn : BitVec 14) (wide : Bool) (value : BitVec 64)
  | beaconAdd (b : BitVec 4) (bcn : BitVec 14) (value : BitVec 32)
  | arm (b : BitVec 4) (n : BitVec 8) (tag : BitVec 24)
  | bcnWaitTimeout (w : Waiter)
  | bind (b : BitVec 4) (slot : BitVec 10)
  | unbind (b : BitVec 4) (slot : BitVec 10)
  | slotWordWrite (b : BitVec 4) (t : BitVec 4) (w : BitVec 5) (value : BitVec 32)
  | switch (b : BitVec 4)
  | tenancySwitch (intact : Bool)
  | tenApply (b : BitVec 4) (t : BitVec 4)
  | send (b : BitVec 4) (t : BitVec 4) (ctl : BitVec 32)
  | ringEnable (b : BitVec 4) (t : BitVec 4) (cfg : BitVec 32)
  -- Milestone time and Waymark
  | timLaunchAtWrite (b : BitVec 4) (part : RegPart) (value : BitVec 64)
  | launch
  | relaunch
  | syncMessage (domain : BitVec 8) (offset : Int) (steps : BitVec 8) (accurate : Bool)
  | syncLost
  | ppsIn (highNs : Nat) (missNs : Int)
  | ppsOut
  | portCfgWrite (b : BitVec 4) (p : BitVec 3) (value : BitVec 32)
  | linkChange (p : BitVec 3) (sub : BitVec 1) (up : Bool)
  | convoyValid (b : BitVec 4) (c : BitVec 9) (set : Bool)
  | join (b : BitVec 4) (c : BitVec 9)
  | leave (b : BitVec 4) (c : BitVec 9)
  | joinAll (b : BitVec 4)
  | joinResend (c : BitVec 9)
  | blockTransmit (c : BitVec 9)
  | data (f : Frame) (payload : BitVec 32768)
  | receiveStoreDrain (p : BitVec 3)
  | ack (f : Frame) (bitmap : BitVec 512)
  | ackWindowEnd (c : BitVec 9)
  | ackPeriodic (c : BitVec 9)
  | signal (f : Frame) (bcn : BitVec 14) (value : BitVec 32)
  | abort (f : Frame) (code : BitVec 16)
  | joinFrame (f : Frame) (first : BitVec 64) (period len : BitVec 32) (blocks : BitVec 16) (dir : BitVec 8)
  | keepalive (c : BitVec 9)
  | wmkPeerLost (c : BitVec 9)
  -- Mirror
  | mirrorDigest (f : Frame) (pass interval : BitVec 64) (digest : BitVec 384)
  | mirrorFolds (f : Frame) (pass interval : BitVec 64) (folds : List (BitVec 64))
  | mirrorVariance (f : Frame) (tag : BitVec 24) (lin : BitVec 64) (bytes : List Byte)
  | mirrorStop (f : Frame) (pass interval : BitVec 64)
  | mirrorArm (f : Frame) (measure : BitVec 384) (dsig : BitVec 64) (latid : BitVec 16) (placement : BitVec 8) (role : BitVec 8)
      (coreMap : BitVec 256)
  | mirrorIntervalEnd
  -- step shadows, Cairns, health
  | restore (b : BitVec 4)
  | restoreDone (failed : Bool)
  | verify (b : BitVec 4)
  | fill (b : BitVec 4) (store stepMatch : Bool)
  | fillDone (bytes : List Byte)
  | fillSourceFail (why : SourceFail)
  | serve (b : BitVec 4) (src : BitVec 2) (onJoin : Bool)
  | serveEnd (failed : Bool)
  | cairn (b : BitVec 4)
  | clearRepeat (b : BitVec 4)
  | cancelQueued (b : BitVec 4)
  | riskUpdate (x : RiskInput)
  -- host port
  | configRequest (b : BitVec 4) (off : BitVec 12) (op : CfgOp)
  | cxlMemRead (spid : Option (BitVec 12)) (cxlIo : Bool) (addr : BitVec 40) (len : BitVec 9)
  | cxlMemWrite (spid : Option (BitVec 12)) (cxlIo : Bool) (addr : BitVec 40) (bytes : List Byte)
  | backInvalidate (b : BitVec 4) (line : BitVec 40)
  | h2dSnoop (b : BitVec 4) (line : BitVec 64)
  | translationCompletion (b : BitVec 4) (page : BitVec 52) (write granted error : Bool)
  | atsTimeout (b : BitVec 4) (page : BitVec 52) (write : Bool)
  | invalidateRequest (b : BitVec 4) (page : BitVec 52) (pages : Nat)
  | retry (b : BitVec 4)
  | hostLinkDown
  | doeDiscovery (b : BitVec 4)
  | tableAccess (b : BitVec 4)
  | getCert (b : BitVec 4) (which : BitVec 8)
  | getMeasurements (b : BitVec 4) (nonce : BitVec 256)
  -- security
  | recover (b : BitVec 4)
  | update (b : BitVec 4)
  | flashProgramDone (readBackEqual : Bool)
  | svnCommit (b : BitVec 4)
  | revoke (b : BitVec 4) (k : BitVec 8)
  | policy (b : BitVec 4) (p : BitVec 8)
  | ownerKey (b : BitVec 4)
  | evalCommit (b : BitVec 4)
  | challenge (b : BitVec 4) (mask : BitVec 8) (owner : Bool)
  | respond (b : BitVec 4)
  -- the module
  | powerOn
  | powerLoss
  | perstAssert (ns : Nat)
  | perstRelease (selfTestOk : Bool)
  | dramTrainingDone
  | lanternRingEnable (b : BitVec 4) (ctl : BitVec 32)
  | lanternRecord
  | registerWrite (b : BitVec 4) (off : BitVec 24) (width : BitVec 7) (value : BitVec 64)
  -- the monitor
  | phimonStatus
  | phimonFaults
  | phimonRd (addr : BitVec 24) (wide : Bool)
  | phimonBcn (bcn : BitVec 14)
  | phimonCore (n : BitVec 8)
  | phimonLantern (n : Nat)
  | phimonLevel
  | phimonBaud (rate : Nat)
  | phimonWr (addr : BitVec 24) (wide : Bool) (value : BitVec 64)
  | phimonBcnSet (bcn : BitVec 14) (value : BitVec 32)
  | phimonBcnAdd (bcn : BitVec 14) (value : BitVec 32)
  | phimonRow (index : BitVec 21)
  | phimonFreeze (form : Freeze)
  | freezeBegin
  | phimonTick (n : BitVec 32)
  | phimonRun
  | phimonStop
  -- board management
  | smbusModel
  | smbusSerial
  | smbusCores
  | smbusVin (mv : BitVec 16)
  | smbusPin
  | smbusTdie
  | smbusTdram
  | smbusStatus
  | smbusPstate
  | smbusWrite (code : BitVec 8)
  | trst
  -- rows listed last in the table
  | writeAcknowledgement (core : BitVec 8) (tag : BitVec 24) (j : BitVec 16)
  | mirrorArmTimeout
  | fuseProgramDone
  | hostLinkUp (x16 gt64 latopt cxl : Bool)
  | netclk25Loss
  | netclk25Return
  | railLeavesRegulation (rail : BitVec 3)
  | hdmDecoderCommit (b : BitVec 4) (base size skip : BitVec 64) (ways : BitVec 8)
  | msixUnmask (b : BitVec 4) (vec : BitVec 6)
  | doeErrorResponse (b : BitVec 4) (request : List Byte)
  | boundaryScanAccess (op : TapOp)
  | phimonUnknownCommand (line : List Byte)
  deriving DecidableEq, Repr

end Sys2Proof
end

