-- ==== Sys2Proof/Decode.lean ====
section
/-! DEFINITION. The commands that a word of spec/opcode_table.json spells. The table gives none of its rows any bits. -/

namespace Sys2Proof

/-- The command that an `nbits`-bit word spells: no row of spec/opcode_table.json has bits, so no word spells one. -/
def decodeTableWord (_nbits _w : Nat) : Option Instr := none

end Sys2Proof
end

