-- ==== Sys2Proof/Machine/Crypto.lean ====
section
/-! DEFINITION. The digests and signatures the spec names: CRC-32C (R287), SHA-384 (R120, R311), HMAC-SHA-384 (R538) and
ECDSA over brainpoolP384r1 (R524). Their definitions are those of the standards that R287 and R524 cite
(PRESUMED, notes/assumptions/10.md). -/

namespace Sys2Proof.Machine

/-! ### CRC-32C -/

/-- Bit steps of the reflected CRC-32C register (polynomial 0x1EDC_6F41, reflected 0x82F6_3B78; R287). -/
def crcBits : Nat → BitVec 32 → BitVec 32
  | 0, c => c
  | n + 1, c => crcBits n (if c.getLsbD 0 then (c >>> 1) ^^^ 0x82F63B78#32 else c >>> 1)

/-- One byte into the register. -/
def crcByte (c : BitVec 32) (b : Byte) : BitVec 32 := crcBits 8 (c ^^^ b.setWidth 32)

/-- CRC-32C with initial value and final XOR 0xFFFF_FFFF (R287). -/
def crc32c (bs : List Byte) : BitVec 32 := bs.foldl crcByte 0xFFFFFFFF#32 ^^^ 0xFFFFFFFF#32

/-- The `n` little-endian bytes of a number (R9). -/
def leBytes : Nat → Nat → List Byte
  | 0, _ => []
  | n + 1, v => BitVec.ofNat 8 v :: leBytes n (v / 256)

/-- The number that little-endian bytes spell (R9). -/
def ofLeBytes : List Byte → Nat
  | [] => 0
  | b :: bs => b.toNat + 256 * ofLeBytes bs

/-- The number that big-endian bytes spell. -/
def ofBeBytes (bs : List Byte) : Nat := bs.foldl (fun a b => a * 256 + b.toNat) 0

/-- The `n` big-endian bytes of a number. -/
def beBytes (n v : Nat) : List Byte := (leBytes n v).reverse

/-- The CRC of data block `b` of group `q` of a channel: its 256 bytes, then the 8-byte suffix (R287). -/
def blockCrc (channel q b : Nat) (bs : List Byte) : BitVec 32 :=
  crc32c (bs ++ leBytes 8 (channel * 2 ^ 32 + (16384 * q + 256 * b) / 256))

/-! ### SHA-384 -/

def shaK0 : List (BitVec 64) := [
  0x428A2F98D728AE22#64, 0x7137449123EF65CD#64, 0xB5C0FBCFEC4D3B2F#64, 0xE9B5DBA58189DBBC#64,
  0x3956C25BF348B538#64, 0x59F111F1B605D019#64, 0x923F82A4AF194F9B#64, 0xAB1C5ED5DA6D8118#64,
  0xD807AA98A3030242#64, 0x12835B0145706FBE#64, 0x243185BE4EE4B28C#64, 0x550C7DC3D5FFB4E2#64,
  0x72BE5D74F27B896F#64, 0x80DEB1FE3B1696B1#64, 0x9BDC06A725C71235#64, 0xC19BF174CF692694#64]

def shaK1 : List (BitVec 64) := [
  0xE49B69C19EF14AD2#64, 0xEFBE4786384F25E3#64, 0x0FC19DC68B8CD5B5#64, 0x240CA1CC77AC9C65#64,
  0x2DE92C6F592B0275#64, 0x4A7484AA6EA6E483#64, 0x5CB0A9DCBD41FBD4#64, 0x76F988DA831153B5#64,
  0x983E5152EE66DFAB#64, 0xA831C66D2DB43210#64, 0xB00327C898FB213F#64, 0xBF597FC7BEEF0EE4#64,
  0xC6E00BF33DA88FC2#64, 0xD5A79147930AA725#64, 0x06CA6351E003826F#64, 0x142929670A0E6E70#64]

def shaK2 : List (BitVec 64) := [
  0x27B70A8546D22FFC#64, 0x2E1B21385C26C926#64, 0x4D2C6DFC5AC42AED#64, 0x53380D139D95B3DF#64,
  0x650A73548BAF63DE#64, 0x766A0ABB3C77B2A8#64, 0x81C2C92E47EDAEE6#64, 0x92722C851482353B#64,
  0xA2BFE8A14CF10364#64, 0xA81A664BBC423001#64, 0xC24B8B70D0F89791#64, 0xC76C51A30654BE30#64,
  0xD192E819D6EF5218#64, 0xD69906245565A910#64, 0xF40E35855771202A#64, 0x106AA07032BBD1B8#64]

def shaK3 : List (BitVec 64) := [
  0x19A4C116B8D2D0C8#64, 0x1E376C085141AB53#64, 0x2748774CDF8EEB99#64, 0x34B0BCB5E19B48A8#64,
  0x391C0CB3C5C95A63#64, 0x4ED8AA4AE3418ACB#64, 0x5B9CCA4F7763E373#64, 0x682E6FF3D6B2B8A3#64,
  0x748F82EE5DEFB2FC#64, 0x78A5636F43172F60#64, 0x84C87814A1F0AB72#64, 0x8CC702081A6439EC#64,
  0x90BEFFFA23631E28#64, 0xA4506CEBDE82BDE9#64, 0xBEF9A3F7B2C67915#64, 0xC67178F2E372532B#64]

def shaK4 : List (BitVec 64) := [
  0xCA273ECEEA26619C#64, 0xD186B8C721C0C207#64, 0xEADA7DD6CDE0EB1E#64, 0xF57D4F7FEE6ED178#64,
  0x06F067AA72176FBA#64, 0x0A637DC5A2C898A6#64, 0x113F9804BEF90DAE#64, 0x1B710B35131C471B#64,
  0x28DB77F523047D84#64, 0x32CAAB7B40C72493#64, 0x3C9EBE0A15C9BEBC#64, 0x431D67C49C100D4C#64,
  0x4CC5D4BECB3E42B6#64, 0x597F299CFC657E2A#64, 0x5FCB6FAB3AD6FAEC#64, 0x6C44198C4A475817#64]

/-- The round constants of SHA-512 (FIPS 180-4). -/
def shaK : List (BitVec 64) := shaK0 ++ shaK1 ++ shaK2 ++ shaK3 ++ shaK4

/-- The first hash words of SHA-384. -/
def sha384Iv : List (BitVec 64) := [
  0xCBBB9D5DC1059ED8#64, 0x629A292A367CD507#64, 0x9159015A3070DD17#64, 0x152FECD8F70E5939#64,
  0x67332667FFC00B31#64, 0x8EB44A8768581511#64, 0xDB0C2E0D64F98FA7#64, 0x47B5481DBEFA4FA4#64]

/-- Padding of a message of `len` bytes: 0x80, zeros, and the bit length in 16 big-endian bytes. -/
def shaPad (len : Nat) : List Byte :=
  0x80#8 :: (List.replicate ((256 - (len + 17) % 128) % 128) 0#8 ++ beBytes 16 (8 * len))

/-- Sixteen 64-bit big-endian words of a block. -/
def shaWords : Nat → List Byte → List (BitVec 64)
  | 0, _ => []
  | n + 1, bs => BitVec.ofNat 64 (ofBeBytes (bs.take 8)) :: shaWords n (bs.drop 8)

/-- Extend the message schedule; `w` holds the last words, newest first. -/
def shaExtend : Nat → List (BitVec 64) → List (BitVec 64)
  | 0, w => w
  | n + 1, w =>
    let g (k : Nat) : BitVec 64 := w.getD k 0
    let a := g 14
    let b := g 1
    let s0 := a.rotateRight 1 ^^^ a.rotateRight 8 ^^^ (a >>> 7)
    let s1 := b.rotateRight 19 ^^^ b.rotateRight 61 ^^^ (b >>> 6)
    shaExtend n ((g 15 + s0 + g 6 + s1) :: w)

/-- The eight working words of a hash. -/
structure ShaRegs where
  a : BitVec 64
  b : BitVec 64
  c : BitVec 64
  d : BitVec 64
  e : BitVec 64
  f : BitVec 64
  g : BitVec 64
  h : BitVec 64
  deriving DecidableEq, Repr

/-- One round. -/
def shaRound (s : ShaRegs) (kw : BitVec 64) : ShaRegs :=
  let t1 := s.h + (s.e.rotateRight 14 ^^^ s.e.rotateRight 18 ^^^ s.e.rotateRight 41)
    + ((s.e &&& s.f) ^^^ (~~~s.e &&& s.g)) + kw
  let t2 := (s.a.rotateRight 28 ^^^ s.a.rotateRight 34 ^^^ s.a.rotateRight 39)
    + ((s.a &&& s.b) ^^^ (s.a &&& s.c) ^^^ (s.b &&& s.c))
  ⟨t1 + t2, s.a, s.b, s.c, s.d + t1, s.e, s.f, s.g⟩

/-- One block. -/
def shaBlock (s : ShaRegs) (bs : List Byte) : ShaRegs :=
  let w := (shaExtend 64 (shaWords 16 bs).reverse).reverse
  let r := (List.zipWith (· + ·) shaK w).foldl shaRound s
  ⟨s.a + r.a, s.b + r.b, s.c + r.c, s.d + r.d, s.e + r.e, s.f + r.f, s.g + r.g, s.h + r.h⟩

/-- The blocks of a padded message, in order. -/
def shaBlocks : Nat → ShaRegs → List Byte → ShaRegs
  | 0, s, _ => s
  | n + 1, s, bs => shaBlocks n (shaBlock s (bs.take 128)) (bs.drop 128)

/-- SHA-384 of a byte string, as 48 bytes. -/
def sha384 (bs : List Byte) : List Byte :=
  let m := bs ++ shaPad bs.length
  let iv (k : Nat) : BitVec 64 := sha384Iv.getD k 0
  let s := shaBlocks (m.length / 128) ⟨iv 0, iv 1, iv 2, iv 3, iv 4, iv 5, iv 6, iv 7⟩ m
  [s.a, s.b, s.c, s.d, s.e, s.f].flatMap fun x => beBytes 8 x.toNat

/-- HMAC-SHA-384. -/
def hmacSha384 (key msg : List Byte) : List Byte :=
  let k0 := if 128 < key.length then sha384 key else key
  let k := k0 ++ List.replicate (128 - k0.length) 0#8
  sha384 (k.map (· ^^^ 0x5C#8) ++ sha384 (k.map (· ^^^ 0x36#8) ++ msg))

/-! ### ECDSA over brainpoolP384r1 (RFC 5639, FIPS 186-5) -/

def ecP : Nat := 0x8CB91E82A3386D280F5D6F7E50E641DF152F7109ED5456B412B1DA197FB71123ACD3A729901D1A71874700133107EC53
def ecA : Nat := 0x7BC382C63D8C150C3C72080ACE05AFA0C2BEA28E4FB22787139165EFBA91F90F8AA5814A503AD4EB04A8C7DD22CE2826
def ecB : Nat := 0x04A8C7DD22CE28268B39B55416F0447C2FB77DE107DCD2A62E880EA53EEB62D57CB4390295DBC9943AB78696FA504C11
def ecGx : Nat := 0x1D1C64F068CF45FFA2A63A81B7C13F6B8847A3E77EF14FE3DB7FCAFE0CBD10E8E826E03436D646AAEF87B2E247D4AF1E
def ecGy : Nat := 0x8ABE1D7520F9C2A45CB1EB8E95CFD55262B70B29FEEC5864E19C054FF99129280E4646217791811142820341263C5315
def ecN : Nat := 0x8CB91E82A3386D280F5D6F7E50E641DF152F7109ED5456B31F166E6CAC0425A7CF3AB6AF6B7FC3103B883202E9046565

/-- b^k mod m, over the `n` low bits of k. -/
def powMod (m : Nat) : Nat → Nat → Nat → Nat
  | 0, _, _ => 1 % m
  | n + 1, b, k => (if k % 2 = 1 then b else 1) * powMod m n (b * b % m) (k / 2) % m

/-- Inverse modulo a prime of at most 384 bits. -/
def invMod (m x : Nat) : Nat := powMod m 384 (x % m) (m - 2)

/-- A point of the curve; none is the neutral element. -/
abbrev EcPoint := Option (Nat × Nat)

/-- The point lies on the curve. -/
def ecOn (x y : Nat) : Bool :=
  decide (x < ecP ∧ y < ecP ∧ y * y % ecP = (x * x * x + ecA * x + ecB) % ecP)

/-- Point addition. -/
def ecAdd : EcPoint → EcPoint → EcPoint
  | none, q => q
  | p, none => p
  | some (x1, y1), some (x2, y2) =>
    let fin (l : Nat) : EcPoint :=
      let x := (l * l + (ecP - x1) + (ecP - x2)) % ecP
      some (x, (l * (x1 + (ecP - x)) + (ecP - y1)) % ecP)
    if x1 = x2 then
      if (y1 + y2) % ecP = 0 then none
      else fin ((3 * x1 * x1 + ecA) * invMod ecP (2 * y1) % ecP)
    else fin ((y2 + (ecP - y1)) * invMod ecP (x2 + (ecP - x1)) % ecP)

/-- k times a point, over the `n` low bits of k. -/
def ecMul : Nat → Nat → EcPoint → EcPoint
  | 0, _, _ => none
  | n + 1, k, p =>
    let r := ecMul n (k / 2) (ecAdd p p)
    if k % 2 = 1 then ecAdd p r else r

/-- A 97-byte uncompressed public key as its coordinates, when it is a point of the curve (R524). -/
def pubKey (bs : List Byte) : Option (Nat × Nat) :=
  let x := ofBeBytes ((bs.drop 1).take 48)
  let y := ofBeBytes ((bs.drop 49).take 48)
  if bs.headD 0 = 0x04#8 ∧ bs.length = 97 ∧ ecOn x y = true then some (x, y) else none

/-- ECDSA verification of a 96-byte signature over a SHA-384 digest (R524, FIPS 186-5). -/
def ecdsaVerify (key digest sig : List Byte) : Bool :=
  match pubKey key with
  | none => false
  | some q =>
    let r := ofBeBytes (sig.take 48)
    let s := ofBeBytes (sig.drop 48)
    if r = 0 ∨ s = 0 ∨ ecN ≤ r ∨ ecN ≤ s then false
    else
      let w := invMod ecN s
      let z := ofBeBytes digest
      match ecAdd (ecMul 384 (z * w % ecN) (some (ecGx, ecGy))) (ecMul 384 (r * w % ecN) (some q)) with
      | none => false
      | some (x, _) => x % ecN == r

/-- A private key of R538: (HMAC-SHA-384(secret, label) mod (n - 1)) + 1. -/
def deriveKey (secret label : List Byte) : Nat := ofBeBytes (hmacSha384 secret label) % (ecN - 1) + 1

/-- The 97-byte public key of a private key (R524). -/
def publicOf (d : Nat) : List Byte :=
  match ecMul 384 d (some (ecGx, ecGy)) with
  | some (x, y) => 0x04#8 :: (beBytes 48 x ++ beBytes 48 y)
  | none => []

/-- The ECDSA signature of a digest with private key `d` and nonce `k` (FIPS 186-5). -/
def ecdsaSign (d k : Nat) (digest : List Byte) : List Byte :=
  let r := ((ecMul 384 k (some (ecGx, ecGy))).map (·.1)).getD 0 % ecN
  beBytes 48 r ++ beBytes 48 (invMod ecN k * (ofBeBytes digest + r * d) % ecN)

/-- The device identity key (R538). -/
def dikOf (secret : List Byte) : Nat := deriveKey secret ([0x4B, 0x5A, 0x47, 0x37, 0x20, 0x44, 0x49, 0x4B].map (BitVec.ofNat 8))

/-- The alias key (R538). -/
def aliasOf (secret m0 m1 : List Byte) (svn : Nat) : Nat :=
  deriveKey secret (([0x4B, 0x5A, 0x47, 0x37, 0x20, 0x41, 0x4C, 0x49, 0x41, 0x53].map (BitVec.ofNat 8)) ++ m0 ++ m1 ++ leBytes 4 svn)

end Sys2Proof.Machine
end

