-- ==== Sys2Proof/Config.lean ====
section
/-! DEFINITION. The free values: what the spec leaves to the surroundings or does not state. Each is a constant without a
body, so nothing can be proved about which value it takes; each is applied to the counter `fresh` of the state, which every
use advances (notes/assumptions/2.md). -/

namespace Sys2Proof.Config

/-- Milestone nanoseconds that pass in one idle step. -/
opaque elapsedNs : Nat → Nat

/-- 64 bits of the true random source (R96). -/
opaque randomBits : Nat → BitVec 64

/-- A byte of a value the device makes by a private method (a signature, a certificate body). -/
opaque freeByte : Nat → Byte

/-- A number the spec does not state. -/
opaque freeNat : Nat → Nat

/-- A byte of the flash image as it was before the model's first step (R525). -/
opaque flashByte : Nat → Byte

/-- SHA-384 of the boot ROM, fixed for the stepping (R541). -/
opaque bootRomDigest : BitVec 384

/-- Offset of the Renral DVSEC in configuration space (R523). -/
opaque dvsecBase : Nat

/-- Fixed phase of the writer's clock before the reader's at an island crossing, in thousandths of a period (R327). -/
opaque clockPhase : Nat → Nat

/-- Codes of the IEEE 1149.1 instructions: 0 IDCODE, 1 EXTEST, 2 SAMPLE, 3 PRELOAD (R587). -/
opaque tapCode : Nat → BitVec 8

/-- DER of a certificate's signed part: it holds a subject public key, a subject serial number and an extension (R524, R539, R540). -/
opaque certBody : List Byte → Nat → List Byte → List Byte

/-- DER of a certificate: its signed part and its signature. -/
opaque certDer : List Byte → List Byte → List Byte

/-- The device CA's signature of the identity certificate (R539). -/
opaque caSignature : List Byte

end Sys2Proof.Config
end

