-- ==== Sys2Proof/Machine/KMap.lean ====
section
/-! DEFINITION. Reading and writing the sparse tables that hold the addressed storage. A write keeps the canonical
form: writing the value an unlisted key reads as removes the entry. -/

namespace Sys2Proof.Machine

/-- The value at a key; `d` is what an unlisted key reads as. -/
def kget {α : Type} (d : α) : KMap α → Nat → α
  | [], _ => d
  | (k', v) :: m, k => if k = k' then v else kget d m k

/-- Remove a key. -/
def kdel {α : Type} : KMap α → Nat → KMap α
  | [], _ => []
  | (k', v) :: m, k => if k = k' then kdel m k else (k', v) :: kdel m k

/-- Put a value in at its place in the rising order. -/
def kput {α : Type} : KMap α → Nat → α → KMap α
  | [], k, v => [(k, v)]
  | (k', v') :: m, k, v =>
    if k = k' then (k, v) :: m
    else if k < k' then (k, v) :: (k', v') :: m
    else (k', v') :: kput m k v

/-- Write a value, keeping the canonical form. -/
def kset {α : Type} [DecidableEq α] (d : α) (m : KMap α) (k : Nat) (v : α) : KMap α :=
  if v = d then kdel m k else kput m k v

/-- The keys rise strictly from `lo`. -/
def ksorted {α : Type} : Nat → KMap α → Bool
  | _, [] => true
  | lo, (k, _) :: m => decide (lo ≤ k) && ksorted (k + 1) m

/-- The canonical form: keys strictly rising, no entry at the value an unlisted key reads as. -/
def kwf {α : Type} [DecidableEq α] (d : α) (m : KMap α) : Bool :=
  ksorted 0 m && m.all (fun p => decide (p.2 ≠ d))

/-- Write `n` consecutive keys from `k`, key `k + i` taking `f i`. -/
def ksetMany {α : Type} [DecidableEq α] (d : α) (f : Nat → α) : Nat → KMap α → Nat → KMap α
  | 0, m, _ => m
  | n + 1, m, k => kset d (ksetMany d f n m k) (k + n) (f n)

/-- Remove every key that `p` names. -/
def kfilter {α : Type} (p : Nat → Bool) (m : KMap α) : KMap α := m.filter (fun e => p e.1)

/-- What an unlisted byte of device memory reads as (DESIGN CHOICE, notes/assumptions/3.md). -/
def Memory.dflt : Byte := 0

/-- Read one byte. -/
def Memory.read (m : Memory) (a : Nat) : Byte := kget Memory.dflt m a

/-- Write one byte. -/
def Memory.write (m : Memory) (a : Nat) (v : Byte) : Memory := kset Memory.dflt m a v

/-- The canonical form of a memory. -/
def Memory.wf (m : Memory) : Bool := kwf Memory.dflt m

/-- Read `n` bytes from `a` as a little-endian number (R9). -/
def Memory.readNat (m : Memory) (a : Nat) : Nat → Nat
  | 0 => 0
  | n + 1 => (Memory.read m a).toNat + 256 * Memory.readNat m (a + 1) n

/-- Write the `n` low bytes of `v` from `a`, little-endian (R9). -/
def Memory.writeNat (m : Memory) (a v : Nat) : Nat → Memory
  | 0 => m
  | n + 1 => Memory.writeNat (Memory.write m a (BitVec.ofNat 8 v)) (a + 1) (v / 256) n

end Sys2Proof.Machine
end

