-- ==== Sys2Proof/Machine/Regs.lean ====
section
/-! DEFINITION. The control-space registers, field by field, as the register tables of spec/ give them
(the table of each register stands in the chapter R26 names). A register family is a function of its indices.
A 128- or 512-bit group is given as its 64-bit words (R13). -/

namespace Sys2Proof.Machine

/-- Access codes of R10 (reserved fields are not listed: they read 0 and ignore writes, R10, R11). -/
inductive Access where
  | ro
  | rw
  | rw1c
  | wo
  deriving DecidableEq, Repr

/-- One register field: byte offset of its register, lowest bit, width, access code, reset value, and whether
it is sticky through PERST# or loaded from the fuses (R15). -/
structure Fld where
  off : Nat
  lo : Nat
  width : Nat
  acc : Access
  rst : Nat
  sticky : Bool := false
  fuse : Bool := false
  deriving DecidableEq, Repr

/-- The key under which a field value is held. -/
def Fld.key (f : Fld) : Nat := f.off * 64 + f.lo

namespace Reg

def GLB_ID.DEVICE : Fld := { off := 0x0, lo := 16, width := 16, acc := .ro, rst := 0x4707 }
def GLB_ID.STEPPING : Fld := { off := 0x0, lo := 8, width := 8, acc := .ro, rst := 0, fuse := true }
def GLB_GRADE.CONC_LIMIT : Fld := { off := 0x4, lo := 16, width := 1, acc := .ro, rst := 0, fuse := true }
def GLB_GRADE.PORT_MASK : Fld := { off := 0x4, lo := 8, width := 8, acc := .ro, rst := 0, fuse := true }
def GLB_GRADE.MAX_OPP : Fld := { off := 0x4, lo := 4, width := 3, acc := .ro, rst := 0, fuse := true }
def GLB_GRADE.GRADE : Fld := { off := 0x4, lo := 0, width := 4, acc := .ro, rst := 0, fuse := true }
def GLB_SERIAL.SERIAL : Fld := { off := 0x8, lo := 0, width := 64, acc := .ro, rst := 0, fuse := true }
def GLB_CORE_MAP.IN_SERVICE (k : Nat) : Fld := { off := 0x10 + 0x8 * k, lo := 0, width := 64, acc := .ro, rst := 0, fuse := true }
def GLB_DSIG.ENV_REV : Fld := { off := 0x30, lo := 32, width := 8, acc := .ro, rst := 0, fuse := true }
def GLB_DSIG.ROUND_REV : Fld := { off := 0x30, lo := 24, width := 8, acc := .ro, rst := 0, fuse := true }
def GLB_DSIG.RNG_REV : Fld := { off := 0x30, lo := 16, width := 8, acc := .ro, rst := 0, fuse := true }
def GLB_DSIG.EXACT_REV : Fld := { off := 0x30, lo := 8, width := 8, acc := .ro, rst := 0, fuse := true }
def GLB_DSIG.FTAB_REV : Fld := { off := 0x30, lo := 0, width := 8, acc := .ro, rst := 0, fuse := true }
def GLB_LATID.LATID : Fld := { off := 0x38, lo := 0, width := 16, acc := .ro, rst := 0, fuse := true }
def RTE_LOAD_ADDR.ADDR : Fld := { off := 0x30000, lo := 0, width := 64, acc := .rw, rst := 0 }
def RTE_LOAD_LEN.LEN : Fld := { off := 0x30008, lo := 0, width := 32, acc := .rw, rst := 0 }
def RTE_CMD.TENANCY : Fld := { off := 0x3000C, lo := 8, width := 4, acc := .wo, rst := 0 }
def RTE_CMD.CMD : Fld := { off := 0x3000C, lo := 0, width := 4, acc := .wo, rst := 0 }
def RTE_STATUS.SEGMENT : Fld := { off := 0x30010, lo := 16, width := 8, acc := .ro, rst := 0 }
def RTE_STATUS.TENANCY : Fld := { off := 0x30010, lo := 12, width := 4, acc := .ro, rst := 0 }
def RTE_STATUS.PLACEMENT : Fld := { off := 0x30010, lo := 8, width := 4, acc := .ro, rst := 0 }
def RTE_STATUS.GATED : Fld := { off := 0x30010, lo := 5, width := 1, acc := .ro, rst := 0 }
def RTE_STATUS.ECLIPSE : Fld := { off := 0x30010, lo := 4, width := 1, acc := .ro, rst := 0 }
def RTE_STATUS.SUSPENDED : Fld := { off := 0x30010, lo := 3, width := 1, acc := .ro, rst := 0 }
def RTE_STATUS.LOADING : Fld := { off := 0x30010, lo := 2, width := 1, acc := .ro, rst := 0 }
def RTE_STATUS.RUNNING : Fld := { off := 0x30010, lo := 1, width := 1, acc := .ro, rst := 0 }
def RTE_STATUS.LOADED : Fld := { off := 0x30010, lo := 0, width := 1, acc := .ro, rst := 0 }
def RTE_EVENT.SUSPEND (t : Nat) : Fld := { off := 0x30014 + 0x4000000 * t, lo := 5, width := 1, acc := .rw1c, rst := 0 }
def RTE_EVENT.PREEMPTED (t : Nat) : Fld := { off := 0x30014 + 0x4000000 * t, lo := 4, width := 1, acc := .rw1c, rst := 0 }
def RTE_EVENT.FAULT (t : Nat) : Fld := { off := 0x30014 + 0x4000000 * t, lo := 3, width := 1, acc := .rw1c, rst := 0 }
def RTE_EVENT.DONE (t : Nat) : Fld := { off := 0x30014 + 0x4000000 * t, lo := 2, width := 1, acc := .rw1c, rst := 0 }
def RTE_EVENT.LOAD_FAIL (t : Nat) : Fld := { off := 0x30014 + 0x4000000 * t, lo := 1, width := 1, acc := .rw1c, rst := 0 }
def RTE_EVENT.LOAD_DONE (t : Nat) : Fld := { off := 0x30014 + 0x4000000 * t, lo := 0, width := 1, acc := .rw1c, rst := 0 }
def RTE_FAULT_CODE.VALID : Fld := { off := 0x30018, lo := 31, width := 1, acc := .ro, rst := 0 }
def RTE_FAULT_CODE.SPEC : Fld := { off := 0x30018, lo := 26, width := 1, acc := .ro, rst := 0 }
def RTE_FAULT_CODE.LANE : Fld := { off := 0x30018, lo := 24, width := 2, acc := .ro, rst := 0 }
def RTE_FAULT_CODE.CORE : Fld := { off := 0x30018, lo := 16, width := 8, acc := .ro, rst := 0 }
def RTE_FAULT_CODE.CODE : Fld := { off := 0x30018, lo := 0, width := 16, acc := .ro, rst := 0 }
def RTE_FAULT_TAG.TAG : Fld := { off := 0x3001C, lo := 0, width := 24, acc := .ro, rst := 0 }
def RTE_FAULT_TICK.TICK : Fld := { off := 0x30020, lo := 0, width := 40, acc := .ro, rst := 0 }
def RTE_FAULT_AUX.SEGMENT : Fld := { off := 0x30028, lo := 24, width := 8, acc := .ro, rst := 0 }
def RTE_FAULT_AUX.PLACEMENT : Fld := { off := 0x30028, lo := 20, width := 4, acc := .ro, rst := 0 }
def RTE_FAULT_AUX.DESC : Fld := { off := 0x30028, lo := 0, width := 11, acc := .ro, rst := 0 }
def RTE_ECLIPSE_LIMIT.LIMIT_NS : Fld := { off := 0x3002C, lo := 0, width := 32, acc := .rw, rst := 0x989680 }
def RTE_CORE_CMD.CORE : Fld := { off := 0x30030, lo := 8, width := 8, acc := .wo, rst := 0 }
def RTE_CORE_CMD.CMD : Fld := { off := 0x30030, lo := 0, width := 4, acc := .wo, rst := 0 }
def RTE_CORE_STAT.BUSY : Fld := { off := 0x30034, lo := 31, width := 1, acc := .ro, rst := 0 }
def RTE_CORE_STAT.REFUSED : Fld := { off := 0x30034, lo := 30, width := 1, acc := .rw1c, rst := 0 }
def RTE_CORE_STAT.DONE : Fld := { off := 0x30034, lo := 29, width := 1, acc := .rw1c, rst := 0 }
def RTE_CORE_STAT.STATE : Fld := { off := 0x30034, lo := 24, width := 3, acc := .ro, rst := 0 }
def RTE_CORE_STAT.CORE : Fld := { off := 0x30034, lo := 16, width := 8, acc := .ro, rst := 0 }
def CORE_STATUS.DESC_COUNT (n : Nat) : Fld := { off := 0x100000 + 0x1000 * n, lo := 4, width := 12, acc := .ro, rst := 0 }
def CORE_STATUS.FORK_OPEN (n : Nat) : Fld := { off := 0x100000 + 0x1000 * n, lo := 3, width := 1, acc := .ro, rst := 0 }
def CORE_STATUS.SCOREBOARD (n : Nat) : Fld := { off := 0x100000 + 0x1000 * n, lo := 2, width := 1, acc := .ro, rst := 0 }
def CORE_STATUS.PLACED (n : Nat) : Fld := { off := 0x100000 + 0x1000 * n, lo := 1, width := 1, acc := .ro, rst := 0 }
def CORE_STATUS.PRESENT (n : Nat) : Fld := { off := 0x100000 + 0x1000 * n, lo := 0, width := 1, acc := .ro, rst := 0, fuse := true }
def CORE_TICK.TICK (n : Nat) : Fld := { off := 0x100008 + 0x1000 * n, lo := 0, width := 40, acc := .ro, rst := 0 }
def SPEC_RESOLVED.COUNT (n : Nat) : Fld := { off := 0x100010 + 0x1000 * n, lo := 0, width := 32, acc := .rw, rst := 0 }
def SPEC_MISS.COUNT (n : Nat) : Fld := { off := 0x100014 + 0x1000 * n, lo := 0, width := 32, acc := .rw, rst := 0 }
def SPEC_DROPPED.FAULTS (n : Nat) : Fld := { off := 0x100018 + 0x1000 * n, lo := 16, width := 16, acc := .rw, rst := 0 }
def SPEC_DROPPED.XFERS (n : Nat) : Fld := { off := 0x100018 + 0x1000 * n, lo := 0, width := 16, acc := .rw, rst := 0 }
def BANK_CONFLICT.STALLS (n : Nat) (b : Nat) : Fld := { off := 0x100020 + 0x1000 * n + 0x4 * b, lo := 0, width := 32, acc := .rw, rst := 0 }
def STREAM_LO.BASE (n : Nat) (h : Nat) : Fld := { off := 0x100400 + 0x1000 * n + 0x10 * h, lo := 0, width := 64, acc := .rw, rst := 0 }
def STREAM_HI.RELAXED (n : Nat) (h : Nat) : Fld := { off := 0x100408 + 0x1000 * n + 0x10 * h, lo := 37, width := 1, acc := .ro, rst := 0 }
def STREAM_HI.CONC (n : Nat) (h : Nat) : Fld := { off := 0x100408 + 0x1000 * n + 0x10 * h, lo := 36, width := 1, acc := .ro, rst := 0 }
def STREAM_HI.KIND (n : Nat) (h : Nat) : Fld := { off := 0x100408 + 0x1000 * n + 0x10 * h, lo := 32, width := 4, acc := .ro, rst := 0 }
def STREAM_HI.STRIDE (n : Nat) (h : Nat) : Fld := { off := 0x100408 + 0x1000 * n + 0x10 * h, lo := 0, width := 32, acc := .rw, rst := 0 }
def MSH_STATUS.REBALANCE : Fld := { off := 0x50000, lo := 0, width := 1, acc := .ro, rst := 0 }
def MSH_EVENT.COLLISION : Fld := { off := 0x50004, lo := 1, width := 1, acc := .rw1c, rst := 0 }
def MSH_EVENT.OVERRUN : Fld := { off := 0x50004, lo := 0, width := 1, acc := .rw1c, rst := 0 }
def MSH_COLL_REC.PORT : Fld := { off := 0x50008, lo := 48, width := 3, acc := .ro, rst := 0 }
def MSH_COLL_REC.ROUTER : Fld := { off := 0x50008, lo := 40, width := 8, acc := .ro, rst := 0 }
def MSH_COLL_REC.TICK : Fld := { off := 0x50008, lo := 0, width := 40, acc := .ro, rst := 0 }
def MSH_SLIP_REC.SIGN : Fld := { off := 0x50010, lo := 51, width := 1, acc := .ro, rst := 0 }
def MSH_SLIP_REC.PORT : Fld := { off := 0x50010, lo := 48, width := 3, acc := .ro, rst := 0 }
def MSH_SLIP_REC.ROUTER : Fld := { off := 0x50010, lo := 40, width := 8, acc := .ro, rst := 0 }
def MSH_SLIP_REC.TICK : Fld := { off := 0x50010, lo := 0, width := 40, acc := .ro, rst := 0 }
def MSH_SLIP_PEAK.PEAK : Fld := { off := 0x50018, lo := 0, width := 3, acc := .rw, rst := 0 }
def MSH_OVERRUNS.COUNT : Fld := { off := 0x5001C, lo := 0, width := 32, acc := .rw, rst := 0 }
def MSH_FILL_PEAK.DELAY : Fld := { off := 0x50020, lo := 0, width := 16, acc := .rw, rst := 0 }
def MEM_STATUS.TEST_BUSY : Fld := { off := 0x40000, lo := 3, width := 1, acc := .ro, rst := 0 }
def MEM_STATUS.COPY_BUSY : Fld := { off := 0x40000, lo := 2, width := 1, acc := .ro, rst := 0 }
def MEM_STATUS.DIGEST_BUSY : Fld := { off := 0x40000, lo := 1, width := 1, acc := .ro, rst := 0 }
def MEM_STATUS.REJOIN_PENDING : Fld := { off := 0x40000, lo := 0, width := 1, acc := .ro, rst := 0 }
def MEM_EVENT.DERATE_CHANGE : Fld := { off := 0x40004, lo := 9, width := 1, acc := .rw1c, rst := 0 }
def MEM_EVENT.UNMAPPED : Fld := { off := 0x40004, lo := 8, width := 1, acc := .rw1c, rst := 0 }
def MEM_EVENT.CMD_REFUSED : Fld := { off := 0x40004, lo := 7, width := 1, acc := .rw1c, rst := 0 }
def MEM_EVENT.DIGEST_FAIL : Fld := { off := 0x40004, lo := 6, width := 1, acc := .rw1c, rst := 0 }
def MEM_EVENT.DIGEST_DONE : Fld := { off := 0x40004, lo := 5, width := 1, acc := .rw1c, rst := 0 }
def MEM_EVENT.TEST_FAIL : Fld := { off := 0x40004, lo := 4, width := 1, acc := .rw1c, rst := 0 }
def MEM_EVENT.TEST_DONE : Fld := { off := 0x40004, lo := 3, width := 1, acc := .rw1c, rst := 0 }
def MEM_EVENT.RETIRED : Fld := { off := 0x40004, lo := 2, width := 1, acc := .rw1c, rst := 0 }
def MEM_EVENT.CH_LOST : Fld := { off := 0x40004, lo := 1, width := 1, acc := .rw1c, rst := 0 }
def MEM_EVENT.PERSISTENT : Fld := { off := 0x40004, lo := 0, width := 1, acc := .rw1c, rst := 0 }
def MEM_CMD.CHANNEL : Fld := { off := 0x40008, lo := 8, width := 7, acc := .wo, rst := 0 }
def MEM_CMD.CMD : Fld := { off := 0x40008, lo := 0, width := 4, acc := .wo, rst := 0 }
def MEM_RETIRE_THRESH.COUNT : Fld := { off := 0x4000C, lo := 0, width := 8, acc := .rw, rst := 4 }
def MEM_CH_MAP_LO.IN_SERVICE : Fld := { off := 0x40010, lo := 0, width := 64, acc := .ro, rst := 0, fuse := true }
def MEM_CH_MAP_HI.IN_SERVICE : Fld := { off := 0x40018, lo := 0, width := 32, acc := .ro, rst := 0, fuse := true }
def MEM_ERR_REC.TAG : Fld := { off := 0x40020, lo := 16, width := 24, acc := .ro, rst := 0 }
def MEM_ERR_REC.SCHEDULED : Fld := { off := 0x40020, lo := 10, width := 1, acc := .ro, rst := 0 }
def MEM_ERR_REC.KIND : Fld := { off := 0x40020, lo := 7, width := 3, acc := .ro, rst := 0 }
def MEM_ERR_REC.CHANNEL : Fld := { off := 0x40020, lo := 0, width := 7, acc := .ro, rst := 0 }
def MEM_ERR_ADDR.ADDR : Fld := { off := 0x40028, lo := 0, width := 40, acc := .ro, rst := 0 }
def MEM_DERATE.MULT : Fld := { off := 0x40030, lo := 0, width := 24, acc := .ro, rst := 0 }
def MEM_UNPLANNED.COUNT : Fld := { off := 0x40034, lo := 0, width := 32, acc := .rw, rst := 0 }
def MEM_RESENDS.COUNT : Fld := { off := 0x40038, lo := 0, width := 32, acc := .rw, rst := 0 }
def MEM_DIGEST_ADDR.VALUE : Fld := { off := 0x40040, lo := 0, width := 40, acc := .rw, rst := 0 }
def MEM_DIGEST_LEN.VALUE : Fld := { off := 0x40048, lo := 0, width := 40, acc := .rw, rst := 0 }
def MEM_DIGEST_STAT.ERROR : Fld := { off := 0x40050, lo := 1, width := 1, acc := .ro, rst := 0 }
def MEM_DIGEST_STAT.VALID : Fld := { off := 0x40050, lo := 0, width := 1, acc := .ro, rst := 0 }
def MEM_DIGEST_OUT.BYTES (m : Nat) : Fld := { off := 0x40060 + 0x8 * m, lo := 0, width := 64, acc := .ro, rst := 0 }
def MEM_IMAP_A.GRAN (k : Nat) : Fld := { off := 0x40100 + 0x10 * k, lo := 40, width := 3, acc := .rw, rst := if k = 0 then 1 else 0 }
def MEM_IMAP_A.VALID (k : Nat) : Fld := { off := 0x40100 + 0x10 * k, lo := 38, width := 1, acc := .rw, rst := if k = 0 then 1 else 0 }
def MEM_IMAP_A.SIZE (k : Nat) : Fld := { off := 0x40100 + 0x10 * k, lo := 19, width := 19, acc := .rw, rst := if k = 0 then 290304 else 0 }
def MEM_IMAP_A.BASE (k : Nat) : Fld := { off := 0x40100 + 0x10 * k, lo := 0, width := 19, acc := .rw, rst := 0 }
def MEM_IMAP_B.SHADOW (k : Nat) : Fld := { off := 0x40108 + 0x10 * k, lo := 18, width := 19, acc := .rw, rst := 0 }
def MEM_IMAP_B.CH_OFF (k : Nat) : Fld := { off := 0x40108 + 0x10 * k, lo := 10, width := 8, acc := .rw, rst := 0 }
def MEM_IMAP_B.COUNT (k : Nat) : Fld := { off := 0x40108 + 0x10 * k, lo := 7, width := 3, acc := .rw, rst := if k = 0 then 7 else 0 }
def MEM_IMAP_B.FIRST (k : Nat) : Fld := { off := 0x40108 + 0x10 * k, lo := 0, width := 7, acc := .rw, rst := 0 }
def MEM_CH_STAT.STATE (ch : Nat) : Fld := { off := 0x40400 + 0x4 * ch, lo := 24, width := 3, acc := .ro, rst := 0, fuse := true }
def MEM_CH_STAT.PERSIST (ch : Nat) : Fld := { off := 0x40400 + 0x4 * ch, lo := 16, width := 8, acc := .ro, rst := 0, sticky := true }
def MEM_CH_STAT.RESENDS (ch : Nat) : Fld := { off := 0x40400 + 0x4 * ch, lo := 0, width := 16, acc := .rw, rst := 0 }
def CLK_OPP.PENDING : Fld := { off := 0x20000, lo := 19, width := 1, acc := .ro, rst := 0 }
def CLK_OPP.TARGET : Fld := { off := 0x20000, lo := 16, width := 3, acc := .rw, rst := 4 }
def CLK_OPP.CURRENT : Fld := { off := 0x20000, lo := 0, width := 3, acc := .ro, rst := 4 }
def CLK_OPP_AT.AT : Fld := { off := 0x20008, lo := 0, width := 64, acc := .rw, rst := 0xFFFFFFFFFFFFFFFF }
def CLK_EVENT.MARGIN_LOST : Fld := { off := 0x20010, lo := 3, width := 1, acc := .rw1c, rst := 0 }
def CLK_EVENT.STRETCH_HIGH : Fld := { off := 0x20010, lo := 2, width := 1, acc := .rw1c, rst := 0 }
def CLK_EVENT.OPP_REFUSED : Fld := { off := 0x20010, lo := 1, width := 1, acc := .rw1c, rst := 0 }
def CLK_EVENT.OPP_DONE : Fld := { off := 0x20010, lo := 0, width := 1, acc := .rw1c, rst := 0 }
def CLK_STRETCH_CTL.WARN : Fld := { off := 0x20014, lo := 8, width := 6, acc := .ro, rst := 0, fuse := true }
def CLK_STRETCH_CTL.HIGH_PCT : Fld := { off := 0x20014, lo := 0, width := 7, acc := .rw, rst := 0x19 }
def CLK_THROTTLE.POWER : Fld := { off := 0x20018, lo := 9, width := 1, acc := .ro, rst := 0 }
def CLK_THROTTLE.THERMAL : Fld := { off := 0x20018, lo := 8, width := 1, acc := .ro, rst := 0 }
def CLK_THROTTLE.LEVEL : Fld := { off := 0x20018, lo := 0, width := 3, acc := .ro, rst := 0 }
def CLK_SHADOWS.COUNT : Fld := { off := 0x20020, lo := 0, width := 32, acc := .rw, rst := 0 }
def CLK_STRETCH.COUNT (i : Nat) : Fld := { off := 0x20100 + 0x4 * i, lo := 0, width := 32, acc := .rw, rst := 0 }
def PWR_STATE.MAX_DEPTH : Fld := { off := 0x10000, lo := 8, width := 3, acc := .rw, rst := 5 }
def PWR_STATE.ALLOWED : Fld := { off := 0x10000, lo := 4, width := 3, acc := .ro, rst := 5 }
def PWR_STATE.THERMAL_HOLD : Fld := { off := 0x10000, lo := 3, width := 1, acc := .ro, rst := 0 }
def PWR_STATE.STATE : Fld := { off := 0x10000, lo := 0, width := 3, acc := .ro, rst := 0 }
def PWR_CTRL.WAKE : Fld := { off := 0x10004, lo := 0, width := 1, acc := .wo, rst := 0 }
def PWR_IDLE_NS.NS : Fld := { off := 0x10008, lo := 0, width := 32, acc := .rw, rst := 0x2710 }
def PWR_DOMAIN_ON.PD : Fld := { off := 0x1000C, lo := 0, width := 24, acc := .ro, rst := 0, fuse := true }
def PWR_DOMAIN_RET.PD : Fld := { off := 0x10010, lo := 0, width := 24, acc := .ro, rst := 0, fuse := true }
def PWR_EVENT.THERMAL_TRIP : Fld := { off := 0x10014, lo := 3, width := 1, acc := .rw1c, rst := 0, sticky := true }
def PWR_EVENT.POWER_LIMIT : Fld := { off := 0x10014, lo := 2, width := 1, acc := .rw1c, rst := 0 }
def PWR_EVENT.THROTTLE : Fld := { off := 0x10014, lo := 1, width := 1, acc := .rw1c, rst := 0 }
def PWR_EVENT.WOKE : Fld := { off := 0x10014, lo := 0, width := 1, acc := .rw1c, rst := 0 }
def PWR_TEMP.ISLAND : Fld := { off := 0x10018, lo := 16, width := 5, acc := .ro, rst := 0 }
def PWR_TEMP.DRAM : Fld := { off := 0x10018, lo := 8, width := 8, acc := .ro, rst := 0 }
def PWR_TEMP.DIE : Fld := { off := 0x10018, lo := 0, width := 8, acc := .ro, rst := 0 }
def PWR_THERM_CTL.TRIP_C : Fld := { off := 0x1001C, lo := 8, width := 8, acc := .ro, rst := 0x6E }
def PWR_THERM_CTL.THROTTLE_C : Fld := { off := 0x1001C, lo := 0, width := 8, acc := .rw, rst := 0x5F }
def PWR_LIMIT_W.WATTS : Fld := { off := 0x10020, lo := 0, width := 11, acc := .rw, rst := 0x5DC }
def PWR_MODULE_W.WATTS : Fld := { off := 0x10024, lo := 0, width := 11, acc := .ro, rst := 0 }
def PWR_BUDGET_NS.NS (t : Nat) : Fld := { off := 0x10100 + 0x4 * t, lo := 0, width := 32, acc := .rw, rst := 0xFFFFFFFF }
def WPT_CTL.MASK : Fld := { off := 0xBC000, lo := 4, width := 4, acc := .rw, rst := 0xF }
def WPT_CTL.STOP : Fld := { off := 0xBC000, lo := 1, width := 1, acc := .rw, rst := 0 }
def WPT_CTL.ENABLE : Fld := { off := 0xBC000, lo := 0, width := 1, acc := .rw, rst := 0 }
def WPT_EVENT.HAZARD : Fld := { off := 0xBC004, lo := 0, width := 1, acc := .rw1c, rst := 0 }
def WPT_REC.KIND : Fld := { off := 0xBC008, lo := 52, width := 4, acc := .ro, rst := 0 }
def WPT_REC.LANE : Fld := { off := 0xBC008, lo := 48, width := 2, acc := .ro, rst := 0 }
def WPT_REC.CORE : Fld := { off := 0xBC008, lo := 40, width := 8, acc := .ro, rst := 0 }
def WPT_REC.TICK : Fld := { off := 0xBC008, lo := 0, width := 40, acc := .ro, rst := 0 }
def WPT_TAGS.OTHER : Fld := { off := 0xBC010, lo := 24, width := 24, acc := .ro, rst := 0 }
def WPT_TAGS.TAG : Fld := { off := 0xBC010, lo := 0, width := 24, acc := .ro, rst := 0 }
def WPT_LOC.SPACE : Fld := { off := 0xBC018, lo := 13, width := 2, acc := .ro, rst := 0 }
def WPT_LOC.INDEX : Fld := { off := 0xBC018, lo := 0, width := 13, acc := .ro, rst := 0 }
def WPT_COUNT.COUNT (k : Nat) : Fld := { off := 0xBC020 + 0x4 * k, lo := 0, width := 32, acc := .rw, rst := 0 }
def MIR_CTL.K : Fld := { off := 0xB8000, lo := 24, width := 5, acc := .rw, rst := 0x10 }
def MIR_CTL.PORT : Fld := { off := 0xB8000, lo := 20, width := 3, acc := .rw, rst := 0 }
def MIR_CTL.MODE : Fld := { off := 0xB8000, lo := 18, width := 2, acc := .rw, rst := 0 }
def MIR_CTL.TRACE_CORE : Fld := { off := 0xB8000, lo := 10, width := 8, acc := .rw, rst := 0 }
def MIR_CTL.WINDOW : Fld := { off := 0xB8000, lo := 9, width := 1, acc := .rw, rst := 0 }
def MIR_CTL.STOP : Fld := { off := 0xB8000, lo := 8, width := 1, acc := .rw, rst := 0 }
def MIR_CTL.ROLE : Fld := { off := 0xB8000, lo := 1, width := 1, acc := .rw, rst := 0 }
def MIR_CTL.ENABLE : Fld := { off := 0xB8000, lo := 0, width := 1, acc := .rw, rst := 0 }
def MIR_PEER.DEVICE : Fld := { off := 0xB8004, lo := 0, width := 15, acc := .rw, rst := 0 }
def MIR_STATUS.UNMATCHED : Fld := { off := 0xB8008, lo := 16, width := 8, acc := .ro, rst := 0 }
def MIR_STATUS.ARM_FAIL_WHY : Fld := { off := 0xB8008, lo := 8, width := 4, acc := .ro, rst := 0 }
def MIR_STATUS.ACTIVE : Fld := { off := 0xB8008, lo := 2, width := 1, acc := .ro, rst := 0 }
def MIR_STATUS.ARMED : Fld := { off := 0xB8008, lo := 1, width := 1, acc := .ro, rst := 0 }
def MIR_STATUS.PEER_UP : Fld := { off := 0xB8008, lo := 0, width := 1, acc := .ro, rst := 0 }
def MIR_EVENT.TRACE_FULL : Fld := { off := 0xB800C, lo := 3, width := 1, acc := .rw1c, rst := 0 }
def MIR_EVENT.TRACE_DONE : Fld := { off := 0xB800C, lo := 2, width := 1, acc := .rw1c, rst := 0 }
def MIR_EVENT.DIVERGED : Fld := { off := 0xB800C, lo := 1, width := 1, acc := .rw1c, rst := 0 }
def MIR_EVENT.ARM_FAIL : Fld := { off := 0xB800C, lo := 0, width := 1, acc := .rw1c, rst := 0 }
def MIR_WIN_START.PASS : Fld := { off := 0xB8010, lo := 40, width := 24, acc := .rw, rst := 0 }
def MIR_WIN_START.VALUE : Fld := { off := 0xB8010, lo := 0, width := 40, acc := .rw, rst := 0 }
def MIR_WIN_END.VALUE : Fld := { off := 0xB8018, lo := 0, width := 40, acc := .rw, rst := 0 }
def MIR_DIV.PASS : Fld := { off := 0xB8020, lo := 40, width := 24, acc := .ro, rst := 0 }
def MIR_DIV.VALUE : Fld := { off := 0xB8020, lo := 0, width := 40, acc := .ro, rst := 0 }
def MIR_DIV_CORE.VALID : Fld := { off := 0xB8028, lo := 8, width := 1, acc := .ro, rst := 0 }
def MIR_DIV_CORE.CORE : Fld := { off := 0xB8028, lo := 0, width := 8, acc := .ro, rst := 0 }
def MIR_SUBST.COUNT : Fld := { off := 0xB802C, lo := 0, width := 32, acc := .rw, rst := 0 }
def MIR_DIGEST.BYTES (m : Nat) : Fld := { off := 0xB8040 + 0x8 * m, lo := 0, width := 64, acc := .ro, rst := 0 }
def MIR_PEER_DIGEST.BYTES (m : Nat) : Fld := { off := 0xB8070 + 0x8 * m, lo := 0, width := 64, acc := .ro, rst := 0 }
def BCN_WD_LIMIT.NS : Fld := { off := 0x60000, lo := 0, width := 32, acc := .rw, rst := 0x3B9ACA00 }
def BCN_EVENT.COMB_ERROR : Fld := { off := 0x60004, lo := 1, width := 1, acc := .rw1c, rst := 0 }
def BCN_EVENT.WD_TIMEOUT : Fld := { off := 0x60004, lo := 0, width := 1, acc := .rw1c, rst := 0 }
def BCN_WD_REC.VALID (r : Nat) : Fld := { off := 0x60008 + 0x8 * r, lo := 63, width := 1, acc := .ro, rst := 0 }
def BCN_WD_REC.TENANCY (r : Nat) : Fld := { off := 0x60008 + 0x8 * r, lo := 40, width := 4, acc := .ro, rst := 0 }
def BCN_WD_REC.MODE (r : Nat) : Fld := { off := 0x60008 + 0x8 * r, lo := 38, width := 2, acc := .ro, rst := 0 }
def BCN_WD_REC.BEACON (r : Nat) : Fld := { off := 0x60008 + 0x8 * r, lo := 24, width := 14, acc := .ro, rst := 0 }
def BCN_WD_REC.TAG (r : Nat) : Fld := { off := 0x60008 + 0x8 * r, lo := 0, width := 24, acc := .ro, rst := 0 }
def BCN_HWAIT_A.VECTOR (n : Nat) : Fld := { off := 0x61000 + 0x10 * n, lo := 48, width := 6, acc := .rw, rst := 0 }
def BCN_HWAIT_A.WD_EN (n : Nat) : Fld := { off := 0x61000 + 0x10 * n, lo := 47, width := 1, acc := .rw, rst := 1 }
def BCN_HWAIT_A.MODE (n : Nat) : Fld := { off := 0x61000 + 0x10 * n, lo := 46, width := 1, acc := .rw, rst := 0 }
def BCN_HWAIT_A.BEACON (n : Nat) : Fld := { off := 0x61000 + 0x10 * n, lo := 32, width := 14, acc := .rw, rst := 0 }
def BCN_HWAIT_A.TARGET (n : Nat) : Fld := { off := 0x61000 + 0x10 * n, lo := 0, width := 32, acc := .rw, rst := 0 }
def BCN_HWAIT_B.ARM (n : Nat) : Fld := { off := 0x61008 + 0x10 * n, lo := 28, width := 1, acc := .wo, rst := 0 }
def BCN_HWAIT_B.STATUS (n : Nat) : Fld := { off := 0x61008 + 0x10 * n, lo := 24, width := 4, acc := .ro, rst := 0 }
def BCN_HWAIT_B.TAG (n : Nat) : Fld := { off := 0x61008 + 0x10 * n, lo := 0, width := 24, acc := .rw, rst := 0 }
def BCN_COMB_A.BCN_EN (e : Nat) : Fld := { off := 0x62000 + 0x10 * e, lo := 53, width := 1, acc := .rw, rst := 0 }
def BCN_COMB_A.ROW (e : Nat) : Fld := { off := 0x62000 + 0x10 * e, lo := 32, width := 21, acc := .rw, rst := 0 }
def BCN_COMB_A.TARGET (e : Nat) : Fld := { off := 0x62000 + 0x10 * e, lo := 30, width := 2, acc := .rw, rst := 0 }
def BCN_COMB_A.EXPECT (e : Nat) : Fld := { off := 0x62000 + 0x10 * e, lo := 14, width := 16, acc := .rw, rst := 0 }
def BCN_COMB_A.ELEMS (e : Nat) : Fld := { off := 0x62000 + 0x10 * e, lo := 8, width := 5, acc := .rw, rst := 0 }
def BCN_COMB_A.FMT (e : Nat) : Fld := { off := 0x62000 + 0x10 * e, lo := 4, width := 4, acc := .rw, rst := 0 }
def BCN_COMB_A.OWNER (e : Nat) : Fld := { off := 0x62000 + 0x10 * e, lo := 0, width := 4, acc := .rw, rst := 0 }
def BCN_COMB_B.VALID (e : Nat) : Fld := { off := 0x62008 + 0x10 * e, lo := 31, width := 1, acc := .rw, rst := 0 }
def BCN_COMB_B.ERROR (e : Nat) : Fld := { off := 0x62008 + 0x10 * e, lo := 30, width := 1, acc := .rw1c, rst := 0 }
def BCN_COMB_B.RECEIVED (e : Nat) : Fld := { off := 0x62008 + 0x10 * e, lo := 14, width := 16, acc := .ro, rst := 0 }
def BCN_COMB_B.BEACON (e : Nat) : Fld := { off := 0x62008 + 0x10 * e, lo := 0, width := 14, acc := .rw, rst := 0 }
def SES_CMD.TENANCY : Fld := { off := 0x70000, lo := 16, width := 4, acc := .wo, rst := 0 }
def SES_CMD.SLOT : Fld := { off := 0x70000, lo := 4, width := 10, acc := .wo, rst := 0 }
def SES_CMD.CMD : Fld := { off := 0x70000, lo := 0, width := 4, acc := .wo, rst := 0 }
def SES_EVENT.RESTORE_FAIL (t : Nat) : Fld := { off := 0x70004 + 0x4000000 * t, lo := 2, width := 1, acc := .rw1c, rst := 0 }
def SES_EVENT.SWITCHED (t : Nat) : Fld := { off := 0x70004 + 0x4000000 * t, lo := 1, width := 1, acc := .rw1c, rst := 0 }
def SES_EVENT.CMD_REFUSED (t : Nat) : Fld := { off := 0x70004 + 0x4000000 * t, lo := 0, width := 1, acc := .rw1c, rst := 0 }
def SES_STATUS.REQUESTER : Fld := { off := 0x70008, lo := 8, width := 4, acc := .ro, rst := 0 }
def SES_STATUS.SWITCH_PENDING : Fld := { off := 0x70008, lo := 5, width := 1, acc := .ro, rst := 0 }
def SES_STATUS.RESIDENT_VALID : Fld := { off := 0x70008, lo := 4, width := 1, acc := .ro, rst := 0 }
def SES_STATUS.RESIDENT : Fld := { off := 0x70008, lo := 0, width := 4, acc := .ro, rst := 0 }
def SES_TEN_CFG.PRIO (t : Nat) : Fld := { off := 0x70100 + 0x40 * t, lo := 16, width := 4, acc := .rw, rst := 0 }
def SES_TEN_CFG.PORT (t : Nat) : Fld := { off := 0x70100 + 0x40 * t, lo := 8, width := 8, acc := .rw, rst := 0 }
def SES_TEN_CFG.ENABLE (t : Nat) : Fld := { off := 0x70100 + 0x40 * t, lo := 0, width := 1, acc := .rw, rst := 0 }
def SES_TEN_BCN.COUNT (t : Nat) : Fld := { off := 0x70108 + 0x40 * t, lo := 8, width := 9, acc := .rw, rst := 0 }
def SES_TEN_BCN.BASE (t : Nat) : Fld := { off := 0x70108 + 0x40 * t, lo := 0, width := 8, acc := .rw, rst := 0 }
def SES_TEN_REGION.SIZE (t : Nat) (k : Nat) : Fld := { off := 0x70110 + 0x40 * t + 0x8 * k, lo := 19, width := 19, acc := .rw, rst := 0 }
def SES_TEN_REGION.BASE (t : Nat) (k : Nat) : Fld := { off := 0x70110 + 0x40 * t + 0x8 * k, lo := 0, width := 19, acc := .rw, rst := 0 }
def SES_TEN_SAVE.ADDR (t : Nat) : Fld := { off := 0x70130 + 0x40 * t, lo := 0, width := 40, acc := .rw, rst := 0 }
def SES_RING_BASE.ADDR (t : Nat) : Fld := { off := 0x70800 + 0x20 * t, lo := 12, width := 52, acc := .rw, rst := 0 }
def SES_RING_CFG.ENABLE (t : Nat) : Fld := { off := 0x70808 + 0x20 * t, lo := 31, width := 1, acc := .rw, rst := 0 }
def SES_RING_CFG.LOG2SIZE (t : Nat) : Fld := { off := 0x70808 + 0x20 * t, lo := 0, width := 5, acc := .rw, rst := 0xC }
def SES_RING_PROD.INDEX (t : Nat) : Fld := { off := 0x7080C + 0x20 * t, lo := 0, width := 32, acc := .ro, rst := 0 }
def SES_RING_CONS.INDEX (t : Nat) : Fld := { off := 0x70810 + 0x20 * t, lo := 0, width := 32, acc := .rw, rst := 0 }
def SES_SLOT_SEL.SLOT (t : Nat) : Fld := { off := 0x71000 + 0x100 * t, lo := 0, width := 10, acc := .rw, rst := 0 }
def SES_SLOT_WORD.WORD (t : Nat) (w : Nat) : Fld := { off := 0x71080 + 0x100 * t + 0x4 * w, lo := 0, width := 32, acc := .rw, rst := 0 }
def SES_MSG_DEST.SPACE (t : Nat) : Fld := { off := 0x72000 + 0x80 * t, lo := 21, width := 3, acc := .rw, rst := 0 }
def SES_MSG_DEST.INDEX (t : Nat) : Fld := { off := 0x72000 + 0x80 * t, lo := 0, width := 21, acc := .rw, rst := 0 }
def SES_MSG_CTL.SEND (t : Nat) : Fld := { off := 0x72004 + 0x80 * t, lo := 31, width := 1, acc := .wo, rst := 0 }
def SES_MSG_CTL.BUSY (t : Nat) : Fld := { off := 0x72004 + 0x80 * t, lo := 30, width := 1, acc := .ro, rst := 0 }
def SES_MSG_CTL.LEN (t : Nat) : Fld := { off := 0x72004 + 0x80 * t, lo := 24, width := 6, acc := .rw, rst := 0 }
def SES_MSG_CTL.TAG (t : Nat) : Fld := { off := 0x72004 + 0x80 * t, lo := 0, width := 24, acc := .rw, rst := 0 }
def SES_MSG_DATA.BYTES (t : Nat) (k : Nat) : Fld := { off := 0x72040 + 0x80 * t + 0x8 * k, lo := 0, width := 64, acc := .rw, rst := 0 }
def TIM_MILESTONE.COUNT : Fld := { off := 0xD0000, lo := 0, width := 64, acc := .ro, rst := 0 }
def TIM_LAUNCH_AT.COUNT : Fld := { off := 0xD0008, lo := 0, width := 64, acc := .rw, rst := 0xFFFFFFFFFFFFFFFF }
def TIM_EPOCH.COUNT : Fld := { off := 0xD0010, lo := 0, width := 64, acc := .ro, rst := 0 }
def TIM_CFG.SYNC_LIMIT : Fld := { off := 0xD0018, lo := 16, width := 8, acc := .rw, rst := 0x32 }
def TIM_CFG.DOMAIN : Fld := { off := 0xD0018, lo := 8, width := 8, acc := .rw, rst := 0 }
def TIM_CFG.SYNC_PORT : Fld := { off := 0xD0018, lo := 4, width := 3, acc := .rw, rst := 0 }
def TIM_CFG.PPS_OUT : Fld := { off := 0xD0018, lo := 2, width := 1, acc := .rw, rst := 0 }
def TIM_CFG.SOURCE : Fld := { off := 0xD0018, lo := 0, width := 2, acc := .rw, rst := 0 }
def TIM_STATUS.STEPS : Fld := { off := 0xD001C, lo := 8, width := 8, acc := .ro, rst := 0 }
def TIM_STATUS.HOLDOVER : Fld := { off := 0xD001C, lo := 3, width := 1, acc := .ro, rst := 0 }
def TIM_STATUS.LAUNCH_ARMED : Fld := { off := 0xD001C, lo := 2, width := 1, acc := .ro, rst := 0 }
def TIM_STATUS.GRANDMASTER : Fld := { off := 0xD001C, lo := 1, width := 1, acc := .ro, rst := 0 }
def TIM_STATUS.LOCKED : Fld := { off := 0xD001C, lo := 0, width := 1, acc := .ro, rst := 0 }
def TIM_EVENT.LOCK : Fld := { off := 0xD0020, lo := 4, width := 1, acc := .rw1c, rst := 0 }
def TIM_EVENT.SYNC_LOST : Fld := { off := 0xD0020, lo := 3, width := 1, acc := .rw1c, rst := 0 }
def TIM_EVENT.LAUNCH_MISSED : Fld := { off := 0xD0020, lo := 2, width := 1, acc := .rw1c, rst := 0 }
def TIM_EVENT.LAUNCH_REFUSED : Fld := { off := 0xD0020, lo := 1, width := 1, acc := .rw1c, rst := 0 }
def TIM_EVENT.LAUNCHED : Fld := { off := 0xD0020, lo := 0, width := 1, acc := .rw1c, rst := 0 }
def TIM_OFFSET.NS : Fld := { off := 0xD0024, lo := 0, width := 32, acc := .ro, rst := 0 }
def TIM_RUN_TICK.TICK : Fld := { off := 0xD0028, lo := 0, width := 64, acc := .ro, rst := 0 }
def WMK_CTL.DEVICE : Fld := { off := 0x80000, lo := 16, width := 15, acc := .rw, rst := 0 }
def WMK_CTL.WAYMARK_EN : Fld := { off := 0x80000, lo := 0, width := 1, acc := .rw, rst := 0 }
def WMK_STATUS.VALID : Fld := { off := 0x80004, lo := 16, width := 10, acc := .ro, rst := 0 }
def WMK_STATUS.JOINED : Fld := { off := 0x80004, lo := 0, width := 10, acc := .ro, rst := 0 }
def WMK_EVENT.LINK_CHANGE : Fld := { off := 0x80008, lo := 3, width := 1, acc := .rw1c, rst := 0 }
def WMK_EVENT.JOIN_MISMATCH : Fld := { off := 0x80008, lo := 2, width := 1, acc := .rw1c, rst := 0 }
def WMK_EVENT.CFG_REFUSED : Fld := { off := 0x80008, lo := 1, width := 1, acc := .rw1c, rst := 0 }
def WMK_EVENT.FAULT : Fld := { off := 0x80008, lo := 0, width := 1, acc := .rw1c, rst := 0 }
def WMK_CMD.CONVOY : Fld := { off := 0x8000C, lo := 16, width := 9, acc := .wo, rst := 0 }
def WMK_CMD.CMD : Fld := { off := 0x8000C, lo := 0, width := 4, acc := .wo, rst := 0 }
def WMK_IPCFG.HOP_LIMIT : Fld := { off := 0x80010, lo := 34, width := 8, acc := .rw, rst := 0x40 }
def WMK_IPCFG.DSCP_MIRROR : Fld := { off := 0x80010, lo := 28, width := 6, acc := .rw, rst := 0xA }
def WMK_IPCFG.DSCP_CTRL : Fld := { off := 0x80010, lo := 22, width := 6, acc := .rw, rst := 0x2E }
def WMK_IPCFG.DSCP_DATA : Fld := { off := 0x80010, lo := 16, width := 6, acc := .rw, rst := 0x1A }
def WMK_IPCFG.UDP_PORT : Fld := { off := 0x80010, lo := 0, width := 16, acc := .rw, rst := 0xB8A6 }
def WMK_TIMERS.PACE_PCT : Fld := { off := 0x80018, lo := 52, width := 7, acc := .rw, rst := 0x32 }
def WMK_TIMERS.RETRY_MAX : Fld := { off := 0x80018, lo := 48, width := 4, acc := .rw, rst := 8 }
def WMK_TIMERS.PEER_TIMEOUT : Fld := { off := 0x80018, lo := 32, width := 16, acc := .rw, rst := 0x3E8 }
def WMK_TIMERS.RESEND_GAP_NS : Fld := { off := 0x80018, lo := 16, width := 16, acc := .rw, rst := 0x1F4 }
def WMK_TIMERS.ACK_NS : Fld := { off := 0x80018, lo := 0, width := 16, acc := .rw, rst := 0x3E8 }
def WMK_ERR_REC.CODE : Fld := { off := 0x80020, lo := 48, width := 16, acc := .ro, rst := 0 }
def WMK_ERR_REC.PORT : Fld := { off := 0x80020, lo := 45, width := 3, acc := .ro, rst := 0 }
def WMK_ERR_REC.PEER : Fld := { off := 0x80020, lo := 30, width := 15, acc := .ro, rst := 0 }
def WMK_ERR_REC.CONVOY : Fld := { off := 0x80020, lo := 21, width := 9, acc := .ro, rst := 0 }
def WMK_ERR_REC.BLOCK : Fld := { off := 0x80020, lo := 0, width := 16, acc := .ro, rst := 0 }
def WMK_P_CFG.PCP (p : Nat) : Fld := { off := 0x80100 + 0x80 * p, lo := 16, width := 3, acc := .rw, rst := 0 }
def WMK_P_CFG.VLAN_ID (p : Nat) : Fld := { off := 0x80100 + 0x80 * p, lo := 4, width := 12, acc := .rw, rst := 0 }
def WMK_P_CFG.VLAN_EN (p : Nat) : Fld := { off := 0x80100 + 0x80 * p, lo := 2, width := 1, acc := .rw, rst := 0 }
def WMK_P_CFG.SPLIT (p : Nat) : Fld := { off := 0x80100 + 0x80 * p, lo := 1, width := 1, acc := .rw, rst := 0 }
def WMK_P_CFG.ENABLE (p : Nat) : Fld := { off := 0x80100 + 0x80 * p, lo := 0, width := 1, acc := .rw, rst := 0 }
def WMK_P_STAT.RX_USED (p : Nat) : Fld := { off := 0x80104 + 0x80 * p, lo := 13, width := 9, acc := .ro, rst := 0 }
def WMK_P_STAT.TX_USED (p : Nat) : Fld := { off := 0x80104 + 0x80 * p, lo := 4, width := 9, acc := .ro, rst := 0 }
def WMK_P_STAT.PRESENT (p : Nat) : Fld := { off := 0x80104 + 0x80 * p, lo := 2, width := 1, acc := .ro, rst := 0, fuse := true }
def WMK_P_STAT.LINK1 (p : Nat) : Fld := { off := 0x80104 + 0x80 * p, lo := 1, width := 1, acc := .ro, rst := 0 }
def WMK_P_STAT.LINK0 (p : Nat) : Fld := { off := 0x80104 + 0x80 * p, lo := 0, width := 1, acc := .ro, rst := 0 }
def WMK_P_MAC.ADDRESS (p : Nat) : Fld := { off := 0x80108 + 0x80 * p, lo := 0, width := 48, acc := .rw, rst := 0 }
def WMK_P_IP.ADDRESS (p : Nat) (k : Nat) : Fld := { off := 0x80110 + 0x80 * p + 0x8 * k, lo := 0, width := 64, acc := .rw, rst := 0 }
def WMK_P_TX_BLOCKS.COUNT (p : Nat) : Fld := { off := 0x80120 + 0x80 * p, lo := 0, width := 32, acc := .rw, rst := 0 }
def WMK_P_RESENDS.COUNT (p : Nat) : Fld := { off := 0x80124 + 0x80 * p, lo := 0, width := 32, acc := .rw, rst := 0 }
def WMK_P_LATE.COUNT (p : Nat) : Fld := { off := 0x80128 + 0x80 * p, lo := 0, width := 32, acc := .rw, rst := 0 }
def WMK_P_CRC_ERR.COUNT (p : Nat) : Fld := { off := 0x8012C + 0x80 * p, lo := 0, width := 32, acc := .rw, rst := 0 }
def WMK_P_STORE_DROPS.COUNT (p : Nat) : Fld := { off := 0x80130 + 0x80 * p, lo := 0, width := 32, acc := .rw, rst := 0 }
def WMK_P_ECN_CE.COUNT (p : Nat) : Fld := { off := 0x80134 + 0x80 * p, lo := 0, width := 32, acc := .rw, rst := 0 }
def WMK_CV0.BLOCKS (c : Nat) : Fld := { off := 0x88000 + 0x40 * c, lo := 48, width := 7, acc := .rw, rst := 0 }
def WMK_CV0.PEER_CONVOY (c : Nat) : Fld := { off := 0x88000 + 0x40 * c, lo := 32, width := 9, acc := .rw, rst := 0 }
def WMK_CV0.PEER (c : Nat) : Fld := { off := 0x88000 + 0x40 * c, lo := 16, width := 15, acc := .rw, rst := 0 }
def WMK_CV0.TENANCY (c : Nat) : Fld := { off := 0x88000 + 0x40 * c, lo := 8, width := 4, acc := .rw, rst := 0 }
def WMK_CV0.SUB (c : Nat) : Fld := { off := 0x88000 + 0x40 * c, lo := 7, width := 1, acc := .rw, rst := 0 }
def WMK_CV0.PORT (c : Nat) : Fld := { off := 0x88000 + 0x40 * c, lo := 4, width := 3, acc := .rw, rst := 0 }
def WMK_CV0.JOINED (c : Nat) : Fld := { off := 0x88000 + 0x40 * c, lo := 3, width := 1, acc := .ro, rst := 0 }
def WMK_CV0.SIG_EN (c : Nat) : Fld := { off := 0x88000 + 0x40 * c, lo := 2, width := 1, acc := .rw, rst := 0 }
def WMK_CV0.DIR (c : Nat) : Fld := { off := 0x88000 + 0x40 * c, lo := 1, width := 1, acc := .rw, rst := 0 }
def WMK_CV0.VALID (c : Nat) : Fld := { off := 0x88000 + 0x40 * c, lo := 0, width := 1, acc := .rw, rst := 0 }
def WMK_CV1.FIRST (c : Nat) : Fld := { off := 0x88008 + 0x40 * c, lo := 0, width := 64, acc := .rw, rst := 0 }
def WMK_CV2.LEN (c : Nat) : Fld := { off := 0x88010 + 0x40 * c, lo := 32, width := 32, acc := .rw, rst := 0 }
def WMK_CV2.PERIOD (c : Nat) : Fld := { off := 0x88010 + 0x40 * c, lo := 0, width := 32, acc := .rw, rst := 0 }
def WMK_CV3.SIG_VALUE (c : Nat) : Fld := { off := 0x88018 + 0x40 * c, lo := 32, width := 32, acc := .rw, rst := 0 }
def WMK_CV3.SIG_BCN (c : Nat) : Fld := { off := 0x88018 + 0x40 * c, lo := 0, width := 14, acc := .rw, rst := 0 }
def WMK_CV4.PEER_IP_LO (c : Nat) : Fld := { off := 0x88020 + 0x40 * c, lo := 0, width := 64, acc := .rw, rst := 0 }
def WMK_CV5.PEER_IP_HI (c : Nat) : Fld := { off := 0x88028 + 0x40 * c, lo := 0, width := 64, acc := .rw, rst := 0 }
def WMK_CV6.NEXT_HOP (c : Nat) : Fld := { off := 0x88030 + 0x40 * c, lo := 0, width := 48, acc := .rw, rst := 0 }
def WMK_CV7.INSTANCES (c : Nat) : Fld := { off := 0x88038 + 0x40 * c, lo := 0, width := 64, acc := .ro, rst := 0 }
def CRN_CFG.RATE_PCT : Fld := { off := 0x90000, lo := 16, width := 8, acc := .rw, rst := 0x32 }
def CRN_CFG.DIGEST_EN : Fld := { off := 0x90000, lo := 1, width := 1, acc := .rw, rst := 1 }
def CRN_CFG.AUTO : Fld := { off := 0x90000, lo := 0, width := 1, acc := .rw, rst := 1 }
def CRN_STATUS.STORE_HALF : Fld := { off := 0x90004, lo := 11, width := 1, acc := .ro, rst := 0 }
def CRN_STATUS.STORE_VALID : Fld := { off := 0x90004, lo := 10, width := 1, acc := .ro, rst := 0 }
def CRN_STATUS.VERIFIED : Fld := { off := 0x90004, lo := 9, width := 1, acc := .ro, rst := 0 }
def CRN_STATUS.REPEAT_ARMED : Fld := { off := 0x90004, lo := 8, width := 1, acc := .ro, rst := 0 }
def CRN_STATUS.CAIRN_ARMED : Fld := { off := 0x90004, lo := 7, width := 1, acc := .ro, rst := 0 }
def CRN_STATUS.SERVING : Fld := { off := 0x90004, lo := 6, width := 1, acc := .ro, rst := 0 }
def CRN_STATUS.FILL_QUEUED : Fld := { off := 0x90004, lo := 5, width := 1, acc := .ro, rst := 0 }
def CRN_STATUS.FILLING : Fld := { off := 0x90004, lo := 4, width := 1, acc := .ro, rst := 0 }
def CRN_STATUS.RESTORING : Fld := { off := 0x90004, lo := 3, width := 1, acc := .ro, rst := 0 }
def CRN_STATUS.COPYING : Fld := { off := 0x90004, lo := 2, width := 1, acc := .ro, rst := 0 }
def CRN_STATUS.INTERRUPTED : Fld := { off := 0x90004, lo := 1, width := 1, acc := .ro, rst := 0 }
def CRN_STATUS.STEP_OPEN : Fld := { off := 0x90004, lo := 0, width := 1, acc := .ro, rst := 0 }
def CRN_EVENT.CMD_REFUSED : Fld := { off := 0x90008, lo := 10, width := 1, acc := .rw1c, rst := 0 }
def CRN_EVENT.START_REFUSED : Fld := { off := 0x90008, lo := 9, width := 1, acc := .rw1c, rst := 0 }
def CRN_EVENT.SLOT_SKIPPED : Fld := { off := 0x90008, lo := 8, width := 1, acc := .rw1c, rst := 0 }
def CRN_EVENT.CAIRN_SKIPPED : Fld := { off := 0x90008, lo := 7, width := 1, acc := .rw1c, rst := 0 }
def CRN_EVENT.ALTERNATE : Fld := { off := 0x90008, lo := 6, width := 1, acc := .rw1c, rst := 0 }
def CRN_EVENT.SERVE_END : Fld := { off := 0x90008, lo := 5, width := 1, acc := .rw1c, rst := 0 }
def CRN_EVENT.FILL_DONE : Fld := { off := 0x90008, lo := 4, width := 1, acc := .rw1c, rst := 0 }
def CRN_EVENT.RESTORE_DONE : Fld := { off := 0x90008, lo := 3, width := 1, acc := .rw1c, rst := 0 }
def CRN_EVENT.VERIFY_DONE : Fld := { off := 0x90008, lo := 2, width := 1, acc := .rw1c, rst := 0 }
def CRN_EVENT.CAIRN_BEGUN : Fld := { off := 0x90008, lo := 1, width := 1, acc := .rw1c, rst := 0 }
def CRN_EVENT.ERROR : Fld := { off := 0x90008, lo := 0, width := 1, acc := .rw1c, rst := 0 }
def CRN_CMD.SRC : Fld := { off := 0x9000C, lo := 8, width := 2, acc := .wo, rst := 0 }
def CRN_CMD.ON_JOIN : Fld := { off := 0x9000C, lo := 7, width := 1, acc := .wo, rst := 0 }
def CRN_CMD.STEP_MATCH : Fld := { off := 0x9000C, lo := 6, width := 1, acc := .wo, rst := 0 }
def CRN_CMD.DEST : Fld := { off := 0x9000C, lo := 5, width := 1, acc := .wo, rst := 0 }
def CRN_CMD.CMD : Fld := { off := 0x9000C, lo := 0, width := 4, acc := .wo, rst := 0 }
def CRN_RISK_THRESH.VALUE : Fld := { off := 0x90010, lo := 0, width := 8, acc := .rw, rst := 0xA0 }
def CRN_ERR.VALUE : Fld := { off := 0x90014, lo := 0, width := 16, acc := .ro, rst := 0 }
def CRN_STEP.NUMBER : Fld := { off := 0x90018, lo := 0, width := 64, acc := .rw, rst := 0 }
def CRN_STEP_POS.REPEATS_LEFT : Fld := { off := 0x90020, lo := 40, width := 24, acc := .ro, rst := 0 }
def CRN_STEP_POS.PASS : Fld := { off := 0x90020, lo := 16, width := 24, acc := .ro, rst := 0 }
def CRN_STEP_POS.SEGMENT : Fld := { off := 0x90020, lo := 8, width := 8, acc := .ro, rst := 0 }
def CRN_STEP_REC.BASE : Fld := { off := 0x90028, lo := 0, width := 19, acc := .rw, rst := 0 }
def CRN_STORE.SIZE : Fld := { off := 0x90030, lo := 19, width := 19, acc := .rw, rst := 0 }
def CRN_STORE.BASE : Fld := { off := 0x90030, lo := 0, width := 19, acc := .rw, rst := 0 }
def CRN_XFER_A.HOST_ADDR : Fld := { off := 0x90038, lo := 12, width := 52, acc := .rw, rst := 0 }
def CRN_XFER_A.CONVOY : Fld := { off := 0x90038, lo := 3, width := 9, acc := .rw, rst := 0 }
def CRN_XFER_A.KIND : Fld := { off := 0x90038, lo := 0, width := 2, acc := .rw, rst := 0 }
def CRN_XFER_B.HOST_ADDR : Fld := { off := 0x90040, lo := 12, width := 52, acc := .rw, rst := 0 }
def CRN_XFER_B.CONVOY : Fld := { off := 0x90040, lo := 3, width := 9, acc := .rw, rst := 0 }
def CRN_XFER_B.KIND : Fld := { off := 0x90040, lo := 0, width := 2, acc := .rw, rst := 0 }
def CRN_AUTO.HOST_ADDR : Fld := { off := 0x90048, lo := 12, width := 52, acc := .rw, rst := 0 }
def CRN_AUTO.CONVOY : Fld := { off := 0x90048, lo := 3, width := 9, acc := .rw, rst := 0 }
def CRN_AUTO.KIND : Fld := { off := 0x90048, lo := 0, width := 2, acc := .rw, rst := 0 }
def CRN_PROGRESS.SERVED : Fld := { off := 0x90050, lo := 32, width := 32, acc := .ro, rst := 0 }
def CRN_PROGRESS.FILLED : Fld := { off := 0x90050, lo := 0, width := 32, acc := .ro, rst := 0 }
def CRN_OPEN_DIGEST.BYTES (m : Nat) : Fld := { off := 0x90060 + 0x8 * m, lo := 0, width := 64, acc := .ro, rst := 0 }
def CRN_RESTORED_DIGEST.BYTES (m : Nat) : Fld := { off := 0x90090 + 0x8 * m, lo := 0, width := 64, acc := .ro, rst := 0 }
def CRN_REF_DIGEST.BYTES (m : Nat) : Fld := { off := 0x900C0 + 0x8 * m, lo := 0, width := 64, acc := .rw, rst := 0 }
def HLT_RISK.PEAK : Fld := { off := 0xC0000, lo := 8, width := 8, acc := .rw, rst := 0 }
def HLT_RISK.RISK : Fld := { off := 0xC0000, lo := 0, width := 8, acc := .ro, rst := 0 }
def HLT_EVENT.ABOVE : Fld := { off := 0xC0004, lo := 0, width := 1, acc := .rw1c, rst := 0 }
def HLT_WEIGHT.DROOP : Fld := { off := 0xC0008, lo := 16, width := 4, acc := .rw, rst := 0xC }
def HLT_WEIGHT.LINK : Fld := { off := 0xC0008, lo := 12, width := 4, acc := .rw, rst := 4 }
def HLT_WEIGHT.TEMP : Fld := { off := 0xC0008, lo := 8, width := 4, acc := .rw, rst := 8 }
def HLT_WEIGHT.STRETCH : Fld := { off := 0xC0008, lo := 4, width := 4, acc := .rw, rst := 6 }
def HLT_WEIGHT.RESEND : Fld := { off := 0xC0008, lo := 0, width := 4, acc := .rw, rst := 0xC }
def HLT_COMP.DROOP : Fld := { off := 0xC0010, lo := 32, width := 8, acc := .ro, rst := 0 }
def HLT_COMP.LINK : Fld := { off := 0xC0010, lo := 24, width := 8, acc := .ro, rst := 0 }
def HLT_COMP.TEMP : Fld := { off := 0xC0010, lo := 16, width := 8, acc := .ro, rst := 0 }
def HLT_COMP.STRETCH : Fld := { off := 0xC0010, lo := 8, width := 8, acc := .ro, rst := 0 }
def HLT_COMP.RESEND : Fld := { off := 0xC0010, lo := 0, width := 8, acc := .ro, rst := 0 }
def HLT_FULL.DROOP : Fld := { off := 0xC0018, lo := 48, width := 16, acc := .rw, rst := 0x64 }
def HLT_FULL.STRETCH : Fld := { off := 0xC0018, lo := 40, width := 8, acc := .rw, rst := 0x19 }
def HLT_FULL.LINK : Fld := { off := 0xC0018, lo := 20, width := 20, acc := .rw, rst := 0x2710 }
def HLT_FULL.RESEND : Fld := { off := 0xC0018, lo := 0, width := 20, acc := .rw, rst := 0x3E8 }
def HP_VIEW.TEN_VALID (v : Nat) : Fld := { off := 0x200000C + 0x1000 * v, lo := 20, width := 1, acc := .ro, rst := 0 }
def HP_VIEW.TENANCY (v : Nat) : Fld := { off := 0x200000C + 0x1000 * v, lo := 16, width := 4, acc := .ro, rst := 0 }
def HP_VIEW.BINDING (v : Nat) : Fld := { off := 0x200000C + 0x1000 * v, lo := 0, width := 4, acc := .ro, rst := 0 }
def HP_LINK.CXL (v : Nat) : Fld := { off := 0x2000010 + 0x1000 * v, lo := 7, width := 1, acc := .ro, rst := 0 }
def HP_LINK.LATOPT (v : Nat) : Fld := { off := 0x2000010 + 0x1000 * v, lo := 6, width := 1, acc := .ro, rst := 0 }
def HP_LINK.WIDTH (v : Nat) : Fld := { off := 0x2000010 + 0x1000 * v, lo := 2, width := 2, acc := .ro, rst := 0 }
def HP_LINK.SPEED (v : Nat) : Fld := { off := 0x2000010 + 0x1000 * v, lo := 0, width := 2, acc := .ro, rst := 0 }
def HP_EVT_VEC.RING (v : Nat) : Fld := { off := 0x2000014 + 0x1000 * v, lo := 8, width := 6, acc := .rw, rst := 1 }
def HP_EVT_VEC.EVT (v : Nat) : Fld := { off := 0x2000014 + 0x1000 * v, lo := 0, width := 6, acc := .rw, rst := 0 }
def HP_XLAT_CTL.SUSPENDED (v : Nat) : Fld := { off := 0x2000018 + 0x1000 * v, lo := 1, width := 1, acc := .ro, rst := 0 }
def HP_XLAT_CTL.RETRY (v : Nat) : Fld := { off := 0x2000018 + 0x1000 * v, lo := 0, width := 1, acc := .wo, rst := 0 }
def HP_XLAT_REC.ADDR (v : Nat) : Fld := { off := 0x2000020 + 0x1000 * v, lo := 12, width := 52, acc := .ro, rst := 0 }
def HP_XLAT_REC.WRITE (v : Nat) : Fld := { off := 0x2000020 + 0x1000 * v, lo := 11, width := 1, acc := .ro, rst := 0 }
def HP_XLAT_REC.ERROR (v : Nat) : Fld := { off := 0x2000020 + 0x1000 * v, lo := 10, width := 1, acc := .ro, rst := 0 }
def HP_XLAT_MISSES.COUNT (v : Nat) : Fld := { off := 0x2000028 + 0x1000 * v, lo := 0, width := 32, acc := .rw, rst := 0 }
def HP_XLAT_LATE.COUNT (v : Nat) : Fld := { off := 0x200002C + 0x1000 * v, lo := 0, width := 32, acc := .rw, rst := 0 }
def HP_UNBOUND.COUNT (v : Nat) : Fld := { off := 0x2000030 + 0x1000 * v, lo := 0, width := 32, acc := .rw, rst := 0 }
def HP_BIND.VALID (b : Nat) : Fld := { off := 0x2000040 + 0x4 * b, lo := 31, width := 1, acc := .rw, rst := if b = 0 then 1 else 0 }
def HP_BIND.ANY (b : Nat) : Fld := { off := 0x2000040 + 0x4 * b, lo := 30, width := 1, acc := .rw, rst := if b = 0 then 1 else 0 }
def HP_BIND.PID (b : Nat) : Fld := { off := 0x2000040 + 0x4 * b, lo := 0, width := 12, acc := .rw, rst := 0 }
def SEC_STATUS.FEATURES : Fld := { off := 0xA0000, lo := 12, width := 6, acc := .ro, rst := 0 }
def SEC_STATUS.FAILS : Fld := { off := 0xA0000, lo := 8, width := 2, acc := .ro, rst := 0 }
def SEC_STATUS.FUSE_PENDING : Fld := { off := 0xA0000, lo := 7, width := 1, acc := .ro, rst := 0 }
def SEC_STATUS.EVAL : Fld := { off := 0xA0000, lo := 6, width := 1, acc := .ro, rst := 0, fuse := true }
def SEC_STATUS.POLICY : Fld := { off := 0xA0000, lo := 4, width := 2, acc := .ro, rst := 0, fuse := true }
def SEC_STATUS.BUSY : Fld := { off := 0xA0000, lo := 3, width := 1, acc := .ro, rst := 0 }
def SEC_STATUS.STAGE : Fld := { off := 0xA0000, lo := 0, width := 3, acc := .ro, rst := 0 }
def SEC_EVENT.CHAL_READY : Fld := { off := 0xA0004, lo := 2, width := 1, acc := .rw1c, rst := 0 }
def SEC_EVENT.ERROR : Fld := { off := 0xA0004, lo := 1, width := 1, acc := .rw1c, rst := 0 }
def SEC_EVENT.DONE : Fld := { off := 0xA0004, lo := 0, width := 1, acc := .rw1c, rst := 0 }
def SEC_CMD.KEY : Fld := { off := 0xA0008, lo := 16, width := 1, acc := .wo, rst := 0 }
def SEC_CMD.PARAM : Fld := { off := 0xA0008, lo := 8, width := 8, acc := .wo, rst := 0 }
def SEC_CMD.CMD : Fld := { off := 0xA0008, lo := 0, width := 4, acc := .wo, rst := 0 }
def SEC_ERR.CODE : Fld := { off := 0xA000C, lo := 0, width := 16, acc := .ro, rst := 0 }
def SEC_SVN.FLOOR : Fld := { off := 0xA0010, lo := 8, width := 8, acc := .ro, rst := 0, fuse := true }
def SEC_SVN.RUNNING : Fld := { off := 0xA0010, lo := 0, width := 8, acc := .ro, rst := 0 }
def SEC_IMG_LEN.VALUE : Fld := { off := 0xA0014, lo := 0, width := 32, acc := .rw, rst := 0 }
def SEC_IMG_ADDR.VALUE : Fld := { off := 0xA0018, lo := 0, width := 40, acc := .rw, rst := 0 }
def SEC_CHAL.BYTES (k : Nat) : Fld := { off := 0xA0040 + 0x8 * k, lo := 0, width := 64, acc := .ro, rst := 0 }
def SEC_RESP.BYTES (k : Nat) : Fld := { off := 0xA0100 + 0x8 * k, lo := 0, width := 64, acc := .rw, rst := 0 }
def DBG_LTN_CTL.RING_EN : Fld := { off := 0xB0000, lo := 1, width := 1, acc := .rw, rst := 0 }
def DBG_LTN_CTL.ENABLE : Fld := { off := 0xB0000, lo := 0, width := 1, acc := .rw, rst := 1 }
def DBG_LTN_MASK.TYPES : Fld := { off := 0xB0004, lo := 1, width := 14, acc := .rw, rst := 0x3FF }
def DBG_LTN_BASE.ADDR : Fld := { off := 0xB0008, lo := 12, width := 52, acc := .rw, rst := 0 }
def DBG_LTN_CFG.LOG2SIZE : Fld := { off := 0xB0010, lo := 0, width := 5, acc := .rw, rst := 0x10 }
def DBG_LTN_PROD.INDEX : Fld := { off := 0xB0014, lo := 0, width := 32, acc := .ro, rst := 0 }
def DBG_LTN_CONS.INDEX : Fld := { off := 0xB0018, lo := 0, width := 32, acc := .rw, rst := 0 }
def DBG_LTN_LOST.COUNT : Fld := { off := 0xB001C, lo := 0, width := 32, acc := .rw, rst := 0 }
def DBG_LTN_FAULTS.COUNT : Fld := { off := 0xB0020, lo := 0, width := 32, acc := .rw, rst := 0 }
def DBG_INPUT_REJ.COUNT : Fld := { off := 0xB0030, lo := 0, width := 32, acc := .rw, rst := 0 }
def DBG_LTN_FILL_THRESH.TICKS : Fld := { off := 0xB0024, lo := 0, width := 16, acc := .rw, rst := 0x19C }
def DBG_LTN_CAP.COUNT : Fld := { off := 0xB0028, lo := 32, width := 10, acc := .rw, rst := 0 }
def DBG_LTN_CAP.FIRST : Fld := { off := 0xB0028, lo := 0, width := 21, acc := .rw, rst := 0 }
def DBG_HDW_ADDR.ROW : Fld := { off := 0xB1000, lo := 0, width := 21, acc := .rw, rst := 0 }
def DBG_HDW_CMD.CMD : Fld := { off := 0xB1004, lo := 0, width := 2, acc := .wo, rst := 0 }
def DBG_HDW_STATUS.ERROR : Fld := { off := 0xB1008, lo := 2, width := 1, acc := .rw1c, rst := 0 }
def DBG_HDW_STATUS.DONE : Fld := { off := 0xB1008, lo := 1, width := 1, acc := .rw1c, rst := 0 }
def DBG_HDW_STATUS.BUSY : Fld := { off := 0xB1008, lo := 0, width := 1, acc := .ro, rst := 0 }
def DBG_HDW_DATA.BYTES (k : Nat) : Fld := { off := 0xB1200 + 0x8 * k, lo := 0, width := 64, acc := .rw, rst := 0 }

end Reg

/-- A register or a family of registers: base offset, the strides and counts of its indices, its width, and its
fields at index 0 (resets that depend on the index are looked up by the field functions above). -/
structure RegDef where
  base : Nat
  dims : List (Nat × Nat)
  width : Nat
  fields : List Fld
  deriving DecidableEq, Repr

/-- Part 0 of the register table. -/
def regTable0 : List RegDef := [
  { base := 0x0, dims := [], width := 32, fields := [Reg.GLB_ID.DEVICE, Reg.GLB_ID.STEPPING] },
  { base := 0x4, dims := [], width := 32, fields := [Reg.GLB_GRADE.CONC_LIMIT, Reg.GLB_GRADE.PORT_MASK, Reg.GLB_GRADE.MAX_OPP, Reg.GLB_GRADE.GRADE] },
  { base := 0x8, dims := [], width := 64, fields := [Reg.GLB_SERIAL.SERIAL] },
  { base := 0x10, dims := [(0x8, 4)], width := 64, fields := [Reg.GLB_CORE_MAP.IN_SERVICE 0] },
  { base := 0x30, dims := [], width := 64, fields := [Reg.GLB_DSIG.ENV_REV, Reg.GLB_DSIG.ROUND_REV, Reg.GLB_DSIG.RNG_REV, Reg.GLB_DSIG.EXACT_REV, Reg.GLB_DSIG.FTAB_REV] },
  { base := 0x38, dims := [], width := 32, fields := [Reg.GLB_LATID.LATID] },
  { base := 0x30000, dims := [], width := 64, fields := [Reg.RTE_LOAD_ADDR.ADDR] },
  { base := 0x30008, dims := [], width := 32, fields := [Reg.RTE_LOAD_LEN.LEN] },
  { base := 0x3000C, dims := [], width := 32, fields := [Reg.RTE_CMD.TENANCY, Reg.RTE_CMD.CMD] },
  { base := 0x30010, dims := [], width := 32, fields := [Reg.RTE_STATUS.SEGMENT, Reg.RTE_STATUS.TENANCY, Reg.RTE_STATUS.PLACEMENT, Reg.RTE_STATUS.GATED, Reg.RTE_STATUS.ECLIPSE, Reg.RTE_STATUS.SUSPENDED, Reg.RTE_STATUS.LOADING, Reg.RTE_STATUS.RUNNING, Reg.RTE_STATUS.LOADED] },
  { base := 0x30014, dims := [(0x4000000, 16)], width := 32, fields := [Reg.RTE_EVENT.SUSPEND 0, Reg.RTE_EVENT.PREEMPTED 0, Reg.RTE_EVENT.FAULT 0, Reg.RTE_EVENT.DONE 0, Reg.RTE_EVENT.LOAD_FAIL 0, Reg.RTE_EVENT.LOAD_DONE 0] },
  { base := 0x30018, dims := [], width := 32, fields := [Reg.RTE_FAULT_CODE.VALID, Reg.RTE_FAULT_CODE.SPEC, Reg.RTE_FAULT_CODE.LANE, Reg.RTE_FAULT_CODE.CORE, Reg.RTE_FAULT_CODE.CODE] },
  { base := 0x3001C, dims := [], width := 32, fields := [Reg.RTE_FAULT_TAG.TAG] },
  { base := 0x30020, dims := [], width := 64, fields := [Reg.RTE_FAULT_TICK.TICK] },
  { base := 0x30028, dims := [], width := 32, fields := [Reg.RTE_FAULT_AUX.SEGMENT, Reg.RTE_FAULT_AUX.PLACEMENT, Reg.RTE_FAULT_AUX.DESC] },
  { base := 0x3002C, dims := [], width := 32, fields := [Reg.RTE_ECLIPSE_LIMIT.LIMIT_NS] } ]

/-- Part 1 of the register table. -/
def regTable1 : List RegDef := [
  { base := 0x30030, dims := [], width := 32, fields := [Reg.RTE_CORE_CMD.CORE, Reg.RTE_CORE_CMD.CMD] },
  { base := 0x30034, dims := [], width := 32, fields := [Reg.RTE_CORE_STAT.BUSY, Reg.RTE_CORE_STAT.REFUSED, Reg.RTE_CORE_STAT.DONE, Reg.RTE_CORE_STAT.STATE, Reg.RTE_CORE_STAT.CORE] },
  { base := 0x100000, dims := [(0x1000, 256)], width := 32, fields := [Reg.CORE_STATUS.DESC_COUNT 0, Reg.CORE_STATUS.FORK_OPEN 0, Reg.CORE_STATUS.SCOREBOARD 0, Reg.CORE_STATUS.PLACED 0, Reg.CORE_STATUS.PRESENT 0] },
  { base := 0x100008, dims := [(0x1000, 256)], width := 64, fields := [Reg.CORE_TICK.TICK 0] },
  { base := 0x100010, dims := [(0x1000, 256)], width := 32, fields := [Reg.SPEC_RESOLVED.COUNT 0] },
  { base := 0x100014, dims := [(0x1000, 256)], width := 32, fields := [Reg.SPEC_MISS.COUNT 0] },
  { base := 0x100018, dims := [(0x1000, 256)], width := 32, fields := [Reg.SPEC_DROPPED.FAULTS 0, Reg.SPEC_DROPPED.XFERS 0] },
  { base := 0x100020, dims := [(0x1000, 256), (0x4, 8)], width := 32, fields := [Reg.BANK_CONFLICT.STALLS 0 0] },
  { base := 0x100400, dims := [(0x1000, 256), (0x10, 64)], width := 64, fields := [Reg.STREAM_LO.BASE 0 0] },
  { base := 0x100408, dims := [(0x1000, 256), (0x10, 64)], width := 64, fields := [Reg.STREAM_HI.RELAXED 0 0, Reg.STREAM_HI.CONC 0 0, Reg.STREAM_HI.KIND 0 0, Reg.STREAM_HI.STRIDE 0 0] },
  { base := 0x50000, dims := [], width := 32, fields := [Reg.MSH_STATUS.REBALANCE] },
  { base := 0x50004, dims := [], width := 32, fields := [Reg.MSH_EVENT.COLLISION, Reg.MSH_EVENT.OVERRUN] },
  { base := 0x50008, dims := [], width := 64, fields := [Reg.MSH_COLL_REC.PORT, Reg.MSH_COLL_REC.ROUTER, Reg.MSH_COLL_REC.TICK] },
  { base := 0x50010, dims := [], width := 64, fields := [Reg.MSH_SLIP_REC.SIGN, Reg.MSH_SLIP_REC.PORT, Reg.MSH_SLIP_REC.ROUTER, Reg.MSH_SLIP_REC.TICK] },
  { base := 0x50018, dims := [], width := 32, fields := [Reg.MSH_SLIP_PEAK.PEAK] },
  { base := 0x5001C, dims := [], width := 32, fields := [Reg.MSH_OVERRUNS.COUNT] } ]

/-- Part 2 of the register table. -/
def regTable2 : List RegDef := [
  { base := 0x50020, dims := [], width := 32, fields := [Reg.MSH_FILL_PEAK.DELAY] },
  { base := 0x40000, dims := [], width := 32, fields := [Reg.MEM_STATUS.TEST_BUSY, Reg.MEM_STATUS.COPY_BUSY, Reg.MEM_STATUS.DIGEST_BUSY, Reg.MEM_STATUS.REJOIN_PENDING] },
  { base := 0x40004, dims := [], width := 32, fields := [Reg.MEM_EVENT.DERATE_CHANGE, Reg.MEM_EVENT.UNMAPPED, Reg.MEM_EVENT.CMD_REFUSED, Reg.MEM_EVENT.DIGEST_FAIL, Reg.MEM_EVENT.DIGEST_DONE, Reg.MEM_EVENT.TEST_FAIL, Reg.MEM_EVENT.TEST_DONE, Reg.MEM_EVENT.RETIRED, Reg.MEM_EVENT.CH_LOST, Reg.MEM_EVENT.PERSISTENT] },
  { base := 0x40008, dims := [], width := 32, fields := [Reg.MEM_CMD.CHANNEL, Reg.MEM_CMD.CMD] },
  { base := 0x4000C, dims := [], width := 32, fields := [Reg.MEM_RETIRE_THRESH.COUNT] },
  { base := 0x40010, dims := [], width := 64, fields := [Reg.MEM_CH_MAP_LO.IN_SERVICE] },
  { base := 0x40018, dims := [], width := 32, fields := [Reg.MEM_CH_MAP_HI.IN_SERVICE] },
  { base := 0x40020, dims := [], width := 64, fields := [Reg.MEM_ERR_REC.TAG, Reg.MEM_ERR_REC.SCHEDULED, Reg.MEM_ERR_REC.KIND, Reg.MEM_ERR_REC.CHANNEL] },
  { base := 0x40028, dims := [], width := 64, fields := [Reg.MEM_ERR_ADDR.ADDR] },
  { base := 0x40030, dims := [], width := 32, fields := [Reg.MEM_DERATE.MULT] },
  { base := 0x40034, dims := [], width := 32, fields := [Reg.MEM_UNPLANNED.COUNT] },
  { base := 0x40038, dims := [], width := 32, fields := [Reg.MEM_RESENDS.COUNT] },
  { base := 0x40040, dims := [], width := 64, fields := [Reg.MEM_DIGEST_ADDR.VALUE] },
  { base := 0x40048, dims := [], width := 64, fields := [Reg.MEM_DIGEST_LEN.VALUE] },
  { base := 0x40050, dims := [], width := 32, fields := [Reg.MEM_DIGEST_STAT.ERROR, Reg.MEM_DIGEST_STAT.VALID] },
  { base := 0x40060, dims := [(0x8, 6)], width := 64, fields := [Reg.MEM_DIGEST_OUT.BYTES 0] } ]

/-- Part 3 of the register table. -/
def regTable3 : List RegDef := [
  { base := 0x40100, dims := [(0x10, 32)], width := 64, fields := [Reg.MEM_IMAP_A.GRAN 0, Reg.MEM_IMAP_A.VALID 0, Reg.MEM_IMAP_A.SIZE 0, Reg.MEM_IMAP_A.BASE 0] },
  { base := 0x40108, dims := [(0x10, 32)], width := 64, fields := [Reg.MEM_IMAP_B.SHADOW 0, Reg.MEM_IMAP_B.CH_OFF 0, Reg.MEM_IMAP_B.COUNT 0, Reg.MEM_IMAP_B.FIRST 0] },
  { base := 0x40400, dims := [(0x4, 96)], width := 32, fields := [Reg.MEM_CH_STAT.STATE 0, Reg.MEM_CH_STAT.PERSIST 0, Reg.MEM_CH_STAT.RESENDS 0] },
  { base := 0x20000, dims := [], width := 32, fields := [Reg.CLK_OPP.PENDING, Reg.CLK_OPP.TARGET, Reg.CLK_OPP.CURRENT] },
  { base := 0x20008, dims := [], width := 64, fields := [Reg.CLK_OPP_AT.AT] },
  { base := 0x20010, dims := [], width := 32, fields := [Reg.CLK_EVENT.MARGIN_LOST, Reg.CLK_EVENT.STRETCH_HIGH, Reg.CLK_EVENT.OPP_REFUSED, Reg.CLK_EVENT.OPP_DONE] },
  { base := 0x20014, dims := [], width := 32, fields := [Reg.CLK_STRETCH_CTL.WARN, Reg.CLK_STRETCH_CTL.HIGH_PCT] },
  { base := 0x20018, dims := [], width := 32, fields := [Reg.CLK_THROTTLE.POWER, Reg.CLK_THROTTLE.THERMAL, Reg.CLK_THROTTLE.LEVEL] },
  { base := 0x20020, dims := [], width := 32, fields := [Reg.CLK_SHADOWS.COUNT] },
  { base := 0x20100, dims := [(0x4, 21)], width := 32, fields := [Reg.CLK_STRETCH.COUNT 0] },
  { base := 0x10000, dims := [], width := 32, fields := [Reg.PWR_STATE.MAX_DEPTH, Reg.PWR_STATE.ALLOWED, Reg.PWR_STATE.THERMAL_HOLD, Reg.PWR_STATE.STATE] },
  { base := 0x10004, dims := [], width := 32, fields := [Reg.PWR_CTRL.WAKE] },
  { base := 0x10008, dims := [], width := 32, fields := [Reg.PWR_IDLE_NS.NS] },
  { base := 0x1000C, dims := [], width := 32, fields := [Reg.PWR_DOMAIN_ON.PD] },
  { base := 0x10010, dims := [], width := 32, fields := [Reg.PWR_DOMAIN_RET.PD] },
  { base := 0x10014, dims := [], width := 32, fields := [Reg.PWR_EVENT.THERMAL_TRIP, Reg.PWR_EVENT.POWER_LIMIT, Reg.PWR_EVENT.THROTTLE, Reg.PWR_EVENT.WOKE] } ]

/-- Part 4 of the register table. -/
def regTable4 : List RegDef := [
  { base := 0x10018, dims := [], width := 32, fields := [Reg.PWR_TEMP.ISLAND, Reg.PWR_TEMP.DRAM, Reg.PWR_TEMP.DIE] },
  { base := 0x1001C, dims := [], width := 32, fields := [Reg.PWR_THERM_CTL.TRIP_C, Reg.PWR_THERM_CTL.THROTTLE_C] },
  { base := 0x10020, dims := [], width := 32, fields := [Reg.PWR_LIMIT_W.WATTS] },
  { base := 0x10024, dims := [], width := 32, fields := [Reg.PWR_MODULE_W.WATTS] },
  { base := 0x10100, dims := [(0x4, 16)], width := 32, fields := [Reg.PWR_BUDGET_NS.NS 0] },
  { base := 0xBC000, dims := [], width := 32, fields := [Reg.WPT_CTL.MASK, Reg.WPT_CTL.STOP, Reg.WPT_CTL.ENABLE] },
  { base := 0xBC004, dims := [], width := 32, fields := [Reg.WPT_EVENT.HAZARD] },
  { base := 0xBC008, dims := [], width := 64, fields := [Reg.WPT_REC.KIND, Reg.WPT_REC.LANE, Reg.WPT_REC.CORE, Reg.WPT_REC.TICK] },
  { base := 0xBC010, dims := [], width := 64, fields := [Reg.WPT_TAGS.OTHER, Reg.WPT_TAGS.TAG] },
  { base := 0xBC018, dims := [], width := 32, fields := [Reg.WPT_LOC.SPACE, Reg.WPT_LOC.INDEX] },
  { base := 0xBC020, dims := [(0x4, 4)], width := 32, fields := [Reg.WPT_COUNT.COUNT 0] },
  { base := 0xB8000, dims := [], width := 32, fields := [Reg.MIR_CTL.K, Reg.MIR_CTL.PORT, Reg.MIR_CTL.MODE, Reg.MIR_CTL.TRACE_CORE, Reg.MIR_CTL.WINDOW, Reg.MIR_CTL.STOP, Reg.MIR_CTL.ROLE, Reg.MIR_CTL.ENABLE] },
  { base := 0xB8004, dims := [], width := 32, fields := [Reg.MIR_PEER.DEVICE] },
  { base := 0xB8008, dims := [], width := 32, fields := [Reg.MIR_STATUS.UNMATCHED, Reg.MIR_STATUS.ARM_FAIL_WHY, Reg.MIR_STATUS.ACTIVE, Reg.MIR_STATUS.ARMED, Reg.MIR_STATUS.PEER_UP] },
  { base := 0xB800C, dims := [], width := 32, fields := [Reg.MIR_EVENT.TRACE_FULL, Reg.MIR_EVENT.TRACE_DONE, Reg.MIR_EVENT.DIVERGED, Reg.MIR_EVENT.ARM_FAIL] },
  { base := 0xB8010, dims := [], width := 64, fields := [Reg.MIR_WIN_START.PASS, Reg.MIR_WIN_START.VALUE] } ]

/-- Part 5 of the register table. -/
def regTable5 : List RegDef := [
  { base := 0xB8018, dims := [], width := 64, fields := [Reg.MIR_WIN_END.VALUE] },
  { base := 0xB8020, dims := [], width := 64, fields := [Reg.MIR_DIV.PASS, Reg.MIR_DIV.VALUE] },
  { base := 0xB8028, dims := [], width := 32, fields := [Reg.MIR_DIV_CORE.VALID, Reg.MIR_DIV_CORE.CORE] },
  { base := 0xB802C, dims := [], width := 32, fields := [Reg.MIR_SUBST.COUNT] },
  { base := 0xB8040, dims := [(0x8, 6)], width := 64, fields := [Reg.MIR_DIGEST.BYTES 0] },
  { base := 0xB8070, dims := [(0x8, 6)], width := 64, fields := [Reg.MIR_PEER_DIGEST.BYTES 0] },
  { base := 0x60000, dims := [], width := 32, fields := [Reg.BCN_WD_LIMIT.NS] },
  { base := 0x60004, dims := [], width := 32, fields := [Reg.BCN_EVENT.COMB_ERROR, Reg.BCN_EVENT.WD_TIMEOUT] },
  { base := 0x60008, dims := [(0x8, 2)], width := 64, fields := [Reg.BCN_WD_REC.VALID 0, Reg.BCN_WD_REC.TENANCY 0, Reg.BCN_WD_REC.MODE 0, Reg.BCN_WD_REC.BEACON 0, Reg.BCN_WD_REC.TAG 0] },
  { base := 0x61000, dims := [(0x10, 256)], width := 64, fields := [Reg.BCN_HWAIT_A.VECTOR 0, Reg.BCN_HWAIT_A.WD_EN 0, Reg.BCN_HWAIT_A.MODE 0, Reg.BCN_HWAIT_A.BEACON 0, Reg.BCN_HWAIT_A.TARGET 0] },
  { base := 0x61008, dims := [(0x10, 256)], width := 64, fields := [Reg.BCN_HWAIT_B.ARM 0, Reg.BCN_HWAIT_B.STATUS 0, Reg.BCN_HWAIT_B.TAG 0] },
  { base := 0x62000, dims := [(0x10, 256)], width := 64, fields := [Reg.BCN_COMB_A.BCN_EN 0, Reg.BCN_COMB_A.ROW 0, Reg.BCN_COMB_A.TARGET 0, Reg.BCN_COMB_A.EXPECT 0, Reg.BCN_COMB_A.ELEMS 0, Reg.BCN_COMB_A.FMT 0, Reg.BCN_COMB_A.OWNER 0] },
  { base := 0x62008, dims := [(0x10, 256)], width := 64, fields := [Reg.BCN_COMB_B.VALID 0, Reg.BCN_COMB_B.ERROR 0, Reg.BCN_COMB_B.RECEIVED 0, Reg.BCN_COMB_B.BEACON 0] },
  { base := 0x70000, dims := [], width := 32, fields := [Reg.SES_CMD.TENANCY, Reg.SES_CMD.SLOT, Reg.SES_CMD.CMD] },
  { base := 0x70004, dims := [(0x4000000, 16)], width := 32, fields := [Reg.SES_EVENT.RESTORE_FAIL 0, Reg.SES_EVENT.SWITCHED 0, Reg.SES_EVENT.CMD_REFUSED 0] },
  { base := 0x70008, dims := [], width := 32, fields := [Reg.SES_STATUS.REQUESTER, Reg.SES_STATUS.SWITCH_PENDING, Reg.SES_STATUS.RESIDENT_VALID, Reg.SES_STATUS.RESIDENT] } ]

/-- Part 6 of the register table. -/
def regTable6 : List RegDef := [
  { base := 0x70100, dims := [(0x40, 16)], width := 32, fields := [Reg.SES_TEN_CFG.PRIO 0, Reg.SES_TEN_CFG.PORT 0, Reg.SES_TEN_CFG.ENABLE 0] },
  { base := 0x70108, dims := [(0x40, 16)], width := 32, fields := [Reg.SES_TEN_BCN.COUNT 0, Reg.SES_TEN_BCN.BASE 0] },
  { base := 0x70110, dims := [(0x40, 16), (0x8, 4)], width := 64, fields := [Reg.SES_TEN_REGION.SIZE 0 0, Reg.SES_TEN_REGION.BASE 0 0] },
  { base := 0x70130, dims := [(0x40, 16)], width := 64, fields := [Reg.SES_TEN_SAVE.ADDR 0] },
  { base := 0x70800, dims := [(0x20, 16)], width := 64, fields := [Reg.SES_RING_BASE.ADDR 0] },
  { base := 0x70808, dims := [(0x20, 16)], width := 32, fields := [Reg.SES_RING_CFG.ENABLE 0, Reg.SES_RING_CFG.LOG2SIZE 0] },
  { base := 0x7080C, dims := [(0x20, 16)], width := 32, fields := [Reg.SES_RING_PROD.INDEX 0] },
  { base := 0x70810, dims := [(0x20, 16)], width := 32, fields := [Reg.SES_RING_CONS.INDEX 0] },
  { base := 0x71000, dims := [(0x100, 16)], width := 32, fields := [Reg.SES_SLOT_SEL.SLOT 0] },
  { base := 0x71080, dims := [(0x100, 16), (0x4, 32)], width := 32, fields := [Reg.SES_SLOT_WORD.WORD 0 0] },
  { base := 0x72000, dims := [(0x80, 16)], width := 32, fields := [Reg.SES_MSG_DEST.SPACE 0, Reg.SES_MSG_DEST.INDEX 0] },
  { base := 0x72004, dims := [(0x80, 16)], width := 32, fields := [Reg.SES_MSG_CTL.SEND 0, Reg.SES_MSG_CTL.BUSY 0, Reg.SES_MSG_CTL.LEN 0, Reg.SES_MSG_CTL.TAG 0] },
  { base := 0x72040, dims := [(0x80, 16), (0x8, 8)], width := 64, fields := [Reg.SES_MSG_DATA.BYTES 0 0] },
  { base := 0xD0000, dims := [], width := 64, fields := [Reg.TIM_MILESTONE.COUNT] },
  { base := 0xD0008, dims := [], width := 64, fields := [Reg.TIM_LAUNCH_AT.COUNT] },
  { base := 0xD0010, dims := [], width := 64, fields := [Reg.TIM_EPOCH.COUNT] } ]

/-- Part 7 of the register table. -/
def regTable7 : List RegDef := [
  { base := 0xD0018, dims := [], width := 32, fields := [Reg.TIM_CFG.SYNC_LIMIT, Reg.TIM_CFG.DOMAIN, Reg.TIM_CFG.SYNC_PORT, Reg.TIM_CFG.PPS_OUT, Reg.TIM_CFG.SOURCE] },
  { base := 0xD001C, dims := [], width := 32, fields := [Reg.TIM_STATUS.STEPS, Reg.TIM_STATUS.HOLDOVER, Reg.TIM_STATUS.LAUNCH_ARMED, Reg.TIM_STATUS.GRANDMASTER, Reg.TIM_STATUS.LOCKED] },
  { base := 0xD0020, dims := [], width := 32, fields := [Reg.TIM_EVENT.LOCK, Reg.TIM_EVENT.SYNC_LOST, Reg.TIM_EVENT.LAUNCH_MISSED, Reg.TIM_EVENT.LAUNCH_REFUSED, Reg.TIM_EVENT.LAUNCHED] },
  { base := 0xD0024, dims := [], width := 32, fields := [Reg.TIM_OFFSET.NS] },
  { base := 0xD0028, dims := [], width := 64, fields := [Reg.TIM_RUN_TICK.TICK] },
  { base := 0x80000, dims := [], width := 32, fields := [Reg.WMK_CTL.DEVICE, Reg.WMK_CTL.WAYMARK_EN] },
  { base := 0x80004, dims := [], width := 32, fields := [Reg.WMK_STATUS.VALID, Reg.WMK_STATUS.JOINED] },
  { base := 0x80008, dims := [], width := 32, fields := [Reg.WMK_EVENT.LINK_CHANGE, Reg.WMK_EVENT.JOIN_MISMATCH, Reg.WMK_EVENT.CFG_REFUSED, Reg.WMK_EVENT.FAULT] },
  { base := 0x8000C, dims := [], width := 32, fields := [Reg.WMK_CMD.CONVOY, Reg.WMK_CMD.CMD] },
  { base := 0x80010, dims := [], width := 64, fields := [Reg.WMK_IPCFG.HOP_LIMIT, Reg.WMK_IPCFG.DSCP_MIRROR, Reg.WMK_IPCFG.DSCP_CTRL, Reg.WMK_IPCFG.DSCP_DATA, Reg.WMK_IPCFG.UDP_PORT] },
  { base := 0x80018, dims := [], width := 64, fields := [Reg.WMK_TIMERS.PACE_PCT, Reg.WMK_TIMERS.RETRY_MAX, Reg.WMK_TIMERS.PEER_TIMEOUT, Reg.WMK_TIMERS.RESEND_GAP_NS, Reg.WMK_TIMERS.ACK_NS] },
  { base := 0x80020, dims := [], width := 64, fields := [Reg.WMK_ERR_REC.CODE, Reg.WMK_ERR_REC.PORT, Reg.WMK_ERR_REC.PEER, Reg.WMK_ERR_REC.CONVOY, Reg.WMK_ERR_REC.BLOCK] },
  { base := 0x80100, dims := [(0x80, 8)], width := 32, fields := [Reg.WMK_P_CFG.PCP 0, Reg.WMK_P_CFG.VLAN_ID 0, Reg.WMK_P_CFG.VLAN_EN 0, Reg.WMK_P_CFG.SPLIT 0, Reg.WMK_P_CFG.ENABLE 0] },
  { base := 0x80104, dims := [(0x80, 8)], width := 32, fields := [Reg.WMK_P_STAT.RX_USED 0, Reg.WMK_P_STAT.TX_USED 0, Reg.WMK_P_STAT.PRESENT 0, Reg.WMK_P_STAT.LINK1 0, Reg.WMK_P_STAT.LINK0 0] },
  { base := 0x80108, dims := [(0x80, 8)], width := 64, fields := [Reg.WMK_P_MAC.ADDRESS 0] },
  { base := 0x80110, dims := [(0x80, 8), (0x8, 2)], width := 64, fields := [Reg.WMK_P_IP.ADDRESS 0 0] } ]

/-- Part 8 of the register table. -/
def regTable8 : List RegDef := [
  { base := 0x80120, dims := [(0x80, 8)], width := 32, fields := [Reg.WMK_P_TX_BLOCKS.COUNT 0] },
  { base := 0x80124, dims := [(0x80, 8)], width := 32, fields := [Reg.WMK_P_RESENDS.COUNT 0] },
  { base := 0x80128, dims := [(0x80, 8)], width := 32, fields := [Reg.WMK_P_LATE.COUNT 0] },
  { base := 0x8012C, dims := [(0x80, 8)], width := 32, fields := [Reg.WMK_P_CRC_ERR.COUNT 0] },
  { base := 0x80130, dims := [(0x80, 8)], width := 32, fields := [Reg.WMK_P_STORE_DROPS.COUNT 0] },
  { base := 0x80134, dims := [(0x80, 8)], width := 32, fields := [Reg.WMK_P_ECN_CE.COUNT 0] },
  { base := 0x88000, dims := [(0x40, 512)], width := 64, fields := [Reg.WMK_CV0.BLOCKS 0, Reg.WMK_CV0.PEER_CONVOY 0, Reg.WMK_CV0.PEER 0, Reg.WMK_CV0.TENANCY 0, Reg.WMK_CV0.SUB 0, Reg.WMK_CV0.PORT 0, Reg.WMK_CV0.JOINED 0, Reg.WMK_CV0.SIG_EN 0, Reg.WMK_CV0.DIR 0, Reg.WMK_CV0.VALID 0] },
  { base := 0x88008, dims := [(0x40, 512)], width := 64, fields := [Reg.WMK_CV1.FIRST 0] },
  { base := 0x88010, dims := [(0x40, 512)], width := 64, fields := [Reg.WMK_CV2.LEN 0, Reg.WMK_CV2.PERIOD 0] },
  { base := 0x88018, dims := [(0x40, 512)], width := 64, fields := [Reg.WMK_CV3.SIG_VALUE 0, Reg.WMK_CV3.SIG_BCN 0] },
  { base := 0x88020, dims := [(0x40, 512)], width := 64, fields := [Reg.WMK_CV4.PEER_IP_LO 0] },
  { base := 0x88028, dims := [(0x40, 512)], width := 64, fields := [Reg.WMK_CV5.PEER_IP_HI 0] },
  { base := 0x88030, dims := [(0x40, 512)], width := 64, fields := [Reg.WMK_CV6.NEXT_HOP 0] },
  { base := 0x88038, dims := [(0x40, 512)], width := 64, fields := [Reg.WMK_CV7.INSTANCES 0] },
  { base := 0x90000, dims := [], width := 32, fields := [Reg.CRN_CFG.RATE_PCT, Reg.CRN_CFG.DIGEST_EN, Reg.CRN_CFG.AUTO] },
  { base := 0x90004, dims := [], width := 32, fields := [Reg.CRN_STATUS.STORE_HALF, Reg.CRN_STATUS.STORE_VALID, Reg.CRN_STATUS.VERIFIED, Reg.CRN_STATUS.REPEAT_ARMED, Reg.CRN_STATUS.CAIRN_ARMED, Reg.CRN_STATUS.SERVING, Reg.CRN_STATUS.FILL_QUEUED, Reg.CRN_STATUS.FILLING, Reg.CRN_STATUS.RESTORING, Reg.CRN_STATUS.COPYING, Reg.CRN_STATUS.INTERRUPTED, Reg.CRN_STATUS.STEP_OPEN] } ]

/-- Part 9 of the register table. -/
def regTable9 : List RegDef := [
  { base := 0x90008, dims := [], width := 32, fields := [Reg.CRN_EVENT.CMD_REFUSED, Reg.CRN_EVENT.START_REFUSED, Reg.CRN_EVENT.SLOT_SKIPPED, Reg.CRN_EVENT.CAIRN_SKIPPED, Reg.CRN_EVENT.ALTERNATE, Reg.CRN_EVENT.SERVE_END, Reg.CRN_EVENT.FILL_DONE, Reg.CRN_EVENT.RESTORE_DONE, Reg.CRN_EVENT.VERIFY_DONE, Reg.CRN_EVENT.CAIRN_BEGUN, Reg.CRN_EVENT.ERROR] },
  { base := 0x9000C, dims := [], width := 32, fields := [Reg.CRN_CMD.SRC, Reg.CRN_CMD.ON_JOIN, Reg.CRN_CMD.STEP_MATCH, Reg.CRN_CMD.DEST, Reg.CRN_CMD.CMD] },
  { base := 0x90010, dims := [], width := 32, fields := [Reg.CRN_RISK_THRESH.VALUE] },
  { base := 0x90014, dims := [], width := 32, fields := [Reg.CRN_ERR.VALUE] },
  { base := 0x90018, dims := [], width := 64, fields := [Reg.CRN_STEP.NUMBER] },
  { base := 0x90020, dims := [], width := 64, fields := [Reg.CRN_STEP_POS.REPEATS_LEFT, Reg.CRN_STEP_POS.PASS, Reg.CRN_STEP_POS.SEGMENT] },
  { base := 0x90028, dims := [], width := 64, fields := [Reg.CRN_STEP_REC.BASE] },
  { base := 0x90030, dims := [], width := 64, fields := [Reg.CRN_STORE.SIZE, Reg.CRN_STORE.BASE] },
  { base := 0x90038, dims := [], width := 64, fields := [Reg.CRN_XFER_A.HOST_ADDR, Reg.CRN_XFER_A.CONVOY, Reg.CRN_XFER_A.KIND] },
  { base := 0x90040, dims := [], width := 64, fields := [Reg.CRN_XFER_B.HOST_ADDR, Reg.CRN_XFER_B.CONVOY, Reg.CRN_XFER_B.KIND] },
  { base := 0x90048, dims := [], width := 64, fields := [Reg.CRN_AUTO.HOST_ADDR, Reg.CRN_AUTO.CONVOY, Reg.CRN_AUTO.KIND] },
  { base := 0x90050, dims := [], width := 64, fields := [Reg.CRN_PROGRESS.SERVED, Reg.CRN_PROGRESS.FILLED] },
  { base := 0x90060, dims := [(0x8, 6)], width := 64, fields := [Reg.CRN_OPEN_DIGEST.BYTES 0] },
  { base := 0x90090, dims := [(0x8, 6)], width := 64, fields := [Reg.CRN_RESTORED_DIGEST.BYTES 0] },
  { base := 0x900C0, dims := [(0x8, 6)], width := 64, fields := [Reg.CRN_REF_DIGEST.BYTES 0] },
  { base := 0xC0000, dims := [], width := 32, fields := [Reg.HLT_RISK.PEAK, Reg.HLT_RISK.RISK] } ]

/-- Part 10 of the register table. -/
def regTable10 : List RegDef := [
  { base := 0xC0004, dims := [], width := 32, fields := [Reg.HLT_EVENT.ABOVE] },
  { base := 0xC0008, dims := [], width := 32, fields := [Reg.HLT_WEIGHT.DROOP, Reg.HLT_WEIGHT.LINK, Reg.HLT_WEIGHT.TEMP, Reg.HLT_WEIGHT.STRETCH, Reg.HLT_WEIGHT.RESEND] },
  { base := 0xC0010, dims := [], width := 64, fields := [Reg.HLT_COMP.DROOP, Reg.HLT_COMP.LINK, Reg.HLT_COMP.TEMP, Reg.HLT_COMP.STRETCH, Reg.HLT_COMP.RESEND] },
  { base := 0xC0018, dims := [], width := 64, fields := [Reg.HLT_FULL.DROOP, Reg.HLT_FULL.STRETCH, Reg.HLT_FULL.LINK, Reg.HLT_FULL.RESEND] },
  { base := 0x200000C, dims := [(0x1000, 16)], width := 32, fields := [Reg.HP_VIEW.TEN_VALID 0, Reg.HP_VIEW.TENANCY 0, Reg.HP_VIEW.BINDING 0] },
  { base := 0x2000010, dims := [(0x1000, 16)], width := 32, fields := [Reg.HP_LINK.CXL 0, Reg.HP_LINK.LATOPT 0, Reg.HP_LINK.WIDTH 0, Reg.HP_LINK.SPEED 0] },
  { base := 0x2000014, dims := [(0x1000, 16)], width := 32, fields := [Reg.HP_EVT_VEC.RING 0, Reg.HP_EVT_VEC.EVT 0] },
  { base := 0x2000018, dims := [(0x1000, 16)], width := 32, fields := [Reg.HP_XLAT_CTL.SUSPENDED 0, Reg.HP_XLAT_CTL.RETRY 0] },
  { base := 0x2000020, dims := [(0x1000, 16)], width := 64, fields := [Reg.HP_XLAT_REC.ADDR 0, Reg.HP_XLAT_REC.WRITE 0, Reg.HP_XLAT_REC.ERROR 0] },
  { base := 0x2000028, dims := [(0x1000, 16)], width := 32, fields := [Reg.HP_XLAT_MISSES.COUNT 0] },
  { base := 0x200002C, dims := [(0x1000, 16)], width := 32, fields := [Reg.HP_XLAT_LATE.COUNT 0] },
  { base := 0x2000030, dims := [(0x1000, 16)], width := 32, fields := [Reg.HP_UNBOUND.COUNT 0] },
  { base := 0x2000040, dims := [(0x4, 16)], width := 32, fields := [Reg.HP_BIND.VALID 0, Reg.HP_BIND.ANY 0, Reg.HP_BIND.PID 0] },
  { base := 0xA0000, dims := [], width := 32, fields := [Reg.SEC_STATUS.FEATURES, Reg.SEC_STATUS.FAILS, Reg.SEC_STATUS.FUSE_PENDING, Reg.SEC_STATUS.EVAL, Reg.SEC_STATUS.POLICY, Reg.SEC_STATUS.BUSY, Reg.SEC_STATUS.STAGE] },
  { base := 0xA0004, dims := [], width := 32, fields := [Reg.SEC_EVENT.CHAL_READY, Reg.SEC_EVENT.ERROR, Reg.SEC_EVENT.DONE] },
  { base := 0xA0008, dims := [], width := 32, fields := [Reg.SEC_CMD.KEY, Reg.SEC_CMD.PARAM, Reg.SEC_CMD.CMD] } ]

/-- Part 11 of the register table. -/
def regTable11 : List RegDef := [
  { base := 0xA000C, dims := [], width := 32, fields := [Reg.SEC_ERR.CODE] },
  { base := 0xA0010, dims := [], width := 32, fields := [Reg.SEC_SVN.FLOOR, Reg.SEC_SVN.RUNNING] },
  { base := 0xA0014, dims := [], width := 32, fields := [Reg.SEC_IMG_LEN.VALUE] },
  { base := 0xA0018, dims := [], width := 64, fields := [Reg.SEC_IMG_ADDR.VALUE] },
  { base := 0xA0040, dims := [(0x8, 6)], width := 64, fields := [Reg.SEC_CHAL.BYTES 0] },
  { base := 0xA0100, dims := [(0x8, 32)], width := 64, fields := [Reg.SEC_RESP.BYTES 0] },
  { base := 0xB0000, dims := [], width := 32, fields := [Reg.DBG_LTN_CTL.RING_EN, Reg.DBG_LTN_CTL.ENABLE] },
  { base := 0xB0004, dims := [], width := 32, fields := [Reg.DBG_LTN_MASK.TYPES] },
  { base := 0xB0008, dims := [], width := 64, fields := [Reg.DBG_LTN_BASE.ADDR] },
  { base := 0xB0010, dims := [], width := 32, fields := [Reg.DBG_LTN_CFG.LOG2SIZE] },
  { base := 0xB0014, dims := [], width := 32, fields := [Reg.DBG_LTN_PROD.INDEX] },
  { base := 0xB0018, dims := [], width := 32, fields := [Reg.DBG_LTN_CONS.INDEX] },
  { base := 0xB001C, dims := [], width := 32, fields := [Reg.DBG_LTN_LOST.COUNT] },
  { base := 0xB0020, dims := [], width := 32, fields := [Reg.DBG_LTN_FAULTS.COUNT] },
  { base := 0xB0030, dims := [], width := 32, fields := [Reg.DBG_INPUT_REJ.COUNT] },
  { base := 0xB0024, dims := [], width := 32, fields := [Reg.DBG_LTN_FILL_THRESH.TICKS] } ]

/-- Part 12 of the register table. -/
def regTable12 : List RegDef := [
  { base := 0xB0028, dims := [], width := 64, fields := [Reg.DBG_LTN_CAP.COUNT, Reg.DBG_LTN_CAP.FIRST] },
  { base := 0xB1000, dims := [], width := 32, fields := [Reg.DBG_HDW_ADDR.ROW] },
  { base := 0xB1004, dims := [], width := 32, fields := [Reg.DBG_HDW_CMD.CMD] },
  { base := 0xB1008, dims := [], width := 32, fields := [Reg.DBG_HDW_STATUS.ERROR, Reg.DBG_HDW_STATUS.DONE, Reg.DBG_HDW_STATUS.BUSY] },
  { base := 0xB1200, dims := [(0x8, 64)], width := 64, fields := [Reg.DBG_HDW_DATA.BYTES 0] } ]

/-- Every register of the control space and of the host-port DVSEC. -/
def regTable : List RegDef :=
  regTable0 ++ regTable1 ++ regTable2 ++ regTable3 ++ regTable4 ++ regTable5 ++ regTable6 ++ regTable7 ++ regTable8 ++ regTable9 ++ regTable10 ++ regTable11 ++ regTable12

end Sys2Proof.Machine
end

