-- ==== Sys2Proof/Machine/State.lean ====
section
/-! DEFINITION. The state of the Gudom: plain data, group by group, and the machine right after reset. -/

namespace Sys2Proof.Machine

/-! ### The compute array -/

/-- The issue of one descriptor occurrence, as ranked by R198 and named in fault records (R38, R552). `spec`: it is speculative
still; `ofSpec`: its descriptor carries SPEC (R62, R68). -/
structure Owner where
  core : Nat := 0
  lane : Nat := 0
  unit : Nat := 0
  tag : Nat := 0
  issue : Nat := 0
  spec : Bool := false
  ofSpec : Bool := false
  v : Bool := false
  dep0 : Nat := 0
  dep1 : Nat := 0
  deriving DecidableEq, Repr

/-- Where a row in flight was read from, so that the restart prologue can read it again (R76, R155, R156); `t` is the issue
tick of the fetch. `reg` came from a register, by a TMOV that issued at `t`: a replay uses the weights it started with. -/
inductive Src where
  | kept
  | reg (t : Nat)
  | scratch (bank row rot t : Nat)
  | vbuf (lane row rot t : Nat)
  deriving DecidableEq, Repr

/-- An approach-queue entry: presented to `stage` at tick `present` (R47). -/
structure Entry where
  present : Nat
  stage : Nat
  data : Row
  src : Src
  deriving DecidableEq, Repr

/-- A tile configuration (R133, R182). -/
structure TileCfg where
  rows : Nat
  cols : Nat
  fmt : Nat
  exact : Bool
  base : Int
  deriving DecidableEq, Repr

/-- A weight register: a weight shadow or the array weights. Row j of `rows` is bytes 512 j to 512 j + 511 of the packed tile,
the scale row of an MX tile following the element rows (R137, R166). `fill` is the fill in progress: its TAG and the tick at
which the shadow is full (R138). -/
structure WReg where
  cfg : Option TileCfg := none
  rows : KMap Row := []
  srcs : KMap Src := []
  used : Bool := false
  fill : Option (Nat × Nat) := none
  deriving DecidableEq, Repr

/-- Scale bytes of a cleared input-scale latch: 0x7F in every byte (R167). -/
def latchReset : Row := BitVec.ofNat 4096 ((2 ^ 4096 - 1) / 255 * 0x7F)

/-- One lane's register files, latches and approach queue (R130, R142, R167). Tile rows are keyed register * 64 + row, GV
entries register * 32 + entry, vector-buffer rows buffer * 32 + row. -/
structure LaneSt where
  acc : KMap TileRow := []
  accCfg : KMap (Option TileCfg) := []
  accUse : KMap Bool := []
  ws0 : WReg := {}
  ws1 : WReg := {}
  array : WReg := {}
  gv : KMap Row := []
  /-- Where a GV entry came from, and the issue tick of the GEMV.LOADV that wrote it (R156). -/
  gvSrc : KMap (Src × Nat) := []
  gvCfg : KMap (Option TileCfg) := []
  gvUse : KMap Bool := []
  vbuf : KMap Row := []
  vbufTag : KMap Nat := []
  scale : Row := latchReset
  scaleSrc : Src := .kept
  inLatch : Row := 0#4096
  inSrc : Src := .kept
  approach : List Entry := []
  deriving DecidableEq, Repr

/-- One row's softmax state: running maximum, running sum, and the last alpha (R211, R212). The alpha of a cleared set is
stated nowhere; it is 1 here (DESIGN CHOICE, notes/assumptions/5.md). -/
structure Smax where
  m : BitVec 32 := 0xFF800000#32
  l : BitVec 32 := 0#32
  alpha : BitVec 32 := 0x3F800000#32
  deriving DecidableEq, Repr

/-- A fork between F and R (R62, R107, R108). -/
structure Fork where
  owner : Owner
  r : Nat
  exit : Bool
  opa : Nat
  cmp : Nat
  word : Nat
  imm : Nat
  row : Nat
  count : Nat
  banks : Nat
  pFirst : Nat
  pCount : Nat
  qFirst : Nat
  qCount : Nat
  filled : List (Nat × Nat) := []
  deriving DecidableEq, Repr

/-- The selected arm of a resolved window fork: its descriptors issue at offsets from `base` (R110). -/
structure Arm where
  first : Nat
  count : Nat
  base : Nat
  deriving DecidableEq, Repr

/-- A message of the signal network (R390, R391): `sender` is the core index, 0xFE or 0xFF; `dest` the 24-bit operand;
`ten` the tenancy that sent it or that it concerns; `receipt` that a receipt was asked for (R396). -/
structure Msg where
  sender : Nat
  dest : Nat
  tag : Nat
  len : Nat
  reply : Bool
  payload : BitVec 512
  ten : Nat
  receipt : Bool
  ready : Nat := 0
  /-- The Beacon that a combining entry's delivery signals once it is written (R403). -/
  bcn : Option Nat := none
  deriving DecidableEq, Repr

/-- An in-flight range of the scoreboard (R246): in flight until tick `till`, or until the transfer of TAG `tag` arrives. -/
structure SbRange where
  bank : Nat
  first : Nat
  count : Nat
  write : Bool
  till : Option Nat
  tag : Nat
  deriving DecidableEq, Repr

/-- A row test in progress (R240): the next step, 1 to 6, whether the patterns matched so far, whether the row is a spare
(`row` is 576 + spare), and the tick before which a read step may not run. -/
structure RowTest where
  bank : Nat
  row : Nat
  step : Nat
  ok : Bool
  notBefore : Nat
  deriving DecidableEq, Repr

/-- A core's state. Rows are keyed bank * 1024 + row; spare k of a bank is row 576 + k. -/
structure CoreSt where
  scratch : KMap Row := []
  emptyRow : KMap Bool := []
  bad : KMap Bool := []
  /-- Rows with a single-bit error in a word, which every read corrects until the row is rewritten (R237, R239). -/
  weak : KMap Bool := []
  lastTag : KMap Nat := []
  lane0 : LaneSt := {}
  lane1 : LaneSt := {}
  /-- Softmax state keyed set * 128 + lane * 64 + row. -/
  smax : KMap Smax := []
  fork : Option Fork := none
  arms : List Arm := []
  specFaults : List (Owner × Nat) := []
  /-- Spare-row remaps (R242) and the spares that failed a test. -/
  remap : KMap Nat := []
  spareBad : KMap Bool := []
  test : Option RowTest := none
  saveReg : Row := 0#4096
  testQueue : List Nat := []
  testNext : Nat := 0
  testDue : Nat := 16777216
  outbound : List Msg := []
  inRoute : List Msg := []
  inHost : List Msg := []
  inReply : List Msg := []
  delivered : Nat := 0
  /-- Scoreboard mode (R245): ticks held so far in the segment, in-flight ranges, what issued in the last tick and acts in the next, time
  held since the last issue. -/
  sbDelta : Nat := 0
  sbRanges : List SbRange := []
  sbNext : List (Nat × Inst) := []
  sbHeld : Nat := 0
  sbDone : Nat := 0
  /-- 0 in service, 1 retired not yet in effect, 2 retired, 3 testing, 4 test passed, 5 test failed (RTE_CORE_STAT.STATE). -/
  life : Nat := 0
  returning : Bool := false
  deriving DecidableEq, Repr

/-- One input row inside the array (R141, R143): its landing tick, its elements, its two scale bytes, and where they came
from. -/
structure MatRow where
  j : Nat
  land : Nat
  data : BitVec 1024
  sx0 : Nat
  sx1 : Nat
  src : Src
  slice : Nat
  scaleSrc : Src
  member : Nat
  deriving DecidableEq, Repr

/-- One MAT.STREAM, MAT.STREAMT or GEMV.MAC of a tile operation, with everything it latched at issue (R133, R144). `gemv`
entries are taken as they come. -/
structure Member where
  owner : Owner
  opc : Nat
  cfgD : TileCfg
  cfgW : TileCfg
  weights : WReg
  gv : KMap Row := []
  gvSrc : KMap (Src × Nat) := []
  gv2 : Bool := false
  acc : Bool
  rnd : Nat
  key : BitVec 64
  ctr : BitVec 64
  stream : Nat
  pass : Nat
  lin : Nat
  count : Nat
  busy : Nat
  taken : List (Row × Src) := []
  deriving DecidableEq, Repr

/-- The operation in flight into a tile: its members, the shadow tile's word rows (keyed register * 64 + row) and how many columns
of each it has landed, the rows that entered, and its completion tick (R137, R144 to R146). -/
structure TileOp where
  core : Nat
  lane : Nat
  tile : Nat
  members : List Member
  shadow : KMap TileRow := []
  landed : KMap Nat := []
  /-- Rows landed last: row, tick, issue tick of the instance, and what the shadow held of the row before that tick. -/
  prior : List (Nat × Nat × Nat × Option (List TileRow)) := []
  entered : List MatRow := []
  complete : Nat
  aborted : Bool := false
  deriving DecidableEq, Repr

/-- What a busy instance carries from one busy tick to the next: the configurations it latched, partial output bits, rows
read so far, random stream. -/
structure Latch where
  cfgA : Option TileCfg := none
  cfgD : Option TileCfg := none
  bits : Nat := 0
  rows0 : List (List TileRow) := []
  rows1 : List (List TileRow) := []
  extra : Row := 0#4096
  key : BitVec 64 := 0#64
  ctr : BitVec 64 := 0#64
  pass : Nat := 0
  scales : List Nat := []
  sts : List Smax := []
  dead : Bool := false
  deriving DecidableEq, Repr

/-- What a CTL instance writes into a row (R96, R97). -/
inductive CtlKind where
  | time
  | rand
  | health (reading : Nat)
  deriving DecidableEq, Repr

/-- What is done when a scheduled item's tick comes. -/
inductive Act where
  /-- busy tick `j` of the instance of opcode `opc` in lane `lane` -/
  | row (opc : Nat) (i : Inst) (j lane : Nat) (l : Latch)
  /-- a row lands in scratch through the write port; `via` is 0, or 1 + direction for a Relay landing -/
  | landRow (core bank row : Nat) (data : Row) (via : Nat)
  | landCtl (bank row word : Nat) (kind : CtlKind) (lin : Nat)
  | landVbuf (lane row : Nat) (data : Row) (pair : Bool)
  | landWgt (lane ws j : Nat) (data : Row) (src : Src)
  /-- the destination of a TMOV is written as a whole, from the rows it has read -/
  | landTmov (i : Inst) (lane : Nat) (l : Latch)
  /-- a whole tile lands under the configuration its instance latched -/
  | landTile (lane tile : Nat) (cfg : TileCfg) (rows : List (List TileRow))
  /-- softmax states land, by lane * 64 + row -/
  | landSmax (set : Nat) (sts : List (Nat × Smax))
  | landMat (lane tile : Nat) (r : MatRow)
  | landGemv (lane tile member : Nat)
  | tzero (lane tile : Nat) (exact : Bool)
  | beacon (bcn : Nat) (set : Bool) (value : BitVec 32)
  | confLand (dest opd : Nat) (j : Nat)
  | fault (code router port : Nat)
  | exactFault
  | noop
  deriving DecidableEq, Repr

/-- A scheduled item: a landing (`land`), done first in its tick, or a busy tick's action. -/
structure Item where
  due : Nat
  land : Bool
  owner : Owner
  act : Act
  deriving DecidableEq, Repr

/-- An occupied unit: busy at ticks `start + k * step`, k < count (R36, R85). -/
structure Busy where
  core : Nat
  unit : Nat
  lane : Nat
  start : Nat
  step : Nat
  count : Nat
  tag : Nat
  deriving DecidableEq, Repr

/-- One use of a port in a tick. `port` codes the port: see Operands. -/
structure PortUse where
  tick : Nat
  port : Nat
  owner : Owner
  deriving DecidableEq, Repr

/-- Where a row landed in the current tick: cells of a core's scratch, its save register, a vector-buffer row, a weight row. -/
inductive LandPlace where
  | cells (key : Nat)
  | saved
  | vbuf (lane row : Nat)
  | weights (lane ws j : Nat)
  deriving DecidableEq, Repr

/-- What a landing of the current tick replaced: should a fault in this tick stop its occurrence, it has not landed (R38). `key`,
`empty`, `bad` and `tag` are the marks of a scratch row. -/
structure Undo where
  owner : Owner
  core : Nat
  place : LandPlace
  row : Row
  src : Src := .kept
  key : Nat := 0
  empty : Bool := false
  bad : Bool := false
  tag : Nat := 0
  deriving DecidableEq, Repr

/-- Which variable-latency path a transfer takes (R48). -/
inductive Path where
  | memory
  | host
  | waymark (convoy blockNo : Nat) (inst : Nat)
  | gather
  | peer
  deriving DecidableEq, Repr

/-- One destination row of a variable-latency read: its two arrival marks, their controller marks, its due tick, and the
rank of the row in its instance (R49, R222). `addr` is the byte address of the row in its space. -/
structure Xfer where
  owner : Owner
  path : Path
  j : Nat
  bank : Nat
  row : Nat
  due : Nat
  addr : Nat
  data : Row := 0#4096
  got0 : Bool := false
  got1 : Bool := false
  late : Nat := 0
  lin : Nat := 0
  relaxed : Bool := false
  checked : Bool := false
  dropped : Bool := false
  deriving DecidableEq, Repr

/-- A half-row on its way into its core's fill port: the row half it belongs to, its 256 bytes, its controller's mark (1 re-send, 2
refresh, 0 other), the router port it comes from in the order of R273 (0 local, 1 north, 2 south, 3 west, 4 east), its fill-plane delay, what
it is (0 memory, 2 host, 3 Waymark), the Waymark block it belongs to and whether it is the block's last, the ticks before it reaches the
router, and whether it has reached it in an earlier tick (R273, R275, R444). -/
structure FillHalf where
  core : Nat
  bank : Nat
  row : Nat
  half : Nat
  data : Nat
  late : Nat := 0
  from_ : Nat := 0
  delay : Nat := 0
  what : Nat := 0
  blk : Option (Nat × Nat × Nat) := none
  last : Bool := false
  wait : Nat := 0
  old : Bool := false
  deriving DecidableEq, Repr

/-- What a store writes when it is accepted. -/
inductive StoreTo where
  | memory (addr : Nat)
  | host (addr : Nat)
  | waymark (convoy blockNo half : Nat) (inst : Nat)
  | slot (slot word : Nat) (add : Bool)
  deriving DecidableEq, Repr

/-- One stored row (or one scattered word) whose acknowledgement is due (R51, R306). -/
structure Store where
  owner : Owner
  j : Nat
  due : Nat
  sink : StoreTo
  data : Row
  acked : Bool := false
  checked : Bool := false
  deriving DecidableEq, Repr

/-- Rows contributed to a Confluence row (R262): destination operand, row rank, landing tick, source core, data. -/
structure Contrib where
  opd : Nat
  j : Nat
  land : Nat
  source : Nat
  fmt : Nat
  entry : BitVec 128
  data : Row
  deriving DecidableEq, Repr

/-- Causes of a hold request, as the Lantern ECLIPSE record numbers them (R561), and the condition that clears each. -/
inductive HoldWhy where
  | rows (core tag : Nat)
  | acks (core tag : Nat)
  | slip
  | variance (tag lin : Nat)
  | mirror
  deriving DecidableEq, Repr

/-- A hold request raised at `d`, taking effect at `h` (R54). -/
structure Hold where
  d : Nat
  h : Nat
  cause : Nat
  why : HoldWhy
  ms : Nat := 0
  deriving DecidableEq, Repr

/-- Where the run stands. -/
inductive Phase where
  | idle
  | segment
  | boundary
  | gate
  | relaunch
  deriving DecidableEq, Repr

/-- Why a segment is ending: as the Lantern SEG_END record numbers it (R561); whether a fault has been met on the way;
the code of the fault that stopped it. -/
structure Stopping where
  t : Nat
  at_ : Nat
  why : Nat
  fault : Bool := false
  code : Nat := 0
  deriving DecidableEq, Repr

/-- A preempted, suspended or restored run that START or RETRY resumes (R71, R76, R417). -/
inductive Resume where
  | none
  | atTick
  | atBoundary
  | atGate
  deriving DecidableEq, Repr

/-- The run: segment, pass, tick, holds, freeze, and everything in flight. -/
structure RunSt where
  phase : Phase := .idle
  tick : Nat := 0
  /-- The continuous tick count of the islands (R320). -/
  cont : Nat := 0
  /-- Pass number of the segment, and the passes left after this one (R43). -/
  passNo : Nat := 0
  repeatsLeft : Nat := 0
  /-- The tick at which this tick's instances have been handed out. -/
  issued : Bool := false
  holds : List Hold := []
  eclipse : Bool := false
  eclipseSince : Nat := 0
  /-- Since when the suspension lasts, and the Milestone time that earlier suspensions of this Eclipse took (R74). -/
  suspendSince : Nat := 0
  suspendedNs : Nat := 0
  eclipseHolds : List Hold := []
  stopping : Option Stopping := none
  exitAt : Option Nat := none
  ended : Nat := 0
  preempt : Bool := false
  resume : Resume := .none
  /-- A START whose segment waits until the Mirror's arming settles (R373). -/
  startWait : Bool := false
  prologue : Nat := 0
  /-- The tile operations in flight have been aborted: a restart prologue is due (R75, R76). -/
  aborted : Bool := false
  /-- The non-scheduled requests of the current tick have been handed out (R226). -/
  asked : Bool := false
  /-- The CTL.PPOINTs of the current tick, checked at its end (R72). -/
  ppoints : List Owner := []
  frozen : Bool := false
  freezeAt : Option Nat := none
  freezeMark : Option (BitVec 32) := none
  sched : List Item := []
  busy : List Busy := []
  ports : List PortUse := []
  ops : List TileOp := []
  xfers : List Xfer := []
  stores : List Store := []
  contribs : List Contrib := []
  /-- Rows that landed from the chain in this tick: core, direction they travelled, row (R268). -/
  relayIn : List (Nat × Nat × Row) := []
  /-- What the landings of this tick replaced, the latest first. -/
  undo : List Undo := []
  /-- Random keys and counters latched at the pass: slot, key, counter (R179). -/
  keys : List (Nat × BitVec 64 × BitVec 64) := []
  deriving DecidableEq, Repr

/-- One core's program (R114): descriptors, loop nests, stream table, mesh route table, scoreboard bits. -/
structure Prog where
  core : Nat
  descs : List (BitVec 256)
  loops : List (BitVec 512)
  streams : List (BitVec 128)
  mesh : List (BitVec 128)
  sb : BitVec 256
  deriving DecidableEq, Repr

/-- The loaded Route (R111 to R115). `reach` holds, per core and stream handle, the least and greatest element offsets that
the placement reaches (R92). -/
structure RouteSt where
  loaded : Bool := false
  tenancy : Nat := 0
  placement : Nat := 0
  envelope : Bool := false
  exact : Bool := false
  latid : Nat := 0
  maxOpp : Nat := 0
  relayPad : Nat := 6
  segs : List (BitVec 256) := []
  progs : List Prog := []
  credits : List (BitVec 32) := []
  reach : List (Nat × Nat × Nat × Nat) := []
  measure : BitVec 384 := 0#384
  /-- Host rewrites of stream-table words waiting for a boundary: core, handle, stride?, value (R91). -/
  rewrites : List (Nat × Nat × Bool × BitVec 64) := []
  /-- Cores that returned to service after the Route was loaded: it does not use them (R31, R126). -/
  away : List Nat := []
  deriving DecidableEq, Repr

/-- A load in progress (R120). -/
structure LoadReq where
  tenancy : Nat
  addr : Nat
  len : Nat
  deriving DecidableEq, Repr

/-! ### Beacons, sessions, tenancies -/

/-- A registered host wait (R387): wait register, tenancy, latched Beacon, mode, target, watchdog bit, vector, tag, and the
Milestone time it has waited (R388). -/
structure HWait where
  n : Nat
  ten : Nat
  bcn : Nat
  take : Bool
  target : BitVec 32
  wd : Bool
  vector : Nat
  tag : Nat
  waited : Nat
  deriving DecidableEq, Repr

/-- The segment gate's registration (R386). -/
structure GateWait where
  bcn : Nat
  take : Bool
  target : BitVec 32
  seg : Nat
  waited : Nat
  released : Bool := false
  deriving DecidableEq, Repr

/-- What a command of a tenancy that is not resident asked for; it is carried out once the tenancy is resident (R412; DEDUCED,
notes/assumptions/22.md). -/
inductive AfterSwitch where
  | load (addr len : Nat)
  | start
  | message (m : Msg)
  deriving DecidableEq, Repr

/-- A host change of a slot that waits for a boundary (R410). -/
inductive SlotOp where
  | bind (t slot : Nat)
  | unbind (t slot : Nat)
  | write (t slot word : Nat) (value : BitVec 32)
  deriving DecidableEq, Repr

/-- An applied tenancy configuration (R411): Beacons in units of 64, regions as byte base and length. -/
structure Ten where
  enable : Bool := false
  port : Nat := 0
  prio : Nat := 0
  bcnBase : Nat := 0
  bcnCount : Nat := 0
  regions : List (Nat × Nat) := []
  save : Nat := 0
  deriving DecidableEq, Repr

/-- A record waiting for room in a host ring (R399, R400): tenancy, kind, tag word, sender, payload bytes, reply class, and
the Route credit it holds: sending core. -/
structure RingRec where
  ten : Nat
  kind : Nat
  head : Nat
  sender : Nat
  payload : List Byte
  reply : Bool
  credit : Option Nat
  bcn : Option Nat := none
  deriving DecidableEq, Repr

/-- A saved context (R415); its layout in memory is private to the stepping (R416), so its contents are held here. -/
structure Ctx where
  rt : RouteSt
  cores : List (Nat × CoreSt)
  run : RunSt
  regs : List (Nat × Nat)
  deriving DecidableEq, Repr

/-- A combining entry: the configuration in force (R403) and the contributions of the current round (R401). -/
structure Comb where
  valid : Bool := false
  owner : Nat := 0
  fmt : Nat := 0
  elems : Nat := 0
  expect : Nat := 0
  target : Nat := 0
  row : Nat := 0
  bcnEn : Bool := false
  beacon : Nat := 0
  got : List (BitVec 512) := []
  deriving DecidableEq, Repr

/-! ### Traffic to the outside -/

/-- What the block sends out, in the order sent. -/
inductive Output where
  | msix (view vector : Nat)
  | hostWrite (view : Nat) (addr : Nat) (bytes : List Byte)
  | reply (bytes : List Byte)
  /-- an Ethernet frame on a sub-port of a port, from its destination address on (R450) -/
  | frame (port sub : Nat) (bytes : List Byte)
  | uart (line : List Byte)
  | uartFault (code core lane tag segment tick : Nat)
  | smbus (bytes : List Byte)
  | nack
  | pin (name : Nat) (high : Bool)
  | cxl (view what addr : Nat)
  | tap (bits : List Bool)
  /-- a reply line of Phimon: 0 for ok, else the err number, and the values it shows; its wording is open (R567, R569) -/
  | phimon (err : Nat) (vals : List Nat)
  /-- a status line of the boot ROM (R527); its wording is open -/
  | bootLine (step code : Nat)
  /-- the answer to a configuration request of a view: retry status, or completion with a value (R500) -/
  | config (view : Nat) (retry : Bool) (value : Nat)
  /-- a DOE response of a view (R519) -/
  | doe (view : Nat) (bytes : List Byte)
  deriving DecidableEq, Repr

/-- A Lantern record (R560). -/
structure LtnRec where
  milestone : Nat
  tick : Nat
  segment : Nat
  core : Nat
  lane : Nat
  type : Nat
  tag : Nat
  ten : Nat
  payload : Option Row
  lost : Bool
  data : Nat
  deriving DecidableEq, Repr

/-! ### Device memory and Waymark -/

/-- An interleave-map entry in force (R280): BASE and SIZE in 2 MiB units, granule in bytes, channel group, part of each
channel in 32 MiB units, shadow slots. The reset entry is that of R284. -/
structure Imap where
  base : Nat := 0
  size : Nat := 290304
  gran : Nat := 2048
  first : Nat := 0
  count : Nat := 96
  chOff : Nat := 0
  shadow : Nat := 0
  deriving DecidableEq, Repr

/-- The refresh planner of a channel: planned refreshes so far, which run through its 16 banks in rotation, and the unplanned refreshes
that wait for a command slot, each with its bank and the number of the bank's planned refreshes when it became due (R296 to R298). -/
structure Refresh where
  count : Nat := 0
  waiting : List (Nat × Nat) := []
  deriving DecidableEq, Repr

/-- A row of a send instance that has reached its port (R441, R443). -/
structure TxRow where
  convoy : Nat
  inst : Nat
  j : Nat
  data : Row
  deriving DecidableEq, Repr

/-- A block in a transmit store: when it was last transmitted, how often it was re-sent, and whether a re-send is due. -/
structure TxBlk where
  convoy : Nat
  inst : Nat
  blk : Nat
  ten : Nat
  owner : Owner
  data : BitVec 32768
  sent : Option Nat := none
  resends : Nat := 0
  again : Bool := false
  deriving DecidableEq, Repr

/-- A send instance: its blocks in all, those transmitted and acknowledged, the re-paced spacing of R457, its SIGNAL. -/
structure TxInst where
  convoy : Nat
  inst : Nat
  blocks : Nat
  owner : Owner
  sentCount : Nat := 0
  acked : List Nat := []
  slotAt : Nat := 0
  pace90 : Bool := false
  sigSent : Bool := false
  deriving DecidableEq, Repr

/-- A block in a receive store (R444). -/
structure RxBlk where
  convoy : Nat
  inst : Nat
  blk : Nat
  data : BitVec 32768
  deriving DecidableEq, Repr

/-- A receive instance: where it is posted, the blocks received with their stamps, those written into rows, and what its
ACKs and its SIGNAL need (R444, R447, R454, R457, R460). -/
structure RxInst where
  convoy : Nat
  inst : Nat
  posted : Option Owner := none
  got : List (Nat × Nat) := []
  written : List Nat := []
  echo : Bool := false
  lastAck : Option Nat := none
  ended : Bool := false
  closed : Bool := false
  signal : Option (Nat × BitVec 32) := none
  deriving DecidableEq, Repr

/-! ### Mirror (R370 to R377) -/

/-- An observed event. -/
structure Seen where
  tick : Nat
  core : Nat
  kind : Nat
  lane : Nat
  loc : Nat
  data : List Byte
  deriving DecidableEq, Repr

/-- One side of an interval: pass, interval, digest, and the folds of the cores. -/
structure MirDigest where
  pass : Nat
  interval : Nat
  digest : BitVec 384
  folds : List (BitVec 64)
  deriving DecidableEq, Repr

/-- What a received arm frame says (R373). -/
structure ArmInfo where
  measure : BitVec 384
  dsig : Nat
  latid : Nat
  placement : Nat
  role : Nat
  coreMap : BitVec 256
  deriving DecidableEq, Repr

/-- A MIRROR frame that has been sent: its instance, payload, when it was last sent, how often again. -/
structure MirOut where
  inst : Nat
  payload : List Byte
  sent : Nat
  resends : Nat := 0
  deriving DecidableEq, Repr

/-- The Mirror: MIR_CTL as the START that armed it took it, the arming in progress, the pass and interval, both sides'
intervals not yet compared, the variance bytes received (secondary), and the trace. -/
structure MirrorSt where
  on : Bool := false
  secondary : Bool := false
  stop : Bool := false
  window : Bool := false
  mode : Nat := 0
  k : Nat := 16
  port : Nat := 0
  traceCore : Nat := 0
  arming : Option Nat := none
  /-- The peer's arm frame that came before the own START. -/
  peerArm : Option ArmInfo := none
  pass : Nat := 0
  interval : Nat := 0
  own : List MirDigest := []
  peer : List MirDigest := []
  variance : List (Nat × Nat × List Byte) := []
  trace : List (BitVec 128) := []
  /-- MIRROR frames that the peer has not acknowledged (R455, R462). -/
  unacked : List MirOut := []
  /-- Instances of the peer's MIRROR frames that have come (R456). -/
  got : List Nat := []
  deriving DecidableEq, Repr

/-! ### Step shadows and Cairns (R466 to R488) -/

/-- An open step: its tenancy, its step regions in list order, its DONE_EN Beacon, the blocks already copied, and whether
the whole copy is done (R468). -/
structure StepOpen where
  ten : Nat
  addrs : List Nat
  done : Option Nat
  copied : Nat := 0
  complete : Bool := false
  deriving DecidableEq, Repr

/-- A fill: into the store or into own state, STEP_MATCH, whether it runs from the alternate (R486, R487), and the blocks that its
convoy has brought, by their place in the Cairn (R485). -/
structure FillReq where
  store : Bool
  stepMatch : Bool
  alt : Bool := false
  blks : List (Nat × BitVec 32768) := []
  deriving DecidableEq, Repr

/-- A Cairn block that is sent and not acknowledged: its place in the Cairn, when it was last sent, whether it is to be re-sent
(R455, R485). -/
structure CairnBlk where
  idx : Nat
  sent : Nat
  again : Bool := false
  deriving DecidableEq, Repr

/-- A serve: source, whether it still waits for its convoy, (NEXT) the header it sends, the bytes sent over its convoy, the blocks
that are not acknowledged, and the time from which RATE_PCT admits a further frame (R483, R485). -/
structure ServeReq where
  src : Nat
  wait : Bool
  hdr : List Byte := []
  bytes : List Byte := []
  flying : List CairnBlk := []
  nextAt : Nat := 0
  deriving DecidableEq, Repr

/-- The Cairn engine. `held` is the committed step whose slots a serve from NEXT still holds; `waitCopy` says that an open
step's copy waits for that serve; `swap` that a filled store half waits for a serve from STORE (R484, R486). -/
structure CairnSt where
  step : Option StepOpen := none
  slotBad : List Nat := []
  fill : Option FillReq := none
  queued : Option FillReq := none
  serve : Option ServeReq := none
  held : Option StepOpen := none
  waitCopy : Bool := false
  swap : Bool := false
  deriving DecidableEq, Repr

/-! ### Clocks, power, the module -/

/-- Clock islands and power (R323 to R347): warnings not yet served, windows of own stretches per island (the most recent
4,096), islands above the STRETCH_HIGH threshold, the last window repaid by a shadow stretch, the armed change of operating
point (target, count) and the continuous tick of its switch, the stretches each island has taken, the level of the core rail, and
since when the device has been idle, hot, cool, at throttle level 7; packages that report beyond the ×4 range; DRAM in self refresh. -/
structure PwrSt where
  warned : KMap Bool := []
  wins : KMap (List Nat) := []
  above : KMap Bool := []
  shadowed : Nat := 0
  opp : Option (Nat × Nat) := none
  oppTick : Option Nat := none
  stretches : KMap Nat := []
  rail : Nat := 4
  idleSince : Option Nat := none
  hotSince : Option Nat := none
  coolSince : Option Nat := none
  fullSince : Option Nat := none
  mr4Over : List Nat := []
  selfRefresh : Bool := true
  deriving DecidableEq, Repr

/-- Event counts of one millisecond that feed the risk score (R479): memory re-reads, Waymark blocks re-sent or late, 16-tick windows
and those in which an island took an own stretch, core-rail droop events. -/
structure HealthMs where
  rereads : Nat := 0
  blocks : Nat := 0
  windows : Nat := 0
  stretched : KMap Nat := []
  droops : Nat := 0
  deriving DecidableEq, Repr

/-- The device's own event counts for the risk score (R479): the millisecond in progress, and those before it, the latest first, at most
1,000. -/
structure HealthSt where
  cur : HealthMs := {}
  past : List HealthMs := []
  deriving DecidableEq, Repr

/-- Boundary scan (R587): the instruction register and what was last shifted into the boundary register. -/
structure TapSt where
  ir : BitVec 8 := 0#8
  fresh : Bool := true
  cells : List Bool := []
  deriving DecidableEq, Repr

/-- The module (R573 to R590): input on, sequencer rails in regulation (in the order of R578), DRAM rails up, PERST# asserted,
firmware running, configuration requests answered, DRAM trained, die sensors sampled, THERMAL_TRIP and POWER_LIMIT since
power-on, the UART rate. -/
structure ModSt where
  input : Bool := true
  rails : List Nat := [0, 1, 2, 3, 4, 5]
  dramRails : Bool := false
  perst : Bool := true
  fw : Bool := false
  ready : Bool := false
  trained : Bool := false
  sampled : Bool := false
  tripped : Bool := false
  limited : Bool := false
  alert : Bool := false
  baud : Nat := 115200
  tap : TapSt := {}
  deriving DecidableEq, Repr

/-- A certificate (R524, R539, R540): the public key that it certifies, the serial number in its subject, its extension, and its
signature. -/
structure Cert where
  key : List Byte := []
  serial : Nat := 0
  ext : List Byte := []
  sig : List Byte := []
  deriving DecidableEq, Repr

/-- Security (R525 to R545): the fuses as last sensed, the firmware digest (measurement 1) and key slot of the running image,
the challenge in force (mask, key, Milestone count), the key of the last authorisation, the fuse bits being blown, the image
being programmed and whether it was pushed in recovery, the flash image (what it held before the model's first step is free),
whether programming was cut off, the staging window, the identity certificate that the flash holds outside the image, and the alias
certificate of the running firmware. -/
structure SecSt where
  sensed : BitVec 4096 := 0#4096
  m1 : BitVec 384 := 0#384
  slot : Nat := 0
  chal : Option (Nat × Nat × Nat) := none
  lastKey : Nat := 0
  fuseJob : Option (BitVec 4096) := none
  flashJob : Option (List Byte × Bool) := none
  flash : KMap (Option Byte) := []
  flashBroken : Bool := false
  staging : KMap Byte := []
  idCert : Cert := {}
  aliasCert : Option Cert := none
  deriving DecidableEq, Repr

/-- The Milestone counter's time base (R425 to R435): whether the module has locked since power-on, sync intervals in a row with
the offset over its limit, the Milestone counts of the last sync message and of the last PPS pulse counted, the last second in
which PPS_OUT rose, and the count of the armed launch, all ones where none is armed. -/
structure TimSt where
  everLocked : Bool := false
  above : Nat := 0
  lastPps : Nat := 0
  lastSecond : Nat := 0
  armedAt : Nat := 0xFFFFFFFFFFFFFFFF
  deriving DecidableEq, Repr

/-- The module but for its fuses and its device memory. -/
structure Dev where
  /-- Every register field, by `Fld.key`; an unlisted field reads its reset value. -/
  regs : KMap Nat := []
  /-- Event bits that the device has set in the current tick (R12). -/
  justSet : List Nat := []
  /-- Cores by core index. -/
  cores : KMap CoreSt := []
  /-- Entries held by the slip buffer of each island crossing, keyed router * 8 + port; an unlisted one holds 4 (R270). -/
  slip : KMap Nat := []
  /-- Half-rows that wait for the fill eject of their core, and the cores whose fill eject is used in the present tick (R218, R251,
  R273, R275). -/
  fillq : List FillHalf := []
  fillUsed : List Nat := []
  rt : RouteSt := {}
  load : Option LoadReq := none
  /-- The tenancy in whose copy the held RTE record's event was set (R123, R593). -/
  recTen : Nat := 0
  /-- The placement that the loader examined last (RTE_FAULT_AUX.PLACEMENT, R121). -/
  lastPlace : Nat := 0
  run : RunSt := {}
  beacons : KMap (BitVec 32) := []
  /-- SIG_KIND * 2^14 + SIG_ID of the last signaller (R381). -/
  bcnSig : KMap Nat := []
  hwaits : List HWait := []
  gate : Option GateWait := none
  /-- Slot words keyed slot * 32 + word (R404). -/
  slots : KMap (BitVec 32) := []
  slotOps : List SlotOp := []
  tens : KMap Ten := []
  resident : Option Nat := none
  switchReqs : List Nat := []
  /-- What waits for a tenancy to become resident, and tenancies owed a completion record for SWITCH (R400, R412). -/
  afterSwitch : List (Nat × AfterSwitch) := []
  switchOwed : List Nat := []
  contexts : List (Nat × Ctx) := []
  /-- Combining contributions of the current round, keyed by entry (R401). -/
  comb : KMap Comb := []
  mgmtQueue : List Msg := []
  hostMsgs : List Msg := []
  ringQueue : List RingRec := []
  /-- Credits in use: sender, destination core or 0xFF, count (R394). -/
  credits : List (Nat × Nat × Nat) := []
  repliesOwed : KMap Nat := []
  ltn : List LtnRec := []
  ltnLost : Bool := false
  out : List Output := []
  /-- Position in the streams of free values (DESIGN CHOICE, notes/assumptions/2.md). -/
  fresh : Nat := 0
  /-- MSI-X mask and pending bits, keyed view * 64 + vector (R518). -/
  msixMask : KMap Bool := []
  msixPend : KMap Bool := []
  linkUp : Bool := true
  /-- What waits in the management island until the host link returns (R553). -/
  linkWait : List Output := []
  /-- The value of WPT_CTL in force (R368): enable, stop, mask. -/
  wptOn : Bool := false
  wptStop : Bool := false
  wptMask : Nat := 15
  /-- The interleave map in force (R284, R285). -/
  imap : List Imap := [{}]
  /-- Channel retirements and rejoins that wait for a boundary (R314, R316). -/
  chRetire : List Nat := []
  chRejoin : List Nat := []
  /-- Blocks that fail their check until they are rewritten whole (R294, R295), by block of the channel's data space. -/
  badBlk : KMap Bool := []
  /-- The check blocks as DRAM holds them, by word of the physical address (channel * 2^33 + byte address) / 4, and the check buffer of
  each channel: its groups, most recently used first, with their check words (R286, R288). A word is held as its exclusive or with the
  word that a group of zero blocks has, so that an unlisted one checks zero blocks. -/
  checks : KMap (BitVec 32) := []
  ckBuf : KMap (List (Nat × KMap (BitVec 32))) := []
  /-- MEM_ERR_REC holds an event (R319). -/
  memHeld : Bool := false
  /-- Refresh planner of each channel (R296 to R298). -/
  refresh : KMap Refresh := []
  /-- The block whose persistent failure has been counted for the host access that comes next (DESIGN CHOICE,
  notes/assumptions/39.md). -/
  failMet : Option Nat := none
  digestJob : Option (Nat × Nat) := none
  /-- Blocks that the job in progress has hashed. -/
  digestAt : Nat := 0
  /-- The flash retirement record: cores, channels; and the spare-row remaps it holds: core, row key, spare + 1. -/
  flashCores : List Nat := []
  flashChans : List Nat := []
  flashRemaps : List (Nat × Nat × Nat) := []
  /-- Consecutive polls in which a package gave no MR4 reading (R556). -/
  mr4Missed : KMap Nat := []
  /-- Waymark: instances issued per convoy since E (R438), rows and blocks in the stores, open instances, convoys sending
  JOIN, and the Milestone counts at which a peer was last heard and last sent to. -/
  wmkIssued : KMap Nat := []
  txRows : List TxRow := []
  txBlks : List TxBlk := []
  txInsts : List TxInst := []
  rxBlks : List RxBlk := []
  rxInsts : List RxInst := []
  joining : List Nat := []
  heard : KMap Nat := []
  said : KMap Nat := []
  /-- ATS caches: view, page; translations asked for and those that failed: view, page, write, error (R510, R515). -/
  ats : List (Nat × Nat) := []
  xlatPend : List (Nat × Nat × Bool) := []
  xlatFail : List (Nat × Nat × Bool × Bool) := []
  /-- Views whose HDM decoder 0 has committed (R503), and host-held lines with their views, oldest first (R506, R508). -/
  hdm : KMap Bool := []
  snoop : List (Nat × Nat) := []
  /-- Lowest open receive instance of a convoy, instances whose SIGNAL has been applied, JOINs received before the own one:
  convoy, FIRST, PERIOD, LEN, BLOCKS, DIR. -/
  rxLow : KMap Nat := []
  wmkSignalled : List (Nat × Nat) := []
  peerJoin : List (Nat × Nat × Nat × Nat × Nat × Nat) := []
  joinSent : KMap Nat := []
  /-- The network PLL is locked: NETCLK25 is within tolerance (R586). -/
  netClk : Bool := true
  /-- Events the Mirror has observed in the current interval (R370, R371). -/
  seen : List Seen := []
  mir : MirrorSt := {}
  crn : CairnSt := {}
  /-- Hottest die sensor of each island, in °C (R343), and whether its last sample was out of range (R556). -/
  dieTemp : KMap Int := []
  dieBad : KMap Bool := []
  pwr : PwrSt := {}
  events : HealthSt := {}
  mod : ModSt := {}
  sec : SecSt := {}
  tim : TimSt := {}
  /-- BAR registers keyed view * 8 + BAR, and uncommitted-decoder errors (R502, R503). -/
  bars : KMap Nat := []
  hdmErr : KMap Bool := []
  /-- Invalidate Requests not yet completed: view, page, pages (R517); translations being asked for again by RETRY (R516). -/
  inval : List (Nat × Nat × Nat) := []
  xlatRetry : List (Nat × Nat × Bool) := []
  /-- The host debug window's waiting request: write, row index (R229); Phimon's waiting row read. -/
  hdw : Option (Bool × Nat) := none
  phRow : Option Nat := none
  /-- CXL.mem accesses that wait in a thermal hold until no package reports beyond the ×4 range (R597). -/
  parked : List Instr := []
  /-- Host writes that wait for a step-open copy to begin (R309, R484). -/
  heldWrites : List Instr := []
  deriving DecidableEq, Repr

/-- The state: the fuses, the device memory, everything else, and the commands waiting, first in first out. Device memory is
keyed channel * 2^33 + physical byte address in the channel (R286). -/
structure State where
  fuses : BitVec 4096
  dram : Memory
  dev : Dev
  pending : List Instr
  deriving DecidableEq, Repr

/-! ### How a step can stop -/

/-- Why the machine stops with a fault. The spec gives the block none: a fault of R549 is a record in State, a control-space access
that reaches nothing reads 0 (R28), and a memory access that reaches nothing is answered (R283). So there is no constructor, and
no step ends in a fault (safe: a fault could only hide behaviour). -/
inductive Fault
  deriving DecidableEq, Repr

/-- Why a command has no meaning. -/
inductive Refusal where
  /-- raised by an arm of exec whose command has no meaning yet (safe: nothing is claimed of it) -/
  | notModelled (mnemonic : String)
  /-- raised by BOUNDARY_SCAN_ACCESS where it selects an IEEE 1149.1 code outside the standard while debug feature 5 enables private
  instructions, whose codes and effects the spec does not give (R534, R587) (safe: the run stops where hardware goes on) -/
  | privateTapInstruction
  deriving DecidableEq, Repr

/-! ### Reset -/

/-- The fuses of the machine after reset: a KZG7-A with every core, channel and port present (R2, R532; DESIGN CHOICE,
notes/assumptions/6.md). Key hashes, the device secret and the serial number read 0. -/
def resetFuses : BitVec 4096 :=
  BitVec.ofNat 4096 ((2 ^ 256 - 1) * 2 ^ 1928 + 0xFF * 2 ^ 2184 + 1 * 2 ^ 2196 + 1 * 2 ^ 2208 + 0x0101010101 * 2 ^ 2224 + 8 * 2 ^ 2264 +
    (2 ^ 96 - 1) * 2 ^ 2270)

/-- DEVICE_SECRET of a fuse array (R532). -/
def secretOf (fuses : Nat) : List Byte := leBytes 32 (fuses / 2 ^ 1608)

/-- The identity certificate, as it is issued at manufacture: it binds the DIK's public key to the serial number (R539). -/
def identityCert (fuses : Nat) : Cert :=
  { key := publicOf (dikOf (secretOf fuses)), serial := fuses / 2 ^ 1864 % 2 ^ 64, sig := Config.caSignature }

/-- The machine right after power-on: the rails are up, PERST# is asserted, no firmware runs, every register field at its reset
value, no host link, device memory as at power-on, no command waiting (R15, R573, R579, R581). -/
def State.reset : State :=
  { fuses := resetFuses, dram := [], dev := { linkUp := false, sec := { idCert := identityCert resetFuses.toNat } }, pending := [] }

end Sys2Proof.Machine
end

