-- ==== Sys2Proof/Machine/Ops.lean ====
section
/-! DEFINITION. The shared operations: register fields, event bits and their vectors, Lantern records, faults and stops,
access to cores and lanes. -/

namespace Sys2Proof.Machine

/-! ### Register fields -/

/-- The value of a register field as the device holds it (R10, R15). -/
def Dev.get (d : Dev) (f : Fld) : Nat := kget f.rst d.regs f.key

/-- The device sets a field. -/
def Dev.put (f : Fld) (v : Nat) (d : Dev) : Dev :=
  { d with regs := kset f.rst d.regs f.key (v % 2 ^ f.width) }

/-- A field as a flag. -/
def Dev.is (d : Dev) (f : Fld) : Bool := decide (d.get f ≠ 0)

def Dev.putB (f : Fld) (b : Bool) (d : Dev) : Dev := d.put f (if b then 1 else 0)

/-- Add to a counter that saturates at its width (R128, R565). -/
def Dev.count (f : Fld) (n : Nat) (d : Dev) : Dev := d.put f (min (d.get f + n) (2 ^ f.width - 1))

/-- Keep the larger of a peak field and a value. -/
def Dev.peak (f : Fld) (n : Nat) (d : Dev) : Dev := d.put f (min (max (d.get f) n) (2 ^ f.width - 1))

/-- An event counts for the risk score (R479). -/
def Dev.tally (f : HealthMs → HealthMs) (d : Dev) : Dev := { d with events := { d.events with cur := f d.events.cur } }

/-- A Waymark block is re-sent or comes late. -/
def HealthMs.block (h : HealthMs) : HealthMs := { h with blocks := h.blocks + 1 }

/-! ### Small helpers -/

/-- Bits hi..lo of a number. -/
def bitsOf (x lo n : Nat) : Nat := x / 2 ^ lo % 2 ^ n

/-- Bit i of a number. -/
def bitOf (x i : Nat) : Bool := x.testBit i

/-- Bits of a row: `n` bits from `lo`. -/
def rowBits (r : Row) (lo n : Nat) : Nat := bitsOf r.toNat lo n

/-- Byte i of a row (R9). -/
def rowByte (r : Row) (i : Nat) : Byte := BitVec.ofNat 8 (rowBits r (8 * i) 8)

/-- 32-bit word w of a row. -/
def rowWord (r : Row) (w : Nat) : BitVec 32 := BitVec.ofNat 32 (rowBits r (32 * w) 32)

/-- `n` bytes of `v` placed from byte `i` of a row; the other bytes stay. -/
def rowSet (r : Row) (i n v : Nat) : Row :=
  let x := r.toNat
  let lo := 8 * i
  let hi := 8 * (i + n)
  BitVec.ofNat 4096 (x / 2 ^ hi * 2 ^ hi + (v % 2 ^ (8 * n)) * 2 ^ lo + x % 2 ^ lo)

/-- A row from 32-bit words. -/
def rowOfWords (ws : List (BitVec 32)) : Row :=
  BitVec.ofNat 4096 (ws.foldr (fun w acc => w.toNat + 2 ^ 32 * acc) 0)

/-- The bytes of a row in address order. -/
def rowBytes (r : Row) : List Byte := (List.range 512).map (rowByte r)

/-- Column c of a tile row. -/
def tcol (r : TileRow) (c : Nat) : BitVec 32 := BitVec.ofNat 32 (bitsOf r.toNat (32 * c) 32)

/-- A tile row from its 64 words. -/
def tileOfCols (ws : List (BitVec 32)) : TileRow :=
  BitVec.ofNat 2048 (ws.foldr (fun w acc => w.toNat + 2 ^ 32 * acc) 0)

/-- First element that satisfies `p`, replaced by `f` of it. -/
def updFirst {α : Type} (p : α → Bool) (f : α → α) : List α → List α
  | [] => []
  | a :: l => if p a then f a :: l else a :: updFirst p f l

/-- Lexicographic order of equally long rank lists. -/
def rankLt : List Nat → List Nat → Bool
  | a :: as, b :: bs => decide (a < b) || (decide (a = b) && rankLt as bs)
  | _, _ => false

/-! ### Cores and lanes -/

/-- A core's state. -/
def Dev.core (d : Dev) (c : Nat) : CoreSt := kget {} d.cores c

def Dev.setCore (c : Nat) (k : CoreSt) (d : Dev) : Dev := { d with cores := kset {} d.cores c k }

def Dev.onCore (c : Nat) (f : CoreSt → CoreSt) (d : Dev) : Dev := d.setCore c (f (d.core c))

/-- Lane 0 or 1 of a core. -/
def CoreSt.lane (k : CoreSt) (l : Nat) : LaneSt := if l = 0 then k.lane0 else k.lane1

def CoreSt.setLane (l : Nat) (x : LaneSt) (k : CoreSt) : CoreSt :=
  if l = 0 then { k with lane0 := x } else { k with lane1 := x }

def Dev.lane (d : Dev) (c l : Nat) : LaneSt := (d.core c).lane l

def Dev.onLane (c l : Nat) (f : LaneSt → LaneSt) (d : Dev) : Dev :=
  d.onCore c fun k => k.setLane l (f (k.lane l))

def Dev.onRun (f : RunSt → RunSt) (d : Dev) : Dev := { d with run := f d.run }

/-- The lane indices a LANE field selects (R82): 0b11 is one occurrence in each lane. -/
def laneList (lane : Nat) : List Nat :=
  if lane = 1 then [0] else if lane = 2 then [1] else if lane = 3 then [0, 1] else []

/-- GLB_CORE_MAP bit of a core (R29). -/
def Dev.inService (d : Dev) (c : Nat) : Bool := bitOf (d.get (Reg.GLB_CORE_MAP.IN_SERVICE (c / 64))) (c % 64)

/-- The loaded Route may use a core: its retirement has not taken effect, and it has not returned since the load; otherwise the core is a
pass-through stage (R31, R45, R124, R126). -/
def Dev.inRoute (d : Dev) (c : Nat) : Bool := decide ((d.core c).life ≤ 1) && !d.rt.away.contains c

/-- Compute island of a core (R20, R21). -/
def islandOf (c : Nat) : Nat := 4 * (c / 16 / 4) + c % 16 / 4

/-! ### Messages to the host: vectors -/

def Dev.emit (o : Output) (d : Dev) : Dev := { d with out := d.out ++ [o] }

/-- The host view of a tenancy: the binding its configuration names (R498). -/
def Dev.viewOf (d : Dev) (t : Nat) : Nat := (kget {} d.tens t).port

/-- Send an MSI-X vector (R518): a masked vector sets its pending bit; while the link is down the message waits (R553). -/
def Dev.msix (view vec : Nat) (d : Dev) : Dev :=
  if kget true d.msixMask (view * 64 + vec) then { d with msixPend := kset false d.msixPend (view * 64 + vec) true }
  else if d.linkUp then d.emit (.msix view vec)
  else { d with linkWait := d.linkWait ++ [.msix view vec] }

/-- The view whose event vector an event bit sends (R518, R593): the tenancy's copy for RTE_EVENT and SES_EVENT, binding 0
for every other block. -/
def Dev.eventView (d : Dev) (f : Fld) : Nat :=
  if f.off % 0x4000000 = 0x30014 ∨ f.off % 0x4000000 = 0x70004 then d.viewOf (f.off / 0x4000000) else 0

/-- The device has set the bit in the current tick (R12). -/
def Dev.noteSet (f : Fld) (d : Dev) : Dev := if d.justSet.contains f.key then d else { d with justSet := f.key :: d.justSet }

/-- The device sets an RW1C event bit; its vector is sent only on a change from 0 to 1 (R10, R12, R518). -/
def Dev.event (f : Fld) (d : Dev) : Dev :=
  if d.is f then d.noteSet f
  else
    let v := d.eventView f
    ((d.put f 1).noteSet f).msix v (d.get (Reg.HP_EVT_VEC.EVT v))

/-- The device sets a status bit that is cleared by writing 1 and sends no vector (R12, R518). -/
def Dev.setBit (f : Fld) (d : Dev) : Dev := (d.put f 1).noteSet f

/-! ### Lantern (R559 to R564) -/

/-- Bytes a record takes (R560). -/
def LtnRec.size (r : LtnRec) : Nat := if r.payload.isSome then 544 else 32

/-- Bytes in the on-die buffer. -/
def ltnUsed (l : List LtnRec) : Nat := (l.map LtnRec.size).sum

/-- Milestone count. -/
def Dev.now (d : Dev) : Nat := d.get Reg.TIM_MILESTONE.COUNT

/-- Order of records of one Milestone count (R562). -/
def LtnRec.rank (r : LtnRec) : List Nat := [r.milestone, r.core, r.lane, r.type]

/-- Enter a record in the order of R562; among equals it comes last. -/
def ltnInsert (r : LtnRec) (l : List LtnRec) : List LtnRec :=
  l.takeWhile (fun x => !rankLt r.rank x.rank) ++ r :: l.dropWhile (fun x => !rankLt r.rank x.rank)

/-- Write a Lantern record if Lantern and its type are enabled; a full buffer drops it (R559, R561, R563). -/
def Dev.lantern (type core lane tag tick data : Nat) (payload : Option Row) (d : Dev) : Dev :=
  if !d.is Reg.DBG_LTN_CTL.ENABLE || !bitOf (d.get Reg.DBG_LTN_MASK.TYPES) (type - 1) then d
  else
    let r : LtnRec := { milestone := d.now, tick := tick, segment := d.get Reg.RTE_STATUS.SEGMENT, core := core, lane := lane,
                        type := type, tag := tag, ten := d.resident.getD 0, payload := payload, lost := d.ltnLost, data := data }
    if ltnUsed d.ltn + r.size > 65536 then
      { d.count Reg.DBG_LTN_LOST.COUNT 1 with ltnLost := true }
    else { d with ltn := ltnInsert r d.ltn, ltnLost := false }

/-! ### Faults and stops (R38, R122, R123, R549 to R552) -/

/-- The order of R198 that ranks occurrences within one tick. -/
def Owner.rank (o : Owner) : List Nat := [o.unit, (if o.lane = 2 then 1 else 0), o.core, o.issue, o.tag]

/-- The later of two occurrences in the order of R198. -/
def laterOf (a b : Owner) : Owner := if rankLt a.rank b.rank then b else a

/-- The last of a list in the order of R198. -/
def latest (o : Owner) (l : List Owner) : Owner := l.foldl laterOf o

/-- No occurrence: tag 0 (R552). -/
def noOwner : Owner := {}

/-- Same instance: a descriptor with LANE = 0b11 has one in each lane (R36, R82). -/
def Owner.same (a b : Owner) : Bool :=
  decide (a.core = b.core ∧ a.lane = b.lane ∧ a.tag = b.tag ∧ a.issue = b.issue ∧ a.unit = b.unit)

/-- The device is held on the hold line: an Eclipse, a suspension or a freeze. -/
def Dev.held (d : Dev) : Bool := d.run.eclipse || d.run.frozen || d.is Reg.RTE_STATUS.SUSPENDED

/-- An Eclipse or a suspension is in progress: non-scheduled accesses wait (R228); a freeze alone lets them go on (R570). -/
def Dev.atRest (d : Dev) : Bool := d.run.eclipse || d.is Reg.RTE_STATUS.SUSPENDED

/-- A segment is in progress. -/
def Dev.inSegment (d : Dev) : Bool := decide (d.run.phase = .segment)

/-- A segment or boundary is in progress (RTE_STATUS.RUNNING). -/
def Dev.running (d : Dev) : Bool := decide (d.run.phase ≠ .idle)

/-- The tick at which a fault met now stops the segment: this tick, or H while the device is held (R59, R549). -/
def Dev.faultTick (d : Dev) : Nat := if d.held then d.run.tick + 1 else d.run.tick

/-- Write the RTE fault record (R121, R551, R552). -/
def Dev.writeRecord (o : Owner) (code tick desc : Nat) (d : Dev) : Dev :=
  { d with recTen := d.rt.tenancy } |>.put Reg.RTE_FAULT_CODE.VALID 1
    |>.putB Reg.RTE_FAULT_CODE.SPEC o.ofSpec
    |>.put Reg.RTE_FAULT_CODE.LANE o.lane
    |>.put Reg.RTE_FAULT_CODE.CORE o.core
    |>.put Reg.RTE_FAULT_CODE.CODE code
    |>.put Reg.RTE_FAULT_TAG.TAG o.tag
    |>.put Reg.RTE_FAULT_TICK.TICK tick
    |>.put Reg.RTE_FAULT_AUX.SEGMENT (d.get Reg.RTE_STATUS.SEGMENT)
    |>.put Reg.RTE_FAULT_AUX.DESC desc
    |>.put Reg.RTE_FAULT_AUX.PLACEMENT d.lastPlace

/-- Rank of a recorded fault among faults of one stop tick (R551). -/
def recordRank (o : Owner) (code : Nat) : List Nat :=
  if o.tag ≠ 0 then [0, o.core, (if o.lane = 2 then 1 else 0), 0] else [1, 0, 0, code]

/-- The held RTE record as an owner. -/
def Dev.heldOwner (d : Dev) : Owner :=
  { core := d.get Reg.RTE_FAULT_CODE.CORE, lane := d.get Reg.RTE_FAULT_CODE.LANE, tag := d.get Reg.RTE_FAULT_TAG.TAG }

/-- Enter a fault in the RTE record if the record is free, or if it holds a fault of this stop with the same tick that ranks
later; every other fault is counted (R123, R551). The Lantern record says whether it is held; Phimon prints a line when it
is (R572). `fresh` says that the held record is of this stop. -/
def Dev.record (o : Owner) (code tick desc : Nat) (thisStop : Bool) (d : Dev) : Dev :=
  let valid := d.is Reg.RTE_FAULT_CODE.VALID
  let better := thisStop && (decide (tick < d.get Reg.RTE_FAULT_TICK.TICK) ||
    (decide (tick = d.get Reg.RTE_FAULT_TICK.TICK) &&
      rankLt (recordRank o code) (recordRank d.heldOwner (d.get Reg.RTE_FAULT_CODE.CODE))))
  let take := !valid || better
  let d1 := if valid then d.count Reg.DBG_LTN_FAULTS.COUNT 1 else d
  let d2 := if take then (d1.writeRecord o code tick desc).emit
      (.uartFault code o.core o.lane o.tag (d.get Reg.RTE_STATUS.SEGMENT) tick) else d1
  d2.lantern 4 (if o.tag = 0 then 0xFF else o.core) o.lane o.tag tick
    (code + (if take then 2 ^ 16 else 0) + (if o.ofSpec then 2 ^ 17 else 0)) none

/-- A fault that enters no RTE record (R549): the Lantern record, Phimon's line where a block record takes it, and
DBG_LTN_FAULTS where no record does (R551). -/
def Dev.blockFault (o : Owner) (code : Nat) (inBlock : Bool) (d : Dev) : Dev :=
  let d0 := if inBlock then d else d.count Reg.DBG_LTN_FAULTS.COUNT 1
  let d1 := d0.lantern 4 (if o.tag = 0 then 0xFF else o.core) o.lane o.tag d.run.tick (code + (if inBlock then 2 ^ 16 else 0)) none
  if inBlock then d1.emit (.uartFault code o.core o.lane o.tag (d.get Reg.RTE_STATUS.SEGMENT) d.run.tick) else d1

/-- The occurrence takes no further effect: everything of it still to come is dropped, a tile operation that is its alone too
(R38). -/
def RunSt.kill (o : Owner) (r : RunSt) : RunSt :=
  { r with sched := r.sched.filter (fun x => !x.owner.same o)
           ops := r.ops.filter (fun x => !x.members.all fun m => m.owner.same o)
           undo := r.undo.filter (fun x => !x.owner.same o)
           stores := r.stores.filter (fun x => !(x.owner.same o && !x.acked))
           xfers := r.xfers.filter (fun x => !(x.owner.same o && !(x.got0 && x.got1))) }

/-- Take a landing of this tick back. -/
def Dev.takeBack (u : Undo) (d : Dev) : Dev :=
  match u.place with
  | .vbuf l v => d.onLane u.core l fun x => { x with vbuf := kset 0#4096 x.vbuf v u.row, vbufTag := kset 0 x.vbufTag v u.tag }
  | .weights l ws j => d.onLane u.core l fun x =>
      let f (w : WReg) : WReg := { w with rows := kset 0#4096 w.rows j u.row, srcs := kset .kept w.srcs j u.src }
      if ws = 0 then { x with ws0 := f x.ws0 } else { x with ws1 := f x.ws1 }
  | p => d.onCore u.core fun k =>
      let k1 := { k with emptyRow := kset false k.emptyRow u.key u.empty, bad := kset false k.bad u.key u.bad,
                         lastTag := kset 0 k.lastTag u.key u.tag }
      match p with
      | .cells c => { k1 with scratch := kset 0#4096 k1.scratch c u.row }
      | _ => { k1 with saveReg := u.row }

/-- Stop an occurrence at the current tick: nothing of it lands in this tick or later (R38). -/
def Dev.kill (o : Owner) (d : Dev) : Dev :=
  ((d.run.undo.filter fun u => u.owner.same o).foldl (fun d u => d.takeBack u) d).onRun (RunSt.kill o)

/-- Carry a stop at tick `t` on the hold line: every island halts before tick t + 24, or at once at H while the device is held
(R38, R59). An earlier stop stands. `why` is 2 for a fault, 3 for a STOP; `code`
is the fault's, 0 for a STOP. -/
def Dev.stopAt (t why code : Nat) (d : Dev) : Dev :=
  if !d.running then d
  else
    let s : Stopping := { t := t, at_ := if d.held then t else t + 24, why := why, fault := why == 2, code := code }
    match d.run.stopping with
    | some o =>
      let s1 : Stopping := if o.t ≤ t then o else s
      d.onRun fun r => { r with stopping := some { s1 with at_ := min o.at_ s.at_, fault := o.fault || s.fault } }
    | none => d.onRun fun r => { r with stopping := some s }

/-- A stop halts every island before the next tick (R38, R59). -/
def Dev.stopDue (d : Dev) : Bool := d.run.stopping.any fun s => decide (s.at_ ≤ d.run.tick + 1)

/-- Raise a fault that stops the segment at tick `t` (R38). RTE_EVENT.FAULT sets when the segment has stopped. -/
def Dev.faultAt (o : Owner) (code t : Nat) (d : Dev) : Dev :=
  let d1 := d.record o code t 0 d.run.stopping.isSome
  ((if d.running then d1 else d1.event (Reg.RTE_EVENT.FAULT d.rt.tenancy)).stopAt t 2 code).kill o

/-- The fault of an occurrence at the current tick; one of a SPEC descriptor is held until R (R68). -/
def Dev.raise (o : Owner) (code : Nat) (d : Dev) : Dev :=
  if o.spec && (d.core o.core).fork.isSome then
    (d.onCore o.core fun k => { k with specFaults := k.specFaults ++ [(o, code)] }).kill o
  else d.faultAt o code d.faultTick

/-- A fault that reaches the management island now (R549, Arrival); one of a SPEC descriptor is held until R (R68). -/
def Dev.raiseArrival (o : Owner) (code : Nat) (d : Dev) : Dev :=
  if d.running && o.spec && (d.core o.core).fork.isSome then d.raise o code
  else if d.running then d.faultAt o code d.faultTick else d.blockFault o code true

/-- A fault that stops the segment at the next tick, with tag 0 (R549, Next). -/
def Dev.raiseNext (code : Nat) (d : Dev) : Dev :=
  if d.running then d.faultAt noOwner code (d.run.tick + 1) else d.blockFault noOwner code true

/-! ### Hold requests (R52 to R55) -/

/-- Raise a hold request at the current tick; during an Eclipse it joins the one in progress (R54, R59). -/
def Dev.hold (cause : Nat) (why : HoldWhy) (d : Dev) : Dev :=
  let h : Hold := { d := d.run.tick, h := d.run.tick + 24, cause := cause, why := why, ms := d.now }
  if d.run.eclipse then d.onRun fun r => { r with eclipseHolds := r.eclipseHolds ++ [h] }
  else d.onRun fun r => { r with holds := r.holds ++ [h] }

/-! ### Free values -/

/-- Take the next position in the streams of free values. -/
def Dev.next (d : Dev) : Nat × Dev := (d.fresh, { d with fresh := d.fresh + 1 })

/-- Schedule an item. -/
def Dev.sched (due : Nat) (land : Bool) (o : Owner) (a : Act) (d : Dev) : Dev :=
  d.onRun fun r => { r with sched := r.sched ++ [{ due := due, land := land, owner := o, act := a }] }

end Sys2Proof.Machine
end

