-- ==== Sys2Proof/Machine/Operands.lean ====
section
/-! DEFINITION. Descriptor fields and the operand forms (R80, R82, R87 to R93), segment-table fields (R112), stream-table and
route-table entries (R90, R258), and the addresses an occurrence computes from them. -/

namespace Sys2Proof.Machine

/-! ### Operands (R87) -/

/-- Space of an operand. -/
def opSpace (x : BitVec 24) : Nat := bitsOf x.toNat 21 3
/-- Index of an operand. -/
def opIndex (x : BitVec 24) : Nat := bitsOf x.toNat 0 21
/-- The none operand (R86). -/
def opNone : Nat := 0xE00000

/-- Space 0: core, bank, row. -/
def opCore (x : BitVec 24) : Nat := bitsOf x.toNat 13 8
def opBank (x : BitVec 24) : Nat := bitsOf x.toNat 10 3
def opRow (x : BitVec 24) : Nat := bitsOf x.toNat 0 10
/-- Space 1: tile register. -/
def opTile (x : BitVec 24) : Nat := bitsOf x.toNat 0 5
/-- Space 2: row rank in the vector buffers, buffer * 32 + row (R199). -/
def opVbuf (x : BitVec 24) : Nat := bitsOf x.toNat 0 7
/-- Space 3: stream handle and element offset. -/
def opHandle (x : BitVec 24) : Nat := bitsOf x.toNat 0 6
def opOffset (x : BitVec 24) : Nat := bitsOf x.toNat 6 15
/-- Space 4: Beacon. -/
def opBeacon (x : BitVec 24) : Nat := bitsOf x.toNat 0 14
/-- Space 5: slot and word. -/
def opSlot (x : BitVec 24) : Nat := bitsOf x.toNat 0 10
def opWord (x : BitVec 24) : Nat := bitsOf x.toNat 10 5
/-- Space 6: route-table entry. -/
def opEntry (x : BitVec 24) : Nat := bitsOf x.toNat 0 10

/-! ### MOD (R93) -/

end Sys2Proof.Machine

namespace Sys2Proof.Inst

/-- MOD.FMT, MOD.RND, MOD.EXACT, MOD.ACC, MOD.EPI, MOD.SUB (R93). -/
def fmt (i : Inst) : Nat := Machine.bitsOf i.mod.toNat 16 4
def rnd (i : Inst) : Nat := Machine.bitsOf i.mod.toNat 14 2
def exact (i : Inst) : Bool := i.mod.getLsbD 13
def acc (i : Inst) : Bool := i.mod.getLsbD 12
def epi (i : Inst) : Nat := Machine.bitsOf i.mod.toNat 8 4
def sub (i : Inst) : Nat := Machine.bitsOf i.mod.toNat 0 8
/-- Bits of EXT. -/
def extBits (i : Inst) (lo n : Nat) : Nat := Machine.bitsOf i.ext.toNat lo n
/-- Interval of a fetch: EXT[7:0], 0 meaning 1 (R96). -/
def interval (i : Inst) : Nat := max 1 (i.extBits 0 8)
/-- Byte-lane rotate (R223). -/
def rotate (i : Inst) : Nat := i.extBits 8 9
/-- Rows streamed. -/
def cnt (i : Inst) : Nat := i.count.toNat
def coreN (i : Inst) : Nat := i.core.toNat

end Sys2Proof.Inst

namespace Sys2Proof.Machine

/-- The occurrence as an owner, for lane select `lane` (0 for a core-level unit), unit `unit`. -/
def ownerOf (i : Inst) (unit lane : Nat) (d : Dev) : Owner :=
  { core := i.coreN, lane := lane, unit := unit, tag := i.tag.toNat, issue := d.run.tick, spec := i.spec, ofSpec := i.spec, v := i.v,
    dep0 := i.dep0.toNat, dep1 := i.dep1.toNat }

/-! ### The loaded Route -/

/-- A segment-table entry of the loaded Route (R112). -/
def Dev.segEntry (d : Dev) (s : Nat) : BitVec 256 := d.rt.segs.getD s 0#256
def segLength (e : BitVec 256) : Nat := bitsOf e.toNat 0 40
def segLead (e : BitVec 256) : Nat := bitsOf e.toNat 40 5
def segSucc (e : BitVec 256) : Nat := bitsOf e.toNat 45 2
def segSuccIdx (e : BitVec 256) : Nat := bitsOf e.toNat 47 8
def segRepeat (e : BitVec 256) : Nat := bitsOf e.toNat 64 24
def segGate (e : BitVec 256) : Nat := bitsOf e.toNat 88 2
def segGateBcn (e : BitVec 256) : Nat := bitsOf e.toNat 90 14
def segGateTgt (e : BitVec 256) : Nat := bitsOf e.toNat 104 32
def segGap (e : BitVec 256) : Nat := bitsOf e.toNat 136 40

/-- The current segment's entry, and its fetch lead L (R47). -/
def Dev.seg (d : Dev) : BitVec 256 := d.segEntry (d.get Reg.RTE_STATUS.SEGMENT)
def Dev.lead (d : Dev) : Nat := segLead d.seg

/-- The program of a core. -/
def RouteSt.prog (r : RouteSt) (c : Nat) : Option Prog := r.progs.find? (fun p => p.core == c)

/-- A core's stream-table entry (R90), as its window holds it; KIND, CONC and RELAXED come from the image. -/
def Dev.stream (d : Dev) (c h : Nat) : BitVec 128 :=
  match d.rt.prog c with
  | some p => p.streams.getD h 0#128
  | none => 0#128
def strBase (e : BitVec 128) : Nat := bitsOf e.toNat 0 64
def strStride (e : BitVec 128) : Nat := bitsOf e.toNat 64 32
def strKind (e : BitVec 128) : Nat := bitsOf e.toNat 96 4
def strConc (e : BitVec 128) : Bool := bitOf e.toNat 100
def strRelaxed (e : BitVec 128) : Bool := bitOf e.toNat 101

/-- A core's mesh route-table entry (R258). -/
def Dev.meshEntry (d : Dev) (c n : Nat) : BitVec 128 :=
  match d.rt.prog c with
  | some p => p.mesh.getD n 0#128
  | none => 0#128
def meshKind (e : BitVec 128) : Nat := bitsOf e.toNat 0 2
def meshOrder (e : BitVec 128) : Nat := bitsOf e.toNat 2 1
def meshCols (e : BitVec 128) : Nat := bitsOf e.toNat 16 16
def meshRows (e : BitVec 128) : Nat := bitsOf e.toNat 32 16
def meshLat (e : BitVec 128) : Nat := bitsOf e.toNat 48 16

/-! ### Descriptors (R80) -/

def descOpc (x : BitVec 256) : Nat := bitsOf x.toNat 248 8
def descUnit (x : BitVec 256) : Nat := bitsOf x.toNat 244 4
def descLane (x : BitVec 256) : Nat := bitsOf x.toNat 242 2
def descV (x : BitVec 256) : Bool := bitOf x.toNat 241
def descSpec (x : BitVec 256) : Bool := bitOf x.toNat 240
def descTag (x : BitVec 256) : Nat := bitsOf x.toNat 216 24
def descIssue (x : BitVec 256) : Nat := bitsOf x.toNat 176 40
def descLoop (x : BitVec 256) : Nat := bitsOf x.toNat 172 4
def descOpa (x : BitVec 256) : Nat := bitsOf x.toNat 148 24
def descOpb (x : BitVec 256) : Nat := bitsOf x.toNat 124 24
def descOpd (x : BitVec 256) : Nat := bitsOf x.toNat 100 24
def descCount (x : BitVec 256) : Nat := bitsOf x.toNat 84 16
def descMod (x : BitVec 256) : Nat := bitsOf x.toNat 64 20
def descDep0 (x : BitVec 256) : Nat := bitsOf x.toNat 52 12
def descDep1 (x : BitVec 256) : Nat := bitsOf x.toNat 40 12
def descExt (x : BitVec 256) : Nat := bitsOf x.toNat 0 40

/-- One level of a loop nest (R105): count (0 means 1), period, signed increments. -/
structure Level where
  count : Nat
  period : Nat
  incA : Int
  incB : Int
  incD : Int
  deriving DecidableEq, Repr

/-- Two's complement of `n` bits. -/
def sgn (n x : Nat) : Int := if x < 2 ^ (n - 1) then x else (x : Int) - 2 ^ n

/-- Level j of a nest slot (R105). -/
def nestLevel (nest : BitVec 512) (j : Nat) : Level :=
  let x := bitsOf nest.toNat (128 * j) 128
  { count := max 1 (bitsOf x 0 24), period := bitsOf x 24 40, incA := sgn 21 (bitsOf x 64 21),
    incB := sgn 21 (bitsOf x 85 21), incD := sgn 21 (bitsOf x 106 21) }

/-- The four levels a descriptor runs under; a descriptor without a loop has one occurrence (R35). -/
def descLevels (p : Prog) (x : BitVec 256) : List Level :=
  if descLoop x = 0 then [] else (List.range 4).map (nestLevel (p.loops.getD (descLoop x) 0#512))

/-- An operand advanced by an index sum; the space never changes (R106). -/
def advance (op : Nat) (inc : Int) : BitVec 24 :=
  BitVec.ofNat 24 (op / 2 ^ 21 * 2 ^ 21 + ((op % 2 ^ 21 : Int) + inc).toNat % 2 ^ 21)

/-- Linear loop index (R177): i0 + c0 * (i1 + c1 * (i2 + c2 * i3)). -/
def linIndex : List Level → List Nat → Nat
  | l :: ls, i :: is => i + l.count * linIndex ls is
  | _, _ => 0

/-- Sum of index times increment. -/
def incSum (f : Level → Int) : List Level → List Nat → Int
  | l :: ls, i :: is => i * f l + incSum f ls is
  | _, _ => 0

/-- The occurrence of a descriptor at an index vector (R35, R106). -/
def occurrence (p : Prog) (x : BitVec 256) (ix : List Nat) : Inst :=
  let ls := descLevels p x
  { core := BitVec.ofNat 8 p.core, lane := BitVec.ofNat 2 (descLane x), v := descV x, spec := descSpec x,
    tag := BitVec.ofNat 24 (descTag x), opa := advance (descOpa x) (incSum Level.incA ls ix),
    opb := advance (descOpb x) (incSum Level.incB ls ix), opd := advance (descOpd x) (incSum Level.incD ls ix),
    count := BitVec.ofNat 16 (descCount x), mod := BitVec.ofNat 20 (descMod x), dep0 := BitVec.ofNat 12 (descDep0 x),
    dep1 := BitVec.ofNat 12 (descDep1 x), ext := BitVec.ofNat 40 (descExt x), lin := linIndex ls ix }

/-- The index vectors whose occurrence falls `rem` ticks after the first (R35). -/
def indexAt : List Level → Nat → List (List Nat)
  | [], rem => if rem = 0 then [[]] else []
  | l :: ls, rem =>
    (List.range (if l.period = 0 then l.count else min l.count (rem / l.period + 1))).flatMap fun i =>
      (indexAt ls (rem - i * l.period)).map (i :: ·)

/-- The occurrences of a descriptor at tick `t` when its ISSUE counts from `base` (R34, R35, R110). -/
def occurrencesAt (p : Prog) (x : BitVec 256) (base t : Nat) : List Inst :=
  if t < base + descIssue x then []
  else (indexAt (descLevels p x) (t - (base + descIssue x))).map (occurrence p x)

/-! ### Tenancy bounds (R100, R408) -/

/-- Every byte from `a` to `a + n - 1` lies in one of the tenancy's regions. -/
def Dev.inRegions (d : Dev) (t a n : Nat) : Bool :=
  (kget {} d.tens t).regions.any fun r => decide (r.1 ≤ a ∧ a + n ≤ r.1 + r.2)

end Sys2Proof.Machine
end

