-- ==== Sys2Proof/Machine/Access.lean ====
section
/-! DEFINITION. Ports, scratch rows, vector buffers: how the Route's occurrences and the non-scheduled agents reach storage,
with the checks of Watchpost and the events the Mirror observes beside them. -/

namespace Sys2Proof.Machine

/-! ### Ports (R195 to R198, R218, R219) -/

/-- Port kinds. -/
def portRead : Nat := 0
def portWrite : Nat := 1
def portQueue : Nat := 2
def portReduce : Nat := 3
def portBufRead : Nat := 4
def portBufWrite : Nat := 5
def portMesh : Nat := 6
def portRowWritten : Nat := 7

def portCode (kind idx : Nat) : Nat := kind * 2 ^ 24 + idx

/-- Uses of a port in a tick. -/
def Dev.portUses (d : Dev) (port tick : Nat) : List Owner :=
  (d.run.ports.filter fun u => u.port == port && u.tick == tick).map PortUse.owner

def Dev.notePort (port tick : Nat) (o : Owner) (d : Dev) : Dev :=
  d.onRun fun r => { r with ports := { tick := tick, port := port, owner := o } :: r.ports }

/-- One access to a port that serves `lim` accesses a tick: past the limit PORT_CONFLICT names the later occurrence (R198).
Answers whether this access goes on. -/
def Dev.usePort (kind idx lim : Nat) (o : Owner) (d : Dev) : Bool × Dev :=
  let p := portCode kind idx
  let us := d.portUses p d.run.tick
  let d1 := d.notePort p d.run.tick o
  if us.length < lim then (true, d1)
  else
    let w := latest o us
    (!w.same o, d1.raise w 0x020A)

/-! ### Watchpost (R364 to R368) -/

/-- Report a hazard of kind `k` (R367). `space` and `index` are those of WPT_LOC. Answers whether the occurrence goes on: with STOP it is
stopped at this tick, and one of a SPEC descriptor is held until R (R38, R68, R368). -/
def Dev.hazard (k : Nat) (o : Owner) (other space index : Nat) (d : Dev) : Bool × Dev :=
  if !d.wptOn || !bitOf d.wptMask (k - 1) then (true, d)
  else
    let d1 := d.count (Reg.WPT_COUNT.COUNT (k - 1)) 1
    let d2 := if d.is Reg.WPT_EVENT.HAZARD then d1
      else (d1 |>.put Reg.WPT_REC.KIND k |>.put Reg.WPT_REC.LANE o.lane |>.put Reg.WPT_REC.CORE o.core
        |>.put Reg.WPT_REC.TICK d.run.tick |>.put Reg.WPT_TAGS.OTHER other |>.put Reg.WPT_TAGS.TAG o.tag
        |>.put Reg.WPT_LOC.SPACE space |>.put Reg.WPT_LOC.INDEX index).event Reg.WPT_EVENT.HAZARD
    if d.wptStop then (false, d2.raise o 0x0209) else (true, d2)

/-- Kind 1: a read whose last writer is named by neither DEP (R366). -/
def Dev.checkRead (o : Owner) (writer space index : Nat) (d : Dev) : Bool × Dev :=
  if o.dep0 = 0 ∧ o.dep1 = 0 then (true, d)
  else if (o.dep0 ≠ 0 ∧ writer + o.dep0 = o.tag) ∨ (o.dep1 ≠ 0 ∧ writer + o.dep1 = o.tag) then (true, d)
  else d.hazard 1 o writer space index

/-! ### Mirror events (R370, R371) -/

/-- The event is folded: the Mirror compares, and the tick lies in the window where one is set (R377). -/
def Dev.folded (d : Dev) (t : Nat) : Bool :=
  d.is Reg.MIR_STATUS.ACTIVE && (!d.mir.window ||
    (d.mir.pass % 2 ^ 24 == d.get Reg.MIR_WIN_START.PASS && decide (d.get Reg.MIR_WIN_START.VALUE ≤ t) &&
      decide (t < d.get Reg.MIR_WIN_END.VALUE)))

/-- Note an event observed at tick `t`; landings (kinds 1 and 2) of V-marked occurrences are not observed (R362, R371). -/
def Dev.observeAt (o : Owner) (t core kind lane loc : Nat) (bytes : List Byte) (d : Dev) : Dev :=
  if (o.v && decide (kind ≤ 2)) || !d.folded t then d
  else { d with seen := d.seen ++ [{ tick := t, core := core, kind := kind, lane := lane, loc := loc, data := bytes }] }

/-- Note an event observed now. -/
def Dev.observe (o : Owner) (core kind lane loc : Nat) (bytes : List Byte) (d : Dev) : Dev :=
  d.observeAt o d.run.tick core kind lane loc bytes

/-! ### Scratch rows (R217 to R222, R233, R241 to R243) -/

/-- Key of a row of a core. -/
def rowKey (bank row : Nat) : Nat := bank * 1024 + row

/-- The cells that hold a row: the row itself, or the spare it is remapped to (R242). -/
def CoreSt.cells (k : CoreSt) (bank row : Nat) : Nat :=
  match kget 0 k.remap (rowKey bank row) with
  | 0 => rowKey bank row
  | s + 1 => rowKey bank (576 + s)

/-- The row is served from the save register: its test has taken step 1 (R241). -/
def CoreSt.tested (k : CoreSt) (bank row : Nat) : Bool :=
  match k.test with
  | some t => decide (t.bank = bank ∧ t.row = row ∧ 2 ≤ t.step ∧ t.row < 576)
  | none => false

/-- What a row reads as through every port (R233, R241). -/
def CoreSt.row (k : CoreSt) (bank row : Nat) : Row :=
  if kget false k.emptyRow (rowKey bank row) then 0#4096
  else if k.tested bank row then k.saveReg
  else kget 0#4096 k.scratch (k.cells bank row)

/-- Put a row into the queue of the test engine (R239, R243). -/
def CoreSt.queueTest (key : Nat) (k : CoreSt) : CoreSt :=
  if k.testQueue.contains key then k else { k with testQueue := k.testQueue ++ [key] }

/-- Store a row's contents where every access finds them: in the save register while the row is under test, else in its cells. -/
def CoreSt.storeRow (bank row : Nat) (v : Row) (k : CoreSt) : CoreSt :=
  if k.tested bank row then { k with saveReg := v } else { k with scratch := kset 0#4096 k.scratch (k.cells bank row) v }

/-- Write a row's contents: the empty mark clears (R233); a whole-row write rewrites every word with fresh checks, and queues a row that
was uncorrectable for test (R237, R243). -/
def CoreSt.putRow (bank row : Nat) (v : Row) (whole : Bool) (k : CoreSt) : CoreSt :=
  let key := rowKey bank row
  let k1 := { k with emptyRow := kset false k.emptyRow key false }.storeRow bank row v
  if !whole then k1
  else
    let k2 := { k1 with weak := kset false k1.weak key false }
    if kget false k.bad key then { k2 with bad := kset false k2.bad key false }.queueTest key else k2

/-- A read has met the words of a row: one that corrected an error queues the row for test; an empty row's cells are not read (R233,
R237, R239). -/
def CoreSt.noteRead (key : Nat) (k : CoreSt) : CoreSt :=
  if kget false k.weak key && !kget false k.emptyRow key then k.queueTest key else k

/-- A scheduled read of a row at its issue tick (R218, R219, R221, R238): none where a fault takes the occurrence. -/
def Dev.readRow (o : Owner) (core bank row : Nat) (d : Dev) : Option Row × Dev :=
  if 575 < row then (none, d.raise o 0x0204)
  else
    let (ok, d1) := d.usePort portRead (core * 8 + bank) 1 o
    let k := d1.core core
    if !ok then (none, d1)
    else if kget false k.bad (rowKey bank row) && !kget false k.emptyRow (rowKey bank row) then (none, d1.raise o 0x020B)
    else
      let (go, d2) := d1.checkRead o (kget 0 k.lastTag (rowKey bank row)) 0 (rowKey bank row)
      (if go then some (k.row bank row) else none, d2.onCore core (CoreSt.noteRead (rowKey bank row)))

/-- The row lies in the Lantern capture range (R561, type 14). -/
def Dev.captured (d : Dev) (index : Nat) : Bool :=
  decide (d.get Reg.DBG_LTN_CAP.FIRST ≤ index ∧ index < d.get Reg.DBG_LTN_CAP.FIRST + d.get Reg.DBG_LTN_CAP.COUNT)

/-- A scheduled landing has reached a row: tag, Mirror, capture (R365, R371, R561, R564). -/
def Dev.noteLanding (o : Owner) (core bank row : Nat) (v : Row) (d : Dev) : Dev :=
  let d1 := d.onCore core fun k => { k with lastTag := kset 0 k.lastTag (rowKey bank row) o.tag }
  let d2 := d1.observe o core 1 0 (rowKey bank row) (rowBytes v)
  let ix := core * 8192 + rowKey bank row
  if d.captured ix then
    d2.lantern 14 core o.lane o.tag d.run.tick ix (if bitOf (d.get Reg.SEC_STATUS.FEATURES) 1 then some v else none)
  else d2

/-- Note what a landing of this tick is about to replace. -/
def Dev.noteUndo (u : Undo) (d : Dev) : Dev := d.onRun fun r => { r with undo := u :: r.undo }

/-- What a landing in a scratch row is about to replace. -/
def Dev.undoRow (d : Dev) (o : Owner) (core bank row : Nat) : Undo :=
  let k := d.core core
  let key := rowKey bank row
  let t := k.tested bank row
  { owner := o, core := core, place := if t then .saved else .cells (k.cells bank row), key := key,
    row := if t then k.saveReg else kget 0#4096 k.scratch (k.cells bank row),
    empty := kget false k.emptyRow key, bad := kget false k.bad key, tag := kget 0 k.lastTag key }

/-- A scheduled write lands through the bank's write port (R218 to R221); two in one row in one tick are hazard kind 2, the
later standing (R220, R366). Landings of a tick are done in the order of R198, so the later comes last. -/
def Dev.landScratch (o : Owner) (core bank row : Nat) (f : Row → Row) (whole : Bool) (d : Dev) : Dev :=
  if 575 < row then d.raise o 0x0204
  else
    let (ok, d1) := d.usePort portWrite (core * 8 + bank) 2 o
    if !ok then d1
    else
      let key := portCode portRowWritten (core * 8192 + rowKey bank row)
      let prev := d1.portUses key d.run.tick
      let (go, d2) := match prev with
        | w :: _ => d1.hazard 2 o w.tag 0 (rowKey bank row)
        | [] => (true, d1)
      let v := f ((d2.core core).row bank row)
      if !go then d2 else (((d2.notePort key d.run.tick o).noteUndo (d2.undoRow o core bank row)).onCore core (CoreSt.putRow bank row v whole)).noteLanding o core bank row v

/-- A write by an agent outside the Route: the last-writer tag becomes 0 (R365). -/
def Dev.pokeRow (core bank row : Nat) (f : Row → Row) (whole : Bool) (d : Dev) : Dev :=
  d.onCore core fun k =>
    let k1 := k.putRow bank row (f (k.row bank row)) whole
    { k1 with lastTag := kset 0 k1.lastTag (rowKey bank row) 0 }

/-- Set every row of every core to zero with its marks, buffers and latches (R235). The device writes every row whole, so that an
uncorrectable one is queued for test (R243). -/
def CoreSt.zeroed (k : CoreSt) : CoreSt :=
  let z (l : LaneSt) : LaneSt := { l with vbuf := [], vbufTag := [], scale := latchReset, scaleSrc := .kept }
  k.bad.foldl (fun k e => k.queueTest e.1)
    { k with scratch := [], emptyRow := [], bad := [], weak := [], lastTag := [], saveReg := 0#4096, lane0 := z k.lane0, lane1 := z k.lane1 }

/-! ### Vector buffers (R194 to R199) -/

/-- A read of vector-buffer row `v` (buffer * 32 + row) of a lane (R196, R198). -/
def Dev.readVbuf (o : Owner) (core lane v : Nat) (d : Dev) : Option Row × Dev :=
  let (ok, d1) := d.usePort portBufRead (core * 8 + lane * 4 + v / 32) 2 o
  if !ok then (none, d1)
  else
    let l := d1.lane core lane
    let (go, d2) := d1.checkRead o (kget 0 l.vbufTag v) 2 (lane * 128 + v)
    (if go then some (kget 0#4096 l.vbuf v) else none, d2)

/-- A vector-buffer row lands; the two rows of an exact drain's single write count once (R196). -/
def Dev.landBuf (o : Owner) (core lane v : Nat) (data : Row) (pair : Bool) (d : Dev) : Dev :=
  let (ok, d1) := if pair then (true, d) else d.usePort portBufWrite (core * 8 + lane * 4 + v / 32) 1 o
  if !ok then d1
  else
    let l0 := d1.lane core lane
    let u : Undo := { owner := o, core := core, place := .vbuf lane v, row := kget 0#4096 l0.vbuf v, tag := kget 0 l0.vbufTag v }
    ((d1.noteUndo u).onLane core lane fun l => { l with vbuf := kset 0#4096 l.vbuf v data, vbufTag := kset 0 l.vbufTag v o.tag }).observe
    o core 2 lane (lane * 128 + v) (rowBytes data)

/-! ### Units (R36, R85) -/

/-- The entry covers tick `t`. -/
def Busy.covers (b : Busy) (t : Nat) : Bool :=
  decide (b.start ≤ t) && (t - b.start) % b.step == 0 && decide ((t - b.start) / b.step < b.count)

/-- Take a unit for a new occurrence in lane index `lane` (2 for a core-level unit), busy at `count` ticks `step` apart;
ISSUE_COLLISION if it is busy (R36, R85). -/
def Dev.takeUnit (o : Owner) (lane step count : Nat) (d : Dev) : Bool × Dev :=
  let t := d.run.tick
  if d.run.busy.any fun b => b.core == o.core && b.unit == o.unit && b.lane == lane && b.covers t then
    (false, d.raise o 0x0202)
  else
    (true, d.onRun fun r => { r with busy := { core := o.core, unit := o.unit, lane := lane, start := t, step := max 1 step,
                                               count := count, tag := o.tag } :: r.busy })

/-- The Route may issue on a core: a segment runs, nothing holds it, and the Route uses the core (R34, R38, R45, R54, R124). -/
def Dev.canIssue (d : Dev) (c : BitVec 8) : Bool :=
  d.inSegment && !d.held && d.is (Reg.CORE_STATUS.PLACED c.toNat) && d.inRoute c.toNat

/-- The random key and counter of the slot an occurrence names with RND = 2, as the pass holds them (R176, R179). -/
def Dev.passKey (d : Dev) (slot : Nat) : BitVec 64 × BitVec 64 :=
  match d.run.keys.find? (fun e => e.1 == slot) with
  | some e => e.2
  | none => (0#64, 0#64)

end Sys2Proof.Machine
end

