-- ==== Sys2Proof/Machine/Numerics.lean ====
section
/-! DEFINITION. Number formats and the arithmetic of "Number formats, exact and fast accumulation": every value is
decoded to an exact dyadic number, computed on exactly, and rounded once (R158 to R193). -/

namespace Sys2Proof.Machine

/-- A decoded element: NaN, an infinity, or (-1)^neg * m * 2^e (a zero keeps its sign, R161). -/
inductive Val where
  | nan
  | inf (neg : Bool)
  | fin (neg : Bool) (m : Nat) (e : Int)
  deriving DecidableEq, Repr

/-- How a format uses its top exponent (R160): as IEEE 754 does, as FP8 E4M3 does, or for finite values only. -/
inductive TopExp where
  | ieee
  | e4m3
  | finite
  deriving DecidableEq, Repr

/-- A floating-point element layout of R160. -/
structure FloatFmt where
  exp : Nat
  man : Nat
  bias : Nat
  top : TopExp
  deriving DecidableEq, Repr

def fmtE4M3 : FloatFmt := ⟨4, 3, 7, .e4m3⟩
def fmtE5M2 : FloatFmt := ⟨5, 2, 15, .ieee⟩
def fmtE3M2 : FloatFmt := ⟨3, 2, 3, .finite⟩
def fmtE2M3 : FloatFmt := ⟨2, 3, 1, .finite⟩
def fmtE2M1 : FloatFmt := ⟨2, 1, 1, .finite⟩
def fmtBF16 : FloatFmt := ⟨8, 7, 127, .ieee⟩
def fmtFP16 : FloatFmt := ⟨5, 10, 15, .ieee⟩
def fmtFP32 : FloatFmt := ⟨8, 23, 127, .ieee⟩

/-- In an MX format the elements are the finite layouts of R160; MXFP8 E5M2 and E4M3 keep their FP8 layouts. -/
inductive ElemFmt where
  | flt (f : FloatFmt)
  | int (bits : Nat)
  | exact
  deriving DecidableEq, Repr

/-- The element format of an FMT code (R94, R158); none for the reserved codes. -/
def elemFmt : Nat → Option ElemFmt
  | 0x0 => some (.flt fmtE4M3)
  | 0x1 => some (.flt fmtE5M2)
  | 0x2 => some (.flt fmtE4M3)
  | 0x3 => some (.flt fmtE5M2)
  | 0x4 => some (.flt fmtE3M2)
  | 0x5 => some (.flt fmtE2M3)
  | 0x6 => some (.flt fmtE2M1)
  | 0x7 => some (.int 8)
  | 0x8 => some (.int 4)
  | 0x9 => some (.flt fmtBF16)
  | 0xA => some (.flt fmtFP16)
  | 0xB => some (.flt fmtFP32)
  | 0xC => some (.int 32)
  | 0xD => some .exact
  | _ => none

/-- Storage width of an element in bits (R158, R159). -/
def elemBits : Nat → Nat
  | 0x6 => 4
  | 0x8 => 4
  | 0x9 => 16
  | 0xA => 16
  | 0xB => 32
  | 0xC => 32
  | 0xD => 128
  | _ => 8

/-- FMT codes of the microscaling formats. -/
def isMX (fmt : Nat) : Bool := decide (2 ≤ fmt ∧ fmt ≤ 6)

/-- The format classes of R141. -/
inductive FmtClass where
  | b8
  | b16
  | b4
  deriving DecidableEq, Repr

/-- The format class of an array operand format (R141; MXFP6 counts as 8-bit, R137). -/
def fmtClass (fmt : Nat) : FmtClass :=
  if fmt = 0x6 ∨ fmt = 0x8 then .b4 else if fmt = 0x9 ∨ fmt = 0xA then .b16 else .b8

/-- Magnitude bits of the largest finite value. -/
def FloatFmt.maxBits (f : FloatFmt) : Nat :=
  match f.top with
  | .ieee => (2 ^ f.exp - 1) * 2 ^ f.man - 1
  | .e4m3 => 2 ^ (f.exp + f.man) - 2
  | .finite => 2 ^ (f.exp + f.man) - 1

/-- Magnitude bits of infinity (IEEE formats). -/
def FloatFmt.infBits (f : FloatFmt) : Nat := (2 ^ f.exp - 1) * 2 ^ f.man

/-- The canonical NaN (R162); a format without NaN has none and gives 0 (R175). -/
def FloatFmt.nanBits (f : FloatFmt) : Nat :=
  match f.top with
  | .ieee => f.infBits + 2 ^ (f.man - 1)
  | .e4m3 => 2 ^ (f.exp + f.man) - 1
  | .finite => 0

/-- Decode the low 1 + exp + man bits of `x` (R160). -/
def FloatFmt.decode (f : FloatFmt) (x : Nat) : Val :=
  let man := x % 2 ^ f.man
  let ex := x / 2 ^ f.man % 2 ^ f.exp
  let neg := x / 2 ^ (f.exp + f.man) % 2 == 1
  let isTop := ex == 2 ^ f.exp - 1
  match f.top, isTop with
  | .ieee, true => if man = 0 then .inf neg else .nan
  | .e4m3, true =>
    if man = 2 ^ f.man - 1 then .nan else .fin neg (2 ^ f.man + man) ((ex : Int) - f.bias - f.man)
  | _, _ =>
    if ex = 0 then .fin neg man (1 - (f.bias : Int) - f.man)
    else .fin neg (2 ^ f.man + man) ((ex : Int) - f.bias - f.man)

/-- Two's complement of the low `bits` bits. -/
def signedOf (bits x : Nat) : Int :=
  let y := x % 2 ^ bits
  if 2 * y < 2 ^ bits then (y : Int) else (y : Int) - 2 ^ bits

/-- The exact value of an integer times 2^e. -/
def Val.ofInt (n : Int) (e : Int) : Val := .fin (decide (n < 0)) n.natAbs e

/-- Decode one stored element of format `fmt` (R94); an exact element takes its tile's base exponent `b` (R181). -/
def decodeElem (fmt : Nat) (b : Int) (x : Nat) : Val :=
  match elemFmt fmt with
  | some (.flt f) => f.decode x
  | some (.int n) => .ofInt (signedOf n x) 0
  | some .exact => .ofInt (signedOf 128 x) b
  | none => .nan

/-- One rounding decision of R174 on t + rem / 2^s (plus a positive amount below one unit of rem if `sticky`):
true when the neighbour away from zero is taken. -/
def roundUp (rnd u t rem s : Nat) (sticky : Bool) : Bool :=
  match rnd with
  | 0 =>
    if 2 * rem < 2 ^ s then false
    else if 2 * rem = 2 ^ s ∧ sticky = false then t % 2 == 1
    else true
  | 2 => decide (2 ^ 32 ≤ 2 ^ 32 * rem / 2 ^ s + u)
  | _ => false

/-- Shift of an exponent difference, 0 when negative. -/
def expGap (q e : Int) : Nat := (q - e).toNat

/-- Magnitude bits of m * 2^e (m > 0, plus a little if `sticky`) rounded to `f` (R174, R175). -/
def FloatFmt.roundMag (f : FloatFmt) (rnd u m : Nat) (e : Int) (sticky : Bool) : Nat :=
  let qmin : Int := 1 - (f.bias : Int) - f.man
  let top : Int := (Nat.log2 m : Int) + e
  let q : Int := max (top - f.man) qmin
  let s := expGap q e
  let t := m * 2 ^ expGap e q / 2 ^ s
  let rem := m * 2 ^ expGap e q % 2 ^ s
  let up := if s = 0 ∧ sticky = false then false else roundUp rnd u t rem s sticky
  let n := if up then t + 1 else t
  let bits := n + (q - qmin).toNat * 2 ^ f.man
  if bits ≤ f.maxBits then bits
  else if rnd = 1 then f.maxBits
  else match f.top with
    | .ieee => f.infBits
    | _ => f.maxBits

/-- Bits of a value rounded to `f` with mode `rnd` and random word `u` (R160 to R162, R174, R175). -/
def FloatFmt.encode (f : FloatFmt) (rnd u : Nat) (v : Val) : Nat :=
  let signed (neg : Bool) (x : Nat) : Nat := if neg then x + 2 ^ (f.exp + f.man) else x
  match v with
  | .nan => f.nanBits
  | .inf neg => signed neg (match f.top with
    | .ieee => f.infBits
    | _ => f.maxBits)
  | .fin neg m e => if m = 0 then signed neg 0 else signed neg (f.roundMag rnd u m e false)

/-- Round to an integer by R174. -/
def roundToInt (rnd u : Nat) (neg : Bool) (m : Nat) (e : Int) : Int :=
  let s := expGap 0 e
  let t := m * 2 ^ expGap e 0 / 2 ^ s
  let rem := m * 2 ^ expGap e 0 % 2 ^ s
  let n := if s = 0 then t else if roundUp rnd u t rem s false then t + 1 else t
  if neg then -(n : Int) else n

/-- Saturate to the two's-complement range of `bits` bits (R163). -/
def satInt (bits : Nat) (n : Int) : Int :=
  max (-(2 ^ (bits - 1) : Int)) (min (2 ^ (bits - 1) - 1 : Int) n)

/-- Two's-complement bits of an integer. -/
def intBits (bits : Nat) (n : Int) : Nat := (n % (2 ^ bits : Int)).toNat

/-- Convert a value to an integer format: round, saturate; NaN gives 0, an infinity the limit of its sign (R163). -/
def encodeInt (bits rnd u : Nat) (v : Val) : Nat :=
  match v with
  | .nan => 0
  | .inf neg => intBits bits (if neg then -(2 ^ (bits - 1) : Int) else 2 ^ (bits - 1) - 1)
  | .fin neg m e => intBits bits (satInt bits (roundToInt rnd u neg m e))

/-- Convert a value to a non-MX format (R185); an exact target is not a conversion of this function. -/
def encodeElem (fmt rnd u : Nat) (v : Val) : Nat :=
  match elemFmt fmt with
  | some (.flt f) => f.encode rnd u v
  | some (.int n) => encodeInt n rnd u v
  | _ => 0

/-- Bits whose value is a zero, with the sign taken away; every other value stays. -/
def FloatFmt.plusZero (f : FloatFmt) (x : Nat) : Nat := if x = 2 ^ (f.exp + f.man) then 0 else x

/-- A converted element of an exact or integer source: a result that is a zero, rounded to it or not, is +0 (R161). -/
def plusZero (fmt x : Nat) : Nat :=
  match elemFmt fmt with
  | some (.flt f) => f.plusZero x
  | _ => x

/-! ### FP32 arithmetic (R161, R187, R205) -/

/-- FP32 bits as a value. -/
def f32 (x : BitVec 32) : Val := fmtFP32.decode x.toNat

/-- A value rounded to FP32 by round to nearest even. -/
def rn32 (v : Val) : BitVec 32 := BitVec.ofNat 32 (fmtFP32.encode 0 0 v)

/-- RN of an integer N in units of 2^e: a zero result is +0 (R161, R188). -/
def rnInt (n e : Int) : BitVec 32 := BitVec.ofNat 32 (fmtFP32.plusZero (fmtFP32.encode 0 0 (.ofInt n e)))

/-- The canonical FP32 NaN. -/
def nan32 : BitVec 32 := 0x7FC00000#32

/-- An FP32 value as a unit puts it out: a NaN is the canonical one (R162). -/
def canon32 (x : BitVec 32) : BitVec 32 :=
  match f32 x with
  | .nan => nan32
  | _ => x

/-- Exact sum of two finite values, with IEEE 754's sign of a zero sum. -/
def addFin (n1 : Bool) (m1 : Nat) (e1 : Int) (n2 : Bool) (m2 : Nat) (e2 : Int) : Val :=
  let e := min e1 e2
  let a : Int := (m1 * 2 ^ expGap e1 e : Nat)
  let b : Int := (m2 * 2 ^ expGap e2 e : Nat)
  let s := (if n1 then -a else a) + (if n2 then -b else b)
  if s = 0 then .fin (n1 && n2) 0 e else .ofInt s e

/-- Exact sum of two values. -/
def Val.add : Val → Val → Val
  | .nan, _ => .nan
  | _, .nan => .nan
  | .inf a, .inf b => if a = b then .inf a else .nan
  | .inf a, _ => .inf a
  | _, .inf b => .inf b
  | .fin n1 m1 e1, .fin n2 m2 e2 => addFin n1 m1 e1 n2 m2 e2

/-- Negation. -/
def Val.neg : Val → Val
  | .nan => .nan
  | .inf a => .inf (!a)
  | .fin n m e => .fin (!n) m e

/-- Exact product of two values (R169). -/
def Val.mul : Val → Val → Val
  | .nan, _ => .nan
  | _, .nan => .nan
  | .inf a, .inf b => .inf (a != b)
  | .inf a, .fin n m _ => if m = 0 then .nan else .inf (a != n)
  | .fin n m _, .inf b => if m = 0 then .nan else .inf (n != b)
  | .fin n1 m1 e1, .fin n2 m2 e2 => .fin (n1 != n2) (m1 * m2) (e1 + e2)

/-- Strict order of two values that are not NaN; -0 lies below +0 (R205). -/
def Val.lt : Val → Val → Bool
  | .inf true, .inf true => false
  | .inf true, _ => true
  | _, .inf true => false
  | .inf false, _ => false
  | _, .inf false => true
  | .fin n1 m1 e1, .fin n2 m2 e2 =>
    let e := min e1 e2
    let a : Int := (m1 * 2 ^ expGap e1 e : Nat)
    let b : Int := (m2 * 2 ^ expGap e2 e : Nat)
    let x := if n1 then -a else a
    let y := if n2 then -b else b
    decide (x < y) || (decide (x = y) && n1 && !n2)
  | _, _ => false

def fAdd (a b : BitVec 32) : BitVec 32 := rn32 ((f32 a).add (f32 b))
def fSub (a b : BitVec 32) : BitVec 32 := rn32 ((f32 a).add (f32 b).neg)
def fMul (a b : BitVec 32) : BitVec 32 := rn32 ((f32 a).mul (f32 b))

/-- MAX of R204, R205. -/
def fMax (a b : BitVec 32) : BitVec 32 :=
  match f32 a, f32 b with
  | .nan, _ => nan32
  | _, .nan => nan32
  | x, y => if x.lt y then b else a

/-- MIN of R204, R205. -/
def fMin (a b : BitVec 32) : BitVec 32 :=
  match f32 a, f32 b with
  | .nan, _ => nan32
  | _, .nan => nan32
  | x, y => if y.lt x then b else a

/-! ### Functions (R190, R191)

EXP2 and LOG2 are computed in fixed point to 320 bits; the result is never a representable value unless the argument
says so, so the cut value with a sticky bit rounds as the exact one. -/

/-- Fraction bits of the fixed-point evaluations. -/
def fxBits : Nat := 320

/-- atanh(a / b) in fixed point: terms (a/b)^(2k+1) / (2k+1). -/
def fxAtanh (a b : Nat) : Nat → Nat → Nat → Nat
  | 0, _, _ => 0
  | n + 1, k, p => p / (2 * k + 1) + fxAtanh a b n (k + 1) (p * a * a / (b * b))

/-- ln 2 in fixed point, 2 atanh(1/3). -/
def fxLn2 : Nat := 2 * fxAtanh 1 3 110 0 (2 ^ fxBits / 3)

/-- exp(y) in fixed point for y in [0, 1): the Taylor sum. -/
def fxExp (y : Nat) : Nat → Nat → Nat → Nat
  | 0, _, _ => 0
  | n + 1, k, p => p + fxExp y n (k + 1) (p * y / 2 ^ fxBits / (k + 1))

/-- EXP2 (R190, R191). -/
def fExp2 (x : BitVec 32) : BitVec 32 :=
  match f32 x with
  | .nan => nan32
  | .inf true => 0#32
  | .inf false => x
  | .fin neg m e =>
    let fx : Int := (m * 2 ^ (fxBits + e).toNat / 2 ^ (-(fxBits + e)).toNat : Nat)
    let y := if neg then -fx else fx
    let n := y / 2 ^ fxBits
    let fr := (y % 2 ^ fxBits).toNat
    if m = 0 then 0x3F800000#32
    else if n < -300 then 0#32
    else if 300 < n then 0x7F800000#32
    else if fr = 0 then rn32 (.fin false 1 n)
    else BitVec.ofNat 32 (fmtFP32.roundMag 0 0 (fxExp (fr * fxLn2 / 2 ^ fxBits) 90 0 (2 ^ fxBits)) (n - fxBits) true)

/-- log2 of p / q (p, q > 0 close to each other) in signed fixed point, by atanh. -/
def fxLog2Ratio (p q : Nat) : Int :=
  let d := if p ≥ q then p - q else q - p
  let v := 2 * fxAtanh d (p + q) 130 0 (d * 2 ^ fxBits / (p + q)) * 2 ^ fxBits / fxLn2
  if p ≥ q then (v : Int) else -(v : Int)

/-- LOG2 (R190, R191). -/
def fLog2 (x : BitVec 32) : BitVec 32 :=
  match f32 x with
  | .nan => nan32
  | .inf false => x
  | .inf true => nan32
  | .fin neg m e =>
    if m = 0 then 0xFF800000#32
    else if neg then nan32
    else
      let l := Nat.log2 m
      -- m = r * 2^l with r in [1, 2); use r / 2 when r > 1.4
      let big := decide (7 * 2 ^ l < 5 * m)
      let k : Int := (l : Int) + e + (if big then 1 else 0)
      let den := if big then 2 ^ (l + 1) else 2 ^ l
      if m = 2 ^ l then rn32 (.ofInt ((l : Int) + e) 0)
      else
        let v := k * 2 ^ fxBits + fxLog2Ratio m den
        BitVec.ofNat 32 (fmtFP32.roundMag 0 0 v.natAbs (-(fxBits : Int)) true + (if v < 0 then 2 ^ 31 else 0))

/-- RCP (R190, R191). -/
def fRcp (x : BitVec 32) : BitVec 32 :=
  match f32 x with
  | .nan => nan32
  | .inf neg => if neg then 0x80000000#32 else 0#32
  | .fin neg m e =>
    let sg := if neg then 2 ^ 31 else 0
    if m = 0 then BitVec.ofNat 32 (0x7F800000 + sg)
    else BitVec.ofNat 32 (fmtFP32.roundMag 0 0 (2 ^ 64 / m) (-64 - e) (decide (2 ^ 64 % m ≠ 0)) + sg)

/-- SQRT (R190, R191). -/
def fSqrt (x : BitVec 32) : BitVec 32 :=
  match f32 x with
  | .nan => nan32
  | .inf neg => if neg then nan32 else x
  | .fin neg m e =>
    if m = 0 then x
    else if neg then nan32
    else
      let e' := if e % 2 = 0 then e - 80 else e - 81
      let m' := m * 2 ^ expGap e e'
      let r := Nat.sqrt m'
      BitVec.ofNat 32 (fmtFP32.roundMag 0 0 r (e' / 2) (decide (r * r ≠ m')))

/-- RSQRT (R190, R191). -/
def fRsqrt (x : BitVec 32) : BitVec 32 :=
  match f32 x with
  | .nan => nan32
  | .inf neg => if neg then nan32 else 0#32
  | .fin neg m e =>
    if m = 0 then BitVec.ofNat 32 (0x7F800000 + (if neg then 2 ^ 31 else 0))
    else if neg then nan32
    else
      -- 1 / sqrt(m 2^e) = sqrt(2^k / m) 2^(-(k + e) / 2), k chosen so that k + e is even
      let k : Nat := if e % 2 = 0 then 160 else 161
      let r := Nat.sqrt (2 ^ k / m)
      BitVec.ofNat 32 (fmtFP32.roundMag 0 0 r (-((k : Int) + e) / 2) (decide (r * r * m ≠ 2 ^ k)))

def one32 : BitVec 32 := 0x3F800000#32
def two32 : BitVec 32 := 0x40000000#32

/-- EXP as R190 composes it. -/
def fExp (x : BitVec 32) : BitVec 32 := fExp2 (fMul x 0x3FB8AA3B#32)

/-- SIGMOID as R190 composes it. -/
def fSigmoid (x : BitVec 32) : BitVec 32 := fRcp (fAdd one32 (fExp (fSub (0x80000000#32) x)))

/-- TANH as R190 composes it, with R191's results at the infinities. -/
def fTanh (x : BitVec 32) : BitVec 32 :=
  match f32 x with
  | .nan => nan32
  | .inf neg => if neg then 0xBF800000#32 else one32
  | _ => fSub one32 (fMul two32 (fRcp (fAdd (fExp (fMul two32 x)) one32)))

/-- SILU as R190 composes it, with R191's results at the infinities. -/
def fSilu (x : BitVec 32) : BitVec 32 :=
  match f32 x with
  | .nan => nan32
  | .inf neg => if neg then 0x80000000#32 else x
  | _ => fMul x (fSigmoid x)

/-- The function an LV.FUNC SUB code selects (R207). -/
def lvFunc : Nat → BitVec 32 → BitVec 32
  | 0 => fExp2
  | 1 => fLog2
  | 2 => fRcp
  | 3 => fSqrt
  | 4 => fRsqrt
  | 5 => fExp
  | 6 => fSigmoid
  | 7 => fTanh
  | 8 => fSilu
  | _ => id

/-! ### Stochastic rounding streams (R177, R178) -/

/-- The rounds of `rand_word`. -/
def randRounds : Nat → Nat → BitVec 64 → BitVec 64 → BitVec 64 × BitVec 64
  | 0, _, a, b => (a, b)
  | n + 1, r, a, b =>
    let b' := (b + (a ^^^ (a >>> 29))) * 0xA24BAED4963EE407#64
    let a' := (a ^^^ (b' >>> 32) ^^^ (b' <<< 17)) * 0x9FB21C651E98DF25#64 + BitVec.ofNat 64 r
    randRounds n (r + 1) a' b'

/-- `rand_word` at RNG_REV 1 (R178). -/
def randWord (key hi lo : BitVec 64) : BitVec 64 :=
  let ab := randRounds 6 0 (hi ^^^ key) (lo ^^^ (key * 0x7B1D42C9A6E0538F#64))
  ab.1 ^^^ ab.2

/-- The random word of element (r, c) of linear loop index i in stream q (R177). -/
def elemRand (key ctr : BitVec 64) (pass q i r c : Nat) : BitVec 64 :=
  randWord key (ctr + BitVec.ofNat 64 pass)
    (BitVec.ofNat 64 (q * 2 ^ 48 ||| (i % 2 ^ 36) * 2 ^ 12 ||| r * 2 ^ 6 ||| c))

/-! ### Conversion to MX formats (R168) -/

/-- emax of R168. -/
def mxEmax : Nat → Int
  | 0x2 => 8
  | 0x3 => 15
  | 0x4 => 4
  | _ => 2

/-- floor(log2 |v|) of a finite non-zero value. -/
def Val.log2 : Val → Int
  | .fin _ m e => (Nat.log2 m : Int) + e
  | _ => 0

def Val.isSpecial : Val → Bool
  | .fin _ _ _ => false
  | _ => true

def Val.isZero : Val → Bool
  | .fin _ 0 _ => true
  | _ => false

/-- v / 2^x. -/
def Val.scale (x : Int) : Val → Val
  | .fin n m e => .fin n m (e - x)
  | v => v

/-- The largest of a list of integers, over a start value. -/
def maxInt (l : List Int) (d : Int) : Int := l.foldl max d

/-- One block: its scale byte and its elements' bits; `u k` is the random word of element k (R168). Elements saturate to
the largest finite value. -/
def mxBlock (fmt rnd : Nat) (u : Nat → Nat) (vs : List Val) : Nat × List Nat :=
  if vs.any Val.isSpecial then (0xFF, vs.map fun _ => 0)
  else if vs.all Val.isZero then (0x7F, vs.map fun _ => 0)
  else
    let logs := (vs.filter fun v => !v.isZero).map Val.log2
    let x := min (max (maxInt logs (logs.headD 0) - mxEmax fmt) (-127)) 127
    let f := match elemFmt fmt with
      | some (.flt f) => f
      | _ => fmtE4M3
    let conv (k : Nat) (v : Val) : Nat :=
      let b := f.encode rnd (u k) (v.scale x)
      let mag := b % 2 ^ (f.exp + f.man)
      if f.maxBits < mag then b - mag + f.maxBits else b
    ((x + 127).toNat, vs.zipIdx.map fun p => conv p.2 p.1)

/-! ### Products and column sums (R169 to R173, R595) -/

/-- What one block of a column sum gives: the sum of the cut products in units of 2^lam, the specials seen, and whether
a cut product reached 2^100 (R169, R172, R183). -/
structure BlockSum where
  sum : Int
  lam : Int
  nan : Bool
  posInf : Bool
  negInf : Bool
  above : Bool
  deriving DecidableEq, Repr

/-- Largest floor(log2 |v|) over the non-zero finite elements; none if there is none. -/
def blockExp (vs : List Val) : Option Int :=
  match (vs.filter fun v => !(v.isZero || v.isSpecial)).map Val.log2 with
  | [] => none
  | l :: ls => some (maxInt ls l)

/-- The anchor A = Ex + Ew + 2 (R171): a side with no non-zero element contributes 0. -/
def anchor (xs ws : List Val) : Int := (blockExp xs).getD 0 + (blockExp ws).getD 0 + 2

/-- trunc(p / 2^lam) toward zero (R172). -/
def cut (lam : Int) (neg : Bool) (m : Nat) (e : Int) : Int :=
  let t := m * 2 ^ expGap e lam / 2 ^ expGap lam e
  if neg then -(t : Int) else t

/-- Add one product to a block sum. -/
def BlockSum.step (s : BlockSum) : Val → BlockSum
  | .nan => { s with nan := true }
  | .inf false => { s with posInf := true }
  | .inf true => { s with negInf := true }
  | .fin neg m e =>
    let t := cut s.lam neg m e
    { s with sum := s.sum + t, above := s.above || decide (2 ^ 100 ≤ t.natAbs) }

/-- The window weight lambda of R170. `sx`, `sw`: the block's scale bytes (127 for formats without scales). -/
def windowLsb (fmt : Nat) (exact : Bool) (base : Int) (xs ws : List Val) (sx sw : Nat) : Int :=
  if exact then (if isMX fmt then base - ((sx : Int) - 127) - ((sw : Int) - 127) else base)
  else if fmt = 0x7 ∨ fmt = 0x8 then 0
  else if fmtClass fmt = .b16 then anchor xs ws - 100
  else anchor xs ws - 50

/-- The sum of one block of products (R170 to R172); a scale of 0xFF makes every element of the block NaN (R164). -/
def blockSum (fmt : Nat) (exact : Bool) (base : Int) (xs ws : List Val) (sx sw : Nat) : BlockSum :=
  let s0 : BlockSum := ⟨0, windowLsb fmt exact base xs ws sx sw, isMX fmt && (sx == 0xFF || sw == 0xFF) && !xs.isEmpty, false, false, false⟩
  (List.zipWith Val.mul xs ws).foldl BlockSum.step s0

/-- The value V of a block (R172): scaled by the block's MX scales where there are any. -/
def BlockSum.toVal (fmt sx sw : Nat) (b : BlockSum) : Val :=
  if b.nan || (b.posInf && b.negInf) then .nan
  else if b.posInf then .inf false
  else if b.negInf then .inf true
  else .ofInt b.sum (b.lam + (if isMX fmt then (sx : Int) + sw - 254 else 0))

/-- Landing of an FP32 element: round(base + V) once (R173). V is a column sum, never -0, so a zero result is +0 (R161). -/
def landFP32 (rnd u : Nat) (base : BitVec 32) (v : Val) : BitVec 32 :=
  BitVec.ofNat 32 (fmtFP32.plusZero (fmtFP32.encode rnd u ((f32 base).add v)))

/-- Landing of an INT32 element: base + V saturated (R163, R173). -/
def landINT32 (base : BitVec 32) (v : Int) : BitVec 32 := BitVec.ofNat 32 (intBits 32 (satInt 32 (base.toInt + v)))

/-- The exact range of R183. -/
def exactInRange (n : Int) : Bool := decide (-(2 ^ 127 : Int) ≤ n ∧ n ≤ 2 ^ 127 - 1)

end Sys2Proof.Machine
end

