-- ==== Sys2Proof/Machine/Tiles.lean ====
section
/-! DEFINITION. Tile registers: reading and writing them, their configurations (TCFG), TZERO, TMOV and the fetch stage
(R46, R47, R129 to R140, R149, R182, R223, R599). -/

namespace Sys2Proof.Machine

/-! ### Accumulator tiles -/

def LaneSt.cfgOf (l : LaneSt) (reg : Nat) : Option TileCfg := kget none l.accCfg reg

/-- Head of the group a register belongs to (R135). -/
def headOf (reg : Nat) : Nat := reg / 4 * 4

/-- The head is configured exact, so the other registers of its group are covered (R135). -/
def LaneSt.headExact (l : LaneSt) (reg : Nat) : Bool :=
  match l.cfgOf (headOf reg) with
  | some c => c.exact
  | none => false

/-- A covered register: its head is exact and it is not the head. -/
def LaneSt.covered (l : LaneSt) (reg : Nat) : Bool := l.headExact reg && reg != headOf reg

/-- Registers an operation on a tile acts on (R135). -/
def groupRegs (exact : Bool) (reg : Nat) : List Nat := if exact then [reg, reg + 1, reg + 2, reg + 3] else [reg]

/-- A committed row; a register whose flag is clear reads as all zero (R149). -/
def LaneSt.accRow (l : LaneSt) (reg r : Nat) : TileRow :=
  if kget false l.accUse reg then kget 0#2048 l.acc (reg * 64 + r) else 0#2048

/-- A committed row of a tile, one word row per register of its group. -/
def LaneSt.tileRow (l : LaneSt) (exact : Bool) (reg r : Nat) : List TileRow := (groupRegs exact reg).map fun g => l.accRow g r

/-- Write one committed row; the flag sets (R149). A register that was not in use held zeros. -/
def LaneSt.setAccRow (reg r : Nat) (v : TileRow) (l : LaneSt) : LaneSt :=
  let acc := if kget false l.accUse reg then l.acc else kfilter (fun k => k / 64 != reg) l.acc
  { l with acc := kset 0#2048 acc (reg * 64 + r) v, accUse := kset false l.accUse reg true }

/-- Write a row of a tile (one word row per register of its group). -/
def LaneSt.setTileRow (reg r : Nat) : List TileRow → LaneSt → LaneSt
  | [], l => l
  | v :: vs, l => (l.setAccRow reg r v).setTileRow (reg + 1) r vs

/-- The integer N of column c of an exact row (R135, R181). -/
def exactAt (rows : List TileRow) (c : Nat) : Int :=
  signedOf 128 (rows.foldr (fun (r : TileRow) acc => (tcol r c).toNat + 2 ^ 32 * acc) 0)

/-- Word rows of an exact row from its 64 integers (R135). -/
def exactRows (ns : List Int) : List TileRow :=
  (List.range 4).map fun w => tileOfCols (ns.map fun n => BitVec.ofNat 32 (bitsOf (intBits 128 n) (32 * w) 32))

/-- Element c of a tile row under a configuration. -/
def tileElem (cfg : TileCfg) (rows : List TileRow) (c : Nat) : Val :=
  if cfg.exact then .ofInt (exactAt rows c) cfg.base
  else
    let w := tcol (rows.headD 0#2048) c
    if cfg.fmt = 0xC then .ofInt w.toInt 0 else f32 w

/-- The first `n` columns of a new row over an old one: columns outside a destination's shape are not written (R137). -/
def mergeCols (n : Nat) (old new : TileRow) : TileRow :=
  tileOfCols ((List.range 64).map fun c => if c < n then tcol new c else tcol old c)

/-- Zero a tile register and clear its flag (R147, R149). -/
def LaneSt.zeroTile (exact : Bool) (reg : Nat) (l : LaneSt) : LaneSt :=
  (groupRegs exact reg).foldl (fun l g =>
    { l with acc := kfilter (fun k => k / 64 != g) l.acc, accUse := kset false l.accUse g false }) l

/-! ### Weight registers -/

/-- Weight shadow 0 or 1. -/
def LaneSt.ws (l : LaneSt) (n : Nat) : WReg := if n = 0 then l.ws0 else l.ws1

def LaneSt.setWs (n : Nat) (w : WReg) (l : LaneSt) : LaneSt := if n = 0 then { l with ws0 := w } else { l with ws1 := w }

/-- A weight shadow marked empty keeps its configuration and reads as zero (R70, R139, R149). -/
def WReg.emptied (w : WReg) : WReg := { w with rows := [], srcs := [], used := false }

/-- Rows that one full tile takes in a format, without the scale row (R137). -/
def weightRows (fmt : Nat) : Nat :=
  match fmtClass fmt with
  | .b8 => 8
  | .b16 => 16
  | .b4 => 4

/-- Element (k, n) of a weight tile (R137); outside the shape it counts as zero. -/
def WReg.elem (w : WReg) (cfg : TileCfg) (k n : Nat) : Nat :=
  if cfg.rows ≤ k ∨ cfg.cols ≤ n ∨ !w.used then 0
  else
    let b := elemBits cfg.fmt
    let bit := (64 * k + n) * b
    rowBits (kget 0#4096 w.rows (bit / 4096)) (bit % 4096) b

/-- Scale byte of sub-block (kb, nb) (R165, R166); 127 where the format has none. -/
def WReg.scaleOf (w : WReg) (fmt kb nb : Nat) : Nat :=
  if isMX fmt then rowBits (kget 0#4096 w.rows (weightRows fmt)) (8 * (2 * kb + nb)) 8 else 127

/-- Land one fetched row in a weight shadow (R138, R149). -/
def WReg.landRow (j : Nat) (data : Row) (src : Src) (t : Nat) (w : WReg) : WReg :=
  { w with rows := kset 0#4096 w.rows j data, srcs := kset .kept w.srcs j src, used := true,
           fill := match w.fill with
             | some (tag, full) => if full ≤ t then none else some (tag, full)
             | none => none }

/-- A packed row lands in a weight shadow. -/
def Dev.landWgtRow (o : Owner) (lane ws j : Nat) (data : Row) (src : Src) (d : Dev) : Dev :=
  let w := (d.lane o.core lane).ws ws
  let u : Undo := { owner := o, core := o.core, place := .weights lane ws j, row := kget 0#4096 w.rows j, src := kget .kept w.srcs j }
  (d.noteUndo u).onLane o.core lane fun l => l.setWs ws ((l.ws ws).landRow j data src d.run.tick)

/-! ### GEMV vector registers -/

def LaneSt.gvRow (l : LaneSt) (g e : Nat) : Row := if kget false l.gvUse g then kget 0#4096 l.gv (g * 32 + e) else 0#4096

/-! ### The presented entry (R47, R142) -/

/-- The entry presented to a stage in this tick. -/
def LaneSt.presented (l : LaneSt) (stage t : Nat) : Option Entry :=
  l.approach.find? fun e => e.present == t && e.stage == stage

/-! ### TCFG (R133 to R135, R182) -/

/-- The configuration a TCFG carries. -/
def tcfgOf (i : Inst) : TileCfg :=
  { rows := i.extBits 0 6 + 1, cols := i.extBits 6 6 + 1, fmt := i.fmt, exact := i.exact,
    base := if i.fmt = 0xD then sgn 12 (i.extBits 12 12) else 0 }

/-- The table of R134: the register takes the configuration. -/
def tcfgOk (l : LaneSt) (reg : Nat) (c : TileCfg) : Bool :=
  if reg = 0 ∨ reg = 4 then decide (c.fmt = 0xB ∨ c.fmt = 0xC ∨ c.fmt = 0xD) && (c.exact == decide (c.fmt = 0xD))
  else if reg < 8 then decide (c.fmt = 0xB ∨ c.fmt = 0xC) && !c.exact && !l.headExact reg
  else if reg = 8 ∨ reg = 9 then decide (c.fmt ≤ 0xA) && !c.exact
  else if reg = 10 ∨ reg = 11 then decide (c.fmt ≤ 0xA) && !c.exact && decide (c.cols = 64)
  else false

/-- Write a configuration; making a head exact clears the other three registers' configurations (R135). -/
def LaneSt.setCfg (reg : Nat) (c : TileCfg) (l : LaneSt) : LaneSt :=
  if reg < 8 then
    let cfgs := if c.exact then [reg + 1, reg + 2, reg + 3].foldl (fun m g => kset none m g none) l.accCfg else l.accCfg
    { l with accCfg := kset none cfgs reg (some c) }
  else if reg < 10 then l.setWs (reg - 8) { l.ws (reg - 8) with cfg := some c }
  else { l with gvCfg := kset none l.gvCfg (reg - 10) (some c) }

/-- TAG of an operation in flight that latched a tile register of a lane (R366, kinds 3 and 4). -/
def Dev.inFlightOn (d : Dev) (core lane reg : Nat) : Option Nat :=
  match d.run.ops.find? (fun o => o.core == core && o.lane == lane && (o.tile == reg) && !o.members.isEmpty) with
  | some o => o.members.getLast?.map fun m => m.owner.tag
  | none =>
    (d.run.sched.find? fun x =>
      match x.act with
      | .row opc i _ ln _ =>
        x.owner.core == core &&
          ((opc == 0x31 && ln == lane && opTile i.opa == reg) ||
           (opc == 0xA2 && ln == lane && (opTile i.opa == reg || opTile i.opd == reg)) ||
           ((opc == 0x41 || opc == 0x44) && opTile i.opa == reg) ||
           ((opc == 0x42 || opc == 0x43) && (opTile i.opa == reg || opTile i.opd == reg)))
      | .landTmov i ln _ => x.owner.core == core && ln == lane && opTile i.opd == reg
      | .landTile ln tl _ _ => x.owner.core == core && ln == lane && tl == reg
      | _ => false).map fun x => x.owner.tag

/-- Hazard kind 3: a write of a tile register into which an operation it does not chain to is in flight. -/
def Dev.checkReuse (o : Owner) (core lane reg : Nat) (d : Dev) : Bool × Dev :=
  match d.inFlightOn core lane reg with
  | some tag => if tag = o.tag then (true, d) else d.hazard 3 o tag 1 reg
  | none => (true, d)

/-- One lane of a TCFG. -/
def Dev.tcfgLane (i : Inst) (o : Owner) (lane : Nat) (d : Dev) : Dev :=
  let reg := opTile i.opd
  let c := tcfgOf i
  let (ok, d0) := d.takeUnit o lane 1 1
  if !ok then d0
  else if tcfgOk (d0.lane i.coreN lane) reg c then
    let (go, d1) := match d0.inFlightOn i.coreN lane reg with
      | some tag => d0.hazard 4 o tag 1 reg
      | none => (true, d0)
    if go then d1.onLane i.coreN lane (LaneSt.setCfg reg c) else d1
  else d0.raise o 0x0201

/-- Run `f` for each lane the occurrence selects, each with the owner of that lane. -/
def Dev.forLanes (i : Inst) (unit : Nat) (f : Owner → Nat → Dev → Dev) (d : Dev) : Dev :=
  (laneList i.lane.toNat).foldl (fun d l => f (ownerOf i unit (l + 1) d) l d) d

/-! ### TZERO (R147) -/

def Dev.tzeroLane (i : Inst) (o : Owner) (lane : Nat) (d : Dev) : Dev :=
  let (ok, d1) := d.takeUnit o lane 1 1
  let reg := opTile i.opd
  let l := d1.lane i.coreN lane
  if ok then d1.sched (d.run.tick + 1) true o (.tzero lane reg (l.headExact reg && reg == headOf reg)) else d1

/-- The landing of a TZERO: the tile as it was configured at issue (R133). -/
def Dev.landTzero (o : Owner) (lane reg : Nat) (exact : Bool) (d : Dev) : Dev :=
  let (go, d1) := d.checkReuse o o.core lane reg
  if go then d1.onLane o.core lane (LaneSt.zeroTile exact reg) else d1

/-! ### TMOV (R131, R132) -/

/-- Configuration of a tile register; the array's is that of the shadow swapped in. -/
def LaneSt.regCfg (l : LaneSt) (reg : Nat) : Option TileCfg :=
  if reg < 8 then (if l.covered reg then none else l.cfgOf reg)
  else if reg < 10 then (l.ws (reg - 8)).cfg
  else if reg = 12 then l.array.cfg
  else none

/-- The pairs of R131 with their shape rules. -/
def tmovOk (a d : Nat) (ca cd : TileCfg) : Bool :=
  if a < 8 ∧ d < 8 then decide (ca.fmt = cd.fmt ∧ cd.rows ≤ ca.rows ∧ cd.cols ≤ ca.cols)
  else if (a < 8 ∨ a = 8 ∨ a = 9 ∨ a = 12) ∧ (d = 8 ∨ d = 9) then decide (ca.rows = cd.rows ∧ ca.cols = cd.cols)
  else false

/-- Row j of a weight register as a tile row of packed elements. -/
def WReg.packedRow (w : WReg) (fmt j : Nat) : TileRow :=
  let b := elemBits fmt
  let bit := 64 * j * b
  if w.used then BitVec.ofNat 2048 (rowBits (kget 0#4096 w.rows (bit / 4096)) (bit % 4096) (64 * b)) else 0#2048

/-- Row j of a TMOV's source as it stands. -/
def LaneSt.sourceRow (l : LaneSt) (reg : Nat) (cfg : TileCfg) (j : Nat) : List TileRow :=
  if reg < 8 then l.tileRow cfg.exact reg j
  else if reg < 10 then [(l.ws (reg - 8)).packedRow cfg.fmt j]
  else [l.array.packedRow cfg.fmt j]

/-- Bits of a list of equal-width elements, element 0 lowest. -/
def packBits (b : Nat) (es : List Nat) : Nat := es.foldr (fun e acc => e % 2 ^ b + 2 ^ b * acc) 0

/-- Cut a bit string into rows. -/
def rowsOfBits (n x : Nat) : List Row := (List.range n).map fun j => BitVec.ofNat 4096 (x / 2 ^ (4096 * j))

/-- Random word of an element for an occurrence with RND = 2, else 0 (R174, R177). -/
def drawFor (i : Inst) (lt : Latch) (r c : Nat) : Nat :=
  if i.rnd = 2 then (elemRand lt.key lt.ctr lt.pass (i.extBits 10 16) i.lin r c).toNat % 2 ^ 32 else 0

/-- Weight rows of a converted tile (R131, R137, R161, R168, R185). `rows` are the 64 source rows. -/
def convertWeights (i : Inst) (lt : Latch) (ca cd : TileCfg) (rows : List (List TileRow)) : List Row :=
  let val (k n : Nat) : Val := if cd.rows ≤ k ∨ cd.cols ≤ n then .fin false 0 0 else tileElem ca (rows.getD k []) n
  let sign (x : Nat) : Nat := if ca.fmt = 0xB then x else plusZero cd.fmt x
  let b := elemBits cd.fmt
  let nrows := weightRows cd.fmt
  if isMX cd.fmt then
    let blk (kb nb : Nat) : Nat × List Nat :=
      let x := mxBlock cd.fmt i.rnd (fun e => drawFor i lt (32 * kb + e / 32) (32 * nb + e % 32))
        ((List.range 1024).map fun e => val (32 * kb + e / 32) (32 * nb + e % 32))
      (x.1, x.2.map sign)
    let b00 := blk 0 0
    let b01 := blk 0 1
    let b10 := blk 1 0
    let b11 := blk 1 1
    let rowBitsOf (p q : Nat × List Nat) (k : Nat) : Nat :=
      packBits b (p.2.drop (32 * k) |>.take 32) + 2 ^ (32 * b) * packBits b (q.2.drop (32 * k) |>.take 32)
    let top := (List.range 32).map (rowBitsOf b00 b01)
    let bot := (List.range 32).map (rowBitsOf b10 b11)
    rowsOfBits nrows (packBits (64 * b) (top ++ bot)) ++ [BitVec.ofNat 4096 (packBits 8 [b00.1, b01.1, b10.1, b11.1])]
  else
    let elems := (List.range 64).flatMap fun k => (List.range 64).map fun n =>
      if cd.rows ≤ k ∨ cd.cols ≤ n then 0 else sign (encodeElem cd.fmt i.rnd (drawFor i lt k n) (val k n))
    rowsOfBits nrows (packBits b elems)

/-- The scale row of a weight register; a register whose flag is clear reads as zero (R149, R166). -/
def WReg.scaleRow (w : WReg) (fmt : Nat) : Row := if w.used then kget 0#4096 w.rows (weightRows fmt) else 0#4096

/-- The weight register a TMOV reads. -/
def LaneSt.weightReg (l : LaneSt) (reg : Nat) : WReg := if reg = 12 then l.array else l.ws (reg - 8)

/-- Busy tick j of a TMOV: read row j, the last one schedules the landing as a whole (R132, R195, R197). -/
def Dev.tmovRow (i : Inst) (o : Owner) (j lane : Nat) (lt : Latch) (d : Dev) : Dev :=
  let a := opTile i.opa
  let (ok, d1) := if a < 8 then d.usePort portQueue (i.coreN * 2 + lane) 1 o else (true, d)
  match ok, lt.cfgA, lt.cfgD with
  | true, some ca, some _ =>
    let l := d1.lane i.coreN lane
    let lt' := { lt with rows0 := lt.rows0 ++ [l.sourceRow a ca j] }
    if j < 63 then d1.sched (d.run.tick + 1) false o (.row 0xA2 i (j + 1) lane lt')
    else
      let x := if a < 8 then lt' else { lt' with extra := (l.weightReg a).scaleRow ca.fmt }
      d1.sched (d.run.tick + 3) true o (.landTmov i lane x)
  | _, _, _ => d1

/-- A SPEC descriptor fills weight shadows, listed as lane and shadow: they are noted against its fork (R70). -/
def Dev.noteFilled (core : Nat) (spec : Bool) (shadows : List (Nat × Nat)) (d : Dev) : Dev :=
  if spec then d.onCore core fun k => { k with fork := k.fork.map fun f => { f with filled := f.filled ++ shadows } } else d

/-- Issue of one lane of a TMOV; its first row is read at issue. -/
def Dev.tmovLane (i : Inst) (o : Owner) (lane : Nat) (d : Dev) : Dev :=
  let a := opTile i.opa
  let t := opTile i.opd
  let (ok, d1) := d.takeUnit o lane 1 64
  if !ok then d1
  else
    let l := d1.lane i.coreN lane
    match l.regCfg a, l.regCfg t with
    | some ca, some ct =>
      if tmovOk a t ca ct then
        let (go, d2) := d1.checkReuse o i.coreN lane t
        let d3 := if t = 8 ∨ t = 9 then d2.noteFilled i.coreN i.spec [(lane, t - 8)] else d2
        if go then d3.tmovRow i o 0 lane
          { cfgA := some ca, cfgD := some ct, key := (d.passKey (i.extBits 0 10)).1, ctr := (d.passKey (i.extBits 0 10)).2,
            pass := d.run.passNo }
        else d2
      else d1.raise o 0x0201
    | _, _ => d1.raise o 0x0201

/-- Row r of a whole tile lands in the committed copies: columns outside the shape keep their values. -/
def LaneSt.landRow (tile : Nat) (cfg : TileCfg) (r : Nat) (rows : List TileRow) (l : LaneSt) : LaneSt :=
  if cfg.rows ≤ r then l
  else l.setTileRow tile r ((List.zip (l.tileRow cfg.exact tile r) rows).map fun p => mergeCols cfg.cols p.1 p.2)

/-- A whole tile lands in committed copies, under the configuration its instance latched (R132, R133, R147, R215). -/
def Dev.landTileWhole (o : Owner) (lane tile : Nat) (cfg : TileCfg) (rows : List (List TileRow)) (d : Dev) : Dev :=
  let (go, d1) := d.checkReuse o o.core lane tile
  if go then d1.onLane o.core lane fun l => rows.zipIdx.foldl (fun l rj => l.landRow tile cfg rj.2 rj.1) l else d1

/-- A whole weight tile lands in a shadow, written by a TMOV. -/
def Dev.landWeights (o : Owner) (lane ws : Nat) (rows : List Row) (d : Dev) : Dev :=
  let (go, d1) := d.checkReuse o o.core lane (8 + ws)
  if !go then d1
  else d1.onLane o.core lane fun l =>
    let w := l.ws ws
    l.setWs ws { w with rows := rows.zipIdx.foldl (fun m p => kset 0#4096 m p.2 p.1) w.rows,
                        srcs := rows.zipIdx.foldl (fun m p => kset .kept m p.2 (.reg o.issue)) w.srcs, used := true, fill := none }

/-- The rows a TMOV writes into a weight shadow (R131, R132): converted from an accumulator tile, or the source's as they are. -/
def tmovWeights (i : Inst) (lt : Latch) (ca cd : TileCfg) : List Row :=
  if opTile i.opa < 8 then convertWeights i lt ca cd lt.rows0
  else rowsOfBits (weightRows ca.fmt) (packBits (64 * elemBits ca.fmt) (lt.rows0.map fun r => (r.headD 0#2048).toNat)) ++
    (if isMX ca.fmt then [lt.extra] else [])

/-- A TMOV lands (R132). -/
def Dev.landTmov (o : Owner) (i : Inst) (lane : Nat) (lt : Latch) (d : Dev) : Dev :=
  let t := opTile i.opd
  match lt.cfgA, lt.cfgD with
  | some ca, some cd => if t < 8 then d.landTileWhole o lane t cd lt.rows0 else d.landWeights o lane (t - 8) (tmovWeights i lt ca cd)
  | _, _ => d

/-! ### The fetch stage (R46, R47, R83, R223) -/

/-- A row rotated: entry byte i is row byte (i + rho) mod 512 (R223). -/
def rotateRow (rho : Nat) (r : Row) : Row :=
  let x := r.toNat
  BitVec.ofNat 4096 (x / 2 ^ (8 * rho) + (x % 2 ^ (8 * rho)) * 2 ^ (8 * (512 - rho)))

/-- Put an entry into a lane's approach queue. -/
def LaneSt.present (e : Entry) (l : LaneSt) : LaneSt := { l with approach := l.approach ++ [e] }

/-- Busy tick j of a FETCH.ROW: one read serves both lanes (R83). -/
def Dev.fetchRowTick (i : Inst) (o : Owner) (j : Nat) (d : Dev) : Dev :=
  let bank := opBank i.opa
  let row := opRow i.opa + j
  let (r, d1) := d.readRow o i.coreN bank row
  match r with
  | none => d1
  | some v =>
    let e : Entry := { present := d.run.tick + d.lead, stage := i.sub, data := rotateRow i.rotate v,
                       src := .scratch bank row i.rotate o.issue }
    let d2 := (laneList i.lane.toNat).foldl (fun d l => d.onLane i.coreN l (LaneSt.present e)) d1
    if j + 1 < i.cnt then d2.sched (d.run.tick + i.interval) false o (.row 0x01 i (j + 1) 0 {}) else d2

/-- Busy tick j of one lane of a FETCH.VBUF. -/
def Dev.fetchVbufTick (i : Inst) (o : Owner) (j lane : Nat) (d : Dev) : Dev :=
  let v := opVbuf i.opa + j
  let (r, d1) := d.readVbuf o i.coreN lane v
  match r with
  | none => d1
  | some x =>
    let e : Entry := { present := d.run.tick + d.lead, stage := i.sub, data := rotateRow i.rotate x,
                       src := .vbuf lane v i.rotate o.issue }
    let d2 := d1.onLane i.coreN lane (LaneSt.present e)
    if j + 1 < i.cnt then d2.sched (d.run.tick + i.interval) false o (.row 0x02 i (j + 1) lane {}) else d2

/-- COUNT limit of a FETCH.WGT (R599). -/
def fetchWgtLimit (c : Option TileCfg) : Nat :=
  match c with
  | some c => weightRows c.fmt + (if isMX c.fmt then 1 else 0)
  | none => 16

/-- Busy tick j of a FETCH.WGT: each fetched row lands L ticks later (R138). -/
def Dev.fetchWgtTick (i : Inst) (o : Owner) (j : Nat) (d : Dev) : Dev :=
  let bank := opBank i.opa
  let row := opRow i.opa + j
  let (r, d1) := d.readRow o i.coreN bank row
  match r with
  | none => d1
  | some v =>
    let ws := opTile i.opd - 8
    let d2 := (laneList i.lane.toNat).foldl (fun d l =>
      d.sched (d.run.tick + d.lead) true o (.landWgt l ws j v (.scratch bank row 0 o.issue))) d1
    if j + 1 < i.cnt then d2.sched (d.run.tick + i.interval) false o (.row 0x03 i (j + 1) 0 {}) else d2

/-- The occurrence in some of its lanes: in none with lane select 0. -/
def inLanes (i : Inst) (ls : List Nat) : Inst := { i with lane := BitVec.ofNat 2 (ls.map fun l => l + 1).sum }

/-- Take the fetch unit of every lane selected: the lanes whose instance goes on (R36, R82). -/
def Dev.takeLanes (i : Inst) (unit step count : Nat) (d : Dev) : List Nat × Dev :=
  (laneList i.lane.toNat).foldl (fun x l =>
    let y := x.2.takeUnit (ownerOf i unit (l + 1) d) l step count
    (if y.1 then x.1 ++ [l] else x.1, y.2)) ([], d)

/-- Issue of a FETCH.ROW: the instances that go on share one read (R83). -/
def Dev.fetchRow (i : Inst) (d : Dev) : Dev :=
  let (ls, d1) := d.takeLanes i 0 i.interval i.cnt
  let j := inLanes i ls
  if ls.isEmpty then d1 else d1.fetchRowTick j (ownerOf j 0 j.lane.toNat d) 0

/-- Issue of a FETCH.VBUF. -/
def Dev.fetchVbuf (i : Inst) (d : Dev) : Dev :=
  let (ls, d1) := d.takeLanes i 0 i.interval i.cnt
  ls.foldl (fun d l => d.fetchVbufTick i (ownerOf i 0 (l + 1) d) 0 l) d1

/-- One lane of a FETCH.WGT at issue: its shadow begins to fill (R138, R366, R599); lanes whose instance goes on are listed. D names WS0
or WS1; what another D does the spec does not say, and here it raises TCFG_INCONSISTENT as a larger COUNT does (DESIGN CHOICE,
notes/assumptions/105.md). -/
def Dev.fillLane (i : Inst) (o : Owner) (ws full : Nat) (x : List Nat × Dev) (l : Nat) : List Nat × Dev :=
  if fetchWgtLimit ((x.2.lane i.coreN l).ws ws).cfg < i.cnt ∨ (opTile i.opd ≠ 8 ∧ opTile i.opd ≠ 9) then (x.1, x.2.raise { o with lane := l + 1 } 0x0201)
  else
    let (go, d1) := x.2.checkReuse { o with lane := l + 1 } i.coreN l (8 + ws)
    if go then (x.1 ++ [l], d1.onLane i.coreN l fun y => y.setWs ws { y.ws ws with fill := some (i.tag.toNat, full) }) else (x.1, d1)

/-- Issue of a FETCH.WGT: the shadows fill (R138); those of a SPEC descriptor are noted against its fork (R70). -/
def Dev.fetchWgt (i : Inst) (d : Dev) : Dev :=
  let (ls, d1) := d.takeLanes i 0 i.interval i.cnt
  let o := ownerOf i 0 i.lane.toNat d
  let ws := opTile i.opd - 8
  let full := d.run.tick + (i.cnt - 1) * i.interval + d.lead
  let x := ls.foldl (Dev.fillLane i o ws full) ([], d1)
  let j := inLanes i x.1
  if x.1.isEmpty then x.2
  else (x.2.noteFilled i.coreN i.spec (x.1.map fun l => (l, ws))).fetchWgtTick j (ownerOf j 0 j.lane.toNat d) 0

end Sys2Proof.Machine
end

