-- ==== Sys2Proof/Machine/Matrix.lean ====
section
/-! DEFINITION. The matrix array and the GEMV path: streams, shadow tiles, chains, completion (R95, R98, R99, R129, R136 to
R153, R165 to R173, R183, R595). -/

namespace Sys2Proof.Machine

/-! ### Streams -/

/-- Ticks from issue at which row j enters the array (R141). -/
def entryTick (cls : FmtClass) (exact : Bool) (j : Nat) : Nat :=
  match cls, exact with
  | .b8, false => j
  | .b8, true => 2 * j
  | .b16, _ => 2 * j
  | .b4, false => j / 2
  | .b4, true => j

/-- Busy ticks of a stream of `n` rows (R141). -/
def streamBusy (cls : FmtClass) (exact : Bool) (n : Nat) : Nat :=
  match cls, exact with
  | .b8, false => n
  | .b8, true => 2 * n
  | .b16, _ => 2 * n
  | .b4, false => (n + 1) / 2
  | .b4, true => n

/-- Input rows an approach entry carries (R98, R141). -/
def rowsPerEntry : FmtClass → Nat
  | .b8 => 8
  | .b16 => 4
  | .b4 => 16

/-- K values one GEMV entry carries (R151). -/
def gemvK : FmtClass → Nat
  | .b8 => 8
  | .b16 => 4
  | .b4 => 16

/-- Weight-side register a stream uses, as it stands before any swap. -/
def LaneSt.weightSide (l : LaneSt) (opb : Nat) : WReg := if opb = 8 ∨ opb = 9 then l.ws (opb - 8) else l.array

/-- Rounding modes a D accepts (R136). -/
def rndOk (cfgD : TileCfg) (rnd : Nat) : Bool := if cfgD.fmt = 0xB then decide (rnd ≤ 2) else decide (rnd = 0)

/-- Format pairing of R136. -/
def pairOk (fmt dfmt : Nat) : Bool :=
  if fmt = 0x7 ∨ fmt = 0x8 then decide (dfmt = 0xC ∨ dfmt = 0xD) else decide (dfmt = 0xB ∨ dfmt = 0xD)

/-- The conditions of R136 for a stream; `t` for MAT.STREAMT. -/
def streamOk (i : Inst) (l : LaneSt) (t : Bool) : Option (TileCfg × TileCfg) :=
  let b := opTile i.opb
  let dreg := opTile i.opd
  match (l.weightSide b).cfg, (if l.covered dreg then none else l.cfgOf dreg) with
  | some cw, some cd =>
    if (b = 8 ∨ b = 9 ∨ (b = 12 ∧ l.array.used)) ∧ i.fmt = cw.fmt ∧ pairOk cw.fmt cd.fmt ∧ i.exact = cd.exact ∧ rndOk cd i.rnd ∧ i.epi = 0 ∧
       cd.cols = (if t then cw.rows else cw.cols) ∧ i.cnt ≤ cd.rows then some (cw, cd) else none
  | _, _ => none

/-- Swap a weight shadow into the array (R139, R149): the array takes its contents and configuration, the shadow becomes
empty. -/
def LaneSt.swap (n : Nat) (l : LaneSt) : LaneSt :=
  let w := l.ws n
  { l.setWs n { w.emptied with fill := w.fill } with array := { w with used := true, fill := none } }

/-- Join the operation in flight into a tile, or begin one (R99, R144, R146). Answers the member's rank. -/
def joinOp (core lane tile : Nat) (m : Member) (complete : Nat) (ops : List TileOp) : Nat × List TileOp :=
  match ops.find? (fun o => o.core == core && o.lane == lane && o.tile == tile) with
  | some o =>
    (o.members.length, updFirst (fun o => o.core == core && o.lane == lane && o.tile == tile)
      (fun o => { o with members := o.members ++ [m], complete := max o.complete complete }) ops)
  | none => (0, ops ++ [{ core := core, lane := lane, tile := tile, members := [m], complete := complete }])

/-- The new instance chains to the operation in flight into its tile (R99). -/
def chainsTo (ops : List TileOp) (core lane tile : Nat) (m : Member) : Bool :=
  match ops.find? (fun o => o.core == core && o.lane == lane && o.tile == tile) with
  | some o => m.acc && (match o.members.getLast? with
      | some e => e.acc && decide (e.cfgD = m.cfgD ∧ e.cfgW.fmt = m.cfgW.fmt)
      | none => true)
  | none => true

/-- Enter a member into its tile's operation, reporting reuse: its rank, none where Watchpost stops it (R146, R366). -/
def Dev.enterOp (m : Member) (lane tile complete : Nat) (d : Dev) : Option Nat × Dev :=
  let c := m.owner.core
  let (go, d1) := if chainsTo d.run.ops c lane tile m then (true, d) else d.checkReuse m.owner c lane tile
  let r := joinOp c lane tile m complete d1.run.ops
  if go then (some r.1, d1.onRun fun x => { x with ops := r.2 }) else (none, d1)

/-- Take the entry presented for the matrix stage into the input latch; none presented makes its rows zero (R142). -/
def LaneSt.takeLatch (t : Nat) (l : LaneSt) : LaneSt :=
  match l.presented 0 t with
  | some e => { l with inLatch := e.data, inSrc := e.src }
  | none => { l with inLatch := 0#4096, inSrc := .kept }

/-- Change the operation on a tile. -/
def RunSt.onOp (core lane tile : Nat) (f : TileOp → TileOp) (r : RunSt) : RunSt :=
  { r with ops := updFirst (fun o => o.core == core && o.lane == lane && o.tile == tile) f r.ops }

/-- One input row enters the array (R137, R141, R143, R166). -/
def Dev.enterRow (o : Owner) (fmt : Nat) (tile lane member j : Nat) (d : Dev) : Dev :=
  let t := d.run.tick
  let per := rowsPerEntry (fmtClass fmt)
  let d1 := if j % per = 0 then d.onLane o.core lane (LaneSt.takeLatch t) else d
  let l := d1.lane o.core lane
  let w := 64 * elemBits fmt
  let sx (b : Nat) : Nat := if isMX fmt then rowBits l.scale (8 * (2 * (j % 256) + b)) 8 else 127
  let r : MatRow := { j := j, land := t + 133, data := BitVec.ofNat 1024 (rowBits l.inLatch (w * (j % per)) w),
                      sx0 := sx 0, sx1 := sx 1, src := l.inSrc, slice := j % per, scaleSrc := l.scaleSrc, member := member }
  (d1.onRun (RunSt.onOp o.core lane tile fun p => { p with entered := p.entered ++ [r] })).sched r.land true o (.landMat lane tile r)

/-- A tick on which rows of a stream enter; `member` travels in the latch. Two 4-bit fast rows enter together (R141). -/
def Dev.streamTick (opc : Nat) (i : Inst) (o : Owner) (j lane : Nat) (lt : Latch) (d : Dev) : Dev :=
  let tile := opTile i.opd
  let cls := fmtClass i.fmt
  let d1 := d.enterRow o i.fmt tile lane lt.bits j
  let two := entryTick cls i.exact (j + 1) = entryTick cls i.exact j
  let d2 := if two ∧ j + 1 < i.cnt then d1.enterRow o i.fmt tile lane lt.bits (j + 1) else d1
  let j' := if two then j + 2 else j + 1
  if j' < i.cnt then
    d2.sched (d.run.tick + (entryTick cls i.exact j' - entryTick cls i.exact j)) false o (.row opc i j' lane lt)
  else d2

/-- Issue of one lane of a MAT.STREAM or MAT.STREAMT. -/
def Dev.streamLane (opc : Nat) (i : Inst) (o : Owner) (lane : Nat) (d : Dev) : Dev :=
  let t := d.run.tick
  let busy := streamBusy (fmtClass i.fmt) i.exact i.cnt
  let (ok, d1) := d.takeUnit o lane 1 busy
  let l := d1.lane i.coreN lane
  let b := opTile i.opb
  if !ok then d1
  else match streamOk i l (opc == 0x12) with
    | none => d1.raise o 0x0201
    | some (cw, cd) =>
      let w := l.weightSide b
      let (go, dh) := match w.fill with
        | some (tag, _) => if b = 12 then (true, d1) else d1.hazard 3 o tag 1 b
        | none => (true, d1)
      let d2 := if b = 12 ∨ !go then dh else dh.onLane i.coreN lane (LaneSt.swap (b - 8))
      let k := d2.passKey (i.extBits 0 10)
      let m : Member := { owner := o, opc := opc, cfgD := cd, cfgW := cw,
                          weights := if b = 12 then { w with srcs := [] } else w, acc := i.acc, rnd := i.rnd, key := k.1, ctr := k.2,
                          stream := i.extBits 10 16, pass := d.run.passNo, lin := i.lin, count := i.cnt, busy := busy }
      if !go then d2
      else match d2.enterOp m lane (opTile i.opd) (t + busy + 134) with
        | (some n, d3) => d3.streamTick opc i o 0 lane { bits := n }
        | (none, d3) => d3

/-! ### Column sums -/

/-- The value of input element k of a row (R137). -/
def rowElem (fmt k : Nat) (data : BitVec 1024) : Val :=
  decodeElem fmt 0 (bitsOf data.toNat (k * elemBits fmt) (elemBits fmt))

/-- The sums of the blocks of one output element, with their scale bytes (R165, R170 to R172). `ws k` is the weight element
met by input element k, `len` the input length, `sw b` the weight scale of block b. -/
def elemBlocks (fmt : Nat) (exact : Bool) (base : Int) (len : Nat) (xs : Nat → Val) (ws : Nat → Val) (sx sw : Nat → Nat) :
    List (BlockSum × Nat × Nat) :=
  [0, 1].map fun b =>
    let ks := (List.range 32).filterMap fun e => if 32 * b + e < len then some (32 * b + e) else none
    (blockSum fmt exact base (ks.map xs) (ks.map ws) (sx b) (sw b), sx b, sw b)

/-- Outcome of one output element: its new bits, or a breach of the exact range (R144, R148, R173, R183). -/
def landElem (cfgD : TileCfg) (fmt rnd u : Nat) (base : BitVec 32) (baseN : Int) (bs : List (BlockSum × Nat × Nat)) :
    Option (BitVec 32 × Int) :=
  if cfgD.exact then
    let n := baseN + (bs.map fun b => b.1.sum).sum
    if exactInRange n && bs.all fun b => !(b.1.nan || b.1.posInf || b.1.negInf || b.1.above) then some (0#32, n) else none
  else if cfgD.fmt = 0xC then some (landINT32 base (bs.map fun b => b.1.sum).sum, 0)
  else
    let v := bs.foldl (fun a b => a.add (b.1.toVal fmt b.2.1 b.2.2)) (Val.fin false 0 0)
    some (landFP32 rnd u base v, 0)

/-- What the operation has landed of a row before tick `t`. -/
def TileOp.before (o : TileOp) (exact : Bool) (t r : Nat) : Option (List TileRow) :=
  match o.prior.find? fun p => p.1 == r && p.2.1 == t with
  | some p => p.2.2.2
  | none =>
    if kget 0 o.landed (o.tile * 64 + r) ≠ 0 then some ((groupRegs exact o.tile).map fun g => kget 0#2048 o.shadow (g * 64 + r)) else none

/-- Base rows of a row that lands at tick `t` (R144): the shadow's if the operation has landed it, else the committed row with ACC,
else zero. -/
def baseRows (op : TileOp) (l : LaneSt) (acc exact : Bool) (t r : Nat) : List TileRow :=
  match op.before exact t r with
  | some rows => rows
  | none => (groupRegs exact op.tile).map fun g => if acc then l.accRow g r else 0#2048

/-- Land a row of values: columns outside the destination's shape are not written (R137); a breach lands nothing. -/
def landedRow (cfgD : TileCfg) (base : List TileRow) (f : Nat → BitVec 32 → Int → Option (BitVec 32 × Int)) :
    Option (List TileRow) :=
  let es := (List.range 64).map fun c =>
    let b := tcol (base.headD 0#2048) c
    let n := if cfgD.exact then exactAt base c else 0
    if c < cfgD.cols then f c b n else some (b, n)
  if es.any Option.isNone then none
  else
    let vs := es.filterMap id
    some (if cfgD.exact then exactRows (vs.map (·.2)) else [tileOfCols (vs.map (·.1))])

/-- Value of one stream row at its landing (R129, R137, R144). -/
def streamRow (m : Member) (r : MatRow) (base : List TileRow) : Option (List TileRow) :=
  let fmt := m.cfgW.fmt
  let t := m.opc == 0x12
  let len := if t then m.cfgW.cols else m.cfgW.rows
  let sx (b : Nat) : Nat := if b = 0 then r.sx0 else r.sx1
  landedRow m.cfgD base fun c b n =>
    let w (k : Nat) : Val := decodeElem fmt 0 (if t then m.weights.elem m.cfgW c k else m.weights.elem m.cfgW k c)
    let sw (blk : Nat) : Nat := if t then m.weights.scaleOf fmt (c / 32) blk else m.weights.scaleOf fmt blk (c / 32)
    let u := if m.rnd = 2 then (elemRand m.key m.ctr m.pass m.stream m.lin r.j c).toNat % 2 ^ 32 else 0
    landElem m.cfgD fmt m.rnd u b n (elemBlocks fmt m.cfgD.exact m.cfgD.base len (fun k => rowElem fmt k r.data) w sx sw)

/-- Put a row of member `m`, landing at tick `t`, into an operation's shadow tile, with the columns it wrote; of two that land in one tick the value of the
later-issued stands (R146). -/
def TileOp.land (m : Member) (t r : Nat) (rows : List TileRow) (o : TileOp) : TileOp :=
  let old := o.prior.find? fun p => p.1 == r && p.2.1 == t
  if old.any fun p => decide (m.owner.issue < p.2.2.1) then o
  else
    { o with shadow := rows.zipIdx.foldl (fun s p => kset 0#2048 s ((o.tile + p.2) * 64 + r) p.1) o.shadow
             landed := rows.zipIdx.foldl (fun s p =>
               let k := (o.tile + p.2) * 64 + r
               kset 0 s k (max (kget 0 s k) m.cfgD.cols)) o.landed
             prior := (r, t, m.owner.issue, o.before m.cfgD.exact t r) :: o.prior.filter fun p => p.1 != r }

/-- Find the operation on a tile. -/
def Dev.opOn (d : Dev) (core lane tile : Nat) : Option TileOp :=
  d.run.ops.find? fun o => o.core == core && o.lane == lane && o.tile == tile

def Dev.setOp (op : TileOp) (d : Dev) : Dev :=
  d.onRun (RunSt.onOp op.core op.lane op.tile fun _ => op)

/-- A stream row lands in the shadow tile, or raises EXACT_RANGE (R143, R144, R148). -/
def Dev.landMat (o : Owner) (lane tile : Nat) (r : MatRow) (d : Dev) : Dev :=
  match d.opOn o.core lane tile with
  | none => d
  | some op =>
    match op.members[r.member]? with
    | none => d
    | some m =>
      match streamRow m r (baseRows op (d.lane o.core lane) m.acc m.cfgD.exact d.run.tick r.j) with
      | some rows => d.setOp (op.land m d.run.tick r.j rows)
      | none => d.raise o 0x0301

/-! ### GEMV (R151 to R153, R595) -/

/-- A tick of a GEMV.LOADV: entry j goes into bytes 512 j to 512 j + 511 of the vector register (R142, R153). -/
def Dev.loadvTick (i : Inst) (o : Owner) (j lane : Nat) (d : Dev) : Dev :=
  let g := opTile i.opd - 10
  let e := (d.lane i.coreN lane).presented 1 d.run.tick
  let data := match e with
    | some e => e.data
    | none => 0#4096
  let src := match e with
    | some e => e.src
    | none => .kept
  let d1 := d.onLane i.coreN lane fun l =>
    let gv := if kget false l.gvUse g then l.gv else kfilter (fun k => k / 32 != g) l.gv
    { l with gv := kset 0#4096 gv (g * 32 + j) data, gvSrc := kset (.kept, 0) l.gvSrc (g * 32 + j) (src, o.issue),
             gvUse := kset false l.gvUse g true }
  if j + 1 < i.cnt then d1.sched (d.run.tick + 1) false o (.row 0x21 i (j + 1) lane {}) else d1

/-- Issue of one lane of a GEMV.LOADV: COUNT * 512 bytes at most 16,384 (R153). R95 does not hold it: FMT and EXACT are unused (DEDUCED,
notes/assumptions/107.md). D names GV0 or GV1; what another D does the spec does not say, and here it raises TCFG_INCONSISTENT as a
larger COUNT does (DESIGN CHOICE, notes/assumptions/106.md). -/
def Dev.loadvLane (i : Inst) (o : Owner) (lane : Nat) (d : Dev) : Dev :=
  let (ok, d1) := d.takeUnit o lane 1 i.cnt
  if !ok then d1
  else if 32 < i.cnt ∨ (opTile i.opd ≠ 10 ∧ opTile i.opd ≠ 11) then d1.raise o 0x0201
  else
    let (go, d2) := d1.checkReuse o i.coreN lane (opTile i.opd)
    if go then d2.loadvTick i o 0 lane else d2

/-- The conditions of R136 for a GEMV.MAC. -/
def gemvOk (i : Inst) (l : LaneSt) : Option (TileCfg × TileCfg) :=
  let dreg := opTile i.opd
  match kget none l.gvCfg 0, (if l.covered dreg then none else l.cfgOf dreg) with
  | some cg, some cd =>
    if (cd.rows < 2 ∨ kget none l.gvCfg 1 = some cg) ∧ i.fmt = cg.fmt ∧ pairOk cg.fmt cd.fmt ∧ i.exact = cd.exact ∧
       rndOk cd i.rnd ∧ i.epi = 0 ∧ cd.cols ≤ 64 ∧ i.cnt * gemvK (fmtClass cg.fmt) ≤ cg.rows * 128 then some (cg, cd) else none
  | _, _ => none

/-- A tick of a GEMV.MAC: it takes the entry presented for its stage, zeros where none is (R142, R151). -/
def Dev.gemvTick (i : Inst) (o : Owner) (j lane : Nat) (lt : Latch) (d : Dev) : Dev :=
  let tile := opTile i.opd
  let e := (d.lane i.coreN lane).presented 1 d.run.tick
  let x : Row × Src := match e with
    | some e => (e.data, e.src)
    | none => (0#4096, .kept)
  let d1 := d.onRun (RunSt.onOp o.core lane tile fun p =>
    { p with members := p.members.zipIdx.map fun q =>
               if q.2 = lt.bits then { q.1 with taken := q.1.taken ++ [x] } else q.1 })
  if j + 1 < i.cnt then d1.sched (d.run.tick + 1) false o (.row 0x22 i (j + 1) lane lt)
  else d1.sched (d.run.tick + 12) true o (.landGemv lane tile lt.bits)

def Dev.gemvLane (i : Inst) (o : Owner) (lane : Nat) (d : Dev) : Dev :=
  let (ok, d1) := d.takeUnit o lane 1 i.cnt
  let l := d1.lane i.coreN lane
  if !ok then d1
  else match gemvOk i l with
    | none => d1.raise o 0x0201
    | some (cg, cd) =>
      let k := d1.passKey (i.extBits 0 10)
      let m : Member := { owner := o, opc := 0x22, cfgD := cd, cfgW := cg, weights := {},
                          gv := kfilter (fun k => kget false l.gvUse (k / 32)) l.gv,
                          gvSrc := l.gvSrc, gv2 := decide (2 ≤ cd.rows), acc := i.acc, rnd := i.rnd, key := k.1, ctr := k.2,
                          stream := i.extBits 10 16, pass := d.run.passNo, lin := i.lin, count := i.cnt, busy := i.cnt }
      match d1.enterOp m lane (opTile i.opd) (d.run.tick + i.cnt + 12) with
      | (some n, d2) => d2.gemvTick i o 0 lane { bits := n }
      | (none, d2) => d2

/-- Entries of a GEMV.MAC without its scale entries, and its scale entries (R166). -/
def gemvSplit (fmt : Nat) (taken : List (Row × Src)) : List Row × List Row :=
  let e := 4096 / gemvK (fmtClass fmt)
  if isMX fmt then
    ((taken.zipIdx.filter fun p => p.2 % (e + 1) != 0).map fun p => p.1.1,
     (taken.zipIdx.filter fun p => p.2 % (e + 1) == 0).map fun p => p.1.1)
  else (taken.map (·.1), [])

/-- Row v (0 or 1) of a GEMV.MAC at its landing (R152, R595). -/
def gemvRow (m : Member) (v : Nat) (base : List TileRow) : Option (List TileRow) :=
  let fmt := m.cfgW.fmt
  let ke := gemvK (fmtClass fmt)
  let b := elemBits fmt
  let sp := gemvSplit fmt m.taken
  let ks := sp.1.length * ke
  let span := 4096 / 32
  landedRow m.cfgD base fun c bw n =>
    let w (k : Nat) : Val :=
      let bit := (64 * (k % ke) + c) * b
      decodeElem fmt 0 (rowBits (sp.1.getD (k / ke) 0#4096) bit b)
    let x (k : Nat) : Val :=
      let bit := k * b
      decodeElem fmt 0 (rowBits (kget 0#4096 m.gv (v * 32 + bit / 4096)) (bit % 4096) b)
    let scale (blk off : Nat) : Nat := if isMX fmt then rowBits (sp.2.getD (blk / span) 0#4096) (8 * off) 8 else 127
    let bs := (List.range ((ks + 31) / 32)).map fun blk =>
      let is := (List.range 32).filterMap fun e => if 32 * blk + e < ks then some (32 * blk + e) else none
      let sx := scale blk (256 + 128 * v + blk % span)
      let sw := scale blk (2 * (blk % span) + c / 32)
      (blockSum fmt m.cfgD.exact m.cfgD.base (is.map x) (is.map w) sx sw, sx, sw)
    let u := if m.rnd = 2 then (elemRand m.key m.ctr m.pass m.stream m.lin v c).toNat % 2 ^ 32 else 0
    landElem m.cfgD fmt m.rnd u bw n bs

/-- Both rows of a GEMV.MAC land (R152). -/
def Dev.landGemv (o : Owner) (lane tile member : Nat) (d : Dev) : Dev :=
  match d.opOn o.core lane tile with
  | none => d
  | some op =>
    match op.members[member]? with
    | none => d
    | some m =>
      let l := d.lane o.core lane
      match gemvRow m 0 (baseRows op l m.acc m.cfgD.exact d.run.tick 0) with
      | none => d.raise o 0x0301
      | some r0 =>
        let op1 := op.land m d.run.tick 0 r0
        if !m.gv2 then d.setOp op1
        else match gemvRow m 1 (baseRows op1 l m.acc m.cfgD.exact d.run.tick 1) with
          | none => d.raise o 0x0301
          | some r1 => d.setOp (op1.land m d.run.tick 1 r1)

/-! ### Completion (R145, R146) -/

/-- Every row the operation landed becomes committed, in the columns it wrote (R137); every other row keeps its committed value. -/
def LaneSt.commit (op : TileOp) (l : LaneSt) : LaneSt :=
  op.landed.foldl (fun l e =>
    l.setAccRow (e.1 / 64) (e.1 % 64) (mergeCols e.2 (l.accRow (e.1 / 64) (e.1 % 64)) (kget 0#2048 op.shadow e.1))) l

/-- The operation on a tile is complete at the current tick. -/
def Dev.opDue (d : Dev) (core lane tile : Nat) : Option TileOp :=
  match d.opOn core lane tile with
  | some op => if op.complete ≤ d.run.tick then some op else none
  | none => none

/-- TILE_OP_COMPLETE. -/
def Dev.tileComplete (core lane tile : Nat) (d : Dev) : Dev :=
  match d.opDue core lane tile with
  | none => d
  | some op => (d.onLane core lane (LaneSt.commit op)).onRun fun r =>
      { r with ops := r.ops.filter fun o => !(o.core == core && o.lane == lane && o.tile == tile) }

/-! ### The restart prologue (R75, R76, R155, R156) -/

/-- Read a source again. -/
def Dev.reread (core : Nat) (old : Row) (s : Src) (d : Dev) : Row :=
  match s with
  | .kept => old
  | .reg _ => old
  | .scratch bank row rot _ => rotateRow rot ((d.core core).row bank row)
  | .vbuf lane row rot _ => rotateRow rot (kget 0#4096 (d.lane core lane).vbuf row)

/-- Issue tick of the fetch or the TMOV a source came from. -/
def srcTick : Src → List Nat
  | .kept => []
  | .reg t => [t]
  | .scratch _ _ _ t => [t]
  | .vbuf _ _ _ t => [t]

/-- A member with its weights, vectors and entries read again. -/
def Dev.replayMember (core : Nat) (m : Member) (d : Dev) : Member :=
  let again (rows : KMap Row) (srcs : KMap Src) : KMap Row :=
    srcs.foldl (fun rs e => kset 0#4096 rs e.1 (d.reread core (kget 0#4096 rs e.1) e.2)) rows
  { m with weights := { m.weights with rows := again m.weights.rows m.weights.srcs },
           gv := again m.gv (m.gvSrc.map fun e => (e.1, e.2.1))
           taken := m.taken.map fun x => (d.reread core x.1 x.2, x.2) }

/-- An input row read again: its slice of the entry and its scale bytes. -/
def Dev.replayRow (core fmt : Nat) (r : MatRow) (d : Dev) : MatRow :=
  let w := 64 * elemBits fmt
  let data := match r.src with
    | .kept => r.data
    | .reg _ => r.data
    | s => BitVec.ofNat 1024 (rowBits (d.reread core 0#4096 s) (w * r.slice) w)
  let sx (b old : Nat) : Nat := match r.scaleSrc with
    | .kept => old
    | .reg _ => old
    | s => if isMX fmt then rowBits (d.reread core 0#4096 s) (8 * (2 * (r.j % 256) + b)) 8 else old
  { r with data := data, sx0 := sx 0 r.sx0, sx1 := sx 1 r.sx1 }

/-- Abort the tile operations in flight: their shadow tiles are discarded, and a restart prologue is due (R75, R76). -/
def RunSt.abortOps (r : RunSt) : RunSt :=
  { r with ops := r.ops.map (fun o => { o with aborted := true, shadow := [], landed := [] }), aborted := true }

/-- The issue ticks of what a GV entry came from: its GEMV.LOADV and the fetch that fed it. -/
def gvTicks (s : Src × Nat) : List Nat := s.2 :: srcTick s.1

/-- The issue ticks of the instances that belong to or feed an operation (R156). GV1 feeds it only where D has two rows (R152). -/
def TileOp.ticks (o : TileOp) : List Nat :=
  (o.members.flatMap fun m => m.owner.issue :: (m.weights.srcs.flatMap fun e => srcTick e.2) ++
    ((m.gvSrc.filter fun e => m.gv2 || decide (e.1 < 32)).flatMap fun e => gvTicks e.2) ++ (m.taken.flatMap fun x => srcTick x.2)) ++
  o.entered.flatMap fun r => srcTick r.src ++ srcTick r.scaleSrc

/-- The issue ticks of the TMOVs and GEMV.LOADVs in flight, and of the fetches that fed the entries loaded so far (R155, R156). -/
def Dev.moveTicks (d : Dev) : List Nat :=
  d.run.sched.flatMap fun x => match x.act with
    | .row 0xA2 _ _ _ _ => [x.owner.issue]
    | .landTmov .. => [x.owner.issue]
    | .row 0x21 _ _ lane _ => x.owner.issue ::
        ((d.lane x.owner.core lane).gvSrc.filter fun e => e.2.2 == x.owner.issue).flatMap fun e => srcTick e.2.1
    | _ => []

/-- A landing of a replay: its tick, its member, its input row (none: both rows of a GEMV.MAC). -/
def relandInsert (x : Nat × Nat × Option MatRow) : List (Nat × Nat × Option MatRow) → List (Nat × Nat × Option MatRow)
  | [] => [x]
  | y :: l => if x.1 < y.1 then x :: y :: l else y :: relandInsert x l

/-- The landings an operation has had, in order. -/
def TileOp.relandings (o : TileOp) (now : Nat) : List (Nat × Nat × Option MatRow) :=
  let rows := o.entered.map fun r => (r.land, r.member, some r)
  let gemvs := (o.members.zipIdx.filter fun m => m.1.opc == 0x22).map fun m =>
    (m.1.owner.issue + m.1.count + 11, m.2, (none : Option MatRow))
  ((rows ++ gemvs).filter fun x => decide (x.1 ≤ now)).foldl (fun l x => relandInsert x l) []

/-- Rebuild one aborted operation: the rows landed before the held tick land again, in order, from sources read again; the
first breach of the exact range is answered beside it. -/
def Dev.replayOp (o : TileOp) (d : Dev) : TileOp × Option Owner :=
  if !o.aborted then (o, none)
  else
    let ms := o.members.map fun m => d.replayMember o.core m
    let fmtOf (r : MatRow) : Nat := match o.members[r.member]? with
      | some m => m.cfgW.fmt
      | none => 0
    let rows := o.entered.map fun r => d.replayRow o.core (fmtOf r) r
    let l := d.lane o.core o.lane
    let o1 : TileOp := { o with aborted := false, members := ms, shadow := [], landed := [], prior := [], entered := rows }
    (o1.relandings d.run.tick).foldl (fun (p : TileOp × Option Owner) x =>
      if p.2.isSome then p
      else match ms[x.2.1]?, x.2.2 with
        | some m, some r =>
          (match streamRow m r (baseRows p.1 l m.acc m.cfgD.exact x.1 r.j) with
           | some rows => (p.1.land m x.1 r.j rows, none)
           | none => (p.1, some m.owner))
        | some m, none =>
          (if m.gv2 then [0, 1] else [0]).foldl (fun (p : TileOp × Option Owner) v =>
            match gemvRow m v (baseRows p.1 l m.acc m.cfgD.exact x.1 v) with
            | some rows => (p.1.land m x.1 v rows, p.2)
            | none => (p.1, some m.owner)) p
        | none, _ => p) (o1, none)

/-- A TMOV reads the rows it has read again: only its staging is written (R156). -/
def Dev.rereadTmov (core lane : Nat) (i : Inst) (lt : Latch) (d : Dev) : Latch :=
  match lt.cfgA with
  | some ca => { lt with rows0 := (List.range lt.rows0.length).map fun q => (d.lane core lane).sourceRow (opTile i.opa) ca q }
  | none => lt

/-- The restart prologue (R76): every aborted operation is rebuilt, rows still in the pipeline are read again, TMOVs in
flight read their source rows again; it takes H - S + 16 uncounted ticks (R156). The registers that a GEMV.LOADV in flight has written
are restored as they are held. A breach of the exact range stops the segment at the tick that was held or preempted. -/
def Dev.prologue (d : Dev) : Dev :=
  let h := d.run.tick + 1
  let ts := (d.run.ops.filter TileOp.aborted).flatMap TileOp.ticks ++ d.moveTicks
  if !d.run.aborted then d
  else if ts.isEmpty then d.onRun fun r => { r with aborted := false }
  else
    let res := d.run.ops.map fun o => d.replayOp o
    let fresh (x : Item) : Item := match x.act with
      | .landMat lane tile r =>
        (match (res.map (·.1)).find? (fun o => o.core == x.owner.core && o.lane == lane && o.tile == tile) with
         | some o => (match o.entered.find? (fun e => e.j == r.j && e.member == r.member && e.land == r.land) with
            | some e => { x with act := .landMat lane tile e }
            | none => x)
         | none => x)
      | .row 0xA2 i j lane lt => { x with act := .row 0xA2 i j lane (d.rereadTmov x.owner.core lane i lt) }
      | .landTmov i lane lt => { x with act := .landTmov i lane (d.rereadTmov x.owner.core lane i lt) }
      | _ => x
    let d1 := d.onRun fun r =>
      { r with ops := res.map (·.1), sched := r.sched.map fresh, prologue := h - ts.foldl min h + 16, aborted := false }
    match res.findSome? (·.2) with
    | some o => d1.faultAt o 0x0301 h
    | none => d1

end Sys2Proof.Machine
end

