-- ==== Sys2Proof/Machine/Vector.lean ====
section
/-! DEFINITION. The lane vector units and the core reduction unit, and ST.ROW (R158, R185 to R189, R194 to R216). -/

namespace Sys2Proof.Machine

/-! ### LV.DRAIN (R185 to R189, R195 to R202) -/

/-- Tile rows one buffer row holds (R201). -/
def rowsPerBuf (fmt : Nat) : Nat := 64 / elemBits fmt

/-- The epilogue operands of tile element c (R186): row vector or tensor word, and scalar. -/
def epiWord (epi j c : Nat) (row : Row) : BitVec 32 :=
  if epi = 2 ∨ epi = 4 then rowWord row (64 * (j % 2) + c)
  else if epi = 5 then rowWord row 0
  else rowWord row c

/-- Epilogue of an FP32 or INT32 element (R187): each step in FP32. -/
def epiFloat (epi : Nat) (v w s : BitVec 32) : BitVec 32 :=
  match epi with
  | 1 => fAdd v w
  | 2 => fAdd v w
  | 3 => fMul v w
  | 4 => fMul v w
  | 5 => fMul v w
  | 6 => fMul (fAdd v w) s
  | _ => v

/-- An exact add of the epilogue: the addend is cut at 2^B; none on a special addend or outside the range (R188). -/
def epiExactAdd (base : Int) (n : Int) (w : BitVec 32) : Option Int :=
  match f32 w with
  | .fin neg m e => let r := n + cut base neg m e; if exactInRange r then some r else none
  | _ => none

/-- The exact value after the epilogue: still exact, or an FP32 value after a multiply (R188). -/
def epiExact (epi : Nat) (base n : Int) (w s : BitVec 32) : Option (Int ⊕ BitVec 32) :=
  match epi with
  | 0 => some (.inl n)
  | 1 => (epiExactAdd base n w).map .inl
  | 2 => (epiExactAdd base n w).map .inl
  | 6 => (epiExactAdd base n w).map fun r => .inr (fMul (rnInt r base) s)
  | _ => some (.inr (fMul (rnInt n base) w))

/-- Output bits of drained element (j, c): none where R188 raises EXACT_RANGE. Outside the shape the output is +0 (R200). -/
def drainElem (i : Inst) (lt : Latch) (cfg : Option TileCfg) (rows : List TileRow) (j c : Nat) : Option Nat :=
  match cfg with
  | none => some 0
  | some cfg =>
    if cfg.rows ≤ j ∨ cfg.cols ≤ c then some 0
    else
      let w := epiWord i.epi j c lt.extra
      let s := rowWord lt.extra 0
      let u := drawFor i lt j c
      let out (v : Val) : Nat := encodeElem i.fmt i.rnd u v
      if cfg.exact then
        match epiExact i.epi cfg.base (exactAt rows c) w s with
        | none => none
        | some (.inl n) => some (if i.fmt = 0xD then intBits 128 n else plusZero i.fmt (out (.ofInt n cfg.base)))
        | some (.inr x) => some (out (f32 x))
      else if i.epi = 0 then some (out (tileElem cfg rows c))
      else some (out (f32 (epiFloat i.epi (rn32 (tileElem cfg rows c)) w s)))

/-- Busy tick j of a drain (R197): read a tile row and the epilogue operand, land a finished buffer row nine ticks on. -/
def Dev.drainTick (i : Inst) (o : Owner) (j lane : Nat) (lt : Latch) (d : Dev) : Dev :=
  let (ok, d1) := d.usePort portQueue (i.coreN * 2 + lane) 1 o
  let exact := match lt.cfgA with
    | some c => c.exact
    | none => false
  let rows := (d1.lane i.coreN lane).tileRow exact (opTile i.opa) j
  let needs := (j == 0 && (i.epi == 1 || i.epi == 3 || i.epi == 5 || i.epi == 6)) || (j % 2 == 0 && (i.epi == 2 || i.epi == 4))
  let (e, d2) := if ok && needs then d1.readVbuf o i.coreN lane (opVbuf i.opb + (if i.epi = 2 ∨ i.epi = 4 then j / 2 else 0))
    else (some lt.extra, d1)
  match ok, e with
  | true, some ex =>
    let lt1 := { lt with extra := ex }
    let es := (List.range 64).map fun c => drainElem i lt1 lt.cfgA rows j c
    let b := elemBits i.fmt
    let per := rowsPerBuf i.fmt
    let first := opVbuf i.opd
    let land := d.run.tick + 9
    let bad := es.any Option.isNone
    let bits := packBits b (es.filterMap id)
    let go (d : Dev) (lt : Latch) : Dev := if j < 63 then d.sched (d.run.tick + 1) false o (.row 0x31 i (j + 1) lane lt) else d
    if lt.dead then go d2 lt1
    else if bad then
      let when_ := if i.fmt = 0xD then land else land + (per - 1 - j % per)
      go (d2.sched when_ true o .exactFault) { lt1 with dead := true }
    else if i.fmt = 0xD then
      let x := rowsOfBits 2 bits
      go ((d2.sched land true o (.landVbuf lane (first + 2 * j) (x.getD 0 0#4096) false)).sched land true o
        (.landVbuf lane (first + 2 * j + 1) (x.getD 1 0#4096) true)) lt1
    else
      let acc := lt.bits + bits * 2 ^ (64 * b * (j % per))
      if j % per = per - 1 then
        go (d2.sched land true o (.landVbuf lane (first + j / per) (BitVec.ofNat 4096 acc) false)) { lt1 with bits := 0 }
      else go d2 { lt1 with bits := acc }
  | _, _ => d2

/-- Issue of one lane of an LV.DRAIN. -/
def Dev.drainLane (i : Inst) (o : Owner) (lane : Nat) (d : Dev) : Dev :=
  let (ok, d1) := d.takeUnit o lane 1 64
  let a := opTile i.opa
  let cfg := (d1.lane i.coreN lane).regCfg a
  if !ok then d1
  else if i.fmt = 0xD ∧ (cfg.map TileCfg.exact) ≠ some true then d1.raise o 0x0301
  else
    let k := d1.passKey (i.extBits 0 10)
    d1.drainTick i o 0 lane { cfgA := cfg, key := k.1, ctr := k.2, pass := d1.run.passNo }

/-! ### LV.EW and LV.FUNC (R203 to R207) -/

/-- The element operation of LV.EW: a NaN comes out as the canonical one (R162, R204, R205). -/
def ewOp (sub : Nat) (a b : BitVec 32) : BitVec 32 :=
  match sub with
  | 0 => fAdd a b
  | 1 => fSub a b
  | 2 => fMul a b
  | 3 => fMax a b
  | 4 => fMin a b
  | 5 => fAdd a b
  | 6 => fMul a b
  | 9 => fMax a 0#32
  | _ => canon32 a

/-- FP32 elements of a row. -/
def rowF32 (r : Row) : List (BitVec 32) := (List.range 128).map (rowWord r)

/-- One input row of a CVT: its output bits and, for an MX format, its four scales (R206). -/
def cvtRow (i : Inst) (lt : Latch) (j : Nat) (a : Row) : Nat × List Nat :=
  let vs := (rowF32 a).map f32
  let u (e : Nat) : Nat := drawFor i lt ((128 * j + e) / 64) ((128 * j + e) % 64)
  if isMX i.fmt then
    let bs := (List.range 4).map fun b => mxBlock i.fmt i.rnd (fun e => u (32 * b + e)) (vs.drop (32 * b) |>.take 32)
    (packBits (elemBits i.fmt) (bs.flatMap (·.2)), bs.map (·.1))
  else (packBits (elemBits i.fmt) (vs.zipIdx.map fun p => encodeElem i.fmt i.rnd (u p.2) p.1), [])

/-- Busy tick j of an LV.EW. -/
def Dev.ewTick (i : Inst) (o : Owner) (j lane : Nat) (lt : Latch) (d : Dev) : Dev :=
  let (ra, d1) := d.readVbuf o i.coreN lane (opVbuf i.opa + j)
  let two := i.sub ≤ 4
  let scalar := i.sub = 5 ∨ i.sub = 6
  let (rb, d2) := if two then d1.readVbuf o i.coreN lane (opVbuf i.opb + j)
    else if scalar ∧ j = 0 then d1.readVbuf o i.coreN lane (opVbuf i.opb) else (some lt.extra, d1)
  match ra, rb with
  | some a, some b =>
    let land := d.run.tick + 9
    let lt1 := { lt with extra := b }
    let go (d : Dev) (lt : Latch) : Dev :=
      if j + 1 < i.cnt then d.sched (d.run.tick + 1) false o (.row 0x32 i (j + 1) lane lt) else d
    if i.sub = 8 then
      let x := cvtRow i lt j a
      let per := 32 / elemBits i.fmt
      let acc := lt.bits + x.1 * 2 ^ (128 * elemBits i.fmt * (j % per))
      let scales := lt.scales ++ x.2
      let last := j + 1 = i.cnt
      let d3 := if j % per = per - 1 ∨ last then
          d2.sched land true o (.landVbuf lane (opVbuf i.opd + j / per) (BitVec.ofNat 4096 acc) false)
        else d2
      let d4 := if last && isMX i.fmt then
          d3.sched land true o (.landVbuf lane (opVbuf i.opb) (BitVec.ofNat 4096 (packBits 8 scales)) false)
        else d3
      go d4 { lt1 with bits := if j % per = per - 1 then 0 else acc, scales := scales }
    else
      let ws := (List.range 128).map fun c => ewOp i.sub (rowWord a c) (if scalar then rowWord b 0 else rowWord b c)
      go (d2.sched land true o (.landVbuf lane (opVbuf i.opd + j) (rowOfWords ws) false)) lt1
  | _, _ => d2

def Dev.ewLane (i : Inst) (o : Owner) (lane : Nat) (d : Dev) : Dev :=
  let (ok, d1) := d.takeUnit o lane 1 i.cnt
  let k := d1.passKey (i.extBits 0 10)
  if ok then d1.ewTick i o 0 lane { key := k.1, ctr := k.2, pass := d1.run.passNo } else d1

/-- Busy tick j of an LV.FUNC. -/
def Dev.funcTick (i : Inst) (o : Owner) (j lane : Nat) (d : Dev) : Dev :=
  let (ra, d1) := d.readVbuf o i.coreN lane (opVbuf i.opa + j)
  match ra with
  | none => d1
  | some a =>
    let d2 := d1.sched (d.run.tick + 9) true o
      (.landVbuf lane (opVbuf i.opd + j) (rowOfWords ((rowF32 a).map (lvFunc i.sub))) false)
    if j + 1 < i.cnt then d2.sched (d.run.tick + 1) false o (.row 0x33 i (j + 1) lane {}) else d2

def Dev.funcLane (i : Inst) (o : Owner) (lane : Nat) (d : Dev) : Dev :=
  let (ok, d1) := d.takeUnit o lane 1 i.cnt
  if ok then d1.funcTick i o 0 lane else d1

/-! ### ST.ROW -/

/-- Busy tick j of one lane of an ST.ROW: the row lands three ticks later (R96). -/
def Dev.stRowTick (i : Inst) (o : Owner) (j lane : Nat) (d : Dev) : Dev :=
  let (r, d1) := d.readVbuf o i.coreN lane (opVbuf i.opa + j)
  match r with
  | none => d1
  | some v =>
    let d2 := d1.sched (d.run.tick + 3) true o (.landRow i.coreN (opBank i.opd) (opRow i.opd + j) v 0)
    if j + 1 < i.cnt then d2.sched (d.run.tick + 1) false o (.row 0x51 i (j + 1) lane {}) else d2

def Dev.stRowLane (i : Inst) (o : Owner) (lane : Nat) (d : Dev) : Dev :=
  let (ok, d1) := d.takeUnit o lane 1 i.cnt
  if ok then d1.stRowTick i o 0 lane else d1

/-! ### The core reduction unit (R208 to R215) -/

/-- Fixed tree of R209 over 2 ^ n values, with the addition of their format. -/
def treeOf (add : BitVec 32 → BitVec 32 → BitVec 32) : Nat → List (BitVec 32) → BitVec 32
  | 0, v => v.headD 0#32
  | n + 1, v => treeOf add n (List.zipWith add (v.take (2 ^ n)) (v.drop (2 ^ n)))

/-- The tree sum of FP32 values. -/
def treeSum (n : Nat) (v : List (BitVec 32)) : BitVec 32 := treeOf fAdd n v

/-- Condition shared by every REDUCE: A configured the same way in both lanes, MOD.FMT its format, MOD.RND 0 (R208). -/
def redCfg (i : Inst) (k : CoreSt) : Option TileCfg :=
  match k.lane0.regCfg (opTile i.opa), k.lane1.regCfg (opTile i.opa) with
  | some a, some b => if a = b ∧ i.fmt = a.fmt ∧ i.rnd = 0 then some a else none
  | _, _ => none

/-- D of SMAX and NORM: an FP32 tile with A's shape in both lanes (R208). -/
def redDst (i : Inst) (k : CoreSt) (a : TileCfg) : Bool :=
  let ok (c : Option TileCfg) : Bool := match c with
    | some c => decide (c.fmt = 0xB ∧ c.rows = a.rows ∧ c.cols = a.cols)
    | none => false
  ok (k.lane0.regCfg (opTile i.opd)) && ok (k.lane1.regCfg (opTile i.opd))

/-- Read row j of A in both lanes through the reduction outlets (R195, R197). -/
def Dev.redRead (i : Inst) (o : Owner) (exact : Bool) (j : Nat) (d : Dev) : Option (List TileRow × List TileRow) × Dev :=
  let (ok0, d1) := d.usePort portReduce (i.coreN * 2) 1 o
  let (ok1, d2) := d1.usePort portReduce (i.coreN * 2 + 1) 1 o
  if ok0 && ok1 then
    (some ((d2.lane i.coreN 0).tileRow exact (opTile i.opa) j, (d2.lane i.coreN 1).tileRow exact (opTile i.opa) j), d2)
  else (none, d2)

/-- Schedule the result rows of a REDUCE: row q lands at the landing tick - m + 1 + q (R215). -/
def Dev.redRows (i : Inst) (o : Owner) (landing : Nat) (rows : List Row) (d : Dev) : Dev :=
  rows.zipIdx.foldl (fun d p =>
    let t := landing - rows.length + 1 + p.2
    if opSpace i.opd = 2 then d.sched t true o (.landVbuf (i.extBits 0 1) (opVbuf i.opd + p.2) p.1 false)
    else d.sched t true o (.landRow i.coreN (opBank i.opd) (opRow i.opd + p.2) p.1 0)) d

/-- Slots of a row: columns of the shape, +0 outside (R209). -/
def slotsOf (cols : Nat) (r : List TileRow) : List (BitVec 32) :=
  (List.range 64).map fun c => if c < cols then tcol (r.headD 0#2048) c else 0#32

def satAdd32 (a b : BitVec 32) : BitVec 32 := landINT32 a b.toInt

/-- RED.SUM: the finished row of mode 0 for tile rows 2q and 2q + 1. -/
def laneSumRow (cfg : TileCfg) (q : Nat) (a0 a1 b0 b1 : List TileRow) : Row :=
  let add (r : Nat) (x y : List TileRow) : List (BitVec 32) := (List.range 64).map fun c =>
    if cfg.rows ≤ r ∨ cfg.cols ≤ c then 0#32
    else (if cfg.fmt = 0xC then satAdd32 else fAdd) (tcol (x.headD 0#2048) c) (tcol (y.headD 0#2048) c)
  rowOfWords (add (2 * q) a0 b0 ++ add (2 * q + 1) a1 b1)

/-- Exact integers of a row within the shape. -/
def exactSlots (cfg : TileCfg) (r : List TileRow) : List Int :=
  (List.range 64).map fun c => if c < cfg.cols then exactAt r c else 0

/-- Rows of 16-byte integers, and whether one lies outside the exact range; a sum is a 128-bit integer (R209, R210). -/
def exactOut (n : Nat) (ns : List Int) : List Row × Bool :=
  (rowsOfBits n (packBits 128 (ns.map (intBits 128))), !ns.all exactInRange)

/-- Results of RED.SUM modes 1 and 2, and whether a sum breaks the exact range (R209, R210). An INT32 row sum takes the same tree, each addition saturating (DEDUCED,
notes/assumptions/40.md). -/
def redSumRows (cfg : TileCfg) (mode : Nat) (r0 r1 : List (List TileRow)) : List Row × Bool :=
  let row (rs : List (List TileRow)) (r : Nat) : List TileRow := if r < cfg.rows then rs.getD r [] else []
  if mode = 1 then
    if cfg.exact then exactOut 2 (((List.range 64).map fun r => if r < cfg.rows then
        (exactSlots cfg (row r0 r)).sum + (exactSlots cfg (row r1 r)).sum else 0))
    else
      let one (r : Nat) : BitVec 32 := if cfg.rows ≤ r then 0#32
        else treeOf (if cfg.fmt = 0xC then satAdd32 else fAdd) 7 (slotsOf cfg.cols (row r0 r) ++ slotsOf cfg.cols (row r1 r))
      ([rowOfWords ((List.range 64).map one)], false)
  else
    let rs := (List.range 64).filter fun r => r < cfg.rows
    if cfg.exact then
      let col (x : List (List TileRow)) : List Int := (List.range 64).map fun c =>
        if c < cfg.cols then (rs.map fun r => exactAt (row x r) c).sum else 0
      exactOut 4 (col r0 ++ col r1)
    else
      let add := if cfg.fmt = 0xC then satAdd32 else fAdd
      let col (x : List (List TileRow)) : List (BitVec 32) := (List.range 64).map fun c =>
        if c < cfg.cols then rs.foldl (fun a r => add a (tcol ((row x r).headD 0#2048) c)) 0#32 else 0#32
      ([rowOfWords (col r0 ++ col r1)], false)

/-- Busy tick j of RED.SUM. A sum outside the exact range stops it at the landing tick: the rows that land before it stand (R38, R209,
R215). -/
def Dev.redSumTick (i : Inst) (o : Owner) (j : Nat) (lt : Latch) (d : Dev) : Dev :=
  match lt.cfgA with
  | none => d
  | some cfg =>
    let (r, d1) := d.redRead i o cfg.exact j
    match r with
    | none => d1
    | some (a, b) =>
      let lt1 := { lt with rows0 := lt.rows0 ++ [a], rows1 := lt.rows1 ++ [b] }
      let mode := i.sub % 4
      let landing := o.issue + 74
      let d2 := if mode = 0 ∧ j % 2 = 1 then
          let q := j / 2
          let row := laneSumRow cfg q (lt.rows0.getD (j - 1) []) a (lt.rows1.getD (j - 1) []) b
          let t := landing - 31 + q
          if opSpace i.opd = 2 then d1.sched t true o (.landVbuf (i.extBits 0 1) (opVbuf i.opd + q) row false)
          else d1.sched t true o (.landRow i.coreN (opBank i.opd) (opRow i.opd + q) row 0)
        else d1
      if j < 63 then d2.sched (d.run.tick + 1) false o (.row 0x41 i (j + 1) 0 lt1)
      else if mode = 0 then d2
      else
        let x := redSumRows cfg mode lt1.rows0 lt1.rows1
        let d3 := d2.redRows i o landing x.1
        if x.2 then d3.sched (landing) true o .exactFault else d3

/-- Issue of RED.SUM. -/
def Dev.redSum (i : Inst) (d : Dev) : Dev :=
  let o := ownerOf i 4 0 d
  let (ok, d1) := d.takeUnit o 2 1 64
  if !ok then d1
  else match redCfg i (d1.core i.coreN) with
    | none => d1.raise o 0x0201
    | some c => if c.exact ∧ i.sub % 4 = 0 then d1.raise o 0x0201 else d1.redSumTick i o 0 { cfgA := some c }

/-- The softmax states an instance starts from, lane 0's rows then lane 1's, as they stand at issue (R37, R212). -/
def CoreSt.states (k : CoreSt) (set : Nat) : List Smax := (List.range 128).map fun x => kget {} k.smax (set * 128 + x)

/-- One softmax row over a list of slots with their validity (R212): outputs and the new state. -/
def smaxRow (scale : BitVec 32) (slots : List (BitVec 32 × Bool)) (slots2 : List (BitVec 32 × Bool)) (n : Nat) (st : Smax) :
    List (BitVec 32) × Smax :=
  let xs := (slots.filter (·.2)).map fun s => fMul s.1 scale
  let mNew := xs.foldl fMax st.m
  if mNew = nan32 then (slots.map fun _ => nan32, { m := nan32, l := nan32, alpha := nan32 })
  else if mNew = 0xFF800000#32 then (slots.map fun _ => 0#32, { m := mNew, l := st.l, alpha := one32 })
  else
    let p := slots2.map fun s => if s.2 then fExp (fSub (fMul s.1 scale) mNew) else 0#32
    let alpha := fExp (fSub st.m mNew)
    (p, { m := mNew, l := fAdd (fMul st.l alpha) (treeSum n p), alpha := alpha })

/-- Slots of one lane's row with validity: within the shape and below the valid count. -/
def validSlots (cols valid from_ : Nat) (r : List TileRow) : List (BitVec 32 × Bool) :=
  (List.range 64).map fun c =>
    if c < cols then (tcol (r.headD 0#2048) c, decide (valid = 0 ∨ from_ + c < valid)) else (0#32, false)

/-- RED.SMAX over all rows: the tiles of both lanes, and the new states of the rows it processes, by lane * 64 + row (R212). -/
def smaxAll (i : Inst) (cfg : TileCfg) (sts : List Smax) (p0 p1 q0 q1 : List (List TileRow)) :
    List (List TileRow) × List (List TileRow) × List (Nat × Smax) :=
  let scale := BitVec.ofNat 32 (i.extBits 0 32)
  let valid := i.extBits 32 8
  let joint := i.sub % 2 = 1
  let cont := i.sub / 2 % 2 = 1
  let st (x : Nat) : Smax := if cont then sts.getD x {} else { sts.getD x {} with m := 0xFF800000#32, l := 0#32 }
  let v (x : List (List TileRow)) (from_ r : Nat) := validSlots cfg.cols valid from_ (x.getD r [])
  let res := (List.range 64).map fun r =>
    if cfg.rows ≤ r then (([] : List (BitVec 32)), ([] : List (BitVec 32)), ([] : List (Nat × Smax)))
    else if joint then
      let x := smaxRow scale (v p0 0 r ++ v p1 64 r) (v q0 0 r ++ v q1 64 r) 7 (st r)
      (x.1.take 64, x.1.drop 64, [(r, x.2)])
    else
      let x := smaxRow scale (v p0 0 r) (v q0 0 r) 6 (st r)
      let y := smaxRow scale (v p1 0 r) (v q1 0 r) 6 (st (64 + r))
      (x.1, y.1, [(r, x.2), (64 + r, y.2)])
  (res.map fun x => [tileOfCols x.1], res.map fun x => [tileOfCols x.2.1], res.flatMap fun x => x.2.2)

/-- RN of a natural number. -/
def natF32 (n : Nat) : BitVec 32 := rn32 (.ofInt n 0)

/-- The factor pair of a row for RED.NORM (R213): subtrahend and multiplier from the first pass. -/
def normStats (mode : Nat) (eps : BitVec 32) (n lg : Nat) (slots : List (BitVec 32 × Bool)) : BitVec 32 × BitVec 32 :=
  let rcpN := fRcp (natF32 n)
  if mode = 2 then
    let s := treeSum lg (slots.map fun s => if s.2 then fMul s.1 s.1 else 0#32)
    (0#32, fRsqrt (fAdd (fMul s rcpN) eps))
  else
    let mu := fMul (treeSum lg (slots.map fun s => if s.2 then s.1 else 0#32)) rcpN
    let s := treeSum lg (slots.map fun s => if s.2 then (let x := fSub s.1 mu; fMul x x) else 0#32)
    (mu, fRsqrt (fAdd (fMul s rcpN) eps))

/-- One element of RED.NORM (R213). -/
def normElem (mode : Nat) (st : Smax) (f : BitVec 32 × BitVec 32) (g x : BitVec 32) : BitVec 32 :=
  match mode with
  | 0 => fMul x st.alpha
  | 1 => fMul x (fRcp st.l)
  | 2 => fMul (fMul x f.2) g
  | _ => fMul (fMul (fSub x f.1) f.2) g

/-- RED.NORM over all rows. -/
def normAll (i : Inst) (cfg : TileCfg) (sts : List Smax) (gain : Row) (p0 p1 q0 q1 : List (List TileRow)) :
    List (List TileRow) × List (List TileRow) :=
  let mode := i.sub % 4
  let joint := i.sub / 4 % 2 = 1
  let eps := BitVec.ofNat 32 (i.extBits 0 32)
  let v (x : List (List TileRow)) (r : Nat) := validSlots cfg.cols 0 0 (x.getD r [])
  let row (lane r : Nat) : List TileRow :=
    if cfg.rows ≤ r then [0#2048]
    else
      let st := sts.getD (if joint then r else lane * 64 + r) {}
      let f := if mode < 2 then (0#32, 0#32)
        else if joint then normStats mode eps (2 * cfg.cols) 7 (v p0 r ++ v p1 r)
        else normStats mode eps cfg.cols 6 (v (if lane = 0 then p0 else p1) r)
      let xs := v (if lane = 0 then q0 else q1) r
      [tileOfCols (xs.zipIdx.map fun p => normElem mode st f (rowWord gain (64 * lane + p.2)) p.1.1)]
  ((List.range 64).map (row 0), (List.range 64).map (row 1))

/-- Busy tick j (0 to 127) of RED.SMAX or RED.NORM; the second pass reads rows again at I + 64 + j (R197). -/
def Dev.redTwoTick (opc : Nat) (i : Inst) (o : Owner) (j : Nat) (lt : Latch) (d : Dev) : Dev :=
  match lt.cfgA with
  | none => d
  | some cfg =>
    let (r, d1) := d.redRead i o false (j % 64)
    match r with
    | none => d1
    | some (a, b) =>
      let lt1 := { lt with rows0 := lt.rows0 ++ [a], rows1 := lt.rows1 ++ [b] }
      if j < 127 then d1.sched (d.run.tick + 1) false o (.row opc i (j + 1) 0 lt1)
      else
        let land := o.issue + 138
        let p0 := lt1.rows0.take 64
        let p1 := lt1.rows1.take 64
        let q0 := lt1.rows0.drop 64
        let q1 := lt1.rows1.drop 64
        let cd : TileCfg := { cfg with fmt := 0xB, exact := false, base := 0 }
        if opc = 0x42 then
          let x := smaxAll i cfg lt.sts p0 p1 q0 q1
          ((d1.sched land true o (.landTile 0 (opTile i.opd) cd x.1)).sched land true o
            (.landTile 1 (opTile i.opd) cd x.2.1)).sched land true o (.landSmax (i.sub / 8 % 2) x.2.2)
        else
          let x := normAll i cfg lt.sts lt.extra p0 p1 q0 q1
          (d1.sched land true o (.landTile 0 (opTile i.opd) cd x.1)).sched land true o (.landTile 1 (opTile i.opd) cd x.2)

/-- Issue of RED.SMAX. -/
def Dev.redSmax (i : Inst) (d : Dev) : Dev :=
  let o := ownerOf i 4 0 d
  let (ok, d1) := d.takeUnit o 2 1 128
  let k := d1.core i.coreN
  if !ok then d1
  else match redCfg i k with
    | none => d1.raise o 0x0201
    | some c => if c.fmt = 0xB ∧ redDst i k c then d1.redTwoTick 0x42 i o 0 { cfgA := some c, sts := k.states (i.sub / 8 % 2) }
      else d1.raise o 0x0201

/-- Issue of RED.NORM; modes 2 and 3 read the gain row at issue (R213, R218). -/
def Dev.redNorm (i : Inst) (d : Dev) : Dev :=
  let o := ownerOf i 4 0 d
  let (ok, d1) := d.takeUnit o 2 1 128
  let k := d1.core i.coreN
  if !ok then d1
  else match redCfg i k with
    | none => d1.raise o 0x0201
    | some c =>
      if c.fmt = 0xB ∧ redDst i k c then
        let (g, d2) := if 2 ≤ i.sub % 4 then d1.readRow o i.coreN (opBank i.opb) (opRow i.opb) else (some 0#4096, d1)
        match g with
        | some gain => d2.redTwoTick 0x43 i o 0 { cfgA := some c, sts := k.states (i.sub / 8 % 2), extra := gain }
        | none => d2
      else d1.raise o 0x0201

/-- The states of the rows processed land with the tile; every other state stays (R212, R215). -/
def Dev.landStates (core set : Nat) (sts : List (Nat × Smax)) (d : Dev) : Dev :=
  d.onCore core fun k => { k with smax := sts.foldl (fun m p => kset {} m (set * 128 + p.1) p.2) k.smax }

/-- Ranks a before b: larger value first, NaN last, the lower slot first among equals (R214). -/
def topBefore (a b : BitVec 32 × Nat) : Bool :=
  let z (x : BitVec 32) : Val := match f32 x with
    | .fin _ 0 e => .fin false 0 e
    | v => v
  match z a.1, z b.1 with
  | .nan, .nan => decide (a.2 < b.2)
  | .nan, _ => false
  | _, .nan => true
  | x, y => y.lt x || (!x.lt y && decide (a.2 < b.2))

/-- Insert in rank order. -/
def topInsert (a : BitVec 32 × Nat) : List (BitVec 32 × Nat) → List (BitVec 32 × Nat)
  | [] => [a]
  | b :: l => if topBefore a b then a :: b :: l else b :: topInsert a l

/-- RED.TOPK: the count row and the k entry rows (R162, R214). -/
def topkRows (i : Inst) (cfg : TileCfg) (r0 r1 : List (List TileRow)) : List Row :=
  let k := i.extBits 0 6
  let e := i.extBits 6 8
  let sel := (List.range 64).map fun r =>
    if cfg.rows ≤ r then []
    else
      let slots := slotsOf cfg.cols (r0.getD r []) ++ slotsOf cfg.cols (r1.getD r [])
      ((slots.zipIdx.take e).foldl (fun l s => topInsert s l) []).take k
  let counts := (List.range 128).map fun x =>
    if x < e then BitVec.ofNat 32 (sel.filter fun l => l.any fun s => s.2 == x).length else 0#32
  let entries := sel.flatMap fun l => (List.range k).map fun q => match l[q]? with
    | some s => (canon32 s.1).toNat + 2 ^ 32 * s.2 + 2 ^ 40
    | none => 0
  rowOfWords counts :: rowsOfBits k (packBits 64 entries)

/-- Busy tick j of RED.TOPK: rows are read in the first 64 of its 80 busy ticks. -/
def Dev.topkTick (i : Inst) (o : Owner) (j : Nat) (lt : Latch) (d : Dev) : Dev :=
  match lt.cfgA with
  | none => d
  | some cfg =>
    let (r, d1) := d.redRead i o false j
    match r with
    | none => d1
    | some (a, b) =>
      let lt1 := { lt with rows0 := lt.rows0 ++ [a], rows1 := lt.rows1 ++ [b] }
      if j < 63 then d1.sched (d.run.tick + 1) false o (.row 0x44 i (j + 1) 0 lt1)
      else d1.redRows i o (o.issue + 90) (topkRows i cfg lt1.rows0 lt1.rows1)

/-- Issue of RED.TOPK. -/
def Dev.redTopk (i : Inst) (d : Dev) : Dev :=
  let o := ownerOf i 4 0 d
  let (ok, d1) := d.takeUnit o 2 1 80
  if !ok then d1
  else match redCfg i (d1.core i.coreN) with
    | none => d1.raise o 0x0201
    | some c => if c.fmt = 0xB then d1.topkTick i o 0 { cfgA := some c } else d1.raise o 0x0201

end Sys2Proof.Machine
end

