-- ==== Sys2Proof/Machine/Mesh.lean ====
section
/-! DEFINITION. The scheduled mesh, Fan-out, Confluence and the Relay chain (R117, R251 to R269). -/

namespace Sys2Proof.Machine

/-! ### Paths (R254) -/

/-- Hops along a row: router left and direction (0 north, 1 east, 2 south, 3 west). -/
def hopsX (y x x2 : Nat) : List (Nat × Nat) :=
  if x ≤ x2 then (List.range (x2 - x)).map fun k => (16 * y + x + k, 1)
  else (List.range (x - x2)).map fun k => (16 * y + x - k, 3)

/-- Hops along a column. -/
def hopsY (x y y2 : Nat) : List (Nat × Nat) :=
  if y ≤ y2 then (List.range (y2 - y)).map fun k => (16 * (y + k) + x, 2)
  else (List.range (y - y2)).map fun k => (16 * (y - k) + x, 0)

/-- The path between two cores; `rowFirst` runs along the row first. -/
def meshPath (rowFirst : Bool) (a b : Nat) : List (Nat × Nat) :=
  if rowFirst then hopsX (a / 16) (a % 16) (b % 16) ++ hopsY (b % 16) (a / 16) (b / 16)
  else hopsY (a % 16) (a / 16) (b / 16) ++ hopsX (b / 16) (a % 16) (b % 16)

/-- The router a hop leads to. -/
def hopEnd (h : Nat × Nat) : Nat :=
  match h.2 with
  | 0 => h.1 - 16
  | 1 => h.1 + 1
  | 2 => h.1 + 16
  | _ => h.1 - 1

/-- Ticks of a hop: 2, and 6 more across an island boundary (R255). -/
def hopTicks (h : Nat × Nat) : Nat := if islandOf h.1 = islandOf (hopEnd h) then 2 else 8

/-- Link uses of a flit that enters the first hop at tick t: hop and tick. -/
def pathUses : List (Nat × Nat) → Nat → List ((Nat × Nat) × Nat)
  | [], _ => []
  | h :: hs, t => (h, t) :: pathUses hs (t + hopTicks h)

/-- Least latency of a set of paths with at most `m` merging routers (R256). -/
def latMin (paths : List (List (Nat × Nat))) (m : Nat) : Nat :=
  let d := (paths.map List.length).foldl max 0
  let c := (paths.map fun p => (p.filter fun h => hopTicks h == 8).length).foldl max 0
  6 + 2 * d + 6 * c + m

/-! ### Island crossings (R270, R271, R327) -/

/-- Chain position of a core, and the core at a position (R266); the map is its own inverse on the row. -/
def chainPos (c : Nat) : Nat := if c / 16 % 2 = 0 then c else 16 * (c / 16) + 15 - c % 16

/-- The core on the reader's side of a link direction that joins two compute islands: ports 0 to 3 of the mesh, 4 and 5 of the chain,
forward and back. -/
def crossing (router port : Nat) : Option Nat :=
  let p := chainPos router
  let there := match port with
    | 0 => decide (16 ≤ router)
    | 1 => decide (router % 16 < 15)
    | 2 => decide (router < 240)
    | 3 => decide (0 < router % 16)
    | 4 => decide (p < 255)
    | 5 => decide (0 < p)
    | _ => false
  let r := if port < 4 then hopEnd (router, port) else if port = 4 then chainPos (p + 1) else chainPos (p - 1)
  if there && islandOf r != islandOf router then some r else none

/-- Every crossing: its key and the islands of its writer and reader. -/
def crossings : List (Nat × Nat × Nat) :=
  (List.range 2048).filterMap fun k => (crossing (k / 8) (k % 8)).map fun r => (k, islandOf (k / 8), islandOf r)

/-- Phase debt of a crossing: the entries its slip buffer holds, minus 4. -/
def Dev.debt (d : Dev) (key : Nat) : Int := ((kget 4 d.slip key : Nat) : Int) - 4

/-- The entries of a slip buffer change by `n`: what its writer's ticks have put in beyond what its reader's ticks have taken out. -/
def Dev.slipBy (key : Nat) (n : Int) (d : Dev) : Dev :=
  let d1 := { d with slip := kset 4 d.slip key (d.debt key + 4 + n).toNat }
  d1.peak Reg.MSH_SLIP_PEAK.PEAK (min 4 (d1.debt key).natAbs)

/-- The debt that the stretches of two islands make: the writer's lead in periods, rounded down (R327). -/
def leadDebt (key : Nat) (writer reader : Nat) : Int :=
  ((500 * ((reader : Int) - writer)) + (Config.clockPhase key % 1000 : Nat)) / 1000

/-- Islands stretch one period each: at every crossing the writer's ticks and the reader's move against each other (R270, R327). -/
def Dev.stretchIslands (is : List Nat) (d : Dev) : Dev :=
  let old := d.pwr.stretches
  let new := is.foldl (fun m i => kset 0 m i (kget 0 m i + 1)) old
  crossings.foldl (fun (d : Dev) x =>
    let n := leadDebt x.1 (kget 0 new x.2.1) (kget 0 new x.2.2) - leadDebt x.1 (kget 0 old x.2.1) (kget 0 old x.2.2)
    if n = 0 then d else d.slipBy x.1 n) { d with pwr := { d.pwr with stretches := new } }

/-- An Eclipse that rebalances brings the debt of every slip buffer nearer to 0 (R271). -/
def Dev.rebalance (d : Dev) : Dev :=
  d.slip.foldl (fun (d : Dev) e => d.slipBy e.1 (if e.2 < 4 then 1 else if 4 < e.2 then -1 else 0)) d

/-! ### Collisions (R257) -/

/-- Record a collision (R257, R277). -/
def Dev.recordCollision (router port : Nat) (d : Dev) : Dev :=
  if d.is Reg.MSH_EVENT.COLLISION then d
  else (d |>.put Reg.MSH_COLL_REC.PORT port |>.put Reg.MSH_COLL_REC.ROUTER router |>.put Reg.MSH_COLL_REC.TICK d.run.tick).event
    Reg.MSH_EVENT.COLLISION

/-- MESH_LINK_COLLISION at the current tick. -/
def Dev.collide (o : Owner) (router port : Nat) (d : Dev) : Dev := (d.recordCollision router port).raise o 0x0502

/-- A flit needs a router port in a tick: a second need of it is a collision in that tick, naming the later occurrence. An
occurrence that has collided has nothing to come any more, and does not collide again (R38). -/
def Dev.needPort (o : Owner) (router port tick : Nat) (d : Dev) : Dev :=
  let p := portCode portMesh (router * 8 + port)
  let us := d.portUses p tick
  let d1 := d.notePort p tick o
  let w := latest o us
  if us.isEmpty ∨ !(d.run.sched.any fun x => x.owner == w) then d1
  else
    if tick ≤ d.run.tick then d1.collide w router port else d1.sched tick true w (.fault 0x0502 router port)

/-- The four flits of a row need a port from tick `t` on (R253). -/
def Dev.needFlits (o : Owner) (router port t : Nat) (d : Dev) : Dev :=
  (List.range 4).foldl (fun d f => d.needPort o router port (t + f)) d

/-- The flits of a row over link uses given for flit 0 (R255). -/
def Dev.needLinks (o : Owner) (uses : List ((Nat × Nat) × Nat)) (d : Dev) : Dev :=
  uses.foldl (fun d u => d.needFlits o u.1.1 u.1.2 u.2) d

/-! ### MSH.SEND and MSH.FAN (R255, R259, R261) -/

/-- The core is in service for the running placement: present, or retired with its retirement still pending, and not returned since the
Route was loaded (R31, R45, R117, R126). -/
def Dev.working (d : Dev) (c : Nat) : Bool := (d.inService c || (d.core c).life == 1) && !d.rt.away.contains c

/-- Cores of a column mask and a row mask that are in service (R259). -/
def Dev.members (d : Dev) (cols rows : Nat) : List Nat :=
  (List.range 256).filter fun c => bitOf cols (c % 16) && bitOf rows (c / 16) && d.working c

/-- Remove duplicates, keeping the first of each. -/
def dedup {α : Type} [DecidableEq α] : List α → List α
  | [] => []
  | a :: l => a :: (dedup l).filter (fun b => b ≠ a)

/-- Busy tick 4j of MSH.SEND: read the row, occupy inject, links and eject, land at LAT (R255). -/
def Dev.sendTick (i : Inst) (o : Owner) (j : Nat) (d : Dev) : Dev :=
  let (r, d1) := d.readRow o i.coreN (opBank i.opa) (opRow i.opa + j)
  match r with
  | none => d1
  | some v =>
    let t := d.run.tick
    let e := d.meshEntry i.coreN (opEntry i.opb)
    let dst := opCore i.opd
    let d2 := d1.sched (t + meshLat e) true o (.landRow dst (opBank i.opd) (opRow i.opd + j) v 0)
    let d3 := if j + 1 < i.cnt then d2.sched (t + 4) false o (.row 0x61 i (j + 1) 0 {}) else d2
    ((d3.needFlits o i.coreN 4 t).needLinks o (pathUses (meshPath (meshOrder e == 0) i.coreN dst) t)).needFlits o dst 5
      (t + meshLat e - 6)

def Dev.meshSend (i : Inst) (d : Dev) : Dev :=
  let o := ownerOf i 6 0 d
  let (ok, d1) := d.takeUnit o 2 1 (4 * i.cnt)
  if ok then d1.sendTick i o 0 else d1

/-- Busy tick 4j of MSH.FAN: the tree's links count once each (R261). -/
def Dev.fanTick (i : Inst) (o : Owner) (j : Nat) (d : Dev) : Dev :=
  let (r, d1) := d.readRow o i.coreN (opBank i.opa) (opRow i.opa + j)
  match r with
  | none => d1
  | some v =>
    let t := d.run.tick
    let e := d.meshEntry i.coreN (opEntry i.opb)
    let leaves := d.members (meshCols e) (meshRows e)
    let uses := dedup (leaves.flatMap fun c => pathUses (meshPath (meshOrder e == 0) i.coreN c) t)
    let d2 := leaves.foldl (fun d c => d.sched (t + meshLat e) true o (.landRow c (opBank i.opd) (opRow i.opd + j) v 0)) d1
    let d3 := if j + 1 < i.cnt then d2.sched (t + 4) false o (.row 0x62 i (j + 1) 0 {}) else d2
    leaves.foldl (fun d c => d.needFlits o c 5 (t + meshLat e - 6)) ((d3.needFlits o i.coreN 4 t).needLinks o uses)

def Dev.meshFan (i : Inst) (d : Dev) : Dev :=
  let o := ownerOf i 6 0 d
  let (ok, d1) := d.takeUnit o 2 1 (4 * i.cnt)
  if ok then d1.fanTick i o 0 else d1

/-! ### Confluence (R262 to R265) -/

/-- The hop a router of a Confluence tree sends on: along the column first under ORDER 0, along the row first under
ORDER 1 (R259); none at the destination. -/
def confNext (order dst r : Nat) : Option (Nat × Nat) := (meshPath (order == 1) r dst).head?

/-- Elements of a Confluence row (R263). -/
def confElems (fmt : Nat) (r : Row) : List Int :=
  if fmt = 0xD then (List.range 32).map fun e => signedOf 128 (rowBits r (128 * e) 128)
  else (List.range 128).map fun e => ((rowWord r e).toNat : Int)

/-- One addition at a merging router (R264): FP32 rounded, INT32 saturated, exact integers unrounded. -/
def confAdd (fmt : Nat) (a b : Int) : Int :=
  if fmt = 0xD then a + b
  else if fmt = 0xC then (satAdd32 (BitVec.ofInt 32 a) (BitVec.ofInt 32 b)).toNat
  else (fAdd (BitVec.ofInt 32 a) (BitVec.ofInt 32 b)).toNat

/-- The flit leaving a router of the tree: the tick counted from the sources' issue, and the sum. Inputs are taken in the
order local, north, south, west, east (R264); a merging router adds one tick to its latest input (R255). -/
def confFlow (order dst fmt : Nat) (src : Nat → Option (List Int)) : Nat → Nat → Option (Nat × List Int)
  | 0, _ => none
  | n + 1, r =>
    let child (ok : Bool) (c : Nat) : Option (Nat × List Int) :=
      if !ok then none
      else match confNext order dst c with
        | some h => if hopEnd h = r then (confFlow order dst fmt src n c).map fun x => (x.1 + hopTicks h, x.2) else none
        | none => none
    let ins := [(src r).map fun v => (0, v), child (decide (16 ≤ r)) (r - 16), child (decide (r < 240)) (r + 16),
                child (decide (0 < r % 16)) (r - 1), child (decide (r % 16 < 15)) (r + 1)].filterMap id
    match ins with
    | [] => none
    | [x] => some x
    | x :: xs => some ((ins.map (·.1)).foldl max 0 + 1, xs.foldl (fun a b => List.zipWith (confAdd fmt) a b.2) x.2)

/-- Ticks, from the sources' issue, at which the inputs of a router of a Confluence tree arrive. -/
def confArrivals (order dst : Nat) (srcs : List Nat) (r : Nat) : List Nat :=
  let from_ (ok : Bool) (c : Nat) : Option Nat :=
    match ok, confNext order dst c, confFlow order dst 0xC (fun c => if srcs.contains c then some [] else none) 33 c with
    | true, some h, some x => if hopEnd h = r then some (x.1 + hopTicks h) else none
    | _, _, _ => none
  [if srcs.contains r then some 0 else none, from_ (decide (16 ≤ r)) (r - 16), from_ (decide (r < 240)) (r + 16),
    from_ (decide (0 < r % 16)) (r - 1), from_ (decide (r % 16 < 15)) (r + 1)].filterMap id

/-- The alignment pad of a router of a Confluence tree: how long its earliest input waits (R256, R264). -/
def confPad (order dst : Nat) (srcs : List Nat) (r : Nat) : Nat :=
  let ts := confArrivals order dst srcs r
  ts.foldl max 0 - ts.foldl min (ts.headD 0)

/-- Link uses of a Confluence row for flit 0: every router of the tree sends once. -/
def confUses (order dst : Nat) (srcs : List Nat) (t : Nat) : List ((Nat × Nat) × Nat) :=
  let routers := dedup (srcs.flatMap fun c => (meshPath (order == 1) c dst).map (·.1))
  routers.filterMap fun r =>
    match confNext order dst r, confFlow order dst 0xC (fun c => if srcs.contains c then some [] else none) 32 r with
    | some h, some x => some (h, t + x.1)
    | _, _ => none

/-- The source whose flit a link of a Confluence tree carries: of the sources whose paths take the link, the lowest-indexed, as R265 names
it for a sum (DEDUCED, notes/assumptions/124.md). -/
def confOwner (order dst : Nat) (srcs : List Nat) (link : Nat × Nat) : Option Nat :=
  srcs.find? fun s => (meshPath (order == 1) s dst).contains link

/-- Busy tick 4j of MSH.CONF: each source contributes its row and needs its inject port and the links that carry its flits; the
lowest-indexed source stands for the landing. -/
def Dev.confTick (i : Inst) (o : Owner) (j : Nat) (d : Dev) : Dev :=
  let (r, d1) := d.readRow o i.coreN (opBank i.opa) (opRow i.opa + j)
  match r with
  | none => d1
  | some v =>
    let t := d.run.tick
    let e := d.meshEntry i.coreN (opEntry i.opb)
    let srcs := d.members (meshCols e) (meshRows e)
    let dst := opCore i.opd
    let land := t + meshLat e
    let c : Contrib := { opd := i.opd.toNat, j := j, land := land, source := i.coreN, fmt := i.fmt, entry := e, data := v }
    let first := srcs.head? = some i.coreN
    let d2 := (d1.onRun fun r => { r with contribs := r.contribs ++ [c] }).sched land true o
      (if first then .confLand dst i.opd.toNat j else .noop)
    let d3 := (if j + 1 < i.cnt then d2.sched (t + 4) false o (.row 0x63 i (j + 1) 0 {}) else d2).needFlits o i.coreN 4 t
    let mine := (confUses (meshOrder e) dst srcs t).filter fun u => confOwner (meshOrder e) dst srcs u.1 == some i.coreN
    let d4 := d3.needLinks o mine
    if first then d4.needFlits o dst 5 (land - 6) else d4

def Dev.meshConf (i : Inst) (d : Dev) : Dev :=
  let o := ownerOf i 6 0 d
  let (ok, d1) := d.takeUnit o 2 1 (4 * i.cnt)
  if ok then d1.confTick i o 0 else d1

/-- The row a Confluence lands: none where the exact sum leaves the range (R265). -/
def confRow (fmt order dst : Nat) (cs : List Contrib) : Option Row :=
  let src (c : Nat) : Option (List Int) := (cs.find? fun x => x.source == c).map fun x => confElems fmt x.data
  match confFlow order dst fmt src 33 dst with
  | none => some 0#4096
  | some x =>
    if fmt = 0xD then
      if x.2.all exactInRange then some (BitVec.ofNat 4096 (packBits 128 (x.2.map (intBits 128)))) else none
    else some (BitVec.ofNat 4096 (packBits 32 (x.2.map Int.toNat)))

/-- A Confluence row lands at its destination. -/
def Dev.confLand (o : Owner) (dst opd j : Nat) (d : Dev) : Dev :=
  let cs := d.run.contribs.filter fun c => c.opd == opd && c.j == j && c.land == d.run.tick
  let d1 := d.onRun fun r => { r with contribs := r.contribs.filter fun c => !(c.opd == opd && c.j == j && c.land == d.run.tick) }
  match cs with
  | [] => d1
  | c :: _ =>
    match confRow c.fmt (meshOrder c.entry) dst cs with
    | some v => if d.inRoute dst then d1.landScratch o dst (bitsOf opd 10 3) (bitsOf opd 0 10 + j) (fun _ => v) true else d1
    | none => d1.raise o 0x0301

/-! ### The Relay chain (R266 to R269) -/

/-- The next core in service from chain position `p` on, within `n` hops, in the direction `back`. -/
def Dev.nextOnChain (d : Dev) (back : Bool) : Nat → Nat → Option Nat
  | 0, _ => none
  | n + 1, p =>
    if (back && p == 0) || (!back && p == 255) then none
    else
      let p' := if back then p - 1 else p + 1
      if d.working (chainPos p') then some (chainPos p') else d.nextOnChain back n p'

/-- Send one row a logical hop on: it lands RELAY_PAD ticks after it leaves (R267, R269). -/
def Dev.relaySend (i : Inst) (o : Owner) (j : Nat) (v : Row) (d : Dev) : Dev :=
  let back := i.extBits 0 1 = 1
  match d.nextOnChain back 255 (chainPos i.coreN) with
  | some c => d.sched (d.run.tick + d.rt.relayPad) true o
      (.landRow c (opBank i.opd) (opRow i.opd + j) v (1 + i.extBits 0 1))
  | none => d

/-- Busy tick j of RLY.PASS. -/
def Dev.passTick (i : Inst) (o : Owner) (j : Nat) (d : Dev) : Dev :=
  let (r, d1) := d.readRow o i.coreN (opBank i.opa) (opRow i.opa + j)
  match r with
  | none => d1
  | some v =>
    let d2 := d1.relaySend i o j v
    if j + 1 < i.cnt then d2.sched (d.run.tick + 1) false o (.row 0x71 i (j + 1) 0 {}) else d2

def Dev.relayPass (i : Inst) (d : Dev) : Dev :=
  let o := ownerOf i 7 0 d
  let (ok, d1) := d.takeUnit o 2 1 i.cnt
  if ok then d1.passTick i o 0 else d1

/-- Busy tick j of RLY.FWD: the row landing on its core from the chain in this tick, or an all-zero row (R268). -/
def Dev.fwdTick (i : Inst) (o : Owner) (j : Nat) (d : Dev) : Dev :=
  let v := match d.run.relayIn.find? (fun x => x.1 == i.coreN && x.2.1 == i.extBits 0 1) with
    | some x => x.2.2
    | none => 0#4096
  let d1 := d.relaySend i o j v
  if j + 1 < i.cnt then d1.sched (d.run.tick + 1) false o (.row 0x72 i (j + 1) 0 {}) else d1

def Dev.relayFwd (i : Inst) (d : Dev) : Dev :=
  let o := ownerOf i 7 0 d
  let (ok, d1) := d.takeUnit o 2 1 i.cnt
  if ok then d1.fwdTick i o 0 else d1

/-- A row lands in scratch; one from the chain can be forwarded in the same tick (R268). A core that is a pass-through stage has no
scratch: nothing is written (R117, R124, R269). -/
def Dev.landRowAct (o : Owner) (core bank row via : Nat) (v : Row) (d : Dev) : Dev :=
  let d1 := if via = 0 then d else d.onRun fun r => { r with relayIn := r.relayIn ++ [(core, via - 1, v)] }
  if d.inRoute core then d1.landScratch o core bank row (fun _ => v) true else d1

end Sys2Proof.Machine
end

