-- ==== Sys2Proof/Machine/Memory.lean ====
section
/-! DEFINITION. Device memory: the interleave map, reading and writing device addresses, latencies, the error record, and
the channels' coming and going (R278 to R319). -/

namespace Sys2Proof.Machine

/-! ### The interleave map (R280 to R284) -/

/-- Channels of a COUNT code. -/
def imapCount (c : Nat) : Nat := [1, 2, 3, 6, 12, 24, 48, 96].getD c 1

/-- Granule bytes of a GRAN code. -/
def imapGran (c : Nat) : Nat := [256, 2048, 16384].getD c 0

/-- The region that holds an address. -/
def Dev.region (d : Dev) (a : Nat) : Option Imap :=
  d.imap.find? fun e => decide (e.base * 2 ^ 21 ≤ a ∧ a < (e.base + e.size) * 2 ^ 21)

/-- Channel and channel byte offset of an address in a region (R281). -/
def Imap.locate (e : Imap) (a : Nat) : Nat × Nat :=
  let o := a - e.base * 2 ^ 21
  let g := o / e.gran
  (e.first + g % e.count, e.chOff * 2 ^ 25 + g / e.count * e.gran + o % e.gran)

/-- Channel of a mapped address. -/
def Dev.channelOf (d : Dev) (a : Nat) : Option Nat := (d.region a).map fun e => (e.locate a).1

/-- MEM_CH_MAP bit of a channel. -/
def Dev.chMapped (d : Dev) (ch : Nat) : Bool :=
  if ch < 64 then bitOf (d.get Reg.MEM_CH_MAP_LO.IN_SERVICE) ch else bitOf (d.get Reg.MEM_CH_MAP_HI.IN_SERVICE) (ch - 64)

/-- A channel serves: in service, or its retirement still pending (R45, R314). -/
def Dev.chServes (d : Dev) (ch : Nat) : Bool := d.chMapped ch || d.chRetire.contains ch

/-- Physical byte address of a channel byte offset: 63 data blocks in every group of 16,384 bytes (R286). -/
def physAddr (off : Nat) : Nat := off / 16128 * 16384 + off % 16128

/-- Channel byte offset of a physical data byte. -/
def dataOffset (phys : Nat) : Nat := phys / 16384 * 16128 + phys % 16384

/-- Key of a channel byte. -/
def dramKey (ch off : Nat) : Nat := ch * 2 ^ 33 + physAddr off

/-- Key of a device address; none where it is unmapped or absent (R283). -/
def Dev.dramAt (d : Dev) (a : Nat) : Option Nat :=
  match d.region a with
  | none => none
  | some e =>
    let l := e.locate a
    if d.chServes l.1 then some (dramKey l.1 l.2) else none

/-- Read the byte at a device address; unmapped and absent addresses read 0xFF (R283). -/
def Dev.readByte (d : Dev) (m : Memory) (a : Nat) : Byte :=
  match d.dramAt a with
  | some k => Memory.read m k
  | none => 0xFF#8

/-- Write a byte; a write to an unmapped or absent address is dropped. -/
def Dev.writeByte (d : Dev) (m : Memory) (a : Nat) (v : Byte) : Memory :=
  match d.dramAt a with
  | some k => Memory.write m k v
  | none => m

/-- `n` bytes from a device address as a little-endian number. -/
def Dev.readMem (d : Dev) (m : Memory) (a : Nat) : Nat → Nat
  | 0 => 0
  | n + 1 => (d.readByte m a).toNat + 256 * d.readMem m (a + 1) n

/-- Write the `n` low bytes of `v` from a device address. -/
def Dev.writeMem (d : Dev) (m : Memory) (a v : Nat) : Nat → Memory
  | 0 => m
  | n + 1 => d.writeMem (d.writeByte m a (BitVec.ofNat 8 v)) (a + 1) (v / 256) n

/-- Copy `n` bytes between device addresses. -/
def Dev.copyMem (d : Dev) (m : Memory) (src dst : Nat) : Nat → Memory
  | 0 => m
  | n + 1 => d.writeByte (d.copyMem m src dst n) (dst + n) (d.readByte m (src + n))

/-- `n` bytes from a device address. -/
def Dev.memBytes (d : Dev) (m : Memory) (a n : Nat) : List Byte := (List.range n).map fun i => d.readByte m (a + i)

/-- Write bytes from a device address. -/
def Dev.writeBytes (d : Dev) (m : Memory) (a : Nat) : List Byte → Memory
  | [] => m
  | b :: bs => d.writeBytes (d.writeByte m a b) (a + 1) bs

/-! ### The check stripe (R286 to R289) -/

/-- Channel, group and data block of a block of device memory, by key / 256. -/
def stripeOf (blk : Nat) : Nat × Nat × Nat := (blk / 2 ^ 25, blk % 2 ^ 25 / 64, blk % 64)

/-- Word address of check word `b` of a group: bytes 4b to 4b + 3 of its check block (R286). -/
def checkKey (ch q b : Nat) : Nat := (ch * 2 ^ 33 + 16384 * q + 16128) / 4 + b

/-- Check word of data block `b` of a group of zero blocks. -/
def zeroCheck (ch q b : Nat) : BitVec 32 := blockCrc ch q b (List.replicate 256 0#8)

/-- The check block's own CRC, over its words 0 to 62. -/
def ownCheck (ch q : Nat) (w : Nat → BitVec 32) : BitVec 32 :=
  crc32c ((List.range 63).flatMap fun b => leBytes 4 (w b ^^^ zeroCheck ch q b).toNat)

/-- The check buffers and the check blocks in DRAM. -/
abbrev Stripe := KMap (List (Nat × KMap (BitVec 32))) × KMap (BitVec 32)

/-- A group's check words as DRAM holds them. -/
def checkLoad (ch q : Nat) (c : KMap (BitVec 32)) : KMap (BitVec 32) :=
  ksetMany 0#32 (fun b => kget 0#32 c (checkKey ch q b)) 63 [] 0

/-- A check block is written back, with its own CRC. -/
def checkBack (ch : Nat) (g : Nat × KMap (BitVec 32)) (c : KMap (BitVec 32)) : KMap (BitVec 32) :=
  let own := if g.2.isEmpty then 0#32 else ownCheck ch g.1 (kget 0#32 g.2) ^^^ ownCheck ch g.1 fun _ => 0#32
  kset 0#32 (ksetMany 0#32 (fun b => kget 0#32 g.2 b) 63 c (checkKey ch g.1 0)) (checkKey ch g.1 63) own

/-- A group is used: its check block is held in the channel's buffer, most recent first; of more than 16 the oldest is written back
(R288). -/
def Stripe.use (ch q : Nat) (x : Stripe) : Stripe :=
  let l := kget [] x.1 ch
  let g := (l.find? fun g => g.1 == q).getD (q, checkLoad ch q x.2)
  let l1 := g :: l.filter fun g => g.1 != q
  (kset [] x.1 ch (l1.take 16), (l1.drop 16).foldl (fun c g => checkBack ch g c) x.2)

/-- The CRC of a block goes into the buffer. -/
def Stripe.place (m : Memory) (blk : Nat) (x : Stripe) : Stripe :=
  let (ch, q, b) := stripeOf blk
  let y := x.use ch q
  let crc := blockCrc ch q b ((List.range 256).map fun i => Memory.read m (256 * blk + i)) ^^^ zeroCheck ch q b
  (kset [] y.1 ch ((kget [] y.1 ch).map fun g => if g.1 = q then (q, kset 0#32 g.2 b crc) else g), y.2)

/-- Every check block held is written back. -/
def Stripe.flush (x : Stripe) : Stripe :=
  (x.1, x.1.foldl (fun c e => e.2.foldl (fun c g => checkBack e.1 g c) c) x.2)

/-- Check word of a block: from the buffer where its check block is held there, else from DRAM (R288). -/
def Stripe.word (ch q b : Nat) (x : Stripe) : BitVec 32 :=
  match (kget [] x.1 ch).find? fun g => g.1 == q with
  | some g => kget 0#32 g.2 b
  | none => kget 0#32 x.2 (checkKey ch q b)

/-- Replace the check stripe. -/
def Dev.onStripe (f : Stripe → Stripe) (d : Dev) : Dev := { d with ckBuf := (f (d.ckBuf, d.checks)).1, checks := (f (d.ckBuf, d.checks)).2 }

/-- The block of a key before a list of blocks, unless it heads the list. -/
def consBlock (k : Nat) (t : List Nat) : List Nat := if t.head? = some (k / 256) then t else k / 256 :: t

/-- Blocks whose bytes differ between two memories, in at most `n` steps. -/
def changedBlocks : Nat → Memory → Memory → List Nat
  | 0, _, _ => []
  | _ + 1, [], l => l.foldr (fun x t => consBlock x.1 t) []
  | _ + 1, l, [] => l.foldr (fun x t => consBlock x.1 t) []
  | n + 1, (a, x) :: l, (b, y) :: r =>
    if a < b then consBlock a (changedBlocks n l ((b, y) :: r))
    else if b < a then consBlock b (changedBlocks n ((a, x) :: l) r)
    else if x = y then changedBlocks n l r
    else consBlock a (changedBlocks n l r)

/-- Every write of a block computes its CRC and places it in the check buffer: of the blocks that differ between the device memories
before and after (R288; a block rewritten as it stood keeps its CRC). -/
def Dev.striped (m m' : Memory) (d : Dev) : Dev :=
  d.onStripe fun x => (changedBlocks (m.length + m'.length) m m').foldl (fun x b => x.place m' b) x

/-- A read of `n` bytes takes its CRCs from the check buffer, which then holds the groups (R288). -/
def Dev.useChecks (a n : Nat) (d : Dev) : Dev :=
  d.onStripe fun x => (List.range ((a % 256 + n + 255) / 256)).foldl (fun x i =>
    match d.dramAt (a / 256 * 256 + 256 * i) with
    | some k => x.use (stripeOf (k / 256)).1 (stripeOf (k / 256)).2.1
    | none => x) x

/-- The write-back of every check block before the DRAM enters self refresh or deep sleep (R288, R289). -/
def Dev.flushChecks (d : Dev) : Dev := d.onStripe Stripe.flush

/-- The CRC of a stored block does not fit its bytes (R287). A zero block with the word of a zero block fits. -/
def Dev.crcFails (d : Dev) (m : Memory) (blk : Nat) : Bool :=
  let (ch, q, b) := stripeOf blk
  let w := Stripe.word ch q b (d.ckBuf, d.checks)
  let bs := (List.range 256).map fun i => Memory.read m (256 * blk + i)
  if w = 0#32 ∧ bs.all (· == 0#8) then false else blockCrc ch q b bs != w ^^^ zeroCheck ch q b

/-! ### Blocks that fail their check (R291 to R295) -/

/-- The block of a device address fails its check: its cells do, until it is rewritten whole, or its CRC does not fit. -/
def Dev.isBad (d : Dev) (m : Memory) (a : Nat) : Bool :=
  match d.dramAt a with
  | some k => kget false d.badBlk (k / 256) || d.crcFails m (k / 256)
  | none => false

/-- A whole-block write makes the block's check good again. -/
def Dev.mendBlock (a : Nat) (d : Dev) : Dev :=
  match d.dramAt a with
  | some k => { d with badBlk := kset false d.badBlk (k / 256) false }
  | none => d

/-- The blocks of a range are rewritten whole (R294, R295). -/
def Dev.mendRange (a n : Nat) (d : Dev) : Dev :=
  { d with badBlk := kfilter (fun b => !((List.range (n / 256)).any fun i => (d.dramAt (a + 256 * i)).any fun k => k / 256 == b)) d.badBlk }

/-- Some block of a range fails its check. -/
def Dev.anyBad (d : Dev) (m : Memory) (a n : Nat) : Bool := (List.range ((n + 255) / 256)).any fun i => d.isBad m (a + 256 * i)

/-! ### Fill-plane paths and scheduled latencies (R272, R303 to R306, R445, R511) -/

/-- Router of a channel (R23). -/
def channelRouter (ch : Nat) : Nat := if ch < 48 then ch / 3 else 240 + (ch - 48) / 3

/-- Router by which a port's traffic enters for a core (R272). -/
def portRouter (p core : Nat) : Nat := 16 * (if 2 * p < core / 16 then 2 * p + 1 else 2 * p) + 15

/-- Hops and crossings of a path. -/
def pathCost (p : List (Nat × Nat)) : Nat × Nat := (p.length, (p.filter fun h => hopTicks h == 8).length)

/-- Cores of an island. -/
def islandCores (i : Nat) : List Nat := (List.range 256).filter fun c => islandOf c == i

/-- The controller and DRAM term of R303. -/
def latT (opp : Nat) : Nat := [1110, 987, 822, 617, 411].getD opp 1110

/-- The envelope entry of R304. -/
def latEnvelope (opp : Nat) : Nat := [1600, 1468, 1292, 1072, 852].getD opp 1600

/-- Host latency of R511. -/
def latHost (opp : Nat) : Nat := [4562, 4112, 3512, 2762, 2012].getD opp 4562

/-- Read latency from a channel to an island (R303). -/
def latRead (opp ch island : Nat) : Nat :=
  let costs := (islandCores island).map fun c => pathCost (meshPath true (channelRouter ch) c)
  latT opp + 256 + 4 * (costs.map (·.1)).foldl max 0 + 6 * (costs.map (·.2)).foldl max 0

/-- Latency of a transfer whose region is `e`, or over all channels where none is given (R305). -/
def Dev.latMemory (d : Dev) (core : Nat) (e : Option Imap) : Nat :=
  if d.rt.envelope then latEnvelope d.rt.maxOpp
  else
    let chs := match e with
      | some e => (List.range e.count).map (e.first + ·)
      | none => List.range 96
    (chs.map fun ch => latRead d.rt.maxOpp ch (islandOf core)).foldl max 0

/-- Tick rate of an operating point, in MHz. -/
def oppMHz (opp : Nat) : Nat := [2700, 2400, 2000, 1500, 1000].getD opp 2700

/-! ### The error record and persistent failures (R292 to R295, R314, R317 to R319) -/

/-- Enter an event in MEM_ERR_REC unless it is held. The record is held from then until a host clears PERSISTENT or CH_LOST (R319). -/
def Dev.memRecord (kind ch addr tag : Nat) (scheduled : Bool) (d : Dev) : Dev :=
  let d1 := if d.memHeld then d
    else { d with memHeld := true } |>.put Reg.MEM_ERR_REC.TAG tag |>.putB Reg.MEM_ERR_REC.SCHEDULED scheduled |>.put Reg.MEM_ERR_REC.KIND kind
      |>.put Reg.MEM_ERR_REC.CHANNEL ch |>.put Reg.MEM_ERR_ADDR.ADDR addr
  d1.lantern 11 0xFF 0 tag d.run.tick (ch + 128 * kind + 1024 * (addr / 256)) none

/-- A segment is running or suspended. -/
def Dev.segmentHeld (d : Dev) : Bool := d.running

/-- A channel leaves service: its data is lost (R314, R45). -/
def Dev.chLeave (ch : Nat) (d : Dev) : Dev :=
  { d with chRetire := d.chRetire.filter (· ≠ ch) }

/-- Retire a channel (R314): the map bit clears at once, the flash record is written, a digest job in progress fails
(R318). -/
def Dev.retireChannel (ch : Nat) (d : Dev) : Dev :=
  if !d.chMapped ch then d
  else
    let d1 := if ch < 64 then d.put Reg.MEM_CH_MAP_LO.IN_SERVICE (d.get Reg.MEM_CH_MAP_LO.IN_SERVICE - 2 ^ ch)
      else d.put Reg.MEM_CH_MAP_HI.IN_SERVICE (d.get Reg.MEM_CH_MAP_HI.IN_SERVICE - 2 ^ (ch - 64))
    let d2 := (d1.put (Reg.MEM_CH_STAT.STATE ch) 1).event Reg.MEM_EVENT.RETIRED
    let d3 := { d2 with flashChans := d2.flashChans ++ [ch] }
    let d4 := match d3.digestJob with
      | some _ => ({ d3 with digestJob := none } |>.put Reg.MEM_STATUS.DIGEST_BUSY 0 |>.put Reg.MEM_DIGEST_STAT.ERROR 1
          |>.put Reg.MEM_DIGEST_STAT.VALID 0).event Reg.MEM_EVENT.DIGEST_FAIL
      | none => d3
    if d.running then { d4 with chRetire := d4.chRetire ++ [ch] } else d4

/-- Count a persistent failure of a channel and retire it at the threshold (R295). -/
def Dev.countPersistent (ch : Nat) (d : Dev) : Dev :=
  let d1 := d.count (Reg.MEM_CH_STAT.PERSIST ch) 1
  let th := d1.get Reg.MEM_RETIRE_THRESH.COUNT
  if th ≠ 0 ∧ th ≤ d1.get (Reg.MEM_CH_STAT.PERSIST ch) then d1.retireChannel ch else d1

/-! ### Regions and shadow slots (R307) -/

/-- A device address lies in a shadow slot. -/
def Dev.inSlot (d : Dev) (a : Nat) : Bool :=
  match d.region a with
  | some e => decide ((e.base + e.size - e.shadow) * 2 ^ 21 ≤ a)
  | none => false

/-- Every byte of a range is mapped on channels in service; one whose retirement is pending is not (R318). -/
def Dev.allServed (d : Dev) (a n : Nat) : Bool :=
  (List.range ((n + 255) / 256)).all fun i => (d.channelOf (a + 256 * i)).any d.chMapped

/-- A range lies in a tenancy's regions as R283 and R307 mean them: unmapped and absent addresses and shadow slots are in none. -/
def Dev.inSpace (d : Dev) (t a n : Nat) : Bool :=
  d.inRegions t a n &&
    (List.range ((a % 256 + n + 255) / 256)).all fun i => (d.dramAt (a - a % 256 + 256 * i)).isSome && !d.inSlot (a - a % 256 + 256 * i)

end Sys2Proof.Machine
end

