-- ==== Sys2Proof/Machine/Frames.lean ====
section
/-! DEFINITION. The frames that the Ethernet ports send, byte by byte (R421, R423, R450 to R452, R459, R462). -/

namespace Sys2Proof.Machine

def frameData : Nat := 1
def frameAck : Nat := 2
def frameSignal : Nat := 3
def frameAbort : Nat := 4
def frameJoin : Nat := 5
def frameKeepalive : Nat := 6
def frameMirror : Nat := 7

def Dev.cvPort (d : Dev) (c : Nat) : Nat := d.get (Reg.WMK_CV0.PORT c)
def Dev.cvPeer (d : Dev) (c : Nat) : Nat := d.get (Reg.WMK_CV0.PEER c)
def Dev.cvBlocks (d : Dev) (c : Nat) : Nat := d.get (Reg.WMK_CV0.BLOCKS c)

/-- The sub-port that serves a convoy on a port (R423). -/
def Dev.subOf (d : Dev) (p c : Nat) : Nat := if d.is (Reg.WMK_P_CFG.SPLIT p) && d.is (Reg.WMK_CV0.SUB c) then 1 else 0

/-- The link of a port that serves a convoy is up. -/
def Dev.linkOn (d : Dev) (p c : Nat) : Bool :=
  if d.subOf p c = 1 then d.is (Reg.WMK_P_STAT.LINK1 p) else d.is (Reg.WMK_P_STAT.LINK0 p)

/-- The receiver's device number: the entry's, and MIR_PEER's for the Mirror's entry (R451, R462). -/
def Dev.dstOf (d : Dev) (c : Nat) : Nat := if c = 511 then d.get Reg.MIR_PEER.DEVICE else d.cvPeer c

/-- The Waymark header (R451). -/
def Dev.waymarkHeader (d : Dev) (c type inst blk blocks : Nat) (echo again : Bool) (len : Nat) : List Byte :=
  leBytes 1 1 ++ leBytes 1 type ++ leBytes 2 (d.get Reg.WMK_CTL.DEVICE) ++ leBytes 2 (d.dstOf c) ++
    leBytes 2 (d.get (Reg.WMK_CV0.PEER_CONVOY c) + (if echo then 2 ^ 9 else 0) + (if again then 2 ^ 10 else 0)) ++
    leBytes 8 inst ++ leBytes 2 blk ++ leBytes 2 blocks ++ leBytes 2 len ++ leBytes 1 (d.get (Reg.WMK_CV0.TENANCY c)) ++ leBytes 1 0 ++
    leBytes 8 d.now

/-- Header, payload and check (R450). -/
def withCheck (bs : List Byte) : List Byte := bs ++ leBytes 4 (crc32c bs).toNat

/-- Sum of the 16-bit words of network-order bytes, an odd last byte padded. -/
def sum16 : List Byte → Nat
  | a :: b :: l => a.toNat * 256 + b.toNat + sum16 l
  | [a] => a.toNat * 256
  | [] => 0

/-- Ones' complement of the folded sum; a checksum of 0 is sent as 0xFFFF. -/
def udpCheck (n : Nat) : Nat :=
  let m := n % 65535
  if m = 0 ∧ n ≠ 0 then 0xFFFF else 65535 - m

/-- The UDP datagram (R450): ports, length, checksum over the pseudo-header, and the content. -/
def udpBytes (src dst port sport : Nat) (content : List Byte) : List Byte :=
  let len := 8 + content.length
  let pseudo := beBytes 16 src ++ beBytes 16 dst ++ beBytes 4 len ++ beBytes 4 17
  let head := beBytes 2 sport ++ beBytes 2 port ++ beBytes 2 len
  head ++ beBytes 2 (udpCheck (sum16 (pseudo ++ head ++ content))) ++ content

/-- The frame on the wire (R450). The ECN codepoint and the flow label, which the spec leaves open, are `open_`. -/
def Dev.wireFrame (d : Dev) (p c dscp open_ : Nat) (content : List Byte) : List Byte :=
  let src := d.get (Reg.WMK_P_IP.ADDRESS p 0) + 2 ^ 64 * d.get (Reg.WMK_P_IP.ADDRESS p 1)
  let dst := d.get (Reg.WMK_CV4.PEER_IP_LO c) + 2 ^ 64 * d.get (Reg.WMK_CV5.PEER_IP_HI c)
  let udp := udpBytes src dst (d.get Reg.WMK_IPCFG.UDP_PORT) (49152 + c) content
  let tag := if d.is (Reg.WMK_P_CFG.VLAN_EN p) then
      beBytes 2 0x8100 ++ beBytes 2 (d.get (Reg.WMK_P_CFG.PCP p) * 2 ^ 13 + d.get (Reg.WMK_P_CFG.VLAN_ID p)) else []
  beBytes 6 (d.get (Reg.WMK_CV6.NEXT_HOP c)) ++ beBytes 6 (d.get (Reg.WMK_P_MAC.ADDRESS p)) ++ tag ++ beBytes 2 0x86DD ++
    beBytes 4 (6 * 2 ^ 28 + (dscp * 4 + open_ % 4) * 2 ^ 20 + open_ / 4 % 2 ^ 20) ++ beBytes 2 udp.length ++ beBytes 1 17 ++
    beBytes 1 (d.get Reg.WMK_IPCFG.HOP_LIMIT) ++ beBytes 16 src ++ beBytes 16 dst ++ udp

/-- The DSCP of a frame type (R452). -/
def Dev.dscpOf (d : Dev) (type : Nat) : Nat :=
  if type = frameData then d.get Reg.WMK_IPCFG.DSCP_DATA
  else if type = frameMirror then d.get Reg.WMK_IPCFG.DSCP_MIRROR
  else d.get Reg.WMK_IPCFG.DSCP_CTRL

/-- Send a frame of a convoy on a port: only while Waymark is enabled and the link is up (R459). -/
def Dev.sendOn (p c type inst blk blocks : Nat) (echo again : Bool) (payload : List Byte) (d : Dev) : Dev :=
  if !d.is Reg.WMK_CTL.WAYMARK_EN ∨ !d.linkOn p c then d
  else
    let content := withCheck (d.waymarkHeader c type inst blk blocks echo again payload.length ++ payload)
    let (k, d1) := d.next
    { d1 with said := kset 0 d1.said (d.cvPeer c) d.now }.emit
      (.frame p (d.subOf p c) (d.wireFrame p c (d.dscpOf type) (Config.freeNat k) content))

/-- Send a frame on the port of its convoy. -/
def Dev.sendFrame (c type inst blk blocks : Nat) (echo again : Bool) (payload : List Byte) (d : Dev) : Dev :=
  d.sendOn (d.cvPort c) c type inst blk blocks echo again payload

/-- Send a MIRROR frame on the Mirror's port. -/
def Dev.sendMirror (n : Nat) (again : Bool) (payload : List Byte) (d : Dev) : Dev :=
  d.sendOn d.mir.port 511 frameMirror n 0 0 false again payload

/-- A MIRROR frame: its subtype, bytes 1 to 7, and what follows them (R462). It is an instance of one block of convoy 511, numbered by
that convoy's count, and is kept until the peer acknowledges it (R455; DEDUCED, notes/assumptions/49.md). -/
def Dev.mirFrame (sub tag : Nat) (rest : List Byte) (d : Dev) : Dev :=
  let n := kget 0 d.wmkIssued 511
  let payload := leBytes 4 sub ++ leBytes 4 tag ++ rest
  let x : MirOut := { inst := n, payload := payload, sent := d.now }
  let d1 : Dev := { d with wmkIssued := kset 0 d.wmkIssued 511 (n + 1), mir := { d.mir with unacked := d.mir.unacked ++ [x] } }
  d1.sendMirror n false payload

/-- The ACK of a MIRROR frame that has come (R454, R462). -/
def Dev.mirAckOut (n : Nat) (d : Dev) : Dev := d.sendOn d.mir.port 511 frameAck n 0 1 false false (leBytes 64 1)

end Sys2Proof.Machine
end

