-- ==== Sys2Proof/Machine/Dma.lean ====
section
/-! DEFINITION. The paths of variable latency: DMA.RD, DMA.WR, ST.MEM, DMA.SGATHER, DMA.SSCATTER, arrivals, write
acknowledgements, and the checks at due ticks (R48 to R51, R100, R299, R404 to R409, R437 to R447, R509 to R511). -/

namespace Sys2Proof.Machine

/-! ### Session slots (R404 to R409) -/

def Dev.slotWord (d : Dev) (slot w : Nat) : BitVec 32 := kget 0#32 d.slots (slot * 32 + w)

def Dev.setSlotWord (slot w : Nat) (v : BitVec 32) (d : Dev) : Dev := { d with slots := kset 0#32 d.slots (slot * 32 + w) v }

def Dev.slotState (d : Dev) (slot : Nat) : Nat := bitsOf (d.slotWord slot 0).toNat 0 2
def Dev.slotTen (d : Dev) (slot : Nat) : Nat := bitsOf (d.slotWord slot 0).toNat 4 4

/-- The fault a slot number raises when it is read (R409). -/
def Dev.slotFault (d : Dev) (n : Nat) : Option Nat :=
  if 1024 ≤ n then some 0x0605
  else if d.slotState n = 0 ∨ d.slotTen n ≠ d.rt.tenancy then some 0x0602
  else none

/-! ### Host translations (R510, R514) -/

def cxlTranslate : Nat := 0
def cxlRdCurr : Nat := 1
def cxlItoMWr : Nat := 2
def cxlBISnpInv : Nat := 3
def cxlRspIHitI : Nat := 4
def cxlInvalidateDone : Nat := 5

/-- Before the device writes lines that a host holds, it sends BISnpInv for each and has its response (R506). -/
def Dev.snoopOut (p : Nat → Bool) (d : Dev) : Dev :=
  (d.snoop.filter fun l => p l.2).foldl (fun d l => d.emit (.cxl l.1 cxlBISnpInv l.2)) { d with snoop := d.snoop.filter fun l => !p l.2 }

/-- The device writes the blocks of a range whole (R294, R295, R506). -/
def Dev.rewritten (a n : Nat) (d : Dev) : Dev := (d.mendRange a n).snoopOut fun l => decide (a ≤ l ∧ l < a + n)

/-- The view whose tenancy loaded the Route. -/
def Dev.rtView (d : Dev) : Nat := d.viewOf d.rt.tenancy

/-- The eight line requests of a row (R509). -/
def Dev.lineRequests (what addr : Nat) (d : Dev) : Dev :=
  (List.range 8).foldl (fun d k => d.emit (.cxl d.rtView what (addr + 64 * k))) d

/-- A host row needs its page: its line requests go out if the translation is cached, else it misses and is asked for. -/
def Dev.needPage (addr : Nat) (write : Bool) (d : Dev) : Dev :=
  let v := d.rtView
  let pg := addr / 4096
  if d.ats.contains (v, pg) then d.lineRequests (if write then cxlItoMWr else cxlRdCurr) addr
  else
    let d1 := d.count (Reg.HP_XLAT_MISSES.COUNT v) 1
    if d1.xlatPend.any (fun x => x.1 == v && x.2.1 == pg) then d1
    else { d1 with xlatPend := d1.xlatPend ++ [(v, pg, write)] }.emit (.cxl v cxlTranslate (pg * 4096))

/-- The page of a host row is translated. -/
def Dev.translated (d : Dev) (addr : Nat) : Bool := d.ats.contains (d.rtView, addr / 4096)

/-! ### Waymark records (R463) -/

/-- Enter a Waymark fault in WMK_ERR_REC unless it holds one. -/
def Dev.wmkRecord (code convoy blk : Nat) (d : Dev) : Dev :=
  if d.is Reg.WMK_EVENT.FAULT then d
  else (d |>.put Reg.WMK_ERR_REC.CODE code |>.put Reg.WMK_ERR_REC.PORT (d.get (Reg.WMK_CV0.PORT convoy))
    |>.put Reg.WMK_ERR_REC.PEER (d.get (Reg.WMK_CV0.PEER convoy)) |>.put Reg.WMK_ERR_REC.CONVOY convoy
    |>.put Reg.WMK_ERR_REC.BLOCK blk).event Reg.WMK_EVENT.FAULT

/-- Start of the window of instance n (R439). -/
def Dev.windowStart (d : Dev) (c n : Nat) : Nat :=
  d.get Reg.TIM_EPOCH.COUNT + d.get (Reg.WMK_CV1.FIRST c) + n * d.get (Reg.WMK_CV2.PERIOD c)

def Dev.windowEnd (d : Dev) (c n : Nat) : Nat := d.windowStart c n + d.get (Reg.WMK_CV2.LEN c)

/-- The run tick at which receive instance n is due (R445). -/
def Dev.wmkDue (d : Dev) (c n : Nat) : Nat :=
  let ns := d.get (Reg.WMK_CV1.FIRST c) + n * d.get (Reg.WMK_CV2.PERIOD c) + d.get (Reg.WMK_CV2.LEN c)
  (ns * oppMHz d.rt.maxOpp + 999) / 1000 + 640

/-! ### Addresses of a memory stream (R89, R100, R408) -/

/-- Where an occurrence's stream operand starts, and the limit that a session-relative address keeps below (0: none). -/
structure StreamAt where
  entry : BitVec 128
  base : Nat
  limit : Nat
  deriving DecidableEq, Repr

/-- The stream operand at issue; a session-relative one reads its slot from the row OPB names (R408). -/
def Dev.streamAt (o : Owner) (i : Inst) (op : BitVec 24) (d : Dev) : Option StreamAt × Dev :=
  let e := d.stream i.coreN (opHandle op)
  let off := opOffset op * strStride e
  if strKind e ≠ 3 then (some { entry := e, base := strBase e + off, limit := 0 }, d)
  else
    match d.readRow o i.coreN (opBank i.opb) (opRow i.opb) with
    | (none, d1) => (none, d1)
    | (some r, d1) =>
      let n := (rowWord r 0).toNat
      match d1.slotFault n with
      | some f => (none, d1.raise o f)
      | none =>
        let kv := (d1.slotWord n 2).toNat
        (some { entry := e, base := kv * 256 + strBase e + off, limit := (kv + (d1.slotWord n 3).toNat) * 256 }, d1)

/-- The fault of a device-memory row address at run time (R44, R100, R283, R307, R408). -/
def Dev.rowFault (d : Dev) (a limit : Nat) : Option Nat :=
  if a % 256 ≠ 0 then some 0x0203
  else if (limit ≠ 0 ∧ limit < a + 512) ∨ !d.inRegions d.rt.tenancy a 512 ∨ d.inSlot a ∨ d.inSlot (a + 256) then some 0x0206
  else if (d.region a).isNone ∨ (d.region (a + 256)).isNone then some 0x0206
  else if (d.dramAt a).isNone ∨ (d.dramAt (a + 256)).isNone then some 0x0207
  else none

/-- The fault of a stream row address. A host-memory address (KIND 1) is held to its alignment: R92 leaves the rest of R100 to the
translation (DEDUCED, notes/assumptions/114.md). -/
def Dev.streamFault (d : Dev) (kind a limit : Nat) : Option Nat :=
  if kind = 0 ∨ kind = 3 then d.rowFault a limit else if a % 256 ≠ 0 then some 0x0203 else none

/-- A latch that carries a stream's base, limit and Waymark count from tick to tick. -/
def StreamAt.latch (s : StreamAt) (inst : Nat) : Latch := { bits := s.base, pass := s.limit, scales := [inst] }

/-! ### DMA.RD -/

/-- The secondary of a Mirror lands the primary's bytes for a read of a class in R104 (R374). -/
def Dev.fromPeer (d : Dev) (o : Owner) (e : BitVec 128) : Bool :=
  d.is Reg.MIR_STATUS.ACTIVE && d.mir.secondary && o.v &&
    (((strKind e == 1 || strKind e == 3) && strConc e) || (strKind e == 2 && strRelaxed e))

/-- Post a destination row. -/
def Dev.post (x : Xfer) (d : Dev) : Dev := d.onRun fun r => { r with xfers := r.xfers ++ [x] }

/-- Busy tick j of DMA.RD on a memory or host stream: row j is asked for. -/
def Dev.dmaRdTick (i : Inst) (o : Owner) (j : Nat) (lt : Latch) (d : Dev) : Dev :=
  let e := d.stream i.coreN (opHandle i.opa)
  let a := lt.bits + j * strStride e
  let bank := opBank i.opd
  let row := opRow i.opd + j
  if 575 < row then d.raise o 0x0204
  else
    match d.streamFault (strKind e) a lt.pass with
    | some f => d.raise o f
    | none =>
      let t := d.run.tick
      let host := strKind e = 1
      let peer := d.fromPeer o e
      let lat := if host then latHost d.rt.maxOpp else d.latMemory i.coreN (if strKind e = 3 then none else d.region a)
      let x : Xfer := { owner := o, path := if peer then .peer else if host then .host else .memory, j := j, bank := bank, row := row, due := t + lat,
                        addr := a, lin := i.lin }
      let d1 := d.post x
      let d2 := if host ∧ !peer then d1.needPage a false else d1
      if j + 1 < i.cnt then d2.sched (t + 1) false o (.row 0xB1 i (j + 1) 0 lt) else d2

/-- The next instance number of a convoy (R438). -/
def Dev.nextInstance (c : Nat) (d : Dev) : Nat × Dev :=
  let n := kget 0 d.wmkIssued c
  (n, { d with wmkIssued := kset 0 d.wmkIssued c (n + 1) })

/-- A Waymark fault of an occurrence at issue. -/
def Dev.wmkFault (o : Owner) (code convoy : Nat) (d : Dev) : Dev := (d.wmkRecord code convoy 0).raise o code

/-- Act on a receive, opening it if it is not open. -/
def Dev.onRx (c n : Nat) (f : RxInst → RxInst) (d : Dev) : Dev :=
  let mine (r : RxInst) : Bool := r.convoy == c && r.inst == n
  if d.rxInsts.any mine then { d with rxInsts := updFirst mine f d.rxInsts }
  else { d with rxInsts := d.rxInsts ++ [f { convoy := c, inst := n }] }

/-- Issue of a DMA.RD on a convoy: posts every row of the next instance (R438, R439, R444, R445, R459). -/
def Dev.dmaRdWaymark (i : Inst) (o : Owner) (e : BitVec 128) (d : Dev) : Dev :=
  let c := strBase e / 2 ^ 48
  let t := d.run.tick
  let (n, d1) := d.nextInstance c
  if !d.is (Reg.WMK_CV0.JOINED c) then d1.wmkFault o 0x0703 c
  else if d.get (Reg.WMK_CV2.PERIOD c) = 0 ∧ 1 ≤ n then d1.wmkFault o 0x0702 c
  else
    let dr := d.wmkDue c n
    let run := d.get Reg.TIM_RUN_TICK.TICK
    let due := (dr : Int) - run + t
    if due < t + 12 * i.cnt + 512 ∨ (segLength d.seg : Int) ≤ due + 24 then d1.wmkFault o 0x0702 c
    else
      let path := if d.fromPeer o e then Path.peer else Path.waymark c 0 n
      let d2 := (List.range i.cnt).foldl (fun d j =>
        d.post { owner := o, path := path, j := j, bank := opBank i.opd, row := opRow i.opd + j, due := due.toNat,
                 addr := 0, relaxed := strRelaxed e, lin := i.lin }) d1
      d2.onRx c n fun r => { r with posted := some o }

/-- DMA.RD at issue. -/
def Dev.dmaRead (i : Inst) (d : Dev) : Dev :=
  let o := ownerOf i 11 0 d
  let (ok, d1) := d.takeUnit o 2 1 i.cnt
  if !ok then d1
  else
    match d1.streamAt o i i.opa with
    | (none, d2) => d2
    | (some s, d2) =>
      if strKind s.entry = 2 then d2.dmaRdWaymark i o s.entry else d2.dmaRdTick i o 0 (s.latch 0)

/-! ### DMA.WR and ST.MEM -/

/-- Hand a stored row on: its acknowledgement falls due (R51, R306, R511). -/
def Dev.store (o : Owner) (e : BitVec 128) (a j inst : Nat) (data : Row) (d : Dev) : Dev :=
  let t := d.run.tick
  let kind := strKind e
  let sink : StoreTo := if kind = 1 then .host a else if kind = 2 then .waymark (strBase e / 2 ^ 48) (j / 8) (j % 8) inst
    else .memory a
  let due := t + (if kind = 1 then latHost d.rt.maxOpp else 900)
  let d1 := d.onRun fun r => { r with stores := r.stores ++ [{ owner := o, j := j, due := due, sink := sink, data := data }] }
  if kind = 1 then d1.needPage a true else d1

/-- Busy tick j of DMA.WR. -/
def Dev.dmaWrTick (i : Inst) (o : Owner) (j : Nat) (lt : Latch) (d : Dev) : Dev :=
  let e := d.stream i.coreN (opHandle i.opd)
  let a := lt.bits + j * strStride e
  match d.readRow o i.coreN (opBank i.opa) (opRow i.opa + j) with
  | (none, d1) => d1
  | (some v, d1) =>
    match (if strKind e = 2 then none else d.streamFault (strKind e) a lt.pass) with
    | some f => d1.raise o f
    | none =>
      let d2 := (d1.observe o i.coreN 3 0 (rowKey (opBank i.opa) (opRow i.opa + j)) (rowBytes v)).store o e a j
        (lt.scales.headD 0) v
      if j + 1 < i.cnt then d2.sched (d.run.tick + 1) false o (.row 0xB2 i (j + 1) 0 lt) else d2

/-- DMA.WR at issue; one on a convoy is the convoy's next instance (R438, R439, R459). The secondary of a Mirror transmits
no Waymark data, so its send opens no instance (R374). -/
def Dev.dmaWrite (i : Inst) (d : Dev) : Dev :=
  let o := ownerOf i 11 0 d
  let (ok, d1) := d.takeUnit o 2 1 i.cnt
  if !ok then d1
  else
    match d1.streamAt o i i.opd with
    | (none, d2) => d2
    | (some s, d2) =>
      if strKind s.entry ≠ 2 then d2.dmaWrTick i o 0 (s.latch 0)
      else
        let c := strBase s.entry / 2 ^ 48
        let (n, d3) := d2.nextInstance c
        if !d.is (Reg.WMK_CV0.JOINED c) then d3.wmkFault o 0x0703 c
        else if d.get (Reg.WMK_CV2.PERIOD c) = 0 ∧ 1 ≤ n then d3.wmkFault o 0x0702 c
        else
          let d4 := if d.is Reg.MIR_STATUS.ACTIVE && d.mir.secondary then d3
            else { d3 with txInsts := d3.txInsts ++ [{ convoy := c, inst := n, blocks := i.cnt / 8, owner := o,
                                                       slotAt := d3.windowStart c n }] }
          d4.dmaWrTick i o 0 (s.latch n)

/-- Busy tick j of one lane of ST.MEM. -/
def Dev.stMemTick (i : Inst) (o : Owner) (j lane : Nat) (lt : Latch) (d : Dev) : Dev :=
  let e := d.stream i.coreN (opHandle i.opd)
  let a := lt.bits + j * strStride e
  match d.readVbuf o i.coreN lane (opVbuf i.opa + j) with
  | (none, d1) => d1
  | (some v, d1) =>
    match d.streamFault (strKind e) a lt.pass with
    | some f => d1.raise o f
    | none =>
      let d2 := (d1.observe o i.coreN 3 0 (2 ^ 19 + lane * 128 + opVbuf i.opa + j) (rowBytes v)).store o e a j 0 v
      if j + 1 < i.cnt then d2.sched (d.run.tick + 1) false o (.row 0x52 i (j + 1) lane lt) else d2

/-- One lane of ST.MEM at issue. -/
def Dev.stMemLane (i : Inst) (o : Owner) (lane : Nat) (d : Dev) : Dev :=
  let (ok, d1) := d.takeUnit o lane 1 i.cnt
  if !ok then d1
  else
    match d1.streamAt o i i.opd with
    | (none, d2) => d2
    | (some s, d2) => d2.stMemTick i o 0 lane (s.latch 0)

/-! ### DMA.SGATHER and DMA.SSCATTER -/

/-- Busy tick k of DMA.SGATHER: one word is gathered; the last posts the row (R405, R409). -/
def Dev.gatherTick (i : Inst) (o : Owner) (k : Nat) (lt : Latch) (d : Dev) : Dev :=
  let n := lt.scales.getD k 0
  match d.slotFault n with
  | some f => d.raise o f
  | none =>
    let lt' := { lt with extra := rowSet lt.extra (4 * k) 4 (d.slotWord n (opWord i.opb)).toNat }
    let t := d.run.tick
    if k + 1 < i.cnt then d.sched (t + 1) false o (.row 0xB3 i (k + 1) 0 lt')
    else d.post { owner := o, path := .gather, j := 0, bank := opBank i.opd, row := opRow i.opd, due := t + 640, addr := 0,
                  data := lt'.extra, lin := i.lin }

/-- Slot numbers of a row. -/
def rowNumbers (n : Nat) (r : Row) : List Nat := (List.range n).map fun k => (rowWord r k).toNat

def Dev.gather (i : Inst) (d : Dev) : Dev :=
  let o := ownerOf i 11 0 d
  let (ok, d1) := d.takeUnit o 2 1 i.cnt
  if !ok then d1
  else
    match d1.readRow o i.coreN (opBank i.opa) (opRow i.opa) with
    | (none, d2) => d2
    | (some r, d2) =>
      if 575 < opRow i.opd then d2.raise o 0x0204
      else d2.gatherTick i o 0 { scales := rowNumbers i.cnt r }

/-- Busy tick k of DMA.SSCATTER: word k goes to its slot (R406, R409). -/
def Dev.scatterTick (i : Inst) (o : Owner) (k : Nat) (lt : Latch) (d : Dev) : Dev :=
  let n := lt.scales.getD k 0
  match d.slotFault n with
  | some f => d.raise o f
  | none =>
    let t := d.run.tick
    let w : Row := BitVec.ofNat 4096 (rowWord lt.extra k).toNat
    let d1 := d.onRun fun r => { r with stores := r.stores ++
      [{ owner := o, j := k, due := t + 900, sink := .slot n (opWord i.opb) (i.sub % 2 == 1), data := w }] }
    if k + 1 < i.cnt then d1.sched (t + 1) false o (.row 0xB4 i (k + 1) 0 lt) else d1

def Dev.scatter (i : Inst) (d : Dev) : Dev :=
  let o := ownerOf i 11 0 d
  let (ok, d1) := d.takeUnit o 2 1 i.cnt
  if !ok then d1
  else
    match d1.readRow o i.coreN (opBank i.opa) (opRow i.opa) with
    | (none, d2) => d2
    | (some data, d2) =>
      match d2.readRow o i.coreN (opBank i.opd) (opRow i.opd) with
      | (none, d3) => d3
      | (some nums, d3) =>
        ((d3.observe o i.coreN 3 0 (rowKey (opBank i.opa) (opRow i.opa)) (rowBytes data)).observe o i.coreN 3 0
          (rowKey (opBank i.opd) (opRow i.opd)) (rowBytes nums)).scatterTick i o 0
          { extra := data, scales := rowNumbers i.cnt nums }

/-! ### Arrivals (R49, R69, R218, R222, R231, R275) -/

/-- Both half-rows are there. -/
def Xfer.complete (x : Xfer) : Bool := x.got0 && x.got1

/-- The last-writer tag and the Mirror take a variable-latency row at its due tick (R365, R371). -/
def Dev.noteDue (x : Xfer) (d : Dev) : Dev :=
  let d1 := d.onCore x.owner.core fun k => { k with lastTag := kset 0 k.lastTag (rowKey x.bank x.row) x.owner.tag }
  d1.observeAt x.owner x.due x.owner.core 1 0 (rowKey x.bank x.row) (rowBytes ((d1.core x.owner.core).row x.bank x.row))

/-- A variance frame of the primary: the bytes an occurrence of R104 landed (R374, R462). -/
def Dev.sendVariance (o : Owner) (lin : Nat) (bytes : List Byte) (d : Dev) : Dev :=
  if d.is Reg.MIR_STATUS.ACTIVE && !d.mir.secondary && o.v then
    (d.count Reg.MIR_SUBST.COUNT 1).mirFrame 3 o.tag (leBytes 8 lin ++ leBytes 2 bytes.length ++ leBytes 6 0 ++ bytes)
  else d

/-- Write one half of a destination row and set its arrival mark. A complete row past its due tick is noted at once. -/
def Dev.landHalf (x : Xfer) (half data : Nat) (d : Dev) : Dev :=
  let x' := if half = 0 then { x with got0 := true } else { x with got1 := true }
  let same (y : Xfer) : Bool := y.owner.same x.owner && y.j == x.j && !y.dropped
  let d1 := d.onCore x.owner.core fun k => k.putRow x.bank x.row (rowSet (k.row x.bank x.row) (256 * half) 256 data) false
  let d2 := d1.onRun fun r => { r with xfers := updFirst same (fun _ => x') r.xfers }
  if x'.complete then
    let d3 := if x.checked then d2.noteDue x' else d2
    let ix := x.owner.core * 8192 + rowKey x.bank x.row
    let v := (d3.core x.owner.core).row x.bank x.row
    let d4 := if x.path = .peer then d3 else d3.sendVariance x.owner x.lin (rowBytes v)
    if d4.captured ix then d4.lantern 14 x.owner.core 0 x.owner.tag d.run.tick ix
      (if bitOf (d.get Reg.SEC_STATUS.FEATURES) 1 then some v else none) else d4
  else d2

/-- The row's next missing half is `half`. -/
def Xfer.wants (x : Xfer) (core bank row half : Nat) : Bool :=
  x.owner.core == core && x.bank == bank && x.row == row && !x.dropped && (if half = 0 then !x.got0 else !x.got1)

/-- A fill-plane delay (R275, R276, R561 type 13). The router of the longest wait is a free value. -/
def Dev.fillDelay (core delay from_ : Nat) (d : Dev) : Dev :=
  let d1 := d.peak Reg.MSH_FILL_PEAK.DELAY delay
  if d.get Reg.DBG_LTN_FILL_THRESH.TICKS < delay then
    let (k, d2) := d1.next
    d2.lantern 13 core 0 0 d.run.tick (delay + 2 ^ 16 * (Config.freeNat k % 256) + 2 ^ 24 * from_) none
  else d1

/-- What an arriving half-row holds; none where it cannot arrive (R292, R510). -/
def Dev.halfData (d : Dev) (m : Memory) (x : Xfer) (half : Nat) (host : BitVec 2048) : Option Nat :=
  match x.path with
  | .memory => if d.isBad m (x.addr + 256 * half) then none else some (d.readMem m (x.addr + 256 * half) 256)
  | .host => if d.translated x.addr then some host.toNat else none
  | .gather => some (rowBits x.data (2048 * half) 2048)
  | .waymark _ _ _ => none
  | .peer => none

/-- Cause of a late read, as R561 numbers causes (R299, R446, R514). -/
def xferCause (x : Xfer) : Nat :=
  match x.path with
  | .memory => if x.late = 1 then 1 else 2
  | .host => 4
  | .gather => 4
  | .waymark _ _ _ => 5
  | .peer => 5

/-- The hold request that a late row raised records the reason its controller marked, when the row comes (R299). -/
def Dev.markHold (x : Xfer) (d : Dev) : Dev :=
  let f (h : Hold) : Hold := if h.why = .rows x.owner.core x.owner.tag ∧ h.d = x.due then { h with cause := xferCause x } else h
  if x.checked ∧ x.path = .memory then d.onRun fun r => { r with holds := r.holds.map f, eclipseHolds := r.eclipseHolds.map f } else d

/-- The half-row is written through the fill port; its mark is that of the transfer's latest half-row (R218, R299). -/
def Dev.fillLand (f : FillHalf) (d : Dev) : Dev :=
  match d.run.xfers.find? fun x => x.wants f.core f.bank f.row f.half with
  | none => d
  | some x =>
    let x1 : Xfer := { x with late := f.late }
    ((d.landHalf x1 f.half f.data).markHold x1).fillDelay f.core f.delay f.what

/-- The fill port of a core is free in this tick, and no half-row waits for it. -/
def Dev.fillFree (d : Dev) (core : Nat) : Bool := !d.fillUsed.contains core && d.fillq.all fun f => f.core != core || f.wait != 0

/-- A half-row joins those that wait for their fill eject: after those that came in earlier ticks, and among those of its tick in the order
local, north, south, west, east (R273). -/
def fillInsert (x : FillHalf) : List FillHalf → List FillHalf
  | [] => [x]
  | y :: l => if !y.old && decide (x.from_ < y.from_) then x :: y :: l else y :: fillInsert x l

/-- The router port by which a transfer's half-rows reach a core (R272). -/
def Dev.fillSide (d : Dev) (x : Xfer) : Nat :=
  match x.path with
  | .memory => if (d.channelOf x.addr).any fun ch => decide (ch < 48) then 1 else 2
  | .waymark _ _ _ => 4
  | _ => 3

/-- A half-row reaches its core's router: it is written now, or waits for the fill eject (R251, R275). -/
def Dev.fillIn (f : FillHalf) (d : Dev) : Dev :=
  if d.fillFree f.core then { d.fillLand f with fillUsed := f.core :: d.fillUsed } else { d with fillq := fillInsert f d.fillq }

/-- HALF_ROW_ARRIVAL: a half-row reaches its core over the fill plane. -/
def Dev.arrive (m : Memory) (core bank row half : Nat) (host : BitVec 2048) (mark : DelayMark) (delay : Nat) (d : Dev) : Dev :=
  match d.run.xfers.find? fun x => x.wants core bank row half with
  | none => d
  | some x =>
    match d.halfData m x half host with
    | none => d
    | some v =>
      let late := match mark with
        | .resend => 1
        | .refresh => 2
        | _ => 0
      d.fillIn { core := core, bank := bank, row := row, half := half, data := v, late := late, from_ := d.fillSide x, delay := delay,
                 what := if x.path = .memory then 0 else 2 }

/-- The fill-plane bound of a path (R275). -/
def fillBound (path : List (Nat × Nat)) : Nat := 256 + 4 * (pathCost path).1 + 6 * (pathCost path).2

/-- The delay of a half-row that leaves, or of a block's half-row: within the bound of its path, and stated nowhere (R275, R276). -/
def Dev.freeDelay (path : List (Nat × Nat)) (d : Dev) : Nat × Dev :=
  let (k, d1) := d.next
  (Config.freeNat k % (fillBound path + 1), d1)

/-! ### Write acknowledgements (R289, R309, R406, R407, R443, R506) -/

/-- A word reaches a slot (R406, R407). -/
def Dev.landSlot (o : Owner) (slot w : Nat) (add : Bool) (v : BitVec 32) (d : Dev) : Dev :=
  if !add then d.setSlotWord slot w v
  else if w = 1 then
    let s := (d.slotWord slot 1).toNat + v.toNat
    if 2 ^ 32 ≤ s then (d.setSlotWord slot 1 0xFFFFFFFF#32).raiseArrival o 0x0604
    else d.setSlotWord slot 1 (BitVec.ofNat 32 s)
  else
    let c := (d.slotWord slot 6).toNat + 2 ^ 32 * (d.slotWord slot 7).toNat + v.toNat
    (d.setSlotWord slot 6 (BitVec.ofNat 32 c)).setSlotWord slot 7 (BitVec.ofNat 32 (c / 2 ^ 32))

/-- A row reaches its transmit store; the eighth row of a block completes the block's take-over (R441, R443). -/
def Dev.landTx (o : Owner) (c blk half inst : Nat) (data : Row) (d : Dev) : Dev :=
  let rows := d.txRows ++ [{ convoy := c, inst := inst, j := 8 * blk + half, data := data }]
  let mine (r : TxRow) : Bool := r.convoy == c && r.inst == inst && r.j / 8 == blk
  if (rows.filter mine).length < 8 then { d with txRows := rows }
  else
    let w := (List.range 8).foldr (fun k acc =>
      match rows.find? fun r => mine r && r.j % 8 == k with
      | some r => r.data.toNat + 2 ^ 4096 * acc
      | none => 2 ^ 4096 * acc) 0
    let b : TxBlk := { convoy := c, inst := inst, blk := blk, ten := d.rt.tenancy, owner := o, data := BitVec.ofNat 32768 w }
    let d1 := { d with txRows := rows.filter (fun r => !mine r), txBlks := d.txBlks ++ [b] }
    let p := d.get (Reg.WMK_CV0.PORT c)
    d1.put (Reg.WMK_P_STAT.TX_USED p) (d1.txBlks.filter fun b => d.get (Reg.WMK_CV0.PORT b.convoy) == p).length

/-- Blocks in the transmit store of a port. -/
def Dev.txUsed (d : Dev) (p : Nat) : Nat := (d.txBlks.filter fun b => d.get (Reg.WMK_CV0.PORT b.convoy) == p).length

/-- TX_USED and RX_USED of a port follow its stores. -/
def Dev.updStores (p : Nat) (d : Dev) : Dev :=
  (d.put (Reg.WMK_P_STAT.TX_USED p) (d.txUsed p)).put (Reg.WMK_P_STAT.RX_USED p)
    (d.rxBlks.filter fun b => d.cvPort b.convoy == p).length

/-- A host line of the block is held by a host's cache (R506). -/
def Dev.lineHeld (d : Dev) (a n : Nat) : Bool := d.snoop.any fun l => decide (a ≤ l.2 ∧ l.2 < a + n)

/-- The store can be accepted: no host line is held, the step copy does not hold it, its transmit store has room, its host
page is translated. -/
def Dev.canAccept (d : Dev) (held : Nat → Bool) (x : Store) : Bool :=
  match x.sink with
  | .memory a => !d.lineHeld a 512 && !held a && !held (a + 256)
  | .host a => d.translated a
  | .waymark c _ _ _ => decide (d.txUsed (d.get (Reg.WMK_CV0.PORT c)) < 256)
  | .slot _ _ _ => true

/-- The acknowledgement mark of a store sets. -/
def RunSt.ackStore (o : Owner) (j : Nat) (r : RunSt) : RunSt :=
  { r with stores := updFirst (fun x => x.owner.same o && x.j == j && !x.acked) (fun x => { x with acked := true }) r.stores }

/-- The path on which a store's half-rows leave its core, and what Lantern calls it (R272, R561 type 13). -/
def Dev.departure (d : Dev) (x : Store) : List (Nat × Nat) × Nat :=
  let c := x.owner.core
  match x.sink with
  | .memory a => (meshPath false c (channelRouter ((d.channelOf a).getD 0)), 1)
  | .host _ => (meshPath true c (16 * (c / 16)), 2)
  | .waymark cv _ _ _ => (meshPath true c (portRouter (d.get (Reg.WMK_CV0.PORT cv)) c), 3)
  | .slot _ _ _ => (meshPath true c (16 * (c / 16)), 2)

/-- The store's half-rows have crossed the fill plane (R275, R276). -/
def Dev.departed (x : Store) (d : Dev) : Dev :=
  let w := d.departure x
  let (n, d1) := d.freeDelay w.1
  d1.fillDelay x.owner.core n w.2

/-- An accepted store takes effect on everything but device memory. -/
def Dev.acceptStore (x : Store) (d : Dev) : Dev :=
  let d1 := (d.departed x).onRun (RunSt.ackStore x.owner x.j)
  match x.sink with
  | .memory a => (d1.mendBlock a).mendBlock (a + 256)
  | .host a => d1.emit (.hostWrite d.rtView a (rowBytes x.data))
  | .waymark c blk half inst =>
    if d.is Reg.MIR_STATUS.ACTIVE && d.mir.secondary then d1 else d1.landTx x.owner c blk half inst x.data
  | .slot s w add => d1.landSlot x.owner s w add (rowWord x.data 0)

/-- An accepted store takes effect on device memory. -/
def Dev.acceptMem (x : Store) (d : Dev) (m : Memory) : Memory :=
  match x.sink with
  | .memory a => d.writeMem m a x.data.toNat 512
  | _ => m

/-! ### Checks at due ticks (R49, R51, R69, R247, R299, R446, R447) -/

/-- The rows of a core whose check falls now: due, not checked, and not of an unresolved fork (R69). -/
def Dev.dueRows (d : Dev) (core : Nat) : List Xfer :=
  d.run.xfers.filter fun x => x.owner.core == core && !x.checked && !x.dropped && decide (x.due ≤ d.run.tick) &&
    !(x.owner.spec && (d.core core).fork.isSome)

/-- Mark every missing half of a relaxed row empty: the missing bytes read as zero (R447). -/
def Dev.relaxRow (x : Xfer) (d : Dev) : Dev :=
  let z (half : Nat) (got : Bool) (r : Row) : Row := if got then r else rowSet r (256 * half) 256 0
  d.onCore x.owner.core fun k => k.putRow x.bank x.row (z 1 x.got1 (z 0 x.got0 (k.row x.bank x.row))) false

/-- A relaxed receive is past its due tick with blocks missing: its instance takes no more blocks into rows, and its signal, which
follows every block, never applies (R447, R460). -/
def Dev.closeRelaxed (c n : Nat) (d : Dev) : Dev :=
  { d with rxBlks := d.rxBlks.filter (fun b => !(b.convoy == c && b.inst == n)), wmkSignalled := d.wmkSignalled ++ [(c, n)] }.onRx c n
    fun r => { r with closed := true }

/-- The relaxed receive that a row belongs to, if its blocks are not all written (R447). -/
def Dev.closeRelaxedOf (x : Xfer) (d : Dev) : Dev :=
  match x.path with
  | .waymark c _ n => if d.rxInsts.any (fun r => r.convoy == c && r.inst == n && !r.closed) then d.closeRelaxed c n else d
  | _ => d

/-- Check one row at its due tick: a missing half raises a hold request; a scoreboard core waits instead (R247). -/
def Dev.checkDue (x : Xfer) (d : Dev) : Dev :=
  let same (y : Xfer) : Bool := y.owner.same x.owner && y.j == x.j && !y.dropped
  let d1 := d.onRun fun r => { r with xfers := updFirst same (fun y => { y with checked := true, dropped := x.relaxed && !x.complete })
                                               r.xfers }
  if x.complete then d1.noteDue x
  else if x.relaxed ∧ x.path ≠ .peer then ((d1.relaxRow x).closeRelaxedOf x).noteDue x
  else if d.is (Reg.CORE_STATUS.SCOREBOARD x.owner.core) then d1
  else
    let d2 := if x.path = .host ∧ d.translated x.addr then d1.count (Reg.HP_XLAT_LATE.COUNT d.rtView) 1 else d1
    if d2.run.holds.any fun h => h.d == d.run.tick && h.why == .rows x.owner.core x.owner.tag then d2
    else d2.hold (xferCause x) (.rows x.owner.core x.owner.tag)

/-- The due-tick check of a core. -/
def Dev.checkRows (core : Nat) (d : Dev) : Dev := (d.dueRows core).foldl (fun d x => d.checkDue x) d

/-- Stores of a core whose acknowledgement check falls now. -/
def Dev.dueStores (d : Dev) (core : Nat) : List Store :=
  d.run.stores.filter fun x => x.owner.core == core && !x.checked && decide (x.due ≤ d.run.tick)

/-- The acknowledgement check of one store (R51). -/
def Dev.checkAck (x : Store) (d : Dev) : Dev :=
  let d1 := d.onRun fun r => { r with stores := updFirst (fun y => y.owner.same x.owner && y.j == x.j && !y.checked)
                                                 (fun y => { y with checked := true }) r.stores }
  if x.acked then d1
  else if d1.run.holds.any fun h => h.d == d.run.tick && h.why == .acks x.owner.core x.owner.tag then d1
  else d1.hold 3 (.acks x.owner.core x.owner.tag)

def Dev.checkAcks (core : Nat) (d : Dev) : Dev := (d.dueStores core).foldl (fun d x => d.checkAck x) d

/-- Transfers and stores that are done with leave the lists. -/
def RunSt.sweep (r : RunSt) : RunSt :=
  { r with xfers := r.xfers.filter (fun x => !(x.dropped || (x.checked && x.complete)))
           stores := r.stores.filter (fun x => !(x.checked && x.acked)) }

end Sys2Proof.Machine
end

