-- ==== Sys2Proof/Machine/Beacon.lean ====
section
/-! DEFINITION. Beacons and their waiters, the signal network, host rings, combining entries (R379 to R403). -/

namespace Sys2Proof.Machine

/-! ### Who acts -/

/-- The tenancy for which the host of a binding acts (R498, R499): binding 0 has the rights of tenancy 0's host; another
acts for the enabled tenancy that names it. No host acts before the firmware runs (R500, R528). -/
def Dev.acting (d : Dev) (b : Nat) : Option Nat :=
  if !d.mod.fw then none
  else if b = 0 then some 0
  else (List.range 16).find? fun t => (kget {} d.tens t).enable && (kget {} d.tens t).port == b

/-- Beacon range of a tenancy (R382). -/
def Dev.ownsBeacon (d : Dev) (t bcn : Nat) : Bool :=
  let x := kget {} d.tens t
  decide (64 * x.bcnBase ≤ bcn ∧ bcn < 64 * (x.bcnBase + x.bcnCount))

/-- Remove the first occurrence. -/
def eraseFirst {α : Type} [DecidableEq α] (a : α) : List α → List α
  | [] => []
  | b :: l => if a = b then l else b :: eraseFirst a l

/-! ### Beacon values (R79, R381, R384) -/

def Dev.beacon (d : Dev) (b : Nat) : BitVec 32 := kget 0#32 d.beacons b

def sigCore : Nat := 0
def sigHost : Nat := 1
def sigMgmt : Nat := 2
def sigWmk : Nat := 3

/-- A Beacon value has reached a target (R79). -/
def reached (a b : BitVec 32) : Bool := decide ((a - b).toNat < 2 ^ 31)

/-- Apply a signal and remember the signaller. -/
def Dev.signal (kind id bcn : Nat) (set : Bool) (v : BitVec 32) (d : Dev) : Dev :=
  let x := if set then v else d.beacon bcn + v
  { d with beacons := kset 0#32 d.beacons bcn x, bcnSig := kset 0 d.bcnSig bcn (kind * 2 ^ 14 + id) }

/-- The waiters on a Beacon. -/
def Dev.waiters (d : Dev) (bcn : Nat) : Nat :=
  (d.hwaits.filter fun w => w.bcn == bcn).length +
    (match d.gate with
     | some g => if g.bcn = bcn ∧ !g.released then 1 else 0
     | none => 0)

/-- The 64-bit debug view of a Beacon (R381). -/
def Dev.beaconView (d : Dev) (bcn : Nat) : Nat :=
  (d.beacon bcn).toNat + 2 ^ 32 * min 255 (d.waiters bcn) + 2 ^ 48 * kget 0 d.bcnSig bcn

/-! ### Releases (R384 to R387) -/

/-- A host wait ends with a status and its vector. -/
def Dev.endWait (w : HWait) (status : Nat) (d : Dev) : Dev :=
  ({ d with hwaits := d.hwaits.filter (fun x => x.n ≠ w.n) }.put (Reg.BCN_HWAIT_B.STATUS w.n) status).msix (d.viewOf w.ten) w.vector

/-- Release a host wait if the value allows it; a TAKE takes one unit. -/
def Dev.tryWait (w : HWait) (d : Dev) : Dev :=
  let v := d.beacon w.bcn
  if w.take then (if v = 0#32 then d else { d with beacons := kset 0#32 d.beacons w.bcn (v - 1#32) }.endWait w 2)
  else if reached v w.target then d.endWait w 2 else d

/-- Release the segment gate if the value allows it. -/
def Dev.tryGate (bcn : Nat) (d : Dev) : Dev :=
  match d.gate with
  | some g =>
    let v := d.beacon bcn
    if g.bcn ≠ bcn ∨ g.released then d
    else if g.take then
      (if v = 0#32 then d
       else { d with beacons := kset 0#32 d.beacons bcn (v - 1#32), gate := some { g with released := true } })
    else if reached v g.target then { d with gate := some { g with released := true } } else d
  | none => d

/-- Insert a wait in the order of wait registers, which is the order of R385. -/
def waitInsert (w : HWait) : List HWait → List HWait
  | [] => [w]
  | x :: l => if w.n ≤ x.n then w :: x :: l else x :: waitInsert w l

/-- Steps 2 and 3 of a store cycle for one Beacon: WAIT waiters, then TAKE waiters in the order of R385 (R384). -/
def Dev.release (bcn : Nat) (d : Dev) : Dev :=
  let isTake := match d.gate with
    | some g => g.take
    | none => false
  let d1 := if isTake then d else d.tryGate bcn
  let d2 := (d1.hwaits.filter fun w => w.bcn == bcn && !w.take).foldl (fun d w => d.tryWait w) d1
  let d3 := if isTake then d2.tryGate bcn else d2
  (d3.hwaits.filter fun w => w.bcn == bcn && w.take).foldl (fun d w => d.tryWait w) d3

/-- A signal in a store cycle of its own. -/
def Dev.signalNow (kind id bcn : Nat) (set : Bool) (v : BitVec 32) (d : Dev) : Dev := (d.signal kind id bcn set v).release bcn

/-! ### Watchdog (R388, R389) -/

/-- Time spent in a state deeper than S2, in a suspension or in a freeze does not count (R388, R570). -/
def Dev.waitCounts (d : Dev) : Bool :=
  decide (d.get Reg.PWR_STATE.STATE ≤ 2) && !d.is Reg.RTE_STATUS.SUSPENDED && !d.run.frozen

/-- Milestone time passes for every waiter. -/
def Dev.ageWaits (ns : Nat) (d : Dev) : Dev :=
  if !d.waitCounts then d
  else { d with hwaits := d.hwaits.map (fun w => { w with waited := w.waited + ns }),
                gate := d.gate.map (fun g => { g with waited := g.waited + ns }) }

/-- Write a watchdog record. -/
def Dev.wdRecord (r ten bcn tag : Nat) (take : Bool) (d : Dev) : Dev :=
  d |>.put (Reg.BCN_WD_REC.VALID r) 1 |>.put (Reg.BCN_WD_REC.TENANCY r) ten |>.putB (Reg.BCN_WD_REC.MODE r) take
    |>.put (Reg.BCN_WD_REC.BEACON r) bcn |>.put (Reg.BCN_WD_REC.TAG r) tag

/-- Every waiter as (time waited, tenancy, Beacon, tag, TAKE, wait register or 256 for the gate). -/
def Dev.allWaiters (d : Dev) : List (Nat × Nat × Nat × Nat × Bool × Nat) :=
  (match d.gate with
   | some g => if g.released then [] else [(g.waited, d.rt.tenancy, g.bcn, 0xFF0000 + g.seg, g.take, 256)]
   | none => []) ++
  d.hwaits.map fun w => (w.waited, w.ten, w.bcn, w.tag, w.take, w.n)

/-- The longest-waiting of a list; the first of equals stands. -/
def longest : List (Nat × Nat × Nat × Nat × Bool × Nat) → Option (Nat × Nat × Nat × Nat × Bool × Nat)
  | [] => none
  | a :: l => match longest l with
    | some b => if a.1 < b.1 then some b else some a
    | none => some a

/-- Enter a timeout in BCN_WD_REC0 and REC1 unless they hold one; BCN_WAIT_TIMEOUT is recorded either way. -/
def Dev.wdTimeout (ten bcn tag n : Nat) (take : Bool) (d : Dev) : Dev :=
  if d.is Reg.BCN_EVENT.WD_TIMEOUT then d
  else
    let d1 := d.wdRecord 0 ten bcn tag take
    let d2 := match longest (d.allWaiters.filter fun w => w.2.2.2.2.2 ≠ n) with
      | some w => d1.wdRecord 1 w.2.1 w.2.2.1 w.2.2.2.1 w.2.2.2.2.1
      | none => d1.put (Reg.BCN_WD_REC.VALID 1) 0
    d2.event Reg.BCN_EVENT.WD_TIMEOUT

/-! ### The signal network (R390 to R396) -/

/-- Destination of a Route message's credits: the core, or 0xFF (R392). -/
def creditDest (dest : Nat) : Nat := if bitsOf dest 21 3 = 0 then bitsOf dest 13 8 else 0xFF

/-- Credits the Route grants a sender toward a destination (R115). -/
def Dev.granted (d : Dev) (sender dst : Nat) : Nat :=
  ((d.rt.credits.filter fun c => bitsOf c.toNat 0 8 == sender && bitsOf c.toNat 8 8 == dst).map fun c => bitsOf c.toNat 16 8).sum

def Dev.creditsUsed (d : Dev) (sender dst : Nat) : Nat :=
  match d.credits.find? fun c => c.1 == sender && c.2.1 == dst with
  | some c => c.2.2
  | none => 0

def Dev.setCredits (sender dst n : Nat) (d : Dev) : Dev :=
  let rest := d.credits.filter fun c => !(c.1 == sender && c.2.1 == dst)
  { d with credits := if n = 0 then rest else rest ++ [(sender, dst, n)] }

/-- A delivered message gives its credit back (R394). -/
def Dev.returnCredit (sender dst : Nat) (d : Dev) : Dev := d.setCredits sender dst (d.creditsUsed sender dst - 1)

/-- BCN.MSG at issue: the row's bytes join the outbound queue (R390, R394). -/
def Dev.bcnMessage (i : Inst) (d : Dev) : Dev :=
  let o := ownerOf i 8 0 d
  let (ok, d0) := d.takeUnit o 2 1 1
  if !ok then d0
  else
    match d0.readRow o i.coreN (opBank i.opa) (opRow i.opa) with
    | (none, d1) => d1
    | (some r, d1) =>
      if 32 ≤ (d1.core i.coreN).outbound.length then d1.raise o 0x0603
      else
        let len := i.extBits 0 6 + 1
        let m : Msg := { sender := i.coreN, dest := i.opd.toNat, tag := i.extBits 6 24, len := len, reply := false,
                         payload := BitVec.ofNat 512 (rowBits r 0 (8 * len)), ten := d.rt.tenancy, receipt := false,
                         ready := d.run.cont + 1 }
        d1.onCore i.coreN fun k => { k with outbound := k.outbound ++ [m] }

/-- The first bytes of a 64-byte payload. -/
def msgBytes (n : Nat) (p : BitVec 512) : List Byte := leBytes n p.toNat

/-- A message at the management island: a ring record, or a contribution waiting for its entry. -/
def Dev.toMgmt (m : Msg) (d : Dev) : Dev :=
  let x := bitsOf m.dest 0 21
  if 0x1FFF00 ≤ x then
    { d with ringQueue := d.ringQueue ++ [{ ten := x - 0x1FFF00, kind := 0, head := m.tag, sender := m.sender,
                                            payload := msgBytes m.len m.payload, reply := m.reply, credit := some m.sender }] }
  else { d with mgmtQueue := d.mgmtQueue ++ [m] }

/-- The head of a core's outbound queue leaves once it has a credit (R394). The queue goes first in, first out (DESIGN CHOICE,
notes/assumptions/20.md). -/
def Dev.messageSend (core : Nat) (d : Dev) : Dev :=
  match (d.core core).outbound with
  | [] => d
  | m :: rest =>
    let dst := creditDest m.dest
    if d.run.cont < m.ready ∨ d.granted m.sender dst ≤ d.creditsUsed m.sender dst then d
    else
      let d1 := (d.onCore core fun k => { k with outbound := rest }).setCredits m.sender dst (d.creditsUsed m.sender dst + 1)
      if bitsOf m.dest 21 3 = 0 then d1.onCore dst fun k => { k with inRoute := k.inRoute ++ [m] }
      else d1.toMgmt m

/-- The Route's own accesses of this tick are known, so that a non-scheduled agent may ask (R225). -/
def Dev.portsOpen (d : Dev) : Bool := d.run.frozen || !d.inSegment || d.run.issued

/-- The first message of each sender: messages of one sender are delivered in the order sent (R395). -/
def firstOfEach : List Msg → List Msg
  | [] => []
  | m :: l => m :: (firstOfEach l).filter fun x => x.sender ≠ m.sender

/-- The port that a row test's next step needs, once its earlier step has landed (R240). -/
def RowTest.wants (t : RowTest) (now bank : Nat) (write : Bool) : Bool :=
  t.bank == bank && decide (t.step < 7 ∧ t.notBefore ≤ now) && (t.step % 2 == 0) == write

/-- The non-scheduled requests for a port of a bank, each by its rank (R226): deliveries by sending core, replies among them; the host's
debug window, then its deliveries; the management processor; the test engine. -/
def Dev.portRequests (d : Dev) (core bank : Nat) (write : Bool) : List (List Nat) :=
  let k := d.core core
  let here (m : Msg) : Bool := bitsOf m.dest 10 3 == bank
  let row (ix : Nat) : Bool := ix / 1024 == core * 8 + bank
  (if write then ((firstOfEach k.inRoute ++ k.inReply.take 1).filter here).map fun m => [1, m.sender] else []) ++
    (if d.hdw.any fun x => x.1 == write && row x.2 then [[2, 0]] else []) ++
    (if write then ((k.inHost.take 1).filter here).map fun _ => [2, 1] else []) ++
    (if !write && d.phRow.any row then [[3, 0]] else []) ++
    (if decide (d.get Reg.PWR_STATE.STATE ≤ 1) && k.test.any fun t => t.wants d.run.cont bank write then [[4, 0]] else [])

/-- A non-scheduled agent of a rank gets a bank's port in this tick: the Route has taken its own accesses, and fewer requests of higher
rank wait than accesses are left (R225, R226, R228). -/
def Dev.portFree (d : Dev) (core bank : Nat) (write : Bool) (rank : List Nat) : Bool :=
  let used := (d.portUses (portCode (if write then portWrite else portRead) (core * 8 + bank)) d.run.tick).length
  let before := ((d.portRequests core bank write).filter fun r => rankLt r rank).length
  !d.atRest && d.portsOpen && (d.run.frozen || decide (used + before < if write then 2 else 1))

/-- A non-scheduled access has taken a port in this tick. -/
def Dev.takePort (core bank : Nat) (write : Bool) (d : Dev) : Dev :=
  d.notePort (portCode (if write then portWrite else portRead) (core * 8 + bank)) d.run.tick noOwner

/-- Non-scheduled requests that stand for a port of a bank. -/
def Dev.requestsAt (d : Dev) (core bank : Nat) : Nat :=
  (d.portRequests core bank false).length + (d.portRequests core bank true).length

/-- The banks at which a non-scheduled request may stand, by core and bank. -/
def Dev.requestBanks (d : Dev) : List (Nat × Nat) :=
  let rows := (d.hdw.map (·.2)).toList ++ d.phRow.toList
  (dedup (d.cores.map (·.1) ++ rows.map (· / 8192))).flatMap fun c => (List.range 8).map fun b => (c, b)

/-- At the end of a tick, every non-scheduled request that has not got its port counts in BANK_CONFLICT of its bank (R227). -/
def Dev.countStalls (d : Dev) : Dev :=
  d.requestBanks.foldl (fun (e : Dev) x =>
    match d.requestsAt x.1 x.2 with
    | 0 => e
    | n + 1 => e.count (Reg.BANK_CONFLICT.STALLS x.1 x.2) (n + 1)) d

/-- A reply becomes owed to a tenancy whose ring is in use (R400; DEDUCED, notes/assumptions/37.md). -/
def Dev.owe (t : Nat) (d : Dev) : Dev :=
  if d.is (Reg.SES_RING_CFG.ENABLE t) then { d with repliesOwed := kset 0 d.repliesOwed t (kget 0 d.repliesOwed t + 1) } else d

/-- A reply record joins the queue if it is owed. -/
def Dev.reply (r : RingRec) (d : Dev) : Dev :=
  if (d.ringQueue.filter fun x => x.ten == r.ten && x.reply).length < kget 0 d.repliesOwed r.ten then
    { d with ringQueue := d.ringQueue ++ [r] }
  else d

/-- A receipt (R396). -/
def Dev.receipt (m : Msg) (d : Dev) : Dev :=
  if !m.receipt then d
  else d.reply { ten := m.ten, kind := 2, head := m.tag, sender := m.sender, payload := [], reply := true, credit := none }

/-- The row a message leaves (R391). -/
def deliveredRow (m : Msg) (seq : Nat) (r : Row) : Row :=
  let hdr := m.tag + 2 ^ 24 * (m.len - 1) + (if m.reply then 2 ^ 30 else 0) + 2 ^ 31 + 2 ^ 32 * m.sender + 2 ^ 40 * (seq % 2 ^ 24)
  rowSet (rowSet r 0 m.len m.payload.toNat) 504 8 hdr

/-- Deliver a message into its row: sequence numbers count from 0 (DESIGN CHOICE, notes/assumptions/20.md). -/
def Dev.deliverRow (m : Msg) (d : Dev) : Dev :=
  let c := bitsOf m.dest 13 8
  let bank := bitsOf m.dest 10 3
  let d1 := d.pokeRow c bank (bitsOf m.dest 0 10) (deliveredRow m (d.core c).delivered) false
  let d2 := (d1.onCore c fun k => { k with delivered := (k.delivered + 1) % 2 ^ 24 }).receipt m
  match m.bcn with
  | some b => d2.signalNow sigMgmt 0 b false 1#32
  | none => d2

/-- A host message can go on: to the management island, or to a core whose host queue has room (R392). -/
def Dev.hostRoom (d : Dev) (m : Msg) : Bool :=
  bitsOf m.dest 21 3 != 0 || decide ((d.core (bitsOf m.dest 13 8)).inHost.length < 4)

/-- Put the first host message that can go on into its destination's queue (R392): BUSY clears. -/
def Dev.hostForward (d : Dev) : Dev :=
  match d.hostMsgs.find? d.hostRoom with
  | none => d
  | some m =>
    let d1 := { d with hostMsgs := eraseFirst m d.hostMsgs }.put (Reg.SES_MSG_CTL.BUSY m.ten) 0
    if bitsOf m.dest 21 3 ≠ 0 then { d1 with mgmtQueue := d1.mgmtQueue ++ [m] }
    else d1.onCore (bitsOf m.dest 13 8) fun k => { k with inHost := k.inHost ++ [m] }

/-- Messages of a queue that ask for a port, and the rank of each: any sender's first of the Route queue, the head of the others. -/
def CoreSt.asking (k : CoreSt) (q : MsgQueue) : List (List Nat × Msg) :=
  match q with
  | .route => (firstOfEach k.inRoute).map fun m => ([1, m.sender], m)
  | .host => (k.inHost.take 1).map fun m => ([2, 1], m)
  | .reply => (k.inReply.take 1).map fun m => ([1, m.sender], m)

/-- The message leaves its queue. -/
def CoreSt.takeMsg (q : MsgQueue) (m : Msg) (k : CoreSt) : CoreSt :=
  match q with
  | .route => { k with inRoute := eraseFirst m k.inRoute }
  | .host => { k with inHost := eraseFirst m k.inHost }
  | .reply => { k with inReply := eraseFirst m k.inReply }

/-- The request of the lowest rank; the first of equals stands. -/
def lowestRank : List (List Nat × Msg) → Option (List Nat × Msg)
  | [] => none
  | x :: l => match lowestRank l with
    | none => some x
    | some y => if rankLt y.1 x.1 then some y else some x

/-- The message of a queue that is delivered now: of those whose bank's write port is theirs, the one of the lowest rank. -/
def Dev.nextDelivery (d : Dev) (core : Nat) (q : MsgQueue) : Option Msg :=
  (lowestRank (((d.core core).asking q).filter fun x => d.portFree core (bitsOf x.2.dest 10 3) true x.1)).map (·.2)

/-- A message of an inbound queue is written into its row through the bank's write port (R225, R226, R391, R393). -/
def Dev.messageDelivery (core : Nat) (q : MsgQueue) (d : Dev) : Dev :=
  match d.nextDelivery core q with
  | none => d
  | some m =>
    let d1 := ((d.takePort core (bitsOf m.dest 10 3) true).deliverRow m).onCore core (CoreSt.takeMsg q m)
    match q with
    | .route => d1.returnCredit m.sender core
    | .host => d1.hostForward
    | .reply => d1

/-! ### Host receive rings (R397 to R400) -/

/-- Bytes of a record (R398). -/
def RingRec.bytes (r : RingRec) : Nat := 16 + (r.payload.length + 15) / 16 * 16

/-- The header and payload of a record. -/
def RingRec.image (r : RingRec) (now : Nat) : List Byte :=
  let len := r.payload.length
  let w0 := r.head + 2 ^ 24 * (len - 1) + (if r.reply then 2 ^ 30 else 0) + 2 ^ 31
  let w1 := r.kind + 256 * r.sender + 2 ^ 16 * r.bytes
  leBytes 4 w0 ++ leBytes 4 w1 ++ leBytes 8 now ++ r.payload ++ List.replicate (r.bytes - 16 - len) 0#8

/-- A wrap marker of `n` bytes. -/
def wrapImage (n now : Nat) : List Byte :=
  leBytes 4 (2 ^ 31) ++ leBytes 4 (1 + 256 * 0xFF + 2 ^ 16 * n) ++ leBytes 8 now ++ List.replicate (n - 16) 0#8

/-- The next record of a tenancy that may be written: the oldest of its class that fits (R399, R400). -/
def Dev.nextRecord (d : Dev) (t : Nat) : Option RingRec :=
  let size := 2 ^ d.get (Reg.SES_RING_CFG.LOG2SIZE t)
  let prod := d.get (Reg.SES_RING_PROD.INDEX t)
  let used := (prod + 2 ^ 32 - d.get (Reg.SES_RING_CONS.INDEX t)) % 2 ^ 32
  let free := size - used
  let tail := size - prod % size
  let need (r : RingRec) : Nat := (if tail < r.bytes then tail else 0) + r.bytes
  let mine := d.ringQueue.filter fun r => r.ten == t
  let req := mine.find? fun r => !r.reply
  let rep := mine.find? fun r => r.reply
  match req, rep with
  | some q, some p => if need q + 384 ≤ free then some q else if need p ≤ free then some p else none
  | some q, none => if need q + 384 ≤ free then some q else none
  | none, some p => if need p ≤ free then some p else none
  | none, none => none

/-- Bytes left before the end of a tenancy's ring. -/
def Dev.ringTail (d : Dev) (t : Nat) : Nat :=
  2 ^ d.get (Reg.SES_RING_CFG.LOG2SIZE t) - d.get (Reg.SES_RING_PROD.INDEX t) % 2 ^ d.get (Reg.SES_RING_CFG.LOG2SIZE t)

/-- What a record writes into host memory: its image at PROD, or a wrap marker there and its image at the ring's start (R399). -/
def Dev.ringWrites (d : Dev) (t : Nat) (r : RingRec) : List Output :=
  let base := d.get (Reg.SES_RING_BASE.ADDR t) * 4096
  let at_ := d.get (Reg.SES_RING_PROD.INDEX t) % 2 ^ d.get (Reg.SES_RING_CFG.LOG2SIZE t)
  if d.ringTail t < r.bytes then
    [.hostWrite (d.viewOf t) (base + at_) (wrapImage (d.ringTail t) d.now), .hostWrite (d.viewOf t) base (r.image d.now)]
  else [.hostWrite (d.viewOf t) (base + at_) (r.image d.now)]

/-- A record leaves the queue: its message's credit comes back, a reply is no longer owed. -/
def Dev.recordLeaves (t : Nat) (r : RingRec) (d : Dev) : Dev :=
  let d1 : Dev := { d with ringQueue := eraseFirst r d.ringQueue,
                           repliesOwed := if r.reply then kset 0 d.repliesOwed t (kget 0 d.repliesOwed t - 1) else d.repliesOwed }
  match r.credit with
  | some c => d1.returnCredit c 0xFF
  | none => d1

/-- A combining entry's record signals its Beacon once it is written (R403). -/
def Dev.recordSignal (r : RingRec) (d : Dev) : Dev :=
  match r.bcn with
  | some b => d.signalNow sigMgmt 0 b false 1#32
  | none => d

/-- Write a record into a tenancy's ring, then PROD; the ring vector goes out where PROD stood at CONS (R399, R518). -/
def Dev.putRecord (t : Nat) (r : RingRec) (d : Dev) : Dev :=
  let prod := d.get (Reg.SES_RING_PROD.INDEX t)
  let d1 : Dev := { d with out := d.out ++ d.ringWrites t r }
  let d2 := d1.put (Reg.SES_RING_PROD.INDEX t) (prod + (if d.ringTail t < r.bytes then d.ringTail t else 0) + r.bytes)
  let d3 := (d2.recordLeaves t r).recordSignal r
  if prod = d.get (Reg.SES_RING_CONS.INDEX t) then d3.msix (d.viewOf t) (d.get (Reg.HP_EVT_VEC.RING (d.viewOf t))) else d3

/-- The next record of a tenancy goes into its ring; one that waits for the link stays (R553). -/
def Dev.writeRecordTo (t : Nat) (d : Dev) : Dev :=
  if !d.is (Reg.SES_RING_CFG.ENABLE t) ∨ !d.linkUp then d
  else
    match d.nextRecord t with
    | none => d
    | some r => d.putRecord t r

/-! ### Combining entries (R401 to R403) -/

/-- Configuration of an entry as the registers hold it. -/
def Dev.combRegs (d : Dev) (e : Nat) (c : Comb) : Comb :=
  { c with valid := d.is (Reg.BCN_COMB_B.VALID e), owner := d.get (Reg.BCN_COMB_A.OWNER e), fmt := d.get (Reg.BCN_COMB_A.FMT e),
           elems := d.get (Reg.BCN_COMB_A.ELEMS e), expect := d.get (Reg.BCN_COMB_A.EXPECT e),
           target := d.get (Reg.BCN_COMB_A.TARGET e), row := d.get (Reg.BCN_COMB_A.ROW e), bcnEn := d.is (Reg.BCN_COMB_A.BCN_EN e),
           beacon := d.get (Reg.BCN_COMB_B.BEACON e) }

/-- Written configurations take effect (R403). -/
def Dev.applyComb (d : Dev) : Dev :=
  (List.range 256).foldl (fun d e => { d with comb := kset {} d.comb e (d.combRegs e (kget {} d.comb e)) }) d

/-- Bytes of an element. -/
def combElem (fmt : Nat) : Nat := if fmt = 0xD then 16 else 4

/-- The exact sum of a round, element by element, and whether an exact sum left its range (R402). -/
def combSum (fmt n : Nat) (got : List (BitVec 512)) : List Byte × Bool :=
  let el (k : Nat) (p : BitVec 512) : Nat := bitsOf p.toNat (8 * combElem fmt * k) (8 * combElem fmt)
  if fmt = 0xB then
    (((List.range n).flatMap fun k =>
      leBytes 4 (rn32 (got.foldl (fun a p => a.add (f32 (BitVec.ofNat 32 (el k p)))) (.fin false 0 0))).toNat), false)
  else if fmt = 0xD then
    let sums := (List.range n).map fun k => (got.map fun p => signedOf 128 (el k p)).sum
    if sums.all exactInRange then ((sums.flatMap fun s => leBytes 16 (intBits 128 s)), false)
    else (List.replicate (16 * n) 0#8, true)
  else
    (((List.range n).flatMap fun k => leBytes 4 (intBits 32 (satInt 32 ((got.map fun p => signedOf 32 (el k p)).sum)))), false)

/-- An entry's error (R401, R402). -/
def Dev.combError (e : Nat) (d : Dev) : Dev := (d.setBit (Reg.BCN_COMB_B.ERROR e)).event Reg.BCN_EVENT.COMB_ERROR

/-- The last contribution of a round has arrived: the sum goes to its owner's ring, or as a message to its core row, which it reaches
through a write port as any delivery does (R225, R228, R401 to R403). -/
def Dev.combDeliver (e : Nat) (c : Comb) (d : Dev) : Dev :=
  let (bytes, err) := combSum c.fmt c.elems c.got
  let d1 := if err then d.combError e else d
  let d2 := { d1 with comb := kset {} d1.comb e { c with got := [] } }.put (Reg.BCN_COMB_B.RECEIVED e) 0
  if c.target = 1 then
    let m : Msg := { sender := 0xFF, dest := c.row, tag := e, len := bytes.length, reply := false,
                     payload := BitVec.ofNat 512 (ofLeBytes bytes), ten := c.owner, receipt := false,
                     bcn := if c.bcnEn then some c.beacon else none }
    d2.onCore (bitsOf c.row 13 8) fun k => { k with inRoute := k.inRoute ++ [m] }
  else
    { d2 with ringQueue := d2.ringQueue ++ [{ ten := c.owner, kind := 0, head := e, sender := 0xFF, payload := bytes, reply := false,
                                              credit := none, bcn := if c.bcnEn then some c.beacon else none }] }

/-- A contribution leaves the management queue: its credit comes back, its receipt goes out (R394, R396). -/
def Dev.takeContribution (m : Msg) (d : Dev) : Dev :=
  let d1 : Dev := { d with mgmtQueue := eraseFirst m d.mgmtQueue }
  (if m.sender = 0xFE then d1 else d1.returnCredit m.sender 0xFF).receipt m

/-- A contribution that fits is kept, and the last of its round delivers the sum (R401). -/
def Dev.keepContribution (e : Nat) (c : Comb) (d : Dev) : Dev :=
  let d1 := { d with comb := kset {} d.comb e c }.put (Reg.BCN_COMB_B.RECEIVED e) c.got.length
  if c.expect ≤ c.got.length then d1.combDeliver e c else d1

/-- A contribution joins entry e. -/
def Dev.addContribution (e : Nat) (m : Msg) (d : Dev) : Dev :=
  let c := kget {} d.comb e
  if !c.valid then d
  else if m.len ≠ c.elems * combElem c.fmt then d.combError e
  else d.keepContribution e { c with got := c.got ++ [m.payload] }

/-- The next contribution that waits for entry e is added (R401). -/
def Dev.contribute (e : Nat) (d : Dev) : Dev :=
  match d.mgmtQueue.find? fun m => bitsOf m.dest 0 21 == 0x1FFE00 + e with
  | none => d
  | some m => (d.takeContribution m).addContribution e m

end Sys2Proof.Machine
end

