-- ==== Sys2Proof/Machine/Control.lean ====
section
/-! DEFINITION. The CTL unit and BCN.SIG: forks and their resolution, preemption points, wall time, random words, health
readings, markers (R62 to R72, R96, R97, R107 to R110, R216, R230 to R232, R374, R570). -/

namespace Sys2Proof.Machine

/-! ### BCN.SIG (R96, R384) -/

def Dev.beaconSignal (i : Inst) (d : Dev) : Dev :=
  let o := ownerOf i 8 0 d
  let (ok, d1) := d.takeUnit o 2 1 1
  if ok then d1.sched (d.run.tick + 40) true o (.beacon (opBeacon i.opa) (i.sub % 2 == 1) (BitVec.ofNat 32 (i.extBits 0 32)))
  else d1

/-- A BCN.SIG lands: the signal applies; its store cycle's releases follow when every signal of the tick has been applied. -/
def Dev.landSignal (o : Owner) (bcn : Nat) (set : Bool) (v : BitVec 32) (d : Dev) : Dev :=
  (d.signal sigCore o.core bcn set v).observe o o.core 4 0 bcn (leBytes 4 v.toNat)

/-! ### CTL.TIME, CTL.RAND, CTL.HLTH (R96, R97, R222, R374) -/

/-- A health reading (R97). -/
def Dev.health (d : Dev) (core code : Nat) : Nat :=
  match code with
  | 0 => d.get Reg.HLT_RISK.RISK
  | 1 => intBits 32 (sgn 8 (d.get Reg.PWR_TEMP.DIE))
  | 2 => intBits 32 (kget 0 d.dieTemp (islandOf core))
  | 3 => d.get Reg.PWR_MODULE_W.WATTS
  | 4 => ((List.range 12).map fun p => bitsOf (d.get Reg.MEM_DERATE.MULT) (2 * p) 2).foldl max 0
  | 5 => d.get Reg.CLK_THROTTLE.LEVEL
  | 6 => d.get (Reg.CLK_STRETCH.COUNT (islandOf core))
  | 7 => d.get Reg.MEM_RESENDS.COUNT
  | 8 => d.get Reg.MEM_UNPLANNED.COUNT
  | 9 => min (2 ^ 32 - 1) ((List.range 8).map fun p => d.get (Reg.WMK_P_RESENDS.COUNT p)).sum
  | 10 => d.get Reg.HLT_COMP.RESEND
  | 11 => d.get Reg.HLT_COMP.STRETCH
  | 12 => d.get Reg.HLT_COMP.TEMP
  | 13 => d.get Reg.HLT_COMP.LINK
  | _ => d.get Reg.HLT_COMP.DROOP

/-- The primary's bytes for an occurrence, as received (R374). -/
def Dev.peerBytes (d : Dev) (tag lin : Nat) : Option (List Byte) :=
  (d.mir.variance.find? fun v => v.1 == tag && v.2.1 == lin).map (·.2.2)

/-- CTL.TIME, CTL.RAND or CTL.HLTH at issue; the secondary of a Mirror needs the primary's bytes by now. -/
def Dev.ctlWrite (kind : CtlKind) (i : Inst) (d : Dev) : Dev :=
  let o := ownerOf i 9 0 d
  let (ok, d1) := d.takeUnit o 2 1 1
  if !ok then d1
  else
    let d2 := d1.sched (d.run.tick + 30) true o (.landCtl (opBank i.opd) (opRow i.opd) (i.extBits 0 7) kind i.lin)
    if d.is Reg.MIR_STATUS.ACTIVE && d.mir.secondary && (d.peerBytes i.tag.toNat i.lin).isNone then
      d2.hold 5 (.variance i.tag.toNat i.lin)
    else d2

/-- The eight bytes that land: sampled in the tick of the landing. -/
def Dev.ctlValue (core : Nat) (kind : CtlKind) (d : Dev) : Nat × Dev :=
  match kind with
  | .time => (d.now, d)
  | .rand => let (k, d1) := d.next; ((Config.randomBits k).toNat, d1)
  | .health c => (d.health core c % 2 ^ 32 + 2 ^ 32 * c, d)

def Dev.landCtl (o : Owner) (bank row word : Nat) (kind : CtlKind) (lin : Nat) (d : Dev) : Dev :=
  if d.is Reg.MIR_STATUS.ACTIVE && d.mir.secondary then
    let v := ofLeBytes ((d.peerBytes o.tag lin).getD [])
    let d1 := ({ d with mir := { d.mir with variance := d.mir.variance.filter fun x => !(x.1 == o.tag && x.2.1 == lin) } }).count
      Reg.MIR_SUBST.COUNT 1
    d1.landScratch o o.core bank row (fun r => rowSet r (4 * word) 8 v) false
  else
    let (v, d1) := d.ctlValue o.core kind
    (d1.landScratch o o.core bank row (fun r => rowSet r (4 * word) 8 v) false).sendVariance o lin (leBytes 8 v)

/-! ### CTL.NOP and CTL.MARK -/

def Dev.ctlNop (i : Inst) (d : Dev) : Dev := (d.takeUnit (ownerOf i 9 0 d) 2 1 1).2

/-- CTL.MARK: the Lantern marker, and the freeze that waits for it (R570). -/
def Dev.ctlMark (i : Inst) (d : Dev) : Dev :=
  let o := ownerOf i 9 0 d
  let (ok, d1) := d.takeUnit o 2 1 1
  if !ok then d1
  else
    let m := i.extBits 0 32
    let d2 := d1.lantern 6 i.coreN 0 i.tag.toNat d.run.tick m none
    if d.run.freezeMark = some (BitVec.ofNat 32 m) then
      d2.onRun fun r => { r with freezeMark := none, freezeAt := some (r.tick + 24) }
    else d2

/-! ### CTL.PPOINT (R72, R216) -/

/-- At tick `t`, nothing of the mesh, the Relay chain or the lanes' vector and reduction units is busy or yet to land, no transfer is
outstanding, no fork is unresolved, the approach queues hold no entry: one fetched at `t` takes its slot at the end of `t`, one presented
at `t` gives it back then (R47, R72, R216). -/
def Dev.quietAt (t : Nat) (d : Dev) : Bool :=
  let held (u : Nat) : Bool := u == 3 || u == 4 || u == 6 || u == 7
  let queue (l : LaneSt) : Bool := l.approach.all fun e => decide (e.present < t ∨ t + d.lead ≤ e.present)
  d.run.sched.all (fun x => !held x.owner.unit || (x.land && decide (x.due ≤ t))) &&
  d.run.busy.all (fun b => !(held b.unit && decide (t < b.start + b.step * b.count))) &&
  d.run.contribs.all (fun x => decide (x.land ≤ t)) && d.run.xfers.isEmpty && d.run.stores.isEmpty &&
  d.cores.all (fun c => (c.2.fork.all fun f => decide (f.r ≤ t)) && queue c.2.lane0 && queue c.2.lane1)

/-- CTL.PPOINT: its tick is checked once every instance of the tick has issued (R72). -/
def Dev.ppoint (i : Inst) (d : Dev) : Dev :=
  let o := ownerOf i 9 0 d
  let (ok, d1) := d.takeUnit o 2 1 1
  if ok then d1.onRun fun r => { r with ppoints := r.ppoints ++ [o] } else d1

/-- The check of the tick's CTL.PPOINTs. -/
def Dev.ppointCheck (d : Dev) : Dev :=
  let d1 := d.onRun fun r => { r with ppoints := [] }
  if d.quietAt d.run.tick then d1 else d.run.ppoints.foldl (fun d o => d.raise o 0x0205) d1

/-! ### CTL.FORK (R62, R107, R108) -/

/-- The CTL.FORKX that follows a CTL.FORK in the core's list. -/
def Prog.forkx (p : Prog) (tag : Nat) : BitVec 256 :=
  (p.descs.find? fun x => descOpc x == 0x9F && descTag x == tag).getD 0#256

def Dev.fork (i : Inst) (d : Dev) : Dev :=
  let o := ownerOf i 9 0 d
  let (ok, d1) := d.takeUnit o 2 1 1
  if !ok then d1
  else
    let x := ((d.rt.prog i.coreN).map fun p => p.forkx i.tag.toNat).getD 0#256
    let f : Fork :=
      { owner := o, r := d.run.tick + i.extBits 0 24, exit := i.extBits 26 1 == 1, opa := i.opa.toNat, cmp := i.extBits 24 2,
        word := i.extBits 27 7, imm := bitsOf x.toNat 52 32, row := opRow i.opb, count := i.cnt, banks := i.sub,
        pFirst := bitsOf x.toNat 165 11, pCount := bitsOf x.toNat 154 11, qFirst := bitsOf x.toNat 143 11,
        qCount := bitsOf x.toNat 132 11 }
    (d1.onCore i.coreN fun k => { k with fork := some f }).put (Reg.CORE_STATUS.FORK_OPEN i.coreN) 1

/-! ### Resolution (R63, R65, R68 to R70, R109, R110, R231, R232) -/

/-- The comparison of a window fork. -/
def forkCompare (cmp word imm : Nat) : Bool :=
  match cmp with
  | 0 => decide (word = imm)
  | 1 => decide (word ≠ imm)
  | 2 => decide (word < imm)
  | _ => decide (imm ≤ word)

/-- What belongs to a fork's speculation: the occurrences of SPEC descriptors of its core. -/
def Owner.specOf (o : Owner) (core : Nat) : Bool := o.spec && o.core == core

/-- Arm P selected: what was speculative is ordinary from R (R70). -/
def RunSt.keepSpec (core : Nat) (r : RunSt) : RunSt :=
  let plain (o : Owner) : Owner := if o.specOf core then { o with spec := false } else o
  { r with sched := r.sched.map (fun x => { x with owner := plain x.owner })
           xfers := r.xfers.map (fun x => { x with owner := plain x.owner })
           stores := r.stores.map (fun x => { x with owner := plain x.owner }) }

/-- Arm Q selected: what was speculative is dropped (R69, R70). -/
def RunSt.dropSpec (core : Nat) (r : RunSt) : RunSt :=
  { r with sched := r.sched.filter (fun x => !x.owner.specOf core)
           xfers := r.xfers.filter (fun x => !x.owner.specOf core)
           stores := r.stores.filter (fun x => !x.owner.specOf core) }

/-- Every shadow row of a fork is marked empty, its last-writer tag 0 (R232, R233, R365). -/
def CoreSt.emptyRows (f : Fork) (k : CoreSt) : CoreSt :=
  (List.range 8).foldl (fun k b =>
    if bitOf f.banks b then
      (List.range f.count).foldl (fun k j =>
        let key := rowKey b (f.row + j)
        { k with emptyRow := kset false k.emptyRow key true, lastTag := kset 0 k.lastTag key 0 }) k
    else k) k

/-- The weight shadows a fork filled are marked empty (R70). -/
def CoreSt.emptyShadows (f : Fork) (k : CoreSt) : CoreSt :=
  f.filled.foldl (fun (k : CoreSt) lw => k.setLane lw.1 ((k.lane lw.1).setWs lw.2 { ((k.lane lw.1).ws lw.2).emptied with fill := none })) k

/-- Distinct transfers of a list. -/
def countTransfers (xs : List Xfer) : Nat := (dedup (xs.map fun x => (x.owner.tag, x.owner.issue))).length

/-- Arm P from R: held faults of SPEC descriptors are raised at R (R68). -/
def Dev.selectP (core : Nat) (f : Fork) (d : Dev) : Dev :=
  let k := d.core core
  let d1 := (d.onRun (RunSt.keepSpec core)).onCore core fun k =>
    { k with fork := none, specFaults := [], arms := k.arms ++ [{ first := f.pFirst, count := f.pCount, base := f.r }] }
  k.specFaults.foldl (fun d x => d.faultAt x.1 x.2 d.faultTick) d1

/-- Arm Q from R + 64: everything speculative is discarded and counted. -/
def Dev.selectQ (core : Nat) (f : Fork) (d : Dev) : Dev :=
  let k := d.core core
  let n := countTransfers (d.run.xfers.filter fun x => x.owner.specOf core)
  let d1 := d |>.count (Reg.SPEC_MISS.COUNT core) 1 |>.count (Reg.SPEC_DROPPED.FAULTS core) k.specFaults.length
    |>.count (Reg.SPEC_DROPPED.XFERS core) n
  (d1.onRun (RunSt.dropSpec core)).onCore core fun k =>
    let k1 : CoreSt := { k with fork := none, specFaults := [],
                                arms := k.arms ++ [{ first := f.qFirst, count := f.qCount, base := f.r + 64 }] }
    (k1.emptyRows f).emptyShadows f

/-- Resolution of a core's window fork at R (R63). -/
def Dev.resolveWindow (core : Nat) (d : Dev) : Dev :=
  match (d.core core).fork with
  | none => d
  | some f =>
    if f.exit ∨ d.run.tick ≠ f.r then d
    else
      match d.readRow { f.owner with spec := false } core (bitsOf f.opa 10 3) (bitsOf f.opa 0 10) with
      | (none, d1) => d1.onCore core fun k => { k with fork := none }
      | (some row, d1) =>
        let p := forkCompare f.cmp (rowWord row f.word).toNat f.imm
        let d2 := (d1.put (Reg.CORE_STATUS.FORK_OPEN core) 0).count (Reg.SPEC_RESOLVED.COUNT core) 1
        (if p then d2.selectP core f else d2.selectQ core f).lantern 5 core 0 f.owner.tag f.r (if p then 0 else 1) none

/-- Resolution of an exit fork at R: the management island reads the Beacon once, and an exit ends the segment after tick
R + 23; an earlier exit stands (R65, R109). -/
def Dev.resolveExit (core : Nat) (d : Dev) : Dev :=
  match (d.core core).fork with
  | none => d
  | some f =>
    if !f.exit ∨ d.run.tick ≠ f.r then d
    else
      let out := reached (d.beacon (bitsOf f.opa 0 14)) (BitVec.ofNat 32 f.imm)
      let d1 := ((d.put (Reg.CORE_STATUS.FORK_OPEN core) 0).count (Reg.SPEC_RESOLVED.COUNT core) 1).onCore core fun k =>
        { k with fork := none }
      let d2 := d1.lantern 5 core 0 f.owner.tag f.r (2 + (if out then 1 else 0)) none
      if out then d2.onRun fun r => { r with exitAt := some (min (r.exitAt.getD (f.r + 24)) (f.r + 24)) } else d2

end Sys2Proof.Machine
end

