-- ==== Sys2Proof/Machine/Cairn.lean ====
section
/-! DEFINITION. Step shadows, Cairns and the health score (R307 to R310, R466 to R491). The parts that act on device memory
take it and answer it beside the rest. -/

namespace Sys2Proof.Machine

/-! ### Records and regions -/

/-- Record a CRN fault code (R489): held until CRN_EVENT.ERROR clears. -/
def Dev.crnError (code : Nat) (d : Dev) : Dev :=
  if d.is Reg.CRN_EVENT.ERROR then d else (d.put Reg.CRN_ERR.VALUE code).event Reg.CRN_EVENT.ERROR

/-- A CRN fault that stops no segment. -/
def Dev.crnFault (code : Nat) (d : Dev) : Dev := (d.crnError code).blockFault noOwner code (!d.is Reg.CRN_EVENT.ERROR)

def Dev.crnRefuse (d : Dev) : Dev := d.event Reg.CRN_EVENT.CMD_REFUSED

/-- Bytes of a step region. -/
def stepBytes : Nat := 2 ^ 21

/-- Rank of a listed address among the listed addresses of its interleave region (R307). -/
def Dev.slotRank (d : Dev) (addrs : List Nat) (a : Nat) : Nat :=
  ((addrs.takeWhile (· ≠ a)).filter fun x => d.region x == d.region a).length

/-- Shadow slot of a listed address (R307). -/
def Dev.slotAddr (d : Dev) (addrs : List Nat) (a : Nat) : Nat :=
  match d.region a with
  | some e => (e.base + e.size - e.shadow + d.slotRank addrs a) * 2 ^ 21
  | none => 0

/-- The list of R466 is good. -/
def Dev.listOk (d : Dev) (t : Nat) (addrs : List Nat) : Bool :=
  addrs.all fun a => a % stepBytes == 0 && d.inSpace t a stepBytes &&
    (match d.region a with
     | some e => decide ((addrs.filter fun x => d.region x == d.region a).length ≤ e.shadow)
     | none => false) && (addrs.filter (· == a)).length == 1

/-- The step region that holds an address. -/
def StepOpen.regionOf (s : StepOpen) (a : Nat) : Option Nat := s.addrs.find? fun x => decide (x ≤ a ∧ a < x + stepBytes)

/-- The copy engine's order: region by region in list order, in each its 8,192 blocks in ascending order (R308, R468). Number of the
block that holds an address. -/
def StepOpen.blockOf (s : StepOpen) (a : Nat) : Nat :=
  match s.regionOf a with
  | some r => 8192 * (s.addrs.takeWhile (· ≠ r)).length + (a - r) / 256
  | none => 8192 * s.addrs.length

/-- Address of the engine's block `i`. -/
def StepOpen.blockAt (s : StepOpen) (i : Nat) : Nat := s.addrs.getD (i / 8192) 0 + 256 * (i % 8192)

/-- A block of the step's regions has been copied into its slot. -/
def StepOpen.has (s : StepOpen) (a : Nat) : Bool := s.complete || decide (s.blockOf a < s.copied)

/-- A block of an open step is still uncopied while its copy runs or waits, so a write to it is held (R309, R484). -/
def Dev.writeHeld (d : Dev) (a : Nat) : Bool :=
  match d.crn.step with
  | some s => (d.is Reg.CRN_STATUS.COPYING || d.crn.waitCopy) && (s.regionOf a).isSome && !s.has a
  | none => false

/-- Slot address of the engine's block `i`. -/
def Dev.slotBlock (d : Dev) (s : StepOpen) (i : Nat) : Nat := d.slotAddr s.addrs (s.addrs.getD (i / 8192) 0) + 256 * (i % 8192)

/-! ### Digests (R311, R476) -/

/-- SHA-384 over the SHA-384 of each region's 2 MiB, then the total length. -/
def digestOf (regions : List (List Byte)) : List Byte := sha384 (regions.flatMap sha384 ++ leBytes 8 (stepBytes * regions.length))

/-- The step digest of a list of regions as they stand in device memory. -/
def Dev.stepDigest (d : Dev) (m : Memory) (addrs : List Nat) : List Byte := digestOf (addrs.map fun a => d.memBytes m a stepBytes)

/-- Write a 48-byte digest into six registers. -/
def Dev.putDigest (f : Nat → Fld) (bs : List Byte) (d : Dev) : Dev :=
  (List.range 6).foldl (fun d k => d.put (f k) (ofLeBytes ((bs.drop (8 * k)).take 8))) d

/-! ### The Cairn header (R481, R482) -/

/-- `n` bytes of a list, zero beyond its end. -/
def padTo (n : Nat) (bs : List Byte) : List Byte := bs.take n ++ List.replicate (n - bs.length) 0#8

/-- CRN_STEP_POS as a number. -/
def Dev.stepPos (d : Dev) : Nat :=
  2 ^ 8 * d.get Reg.CRN_STEP_POS.SEGMENT + 2 ^ 16 * d.get Reg.CRN_STEP_POS.PASS + 2 ^ 40 * d.get Reg.CRN_STEP_POS.REPEATS_LEFT

def Dev.dsigNat (d : Dev) : Nat :=
  d.get Reg.GLB_DSIG.FTAB_REV + 2 ^ 8 * d.get Reg.GLB_DSIG.EXACT_REV + 2 ^ 16 * d.get Reg.GLB_DSIG.RNG_REV +
    2 ^ 24 * d.get Reg.GLB_DSIG.ROUND_REV + 2 ^ 32 * d.get Reg.GLB_DSIG.ENV_REV

/-- The manifest. -/
def Dev.manifest (d : Dev) (t : Nat) (addrs : List Nat) : List Byte :=
  let x := kget {} d.tens t
  leBytes 4 0x4E524143 ++ leBytes 2 1 ++ leBytes 1 t ++ leBytes 1 0 ++ leBytes 8 (d.get Reg.CRN_STEP.NUMBER) ++ leBytes 8 d.stepPos ++
    leBytes 4 addrs.length ++ leBytes 4 0 ++ leBytes 8 (stepBytes * (addrs.length + 1) + 4096) ++ leBytes 48 d.rt.measure.toNat ++
    leBytes 8 d.dsigNat ++ leBytes 2 (d.get Reg.WMK_CTL.DEVICE) ++ leBytes 2 x.bcnBase ++ leBytes 2 x.bcnCount

/-- The 2 MiB header: manifest, session slots of the tenancy, its Beacons, the region list. -/
def Dev.cairnHeader (d : Dev) (t : Nat) (addrs : List Nat) : List Byte :=
  let x := kget {} d.tens t
  let slot (s : Nat) : List Byte :=
    if d.slotState s ≠ 0 ∧ d.slotTen s = t then (List.range 32).flatMap fun w => leBytes 4 (d.slotWord s w).toNat
    else List.replicate 128 0#8
  padTo 0x10000 (d.manifest t addrs) ++ (List.range 1024).flatMap slot ++
    padTo (0x100000 - 0x30000) ((List.range (64 * x.bcnCount)).flatMap fun b => leBytes 4 (d.beacon (64 * x.bcnBase + b)).toNat) ++
    padTo (stepBytes - 0x100000) (addrs.flatMap fun a => leBytes 8 a)

/-- A field of a Cairn's bytes. -/
def cairnField (bs : List Byte) (off n : Nat) : Nat := ofLeBytes ((bs.drop off).take n)

/-- The region list of a Cairn. -/
def cairnList (bs : List Byte) : List Nat := (List.range (cairnField bs 0x18 4)).map fun k => cairnField bs (0x100000 + 8 * k) 8

/-! ### STEP.OPEN and STEP.COMMIT (R466 to R470, R480, R484) -/

/-- The region list that STEP.OPEN names. -/
def Dev.stepList (d : Dev) (m : Memory) (i : Inst) : List Nat :=
  let a := strBase (d.stream i.coreN (opHandle i.opa))
  let n := d.readMem m a 8
  if n = 0 ∨ 131072 < n then [] else (List.range n).map fun k => d.readMem m (a + 8 + 8 * k) 8

/-- The open step closes and its copy is abandoned; while its Cairn is being served from NEXT its slots stay held (R470, R484). -/
def Dev.closeStep (d : Dev) : Dev :=
  let serving := d.crn.serve.any (fun v => v.src == 0) && d.crn.held.isNone
  { d with crn := { d.crn with step := none, waitCopy := false, held := if serving then d.crn.step else d.crn.held } }
    |>.put Reg.CRN_STATUS.STEP_OPEN 0 |>.put Reg.CRN_STATUS.COPYING 0 |>.put Reg.MEM_STATUS.COPY_BUSY 0

/-- A serve from NEXT waits for this STEP.OPEN. -/
def Dev.nextArmed (d : Dev) : Bool := d.is Reg.CRN_STATUS.CAIRN_ARMED

/-- A serve begins. -/
def Dev.beginServe (s : ServeReq) (d : Dev) : Dev :=
  ({ d with crn := { d.crn with serve := some s } }.put Reg.CRN_STATUS.SERVING 1).put Reg.CRN_PROGRESS.SERVED 0

/-- STEP.OPEN at issue, on everything but device memory. -/
def Dev.stepOpen (i : Inst) (m : Memory) (d : Dev) : Dev :=
  let o := ownerOf i 9 0 d
  let (ok, d1) := d.takeUnit o 2 1 1
  if !ok then d1
  else if d.crn.step.isSome then ((d1.crnError 0x0906).closeStep).raise o 0x0906
  else
    let addrs := d.stepList m i
    if addrs.isEmpty ∨ !d.listOk d.rt.tenancy addrs then ((d1.crnError 0x0907).closeStep).raiseArrival o 0x0907
    else
      let s : StepOpen := { ten := d.rt.tenancy, addrs := addrs, done := if i.extBits 14 1 = 1 then some (i.extBits 0 14) else none }
      let waits := d.crn.held.isSome
      let d2 := { d1 with crn := { d1.crn with step := some s, waitCopy := waits, slotBad := [] } }
        |>.put Reg.CRN_STEP_POS.SEGMENT (d.get Reg.RTE_STATUS.SEGMENT) |>.put Reg.CRN_STEP_POS.PASS d.run.passNo
        |>.put Reg.CRN_STEP_POS.REPEATS_LEFT d.run.repeatsLeft |>.put Reg.CRN_STATUS.STEP_OPEN 1
        |>.putB Reg.CRN_STATUS.COPYING (!waits) |>.putB Reg.MEM_STATUS.COPY_BUSY (!waits)
      let d3 := d2.rewritten (d.get Reg.CRN_STEP_REC.BASE * 2 ^ 21) stepBytes
      if d.nextArmed then
        ((d3.put Reg.CRN_STATUS.CAIRN_ARMED 0).beginServe { src := 0, wait := false, hdr := d3.cairnHeader s.ten s.addrs }).event Reg.CRN_EVENT.CAIRN_BEGUN
      else d3

/-- The header a good STEP.OPEN writes into device memory. -/
def Dev.stepOpenMem (i : Inst) (d : Dev) (m : Memory) : Memory :=
  let d' := d.stepOpen i m
  match d.crn.step, d'.crn.step with
  | none, some s => d.writeBytes m (d.get Reg.CRN_STEP_REC.BASE * 2 ^ 21) (d'.cairnHeader s.ten s.addrs)
  | _, _ => m

/-- STEP.COMMIT at issue. -/
def Dev.stepCommit (i : Inst) (d : Dev) : Dev :=
  let o := ownerOf i 9 0 d
  let (ok, d1) := d.takeUnit o 2 1 1
  if !ok then d1
  else
    match d.crn.step with
    | none => (d1.crnError 0x0906).raise o 0x0906
    | some _ =>
      let d2 := d1.closeStep.put Reg.CRN_STEP.NUMBER (d1.get Reg.CRN_STEP.NUMBER + 1)
      if d.get Reg.CRN_RISK_THRESH.VALUE % 256 < d.get Reg.HLT_RISK.RISK ∧ d.is Reg.CRN_CFG.AUTO ∧ d.get Reg.CRN_AUTO.KIND ≠ 0 then
        if d.crn.serve.isSome ∨ d.nextArmed then d2.event Reg.CRN_EVENT.CAIRN_SKIPPED else d2.put Reg.CRN_STATUS.CAIRN_ARMED 1
      else d2

/-! ### The copy (R293, R308, R309, R468) -/

/-- The first block from the next to be copied and before block `n` whose check fails: the copy ends there. -/
def Dev.copyFails (d : Dev) (m : Memory) (s : StepOpen) (n : Nat) : Option Nat :=
  ((List.range (n - s.copied)).map (s.copied + ·)).find? fun i => d.isBad m (s.blockAt i)

/-- Device memory once the engine has copied its blocks before block `n`, in its order. -/
def Dev.copyToMem (n : Nat) (d : Dev) (m : Memory) : Memory :=
  match d.crn.step with
  | some s =>
    if d.is Reg.CRN_STATUS.COPYING then
      (List.range ((d.copyFails m s n).getD n - s.copied)).foldl (fun m j =>
        d.copyMem m (s.blockAt (s.copied + j)) (d.slotBlock s (s.copied + j)) 256) m
    else m
  | none => m

/-- The same on the count of copied blocks and the checks: every copied block's slot has a fresh check, and the reads use the check
buffer. -/
def Dev.copyTo (n : Nat) (m : Memory) (d : Dev) : Dev :=
  match d.crn.step with
  | some s =>
    if d.is Reg.CRN_STATUS.COPYING then
      let e := (d.copyFails m s n).getD n
      let d1 := (List.range (e - s.copied)).foldl (fun d j =>
        (d.useChecks (s.blockAt (s.copied + j)) 256).rewritten (d.slotBlock s (s.copied + j)) 256) d
      { d1 with crn := { d1.crn with step := some { s with copied := max s.copied e } } }
    else d
  | none => d

/-- The copy ends as failed: the shadow of the region that holds the block is invalid (R293). -/
def Dev.copyEnds (a : Nat) (d : Dev) : Dev :=
  match d.crn.step with
  | some s =>
    let bad := match s.regionOf a with
      | some r => [r]
      | none => s.addrs.filter fun r => decide (d.slotAddr s.addrs r ≤ a ∧ a < d.slotAddr s.addrs r + stepBytes)
    { d with crn := { d.crn with slotBad := d.crn.slotBad ++ bad } } |>.put Reg.CRN_STATUS.COPYING 0 |>.put Reg.MEM_STATUS.COPY_BUSY 0
  | none => d

/-- The step-open copy has copied every block: COPYING clears, the digest is formed, the DONE_EN Beacon counts (R468). -/
def Dev.copyDone (m : Memory) (d : Dev) : Dev :=
  match d.crn.step with
  | none => d
  | some s =>
    if !d.is Reg.CRN_STATUS.COPYING ∨ s.copied < 8192 * s.addrs.length then d
    else
      let d1 := ({ d with crn := { d.crn with step := some { s with complete := true } } }.put Reg.CRN_STATUS.COPYING 0).put
        Reg.MEM_STATUS.COPY_BUSY 0
      let slots := s.addrs.map (d.slotAddr s.addrs)
      let d2 := if d.is Reg.CRN_CFG.DIGEST_EN then d1.putDigest Reg.CRN_OPEN_DIGEST.BYTES (d.stepDigest m slots) else d1
      match s.done with
      | some b => d2.signalNow sigMgmt 0 b false 1#32
      | none => d2

/-- A step that is open when a segment stops is interrupted and its copy stops (R473). -/
def Dev.interruptStep (d : Dev) : Dev :=
  match d.crn.step with
  | some _ =>
    ({ d with crn := { d.crn with waitCopy := false } }.put Reg.CRN_STATUS.INTERRUPTED 1).put Reg.CRN_STATUS.COPYING 0 |>.put
      Reg.MEM_STATUS.COPY_BUSY 0
  | none => d

/-! ### RESTORE and VERIFY (R474 to R478) -/

def Dev.fillOwn (d : Dev) : Bool := (d.crn.fill.any fun f => !f.store) || (d.crn.queued.any fun f => !f.store)

/-- RESTORE (R474, R488). -/
def Dev.restoreCmd (d : Dev) : Dev :=
  if d.is Reg.CRN_STATUS.RESTORING ∨ d.fillOwn then d.crnFault 0x0905
  else if !d.is Reg.CRN_STATUS.INTERRUPTED ∨ d.running then d.crnRefuse
  else (d.put Reg.CRN_STATUS.RESTORING 1).put Reg.MEM_STATUS.COPY_BUSY 1

/-- Blocks that a restore copies back: those copied into their slots, up to the first whose slot fails its check (R293, R474, R475). -/
def Dev.restoreFails (d : Dev) (m : Memory) (s : StepOpen) : Option Nat :=
  (List.range s.copied).find? fun i => d.isBad m (d.slotBlock s i)

/-- Device memory as a restore leaves it: every copied block is back in place, up to a block whose slot fails. -/
def Dev.restoreMem (d : Dev) (m : Memory) : Memory :=
  match d.crn.step with
  | some s => (List.range ((d.restoreFails m s).getD s.copied)).foldl (fun m i => d.copyMem m (d.slotBlock s i) (s.blockAt i) 256) m
  | none => m

/-- A restore rewrites its blocks whole, with fresh checks (R310, R474). -/
def Dev.restoreMends (m : Memory) (d : Dev) : Dev :=
  match d.crn.step with
  | some s => (List.range ((d.restoreFails m s).getD s.copied)).foldl (fun d i => (d.useChecks (d.slotBlock s i) 256).rewritten (s.blockAt i) 256) d
  | none => d

/-- Words 1 to 31 of the header's slots that are still bound to the tenancy, and the Beacons of its range, are written back
(R474); the store then releases what waits on them (R384). `rd off n` reads the header. -/
def Dev.applyHeader (t : Nat) (rd : Nat → Nat → Nat) (d : Dev) : Dev :=
  let d1 := (List.range 1024).foldl (fun d s =>
    let w0 := rd (0x10000 + 128 * s) 4
    if bitsOf w0 0 2 = 0 then d
    else if d.slotState s ≠ 0 ∧ d.slotTen s = t then
      (List.range 31).foldl (fun d w => d.setSlotWord s (w + 1) (BitVec.ofNat 32 (rd (0x10000 + 128 * s + 4 * (w + 1)) 4))) d
    else d.event Reg.CRN_EVENT.SLOT_SKIPPED) d
  let x := kget {} d.tens t
  (List.range (64 * x.bcnCount)).foldl (fun d b =>
    { d with beacons := kset 0#32 d.beacons (64 * x.bcnBase + b) (BitVec.ofNat 32 (rd (0x30000 + 4 * b) 4)) }.release (64 * x.bcnBase + b)) d1

/-- The restore ends (R474, R475). `m` is device memory after it. -/
def Dev.restoreEnd (failed : Bool) (m : Memory) (d : Dev) : Dev :=
  match d.crn.step with
  | none => d
  | some s =>
    if !d.is Reg.CRN_STATUS.RESTORING then d
    else
      let d1 := ((d.closeStep.put Reg.CRN_STATUS.RESTORING 0).put Reg.CRN_STATUS.INTERRUPTED 0).event Reg.CRN_EVENT.RESTORE_DONE
      if failed ∨ !d.crn.slotBad.isEmpty then (d1.put Reg.CRN_STATUS.REPEAT_ARMED 0).crnFault 0x0908
      else
        let d2 := if d.is Reg.CRN_CFG.DIGEST_EN then d1.putDigest Reg.CRN_RESTORED_DIGEST.BYTES (d.stepDigest m s.addrs) else d1
        let base := d.get Reg.CRN_STEP_REC.BASE * 2 ^ 21
        (d2.applyHeader s.ten fun off n => d.readMem m (base + off) n).put Reg.CRN_STATUS.REPEAT_ARMED 1

/-- VERIFY (R477). -/
def Dev.verifyCmd (d : Dev) : Dev :=
  if d.is Reg.CRN_STATUS.RESTORING then d.crnFault 0x0905
  else
    let same := (List.range 6).all fun k => d.get (Reg.CRN_RESTORED_DIGEST.BYTES k) == d.get (Reg.CRN_REF_DIGEST.BYTES k)
    (if same then d.put Reg.CRN_STATUS.VERIFIED 1 else (d.put Reg.CRN_STATUS.VERIFIED 0).crnFault 0x0909).event
      Reg.CRN_EVENT.VERIFY_DONE

/-- CLEAR_REPEAT (R478). -/
def Dev.clearRepeat (d : Dev) : Dev :=
  let d1 := (d.put Reg.CRN_STATUS.REPEAT_ARMED 0).put Reg.CRN_STATUS.VERIFIED 0
  if d.is Reg.CRN_STATUS.INTERRUPTED then d1.closeStep.put Reg.CRN_STATUS.INTERRUPTED 0 else d1

/-- What R478 holds a START or a launch back for. -/
def Dev.startBarred (d : Dev) : Bool :=
  d.crn.fill.isSome || d.crn.queued.isSome || (d.is Reg.CRN_STATUS.REPEAT_ARMED && !d.is Reg.CRN_STATUS.VERIFIED) ||
    (d.crn.serve.any fun s => s.src == 2)

/-! ### FILL (R486 to R488) -/

/-- The transfer register of a fill's source: KIND, CONVOY, HOST_ADDR in 4 KiB. -/
def Dev.fillSource (d : Dev) (alt : Bool) : Nat × Nat × Nat :=
  if alt then (d.get Reg.CRN_XFER_B.KIND, d.get Reg.CRN_XFER_B.CONVOY, d.get Reg.CRN_XFER_B.HOST_ADDR)
  else (d.get Reg.CRN_XFER_A.KIND, d.get Reg.CRN_XFER_A.CONVOY, d.get Reg.CRN_XFER_A.HOST_ADDR)

/-- A Cairn convoy is good: valid, 72 blocks, joined; for a step of the loaded Route also of its tenancy (R485). -/
def Dev.cairnConvoy (d : Dev) (c : Nat) (joined own : Bool) : Bool :=
  d.is (Reg.WMK_CV0.VALID c) && d.get (Reg.WMK_CV0.BLOCKS c) == 72 && (!joined || d.is (Reg.WMK_CV0.JOINED c)) &&
    (!own || d.get (Reg.WMK_CV0.TENANCY c) == d.rt.tenancy)

/-- The transfer can begin. -/
def Dev.xferOk (d : Dev) (x : Nat × Nat × Nat) (joined own : Bool) : Bool :=
  (x.1 == 1 && d.cairnConvoy x.2.1 joined own) || (x.1 == 2)

/-- Instances of a Cairn convoy count from 0 again: what came for an earlier Cairn is dropped (R485). -/
def Dev.freshConvoy (c : Nat) (d : Dev) : Dev :=
  { d with rxInsts := d.rxInsts.filter (fun r => r.convoy != c), rxBlks := d.rxBlks.filter (fun b => b.convoy != c),
           rxLow := kset 0 d.rxLow c 0 }.updStores (d.cvPort c)

/-- The convoy of a fill's source, where it is one that has carried an earlier Cairn, starts afresh (DEDUCED, notes/assumptions/59.md). -/
def Dev.freshSource (alt : Bool) (d : Dev) : Dev :=
  let x := d.fillSource alt
  if x.1 = 1 ∧ kget 0 d.rxLow x.2.1 ≠ 0 then d.freshConvoy x.2.1 else d

/-- What the convoy of a failed source has brought is dropped. -/
def Dev.dropSource (alt : Bool) (d : Dev) : Dev :=
  if (d.fillSource alt).1 = 1 then d.freshConvoy (d.fillSource alt).2.1 else d

/-- A fill begins. -/
def Dev.beginFill (f : FillReq) (d0 : Dev) : Dev :=
  let d := d0.freshSource f.alt
  ({ d with crn := { d.crn with fill := some f } }.put Reg.CRN_STATUS.FILLING 1).put Reg.CRN_PROGRESS.FILLED 0

def Dev.fillCmd (store stepMatch : Bool) (d : Dev) : Dev :=
  let f : FillReq := { store := store, stepMatch := stepMatch }
  if !store ∧ d.is Reg.CRN_STATUS.RESTORING then d.crnFault 0x0905
  else if d.crn.fill.isSome then
    if d.crn.queued.isSome then d.crnFault 0x0905
    else { d with crn := { d.crn with queued := some f } }.put Reg.CRN_STATUS.FILL_QUEUED 1
  else if !d.xferOk (d.fillSource false) true (!store) ∨ (!store ∧ (d.running ∨ d.crn.step.isSome)) ∨
      (store ∧ d.get Reg.CRN_STORE.SIZE < 2) then d.crnRefuse
  else d.beginFill f

/-- The fill in progress ends; a queued one starts. -/
def Dev.endFill (d : Dev) : Dev :=
  let d1 := { d with crn := { d.crn with fill := none } }.put Reg.CRN_STATUS.FILLING 0
  match d1.crn.queued with
  | some f => ({ d1 with crn := { d1.crn with queued := none } }.put Reg.CRN_STATUS.FILL_QUEUED 0).fillCmd f.store f.stepMatch
  | none => d1

/-- The fill's source has failed (R487). -/
def Dev.fillFail (d : Dev) : Dev :=
  match d.crn.fill with
  | none => d
  | some f =>
    let d0 := d.dropSource f.alt
    if !f.alt ∧ d.get Reg.CRN_XFER_B.KIND ≠ 0 then
      let d1 := ({ d0 with crn := { d.crn with fill := some { f with alt := true, blks := [] } } }.put Reg.CRN_PROGRESS.FILLED 0).event
        Reg.CRN_EVENT.ALTERNATE
      let d2 := if d.get Reg.CRN_XFER_B.KIND = 1 then { d1 with joining := d1.joining ++ [d.get Reg.CRN_XFER_B.CONVOY] } else d1
      d2.freshSource true
    else
      let d1 := if f.store then d0 else d0.put Reg.CRN_STATUS.REPEAT_ARMED 0
      (d1.crnFault 0x090A).endFill

/-- The manifest of a received Cairn passes (R486). -/
def Dev.manifestOk (d : Dev) (f : FillReq) (bs : List Byte) : Bool :=
  cairnField bs 0 4 == 0x4E524143 && cairnField bs 4 2 == 1 &&
    cairnField bs 0x20 8 == stepBytes * (cairnField bs 0x18 4 + 1) + 4096 &&
    (f.store || (d.rt.loaded && cairnField bs 0x28 48 == d.rt.measure.toNat &&
      (cairnList bs).all (fun a => a % stepBytes == 0 && d.inSpace (cairnField bs 6 1) a stepBytes) &&
      (!f.stepMatch || cairnField bs 0x08 8 == d.get Reg.CRN_STEP.NUMBER)))

/-- The region digest of a received Cairn (R476). -/
def cairnRegionDigest (bs : List Byte) : List Byte :=
  let n := cairnField bs 0x18 4
  sha384 (((List.range n).flatMap fun k => sha384 ((bs.drop (stepBytes * (k + 1))).take stepBytes)) ++ leBytes 8 (stepBytes * n))

/-- Both trailer digests match. -/
def trailerOk (bs : List Byte) : Bool :=
  let t := stepBytes * (cairnField bs 0x18 4 + 1)
  ((bs.drop t).take 48 == cairnRegionDigest bs) && ((bs.drop (t + 48)).take 48 == sha384 (bs.take stepBytes))

/-- Byte base of a store half. -/
def Dev.storeHalf (d : Dev) (h : Nat) : Nat := (d.get Reg.CRN_STORE.BASE + h * (d.get Reg.CRN_STORE.SIZE / 2)) * 2 ^ 21

/-- A block that the convoy of a running fill has brought (R485, R486). -/
def Dev.fillTake (c n blk : Nat) (data : BitVec 32768) (d : Dev) : Dev :=
  match d.crn.fill with
  | none => d
  | some f =>
    if (d.fillSource f.alt).1 = 1 ∧ (d.fillSource f.alt).2.1 = c then
      let bs := f.blks ++ [(72 * n + blk, data)]
      { d with crn := { d.crn with fill := some { f with blks := bs } } }.put Reg.CRN_PROGRESS.FILLED (bs.length / 512)
    else d

/-- The first `n` blocks of the Cairn that a fill's convoy has brought, where it has brought them all. -/
def FillReq.blocks (f : FillReq) (n : Nat) : Option (List Byte) :=
  (List.range n).foldr (fun k r =>
    match f.blks.find? fun b => b.1 == k, r with
    | some b, some l => some (leBytes 4096 b.2.toNat ++ l)
    | _, _ => none) (some [])

/-- The Cairn of a fill that reaches its trailer: over a convoy, the blocks that have come, once all have or once the header shows
a bad manifest; from a host buffer, the bytes read (R485, R486). -/
def Dev.fillBytes (d : Dev) (read : List Byte) : Option (List Byte) :=
  match d.crn.fill with
  | none => none
  | some f =>
    if (d.fillSource f.alt).1 = 1 then
      match f.blocks 512 with
      | none => none
      | some h => if d.manifestOk f h then f.blocks (cairnField h 0x20 8 / 4096) else some h
    else some read

/-- Device memory as a fill that reaches its trailer leaves it. -/
def Dev.fillMem (bs : List Byte) (d : Dev) (m : Memory) : Memory :=
  match d.crn.fill with
  | none => m
  | some f =>
    if !d.manifestOk f bs then m
    else if f.store then d.writeBytes m (d.storeHalf (1 - d.get Reg.CRN_STATUS.STORE_HALF)) bs
    else
      let m1 := (List.range (cairnField bs 0x18 4)).foldl (fun m k =>
        d.writeBytes m ((cairnList bs).getD k 0) ((bs.drop (stepBytes * (k + 1))).take stepBytes)) m
      d.writeBytes m1 (d.get Reg.CRN_STEP_REC.BASE * 2 ^ 21) (bs.take stepBytes)

/-- A fill rewrites its blocks whole (R295). -/
def Dev.fillMends (bs : List Byte) (d : Dev) : Dev :=
  match d.crn.fill with
  | none => d
  | some f =>
    if !d.manifestOk f bs then d
    else if f.store then d.rewritten (d.storeHalf (1 - d.get Reg.CRN_STATUS.STORE_HALF)) bs.length
    else ((cairnList bs).foldl (fun d a => d.rewritten a stepBytes) d).rewritten (d.get Reg.CRN_STEP_REC.BASE * 2 ^ 21) stepBytes

/-- The fill reaches its trailer: a match applies the Cairn, a mismatch is a source failure (R486, R487). -/
def Dev.fillEnd (bs : List Byte) (d : Dev) : Dev :=
  match d.crn.fill with
  | none => d
  | some f =>
    if !d.manifestOk f bs then d.fillFail
    else if !trailerOk bs then (d.crnFault 0x0909).fillFail
    else
      let d1 := d.put Reg.CRN_PROGRESS.FILLED (cairnField bs 0x20 8 / stepBytes)
      if f.store then
        let d2 := if d.crn.serve.any fun s => s.src == 1 then { d1 with crn := { d1.crn with swap := true } }
          else (d1.put Reg.CRN_STATUS.STORE_HALF (1 - d.get Reg.CRN_STATUS.STORE_HALF)).put Reg.CRN_STATUS.STORE_VALID 1
        (d2.event Reg.CRN_EVENT.FILL_DONE).endFill
      else
        let pos := cairnField bs 0x10 8
        let d2 := d1.applyHeader (cairnField bs 6 1) (cairnField bs)
        let d3 := d2.putDigest Reg.CRN_RESTORED_DIGEST.BYTES (cairnRegionDigest bs)
          |>.put Reg.CRN_STATUS.VERIFIED 1 |>.put Reg.CRN_STATUS.REPEAT_ARMED 1 |>.put Reg.CRN_STEP_POS.SEGMENT (bitsOf pos 8 8)
          |>.put Reg.CRN_STEP_POS.PASS (bitsOf pos 16 24) |>.put Reg.CRN_STEP_POS.REPEATS_LEFT (bitsOf pos 40 24)
          |>.put Reg.CRN_STEP.NUMBER (cairnField bs 0x08 8)
        (d3.event Reg.CRN_EVENT.FILL_DONE).endFill

/-- FILL_DONE, on everything but device memory. -/
def Dev.fillReach (read : List Byte) (d : Dev) : Dev :=
  match d.fillBytes read with
  | some bs => (d.fillMends bs).fillEnd bs
  | none => d

/-- FILL_DONE, on device memory. -/
def Dev.fillReachMem (read : List Byte) (d : Dev) (m : Memory) : Memory :=
  match d.fillBytes read with
  | some bs => d.fillMem bs m
  | none => m

/-! ### SERVE and CAIRN (R480, R483 to R485) -/

def Dev.serveBusy (d : Dev) : Bool := d.crn.serve.isSome || d.nextArmed

def Dev.serveCmd (src : Nat) (onJoin : Bool) (d : Dev) : Dev :=
  if d.serveBusy ∧ !(src = 0 ∧ d.nextArmed ∧ d.crn.serve.isNone) then d.crnFault 0x0905
  else if src = 2 ∧ d.fillOwn then d.crnFault 0x0905
  else
    let x := d.fillSource false
    let ok := match src with
      | 1 => d.is Reg.CRN_STATUS.STORE_VALID
      | 2 => !d.running && d.crn.step.isNone && d.is Reg.CRN_STATUS.REPEAT_ARMED && d.is Reg.CRN_STATUS.VERIFIED
      | _ => false
    if src = 0 then (if d.nextArmed then d else d.crnRefuse)
    else if !ok ∨ !d.xferOk x (!onJoin) (src == 2) then d.crnRefuse
    else
      let d1 := d.beginServe { src := src, wait := onJoin && x.1 == 1 && !d.is (Reg.WMK_CV0.JOINED x.2.1) }
      if onJoin ∧ x.1 = 1 ∧ !d.is (Reg.WMK_CV0.JOINED x.2.1) then { d1 with joining := d1.joining ++ [x.2.1] } else d1

/-- CAIRN arms a serve from NEXT (R480, R488). -/
def Dev.cairnCmd (d : Dev) : Dev :=
  if d.serveBusy then d.crnFault 0x0905
  else if d.get Reg.CRN_AUTO.KIND = 0 then d.crnRefuse else d.put Reg.CRN_STATUS.CAIRN_ARMED 1

/-- The step whose slots a serve from NEXT reads: the committed one while they are held, else the open one. -/
def Dev.servedStep (d : Dev) : Option StepOpen :=
  match d.crn.held with
  | some s => some s
  | none => d.crn.step

/-- A region as it stood when its step opened: from its slot where it has been copied; an uncopied block has not been written
(R470), and is read in place. -/
def Dev.openBytes (d : Dev) (m : Memory) (s : StepOpen) (a first n : Nat) : List Byte :=
  (List.range n).flatMap fun j =>
    let k := first + j
    d.memBytes m (if s.has (a + 256 * k) then d.slotAddr s.addrs a + 256 * k else a + 256 * k) 256

/-- A Cairn: header, regions, and the trailer's digests over the bytes sent (R481). -/
def cairnImage (hdr : List Byte) (regions : List (List Byte)) : List Byte :=
  hdr ++ regions.flatten ++ padTo 4096 (digestOf regions ++ sha384 hdr)

/-- The bytes a serve sends (R483). -/
def Dev.serveImage (d : Dev) (m : Memory) (s : ServeReq) : List Byte :=
  if s.src = 1 then
    let b := d.storeHalf (d.get Reg.CRN_STATUS.STORE_HALF)
    d.memBytes m b (d.readMem m (b + 0x20) 8)
  else if s.src = 2 then
    let hdr := d.memBytes m (d.get Reg.CRN_STEP_REC.BASE * 2 ^ 21) stepBytes
    cairnImage hdr ((cairnList hdr).map fun a => d.memBytes m a stepBytes)
  else
    match d.servedStep with
    | some st => cairnImage s.hdr (st.addrs.map fun a => d.openBytes m st a 0 8192)
    | none => []

/-- Where a serve sends (R480, R483): KIND, CONVOY, HOST_ADDR. -/
def Dev.serveDest (d : Dev) (s : ServeReq) : Nat × Nat × Nat :=
  if s.src = 0 then (d.get Reg.CRN_AUTO.KIND, d.get Reg.CRN_AUTO.CONVOY, d.get Reg.CRN_AUTO.HOST_ADDR) else d.fillSource false

/-! ### A serve over a convoy (R455, R485) -/

/-- The length of the Cairn a serve sends (R481). -/
def Dev.serveLen (d : Dev) (m : Memory) (s : ServeReq) : Nat :=
  if s.src = 1 then d.readMem m (d.storeHalf (d.get Reg.CRN_STATUS.STORE_HALF) + 0x20) 8
  else if s.src = 2 then stepBytes * (d.readMem m (d.get Reg.CRN_STEP_REC.BASE * 2 ^ 21 + 0x18) 4 + 1) + 4096
  else
    match d.servedStep with
    | some st => stepBytes * (st.addrs.length + 1) + 4096
    | none => 0

/-- Blocks of a Cairn of a length: instances of 72, the last padded with zero blocks. -/
def cairnBlockCount (len : Nat) : Nat := (len + 294911) / 294912 * 72

/-- The serve that sends over convoy `c`, once its convoy is joined. -/
def Dev.serveOver (d : Dev) (c : Nat) : Option ServeReq :=
  match d.crn.serve with
  | some s =>
    let x := d.serveDest s
    if !s.wait && x.1 == 1 && x.2.1 == c && d.xferOk x true (s.src != 1) then some s else none
  | none => none

/-- Block `k` of the Cairn can be sent: from NEXT, a block of a region once its bytes are in the shadow slot, or once no copy is to
come (R470, R483). -/
def Dev.serveHas (d : Dev) (s : ServeReq) (k : Nat) : Bool :=
  if s.src ≠ 0 ∨ k < 512 then true
  else
    match d.servedStep with
    | none => false
    | some st =>
      d.crn.held.isSome || decide (512 * (st.addrs.length + 1) ≤ k) ||
        (List.range 16).all fun j => st.has (st.addrs.getD (k / 512 - 1) 0 + 4096 * (k % 512) + 256 * j)

/-- The trailer of a Cairn, over the bytes sent before it. -/
def cairnTrailer (sent : List Byte) : List Byte :=
  let n := sent.length / stepBytes - 1
  padTo 4096 (digestOf ((List.range n).map fun k => (sent.drop (stepBytes * (k + 1))).take stepBytes) ++ sha384 (sent.take stepBytes))

/-- Block `k` of the Cairn, read from its source. -/
def Dev.serveBlock (d : Dev) (m : Memory) (s : ServeReq) (k : Nat) : List Byte :=
  let len := d.serveLen m s
  if len ≤ 4096 * k then List.replicate 4096 0#8
  else if s.src = 1 then d.memBytes m (d.storeHalf (d.get Reg.CRN_STATUS.STORE_HALF) + 4096 * k) 4096
  else if 4096 * k + 4096 = len then cairnTrailer s.bytes
  else if s.src = 2 then
    let hdr := d.get Reg.CRN_STEP_REC.BASE * 2 ^ 21
    d.memBytes m (if k < 512 then hdr + 4096 * k else d.readMem m (hdr + 0x100000 + 8 * (k / 512 - 1)) 8 + 4096 * (k % 512)) 4096
  else if k < 512 then (s.hdr.drop (4096 * k)).take 4096
  else
    match d.servedStep with
    | some st => d.openBytes m st (st.addrs.getD (k / 512 - 1) 0) (16 * (k % 512)) 16
    | none => List.replicate 4096 0#8

/-- Blocks of the Cairn that have been sent. -/
def ServeReq.count (s : ServeReq) : Nat := s.bytes.length / 4096

/-- The block that a serve sends next: one to be re-sent, else the next that its source can give. -/
def Dev.serveNext (d : Dev) (m : Memory) (s : ServeReq) : Option (Nat × Bool) :=
  match s.flying.find? fun b => b.again with
  | some b => some (b.idx, true)
  | none => if s.count < cairnBlockCount (d.serveLen m s) ∧ d.serveHas s s.count then some (s.count, false) else none

/-- Nanoseconds from one Cairn frame to the next, at RATE_PCT of the port's time; a block takes the wire time of R442. -/
def Dev.cairnGap (d : Dev) (c : Nat) : Nat :=
  let pct := min 90 (max 1 (d.get Reg.CRN_CFG.RATE_PCT))
  ((if d.is (Reg.WMK_P_CFG.SPLIT (d.cvPort c)) then 86 else 43) * 100 + pct - 1) / pct

/-- A re-send is counted and recorded; a first transmission is counted (R455, R561). -/
def Dev.noteBlock (c n b : Nat) (again : Bool) (d : Dev) : Dev :=
  let p := d.cvPort c
  if again then ((d.count (Reg.WMK_P_RESENDS.COUNT p) 1).tally HealthMs.block).lantern 12 0xFF 0 0 d.run.tick (p + 2 ^ 3 * c + 2 ^ 12 * b + 2 ^ 20 * n) none
  else d.count (Reg.WMK_P_TX_BLOCKS.COUNT p) 1

/-- Send block `k` of a serve over its convoy. -/
def Dev.serveSend (c : Nat) (s : ServeReq) (k : Nat) (again : Bool) (m : Memory) (d : Dev) : Dev :=
  let data := if again then (s.bytes.drop (4096 * k)).take 4096 else d.serveBlock m s k
  let bytes := if again then s.bytes else s.bytes ++ data
  let flying := s.flying.filter (fun b => b.idx != k) ++ [{ idx := k, sent := d.now }]
  let d1 := (d.sendFrame c frameData (k / 72) (k % 72) 72 false again data).noteBlock c (k / 72) (k % 72) again
  { d1 with crn := { d1.crn with serve := some { s with bytes := bytes, flying := flying, nextAt := d.now + d.cairnGap c } } }.put
    Reg.CRN_PROGRESS.SERVED (min bytes.length (d.serveLen m s) / stepBytes)

/-- A pacing slot for Cairn frames: RATE_PCT admits one (R485). -/
def Dev.serveTransmit (c : Nat) (m : Memory) (d : Dev) : Dev :=
  match d.serveOver c with
  | some s =>
    if d.now < s.nextAt then d
    else
      match d.serveNext m s with
      | some (k, again) => d.serveSend c s k again m
      | none => d
  | none => d

/-- An ACK of instance `n` on the serve's convoy: the blocks it shows are free, the missing ones that were sent long enough ago are to be
re-sent; errors stop nothing (R455, R485). -/
def Dev.serveAck (c n bits base : Nat) (d : Dev) : Dev :=
  match d.serveOver c with
  | none => d
  | some s =>
    let mine (b : CairnBlk) : Bool := b.idx / 72 == n
    let shown (b : CairnBlk) : Bool := mine b && decide (base ≤ b.idx % 72) && bitOf bits (b.idx % 72 - base)
    let left := (s.flying.filter fun b => !shown b).map fun b =>
      if mine b ∧ b.sent + d.get Reg.WMK_TIMERS.RESEND_GAP_NS ≤ d.now then { b with again := true } else b
    let d1 := { d with crn := { d.crn with serve := some { s with flying := left } } }
    if s.flying.any mine ∧ !left.any mine ∧ 72 * (n + 1) ≤ s.count then
      d1.put (Reg.WMK_CV7.INSTANCES c) (d.get (Reg.WMK_CV7.INSTANCES c) + 1)
    else d1

/-! ### The end of a serve (R484) -/

/-- What a serve to a host buffer writes; one over a convoy has sent its blocks. -/
def Dev.serveOut (s : ServeReq) (bs : List Byte) (d : Dev) : Dev :=
  let x := d.serveDest s
  if x.1 = 2 then d.emit (.hostWrite (d.rtView) (x.2.2 * 4096) bs) else d

/-- A serve ends, completed or failed; one whose destination is not good fails (R484 to R486): held slots are released, a waiting copy begins, a waiting store half
becomes current. -/
def Dev.serveEnd (failed : Bool) (m : Memory) (d : Dev) : Dev :=
  match d.crn.serve with
  | none => d
  | some s =>
    let bs := d.serveImage m s
    let d1 := if failed ∨ !d.xferOk (d.serveDest s) true (s.src ≠ 1) then d else (d.serveOut s bs).put Reg.CRN_PROGRESS.SERVED (bs.length / stepBytes)
    let d2 := ({ d1 with crn := { d1.crn with serve := none, held := none, waitCopy := false, swap := false } }.put Reg.CRN_STATUS.SERVING 0).event
      Reg.CRN_EVENT.SERVE_END
    let d3 := if d.crn.waitCopy then (d2.put Reg.CRN_STATUS.COPYING 1).put Reg.MEM_STATUS.COPY_BUSY 1 else d2
    if d.crn.swap then (d3.put Reg.CRN_STATUS.STORE_HALF (1 - d.get Reg.CRN_STATUS.STORE_HALF)).put Reg.CRN_STATUS.STORE_VALID 1 else d3

/-- The serve can end: over a convoy, every block has been sent and acknowledged; into a host buffer, it has begun sending, and (NEXT) its
blocks have been copied. -/
def Dev.serveReady (d : Dev) (m : Memory) : Bool :=
  match d.crn.serve with
  | some s =>
    !s.wait && (s.src != 0 || d.crn.held.isSome || (d.crn.step.any fun x => x.complete)) &&
      ((d.serveDest s).1 != 1 || (s.flying.isEmpty && decide (cairnBlockCount (d.serveLen m s) ≤ s.count)))
  | none => false

/-- CANCEL_QUEUED (R488). -/
def Dev.cancelQueued (d : Dev) : Dev :=
  if d.crn.queued.isSome then { d with crn := { d.crn with queued := none } }.put Reg.CRN_STATUS.FILL_QUEUED 0 else d.crnRefuse

/-! ### The health score (R479) -/

/-- One component. -/
def riskComponent (x full : Nat) : Nat := min 255 (255 * x / max 1 full)

/-- A millisecond ends: its counts join the 999 before it. -/
def HealthSt.close (droops : Nat) (h : HealthSt) : HealthSt :=
  { cur := {}, past := ({ h.cur with droops := h.cur.droops + droops } :: h.past).take 1000 }

/-- Events of a kind in the last 1,000 ms. -/
def HealthSt.rate (h : HealthSt) (f : HealthMs → Nat) : Nat := (h.past.map f).sum

/-- The STRETCH component: the largest over islands of the percentage of windows with an own stretch. -/
def HealthSt.stretch (h : HealthSt) (full : Nat) : Nat :=
  ((List.range 21).map fun i => riskComponent (100 * h.rate fun m => kget 0 m.stretched i) (max 1 (h.rate HealthMs.windows) * max 1 full)).foldl max 0

/-- RISK_UPDATE: every rate comes from the device's own event counts. -/
def Dev.riskUpdate (x : RiskInput) (d : Dev) : Dev :=
  let h := d.events.close x.droops
  let temp := (sgn 8 (d.get Reg.PWR_TEMP.DIE) - ((d.get Reg.PWR_THERM_CTL.THROTTLE_C : Int) - 20)).toNat
  let c1 := riskComponent (h.rate HealthMs.rereads) (d.get Reg.HLT_FULL.RESEND)
  let c2 := h.stretch (d.get Reg.HLT_FULL.STRETCH)
  let c3 := riskComponent temp 30
  let c4 := riskComponent (h.rate HealthMs.blocks) (d.get Reg.HLT_FULL.LINK)
  let c5 := riskComponent (h.rate HealthMs.droops) (d.get Reg.HLT_FULL.DROOP)
  let sum := d.get Reg.HLT_WEIGHT.RESEND * c1 + d.get Reg.HLT_WEIGHT.STRETCH * c2 + d.get Reg.HLT_WEIGHT.TEMP * c3 +
    d.get Reg.HLT_WEIGHT.LINK * c4 + d.get Reg.HLT_WEIGHT.DROOP * c5
  let risk := min 255 (sum / 16)
  let th := d.get Reg.CRN_RISK_THRESH.VALUE % 256
  let above := decide (d.get Reg.HLT_RISK.RISK ≤ th ∧ th < risk)
  let d1 := { d with events := h } |>.put Reg.HLT_COMP.RESEND c1 |>.put Reg.HLT_COMP.STRETCH c2 |>.put Reg.HLT_COMP.TEMP c3 |>.put Reg.HLT_COMP.LINK c4
    |>.put Reg.HLT_COMP.DROOP c5 |>.put Reg.HLT_RISK.RISK risk |>.peak Reg.HLT_RISK.PEAK risk
  if above then d1.event Reg.HLT_EVENT.ABOVE else d1

end Sys2Proof.Machine
end

