-- ==== Sys2Proof/Machine/Waymark.lean ====
section
/-! DEFINITION. Waymark: ports, convoys, frames, blocks, windows, acknowledgements, signals (R421 to R424, R436 to R465). -/

namespace Sys2Proof.Machine

/-! ### Ports and entries -/

/-- The link that serves a convoy is up. -/
def Dev.linkOf (d : Dev) (c : Nat) : Bool := d.linkOn (d.cvPort c) c

/-- Number of entries with a bit set. -/
def Dev.countConvoys (d : Dev) (f : Nat → Fld) : Nat := ((List.range 512).filter fun c => d.is (f c)).length

def Dev.updWmkStatus (d : Dev) : Dev :=
  (d.put Reg.WMK_STATUS.VALID (d.countConvoys Reg.WMK_CV0.VALID)).put Reg.WMK_STATUS.JOINED (d.countConvoys Reg.WMK_CV0.JOINED)

/-- The loaded Route names a convoy (R437). -/
def Dev.routeNames (d : Dev) (c : Nat) : Bool :=
  d.rt.loaded && d.rt.progs.any fun p => p.streams.any fun e => strKind e == 2 && strBase e / 2 ^ 48 == c

/-- A convoy outside the Route's schedule: one that carries Cairns, whose errors stop no segment, or the Mirror's entry (R462, R485). -/
def Dev.sideConvoy (d : Dev) (c : Nat) : Bool :=
  c == 511 || (d.get Reg.CRN_XFER_A.KIND == 1 && d.get Reg.CRN_XFER_A.CONVOY == c) ||
    (d.get Reg.CRN_XFER_B.KIND == 1 && d.get Reg.CRN_XFER_B.CONVOY == c) ||
    (d.get Reg.CRN_AUTO.KIND == 1 && d.get Reg.CRN_AUTO.CONVOY == c)

/-! ### Ports (R422, R423) -/

/-- Ports of the grade: PORT_MASK (R3, R422). -/
def Dev.portPresent (d : Dev) (p : Nat) : Bool := bitOf (d.get Reg.GLB_GRADE.PORT_MASK) p

/-- A write of WMK_Pp_CFG. -/
def Dev.portCfgWrite (p v : Nat) (d : Dev) : Dev :=
  if !d.portPresent p then d
  else
    let en := bitOf v 0
    let sp := bitOf v 1
    let busy := (List.range 512).any fun c => d.is (Reg.WMK_CV0.VALID c) && d.cvPort c == p
    if (en ≠ d.is (Reg.WMK_P_CFG.ENABLE p) ∨ sp ≠ d.is (Reg.WMK_P_CFG.SPLIT p)) ∧ busy then d.event Reg.WMK_EVENT.CFG_REFUSED
    else
      let d1 := d |>.putB (Reg.WMK_P_CFG.ENABLE p) en |>.putB (Reg.WMK_P_CFG.SPLIT p) sp |>.putB (Reg.WMK_P_CFG.VLAN_EN p) (bitOf v 2)
        |>.put (Reg.WMK_P_CFG.VLAN_ID p) (bitsOf v 4 12) |>.put (Reg.WMK_P_CFG.PCP p) (bitsOf v 16 3)
      if !en ∨ sp ≠ d.is (Reg.WMK_P_CFG.SPLIT p) then (d1.put (Reg.WMK_P_STAT.LINK0 p) 0).put (Reg.WMK_P_STAT.LINK1 p) 0 else d1

/-- A link comes up or goes down; a port in electrical idle has none (R422). -/
def Dev.linkChange (p sub : Nat) (up : Bool) (d : Dev) : Dev :=
  if !d.portPresent p ∨ (up ∧ (!d.is (Reg.WMK_P_CFG.ENABLE p) ∨ !d.netClk ∨ (sub = 1 ∧ !d.is (Reg.WMK_P_CFG.SPLIT p)))) then d
  else
    let f := if sub = 0 then Reg.WMK_P_STAT.LINK0 p else Reg.WMK_P_STAT.LINK1 p
    if d.is f = up then d else (d.putB f up).event Reg.WMK_EVENT.LINK_CHANGE

/-- NETCLK25 leaves its tolerance: every port returns to electrical idle with its links down (R586). -/
def Dev.netclkLoss (d : Dev) : Dev :=
  (List.range 8).foldl (fun d p => (d.linkChange p 0 false).linkChange p 1 false) { d with netClk := false }

/-! ### Convoy entries (R436, R439, R442) -/

/-- Pacing percentage in force (R441). -/
def Dev.pacePct (d : Dev) : Nat := min 90 (max 10 (d.get Reg.WMK_TIMERS.PACE_PCT))

/-- The entry may become valid (R442). -/
def Dev.convoyOk (d : Dev) (c : Nat) : Bool :=
  let blocks := d.cvBlocks c
  let len := d.get (Reg.WMK_CV2.LEN c)
  let per := d.get (Reg.WMK_CV2.PERIOD c)
  let wire := if d.is (Reg.WMK_P_CFG.SPLIT (d.cvPort c)) then 86 else 43
  decide (100 * (blocks * wire) ≤ len * d.pacePct ∧ 2000 ≤ len ∧ (per = 0 ∨ len ≤ per)) &&
    !(decide (64 ≤ d.cvPeer c) && d.is Reg.GLB_GRADE.CONC_LIMIT)

def Dev.convoyValid (c : Nat) (set : Bool) (d : Dev) : Dev :=
  let v := d.is (Reg.WMK_CV0.VALID c)
  if set then
    if v ∨ !d.convoyOk c then d.event Reg.WMK_EVENT.CFG_REFUSED else (d.put (Reg.WMK_CV0.VALID c) 1).updWmkStatus
  else if !v then d
  else if d.routeNames c then d.event Reg.WMK_EVENT.CFG_REFUSED
  else
    ({ d with joining := d.joining.filter (· ≠ c), peerJoin := d.peerJoin.filter (fun x => x.1 ≠ c) }
      |>.put (Reg.WMK_CV0.VALID c) 0 |>.put (Reg.WMK_CV0.JOINED c) 0).updWmkStatus

/-! ### Joining (R459) -/

/-- A JOIN frame's payload (R452). -/
def Dev.joinPayload (d : Dev) (c : Nat) : List Byte :=
  leBytes 8 (d.get (Reg.WMK_CV1.FIRST c)) ++ leBytes 4 (d.get (Reg.WMK_CV2.PERIOD c)) ++ leBytes 4 (d.get (Reg.WMK_CV2.LEN c)) ++
    leBytes 2 (d.cvBlocks c) ++ leBytes 1 (d.get (Reg.WMK_CV0.DIR c)) ++ leBytes 1 0

def Dev.sendJoin (c : Nat) (d : Dev) : Dev :=
  { d with joinSent := kset 0 d.joinSent c d.now }.sendFrame c frameJoin 0 0 0 false false (d.joinPayload c)

/-- The peer's JOIN agrees with the own entry (R436). -/
def Dev.joinAgrees (d : Dev) (c first per len blocks dir : Nat) : Bool :=
  d.get (Reg.WMK_CV1.FIRST c) == first && d.get (Reg.WMK_CV2.PERIOD c) == per && d.get (Reg.WMK_CV2.LEN c) == len &&
    d.cvBlocks c == blocks && d.get (Reg.WMK_CV0.DIR c) != dir

/-- The peer's JOIN has arrived for a convoy the host has joined. -/
def Dev.joinSettle (c first per len blocks dir : Nat) (d : Dev) : Dev :=
  let d1 := { d with joining := d.joining.filter (· ≠ c), peerJoin := d.peerJoin.filter (fun x => x.1 ≠ c) }
  if d.joinAgrees c first per len blocks dir then
    ({ d1 with heard := kset 0 d1.heard (d.cvPeer c) d.now }.put (Reg.WMK_CV0.JOINED c) 1).updWmkStatus
  else d1.event Reg.WMK_EVENT.JOIN_MISMATCH

/-- A serve or a fill that waits for its convoy to join begins (R483). -/
def Dev.serveJoined (d : Dev) : Dev :=
  match d.crn.serve with
  | some s => if s.wait && d.is (Reg.WMK_CV0.JOINED (d.fillSource false).2.1) then
      { d with crn := { d.crn with serve := some { s with wait := false } } } else d
  | none => d

/-- WMK_CMD JOIN for one convoy. A JOIN that the peer sent earlier is taken now (DEDUCED, notes/assumptions/21.md). -/
def Dev.join (c : Nat) (d : Dev) : Dev :=
  if !d.is (Reg.WMK_CV0.VALID c) ∨ d.is (Reg.WMK_CV0.JOINED c) then d
  else
    let d1 := { d with joining := d.joining.filter (· ≠ c) ++ [c] }.sendJoin c
    match d1.peerJoin.find? fun x => x.1 == c with
    | some (_, f, p, l, b, r) => (d1.joinSettle c f p l b r).serveJoined
    | none => d1

def Dev.joinFrame (c first per len blocks dir : Nat) (d : Dev) : Dev :=
  if !d.is (Reg.WMK_CV0.VALID c) ∨ d.is (Reg.WMK_CV0.JOINED c) then d
  else if d.joining.contains c then (d.joinSettle c first per len blocks dir).serveJoined
  else { d with peerJoin := d.peerJoin.filter (fun x => x.1 ≠ c) ++ [(c, first, per, len, blocks, dir)] }

/-- LEAVE is refused while the loaded Route names the convoy. -/
def Dev.leave (c : Nat) (d : Dev) : Dev :=
  if d.routeNames c then d
  else ({ d with joining := d.joining.filter (· ≠ c) }.put (Reg.WMK_CV0.JOINED c) 0).updWmkStatus

/-- A JOIN frame is sent again 100 µs after the last. -/
def Dev.joinResend (c : Nat) (d : Dev) : Dev :=
  if d.joining.contains c ∧ kget 0 d.joinSent c + 100000 ≤ d.now then d.sendJoin c else d

/-! ### Receiving (R440, R444, R453 to R457) -/

/-- The receive instance, if it is open. -/
def Dev.rx (d : Dev) (c n : Nat) : Option RxInst := d.rxInsts.find? fun r => r.convoy == c && r.inst == n

def RxInst.full (r : RxInst) (blocks : Nat) : Bool := decide (blocks ≤ r.got.length)

/-- Send an ACK showing `blks` (R452, R454, R457). -/
def Dev.sendAck (c n : Nat) (blks : List Nat) (d : Dev) : Dev :=
  let echo := match d.rx c n with
    | some r => r.echo
    | none => false
  let bits := (dedup blks).foldl (fun a b => a + 2 ^ b) 0
  (d.sendFrame c frameAck n 0 (d.cvBlocks c) echo false (leBytes 64 bits)).onRx c n fun r => { r with echo := false, lastAck := some d.now }

/-- An ACK for an instance that is closed: every block is shown. -/
def Dev.sendFullAck (c n : Nat) (d : Dev) : Dev :=
  d.sendFrame c frameAck n 0 (d.cvBlocks c) false false (leBytes 64 (2 ^ d.cvBlocks c - 1))

/-- Close receive instances from the lowest open on: a closed one has all its blocks written, or was relaxed past its due
tick. -/
def Dev.closeRx (c : Nat) : Nat → Dev → Dev
  | 0, d => d
  | k + 1, d =>
    let n := kget 0 d.rxLow c
    match d.rx c n with
    | some r =>
      if r.closed then
        Dev.closeRx c k { d with rxLow := kset 0 d.rxLow c (n + 1), rxInsts := d.rxInsts.filter fun r => !(r.convoy == c && r.inst == n) }
      else d
    | none => d

/-- Add a SIGNAL's value once every block of its instance is written; outside the tenancy's range it is dropped (R460). -/
def Dev.applySignal (c n : Nat) (s : Nat × BitVec 32) (d : Dev) : Dev :=
  if d.wmkSignalled.contains (c, n) then d
  else
    let d1 := { d with wmkSignalled := d.wmkSignalled ++ [(c, n)] }
    if d.ownsBeacon (d.get (Reg.WMK_CV0.TENANCY c)) s.1 then d1.signalNow sigWmk (d.cvPort c) s.1 false s.2 else d1

/-- All blocks of an instance are written: it counts as completed, and its signal applies (R454, R460). -/
def Dev.rxWritten (c n : Nat) (d : Dev) : Dev :=
  match d.rx c n with
  | none => d
  | some r =>
    if r.closed ∨ r.written.length < d.cvBlocks c then d
    else
      let d1 := (d.onRx c n fun r => { r with closed := true }).put (Reg.WMK_CV7.INSTANCES c) (d.get (Reg.WMK_CV7.INSTANCES c) + 1)
      let d2 := match r.signal with
        | some s => d1.applySignal c n s
        | none => d1
      d2.closeRx c d2.rxInsts.length

/-- A frame is taken: Waymark is enabled, the frame is intact, its convoy is joined (R453, R459); the peer has been heard. -/
def Dev.takeFrame (f : Frame) (d : Dev) : Option Dev :=
  if !d.is Reg.WMK_CTL.WAYMARK_EN then none
  else if !f.intact ∨ !d.is (Reg.WMK_CV0.JOINED f.convoy.toNat) then none
  else some { d with heard := kset 0 d.heard (d.cvPeer f.convoy.toNat) d.now }

/-- A frame that is not taken is dropped and counted; a DATA frame that fails its check on an open instance is answered by an
immediate ACK at most once per ACK_NS (R453, R454). -/
def Dev.dropFrame (f : Frame) (isData : Bool) (d : Dev) : Dev :=
  if !d.is Reg.WMK_CTL.WAYMARK_EN then d
  else
    let d1 := d.count (Reg.WMK_P_CRC_ERR.COUNT f.port.toNat) 1
    let c := f.convoy.toNat
    if isData ∧ !f.intact ∧ d.is (Reg.WMK_CV0.JOINED c) then
      match d1.rx c f.num.toNat with
      | some r =>
        if r.lastAck.all (fun t => decide (t + d.get Reg.WMK_TIMERS.ACK_NS ≤ d.now)) && !r.closed then d1.sendAck c f.num.toNat (r.got.map (·.1))
        else d1
      | none => d1
    else d1

/-- A block joins its instance and the receive store. -/
def Dev.rxStore (f : Frame) (payload : BitVec 32768) (d : Dev) : Dev :=
  let c := f.convoy.toNat
  let n := f.num.toNat
  let b := f.block.toNat
  let p := d.cvPort c
  let stamp := f.stamp.toNat
  let late := decide (d.windowEnd c n ≤ stamp) && !d.sideConvoy c
  let d1 := if late then ((d.count (Reg.WMK_P_LATE.COUNT p) 1).tally HealthMs.block).lantern 12 0xFF 0 0 d.run.tick
      (p + 2 ^ 3 * c + 2 ^ 12 * b + 2 ^ 19 + 2 ^ 20 * n) none else d
  let d2 := d1.onRx c n fun r => { r with got := r.got ++ [(b, stamp)] }
  let dropped := (d2.rx c n).any fun r => r.closed
  let kept : Dev := { d2 with rxBlks := d2.rxBlks ++ [{ convoy := c, inst := n, blk := b, data := payload }] }
  let d3 := if dropped then d2 else kept.updStores p
  match d3.rx c n with
  | some r => if r.full (d.cvBlocks c) then d3.sendAck c n (r.got.map (·.1)) else d3
  | none => d3

/-- A DATA frame (R440, R444, R453, R456, R457). -/
def Dev.dataFrame (f : Frame) (payload : BitVec 32768) (d : Dev) : Dev :=
  match d.takeFrame f with
  | none => d.dropFrame f true
  | some d1 =>
    let c := f.convoy.toNat
    let n := f.num.toNat
    let b := f.block.toNat
    let p := d.cvPort c
    let d2 := if f.ce then (d1.count (Reg.WMK_P_ECN_CE.COUNT p) 1) else d1
    if n < kget 0 d.rxLow c then d2.sendFullAck c n
    else
      let d3 := if f.ce then d2.onRx c n fun r => { r with echo := true } else d2
      match d3.rx c n with
      | some r =>
        if r.got.any (fun g => g.1 == b) then (if r.full (d.cvBlocks c) then d3.sendAck c n (r.got.map (·.1)) else d3)
        else if r.posted.isNone ∧ 256 ≤ (d.rxBlks.filter fun x => d.cvPort x.convoy == p).length then d3.count (Reg.WMK_P_STORE_DROPS.COUNT p) 1
        else d3.rxStore f payload
      | none =>
        if 256 ≤ (d.rxBlks.filter fun x => d.cvPort x.convoy == p).length then d3.count (Reg.WMK_P_STORE_DROPS.COUNT p) 1
        else d3.rxStore f payload

/-- Half-row h of a stored block enters the fill plane for its posted row; its delay is the bounded free value (R272, R276, R437). -/
def Dev.sendHalf (b : RxBlk) (h wait : Nat) (d : Dev) : Dev :=
  match d.run.xfers.find? fun x => decide (x.path = .waymark b.convoy 0 b.inst) && x.j == 8 * b.blk + h / 2 && !x.dropped with
  | none => d
  | some x =>
    let c := x.owner.core
    let (n, d1) := d.freeDelay (meshPath false (portRouter (d.get (Reg.WMK_CV0.PORT b.convoy)) c) c)
    { d1 with fillq := d1.fillq ++ [{ core := c, bank := x.bank, row := x.row, half := h % 2, data := bitsOf b.data.toNat (2048 * h) 2048,
                                      from_ := d.fillSide x, delay := n, what := 3, blk := some (b.convoy, b.inst, b.blk), last := h == 15,
                                      wait := wait }] }

/-- The block is written: the last of its half-rows is in its row. -/
def Dev.blockWritten (c n k : Nat) (d : Dev) : Dev :=
  if (d.rx c n).isNone then d
  else ((d.onRx c n fun r => { r with written := r.written ++ [k] }).rxWritten c n).updStores (d.cvPort c)

/-- A block leaves the store for its posted rows: sixteen half-rows, 6 periods apart, after those that its port still sends (R437, R444). -/
def Dev.writeBlock (b : RxBlk) (d : Dev) : Dev :=
  let p := d.cvPort b.convoy
  let base := ((d.fillq.filter fun f => f.blk.any fun k => d.cvPort k.1 == p).map FillHalf.wait).foldl max 0
  let d1 := (List.range 16).foldl (fun d h => d.sendHalf b h (base + 6 * (h + 1))) d
  if d1.fillq.any fun f => f.blk == some (b.convoy, b.inst, b.blk) && f.last then d1 else d1.blockWritten b.convoy b.inst b.blk

/-- One tick of the fill plane: of the half-rows that have reached a core's router, the first is written (R218, R251, R273, R275, R444). -/
def Dev.fillStep (d : Dev) : Dev :=
  let q := d.fillq.map fun f => { f with wait := f.wait - 1, delay := if f.wait = 0 then f.delay + 1 else f.delay, old := true }
  let cores := dedup ((q.filter fun f => f.wait == 0).map FillHalf.core)
  cores.foldl (fun (d : Dev) c =>
    match d.fillq.find? fun f => f.core == c && f.wait == 0 with
    | none => d
    | some f =>
      let d1 := { d with fillq := eraseFirst f d.fillq }.fillLand f
      match f.blk with
      | some k => if f.last then { d1 with fillUsed := c :: d1.fillUsed }.blockWritten k.1 k.2.1 k.2.2 else { d1 with fillUsed := c :: d1.fillUsed }
      | none => { d1 with fillUsed := c :: d1.fillUsed }) { d with fillq := q, fillUsed := [] }

/-- A running fill takes the blocks of a convoy (R485, R486). -/
def Dev.fillTakes (d : Dev) (c : Nat) : Bool :=
  d.crn.fill.any fun f => let x := d.fillSource f.alt; x.1 == 1 && x.2.1 == c

/-- A stored block may leave the store: its instance is posted, or a fill takes it. -/
def Dev.drainable (d : Dev) (b : RxBlk) : Bool := (d.rx b.convoy b.inst).any (fun r => r.posted.isSome) || d.fillTakes b.convoy

/-- The oldest stored block of a port that may leave the store (R444). -/
def Dev.drainStore (p : Nat) (d : Dev) : Dev :=
  match d.rxBlks.find? fun b => d.cvPort b.convoy == p && d.drainable b with
  | none => d
  | some b =>
    let d1 := { d with rxBlks := eraseFirst b d.rxBlks }
    ((d1.fillTake b.convoy b.inst b.blk b.data).writeBlock b).updStores p

/-! ### Windows and acknowledgements on a timer (R454) -/

def Dev.openRx (d : Dev) (c : Nat) (p : RxInst → Bool) : Option RxInst := d.rxInsts.find? fun r => r.convoy == c && !r.closed && p r

/-- The ACK at a window's end, of the blocks stamped before it. The instances of a Cairn have no window (R485). -/
def Dev.ackWindowEnd (c : Nat) (d : Dev) : Dev :=
  if d.sideConvoy c then d
  else match d.openRx c fun r => !r.ended && decide (d.windowEnd c r.inst ≤ d.now) with
  | some r => (d.sendAck c r.inst ((r.got.filter fun g => decide (g.2 < d.windowEnd c r.inst)).map (·.1))).onRx c r.inst
      fun r => { r with ended := true }
  | none => d

/-- The ACKs after a window's end; for an instance without a window, from its first block on (DEDUCED, notes/assumptions/59.md). -/
def Dev.ackPeriodic (c : Nat) (d : Dev) : Dev :=
  match d.openRx c fun r => (r.ended || d.sideConvoy c) && !r.full (d.cvBlocks c) &&
      r.lastAck.all (fun t => decide (t + d.get Reg.WMK_TIMERS.ACK_NS ≤ d.now)) with
  | some r => d.sendAck c r.inst (r.got.map (·.1))
  | none => d

/-! ### Transmitting (R441, R443, R455, R460) -/

def Dev.onTx (c n : Nat) (f : TxInst → TxInst) (d : Dev) : Dev :=
  { d with txInsts := updFirst (fun t => t.convoy == c && t.inst == n) f d.txInsts }

/-- Pacing slots of an instance lie `num / den` ns apart from its window's start (R441, R457). -/
def Dev.slotNum (d : Dev) (t : TxInst) : Nat := max 1 (d.get (Reg.WMK_CV2.LEN t.convoy) * (if t.pace90 then 90 else d.pacePct))
def TxInst.slotDen (t : TxInst) : Nat := 100 * max 1 t.blocks

/-- The first pacing slot after now. -/
def Dev.nextSlot (d : Dev) (t : TxInst) : Nat :=
  let start := d.windowStart t.convoy t.inst
  let k := (d.now - start) * t.slotDen / d.slotNum t + 1
  start + (k * d.slotNum t + t.slotDen - 1) / t.slotDen

/-- The block that an instance transmits next: one to be re-sent, else the next in ascending order that has been taken
over. -/
def Dev.nextBlock (d : Dev) (t : TxInst) : Option TxBlk :=
  let mine := d.txBlks.filter fun b => b.convoy == t.convoy && b.inst == t.inst
  match mine.find? fun b => b.again with
  | some b => some b
  | none => mine.find? fun b => b.sent.isNone && b.blk == t.sentCount

/-- An instance may transmit now: its window has begun and a pacing slot is free, or its window has ended (R441). -/
def Dev.slotOpen (d : Dev) (t : TxInst) : Bool :=
  decide (d.windowStart t.convoy t.inst ≤ d.now) && (decide (t.slotAt ≤ d.now) || decide (d.windowEnd t.convoy t.inst ≤ d.now))

/-- Transmit a block (and, after the last one of an instance, its SIGNAL). -/
def Dev.transmit (t : TxInst) (b : TxBlk) (d : Dev) : Dev :=
  let c := t.convoy
  let d1 := d.sendFrame c frameData t.inst b.blk t.blocks false b.again (leBytes 4096 b.data.toNat)
  let d2 := d1.noteBlock c t.inst b.blk b.again
  let mine (x : TxBlk) : Bool := x.convoy == c && x.inst == t.inst && x.blk == b.blk
  let d3 := { d2 with txBlks := updFirst mine (fun x => { x with sent := some d.now, again := false,
                                                                  resends := x.resends + if b.again then 1 else 0 }) d2.txBlks }
  let n' := if b.again then t.sentCount else t.sentCount + 1
  let d4 := d3.onTx c t.inst fun x => { x with sentCount := n', slotAt := d.nextSlot t }
  if n' = t.blocks ∧ !t.sigSent ∧ d.is (Reg.WMK_CV0.SIG_EN c) then
    (d4.sendFrame c frameSignal t.inst 0 0 false false (leBytes 2 (d.get (Reg.WMK_CV3.SIG_BCN c)) ++ leBytes 2 0 ++
      leBytes 4 (d.get (Reg.WMK_CV3.SIG_VALUE c)))).onTx c t.inst fun x => { x with sigSent := true }
  else d4

/-- A scheduled block of the port waits for a pacing slot of its open window (R485). -/
def Dev.slotWanted (d : Dev) (p : Nat) : Bool :=
  d.txInsts.any fun t => d.cvPort t.convoy == p && decide (d.windowStart t.convoy t.inst ≤ d.now) && (d.nextBlock t).isSome

/-- A pacing slot of a convoy: a block of its instances; a block of a serve, while no scheduled block of the port waits (R441, R485). -/
def Dev.blockTransmit (c : Nat) (m : Memory) (d : Dev) : Dev :=
  if !d.is Reg.WMK_CTL.WAYMARK_EN ∨ !d.linkOf c then d
  else
    match d.txInsts.find? fun t => t.convoy == c && d.slotOpen t && (d.nextBlock t).isSome with
    | some t =>
      match d.nextBlock t with
      | some b => d.transmit t b
      | none => d
    | none => if d.slotWanted (d.cvPort c) then d else d.serveTransmit c m

/-- Send ABORT to the peer of a convoy. -/
def Dev.sendAbort (c code : Nat) (d : Dev) : Dev := d.sendFrame c frameAbort 0 0 0 false false (leBytes 2 code)

/-- Convoys with an open instance: unacknowledged blocks, or a posted incomplete receive (R458). -/
def Dev.openConvoys (d : Dev) : List Nat :=
  dedup (d.txInsts.map (·.convoy) ++ (d.rxInsts.filter fun r => r.posted.isSome && !r.closed).map (·.convoy))

/-- A segment that stops sends ABORT to the peers of all its open instances (R458). -/
def Dev.abortAll (code : Nat) (d : Dev) : Dev := (d.openConvoys.filter fun c => !d.sideConvoy c).foldl (fun d c => d.sendAbort c code) d

/-- What an ACK does to one block that is still in the store (R455): freed if shown, to be re-sent if missing and last sent
long enough ago; a block that has used its re-sends raises WMK_RETRY_LIMIT. -/
def Dev.ackBlock (bits : Nat) (base : Nat) (b : TxBlk) (d : Dev) : Dev :=
  let mine (x : TxBlk) : Bool := x.convoy == b.convoy && x.inst == b.inst && x.blk == b.blk
  if base ≤ b.blk ∧ bitOf bits (b.blk - base) then
    { d with txBlks := d.txBlks.filter (fun x => !mine x) }.onTx b.convoy b.inst fun t => { t with acked := t.acked ++ [b.blk] }
  else
    match b.sent with
    | none => d
    | some t =>
      if d.now < t + d.get Reg.WMK_TIMERS.RESEND_GAP_NS then d
      else if max 1 (d.get Reg.WMK_TIMERS.RETRY_MAX) ≤ b.resends ∧ !d.sideConvoy b.convoy then
        ((d.wmkRecord 0x0701 b.convoy b.blk).sendAbort b.convoy 0x0701).raiseArrival b.owner 0x0701
      else { d with txBlks := updFirst mine (fun x => { x with again := true }) d.txBlks }

/-- An ACK of a MIRROR frame: shown, it is free; missing and sent long enough ago, it is sent again; one that has used its re-sends raises
WMK_RETRY_LIMIT (R455, R462). -/
def Dev.mirAcked (n : Nat) (shown : Bool) (d : Dev) : Dev :=
  match d.mir.unacked.find? fun x => x.inst == n with
  | none => d
  | some x =>
    if shown then
      { d with mir := { d.mir with unacked := d.mir.unacked.filter fun x => x.inst != n } }.put (Reg.WMK_CV7.INSTANCES 511)
        (d.get (Reg.WMK_CV7.INSTANCES 511) + 1)
    else if d.now < x.sent + d.get Reg.WMK_TIMERS.RESEND_GAP_NS then d
    else if max 1 (d.get Reg.WMK_TIMERS.RETRY_MAX) ≤ x.resends then
      ((d.wmkRecord 0x0701 511 0).sendAbort 511 0x0701).raiseArrival noOwner 0x0701
    else
      let l := d.mir.unacked.map fun (y : MirOut) => if y.inst = n then { y with sent := d.now, resends := y.resends + 1 } else y
      let d1 : Dev := { d with mir := { d.mir with unacked := l } }
      ((d1.sendMirror n true x.payload).count (Reg.WMK_P_RESENDS.COUNT d.mir.port) 1).tally HealthMs.block

/-- A received ACK (R455, R457, R460, R462, R485). -/
def Dev.ackFrame (f : Frame) (bitmap : BitVec 512) (d : Dev) : Dev :=
  if f.convoy = 511#9 ∧ d.is Reg.WMK_CTL.WAYMARK_EN ∧ f.intact then
    ({ d with heard := kset 0 d.heard f.src.toNat d.now } : Dev).mirAcked f.num.toNat (f.block.toNat = 0 ∧ bitOf bitmap.toNat 0)
  else match d.takeFrame f with
  | none => d.dropFrame f false
  | some d1 =>
    let c := f.convoy.toNat
    let n := f.num.toNat
    match d1.txInsts.find? fun t => t.convoy == c && t.inst == n with
    | none => d1.serveAck c n bitmap.toNat f.block.toNat
    | some _ =>
      let d2 := (d1.txBlks.filter fun b => b.convoy == c && b.inst == n).foldl (fun d b => d.ackBlock bitmap.toNat f.block.toNat b) d1
      let d3 := d2.onTx c n fun t => { t with pace90 := t.pace90 || f.echo }
      let d4 := match d3.txInsts.find? fun t => t.convoy == c && t.inst == n with
        | some t =>
          if t.blocks ≤ t.acked.length then
            { d3 with txInsts := d3.txInsts.filter fun t => !(t.convoy == c && t.inst == n) }.put (Reg.WMK_CV7.INSTANCES c)
              (d3.get (Reg.WMK_CV7.INSTANCES c) + 1)
          else d3
        | none => d3
      d4.updStores (d.cvPort c)

/-- A received SIGNAL (R460). -/
def Dev.signalFrame (f : Frame) (bcn : Nat) (v : BitVec 32) (d : Dev) : Dev :=
  match d.takeFrame f with
  | none => d.dropFrame f false
  | some d1 =>
    let c := f.convoy.toNat
    let n := f.num.toNat
    if n < kget 0 d.rxLow c then d1.applySignal c n (bcn, v)
    else if (d1.rx c n).any (fun r => r.closed) then d1.applySignal c n (bcn, v)
    else d1.onRx c n fun r => { r with signal := some (bcn, v) }

/-- WMK_PEER_LOST (R458): the segment stops where the fault is met. -/
def Dev.peerLost (c : Nat) (d : Dev) : Dev :=
  if d.sideConvoy c then d else (d.wmkRecord 0x0703 c 0).raiseArrival noOwner 0x0703

/-- A received ABORT. -/
def Dev.abortFrame (f : Frame) (d : Dev) : Dev :=
  match d.takeFrame f with
  | none => d.dropFrame f false
  | some d1 =>
    match d1.openConvoys.find? fun c => d1.cvPeer c == d1.cvPeer f.convoy.toNat && !d1.sideConvoy c with
    | some c => d1.peerLost c
    | none => d1

/-- PEER_TIMEOUT in ns. -/
def Dev.peerTimeout (d : Dev) : Nat := 1000 * d.get Reg.WMK_TIMERS.PEER_TIMEOUT

/-- No frame from a peer for PEER_TIMEOUT while an instance with it is open. -/
def Dev.peerSilent (c : Nat) (d : Dev) : Dev :=
  if d.openConvoys.contains c ∧ kget 0 d.heard (d.cvPeer c) + d.peerTimeout ≤ d.now then d.peerLost c else d

/-- A KEEPALIVE to a joined peer to which nothing was sent for a quarter of PEER_TIMEOUT. -/
def Dev.keepalive (c : Nat) (d : Dev) : Dev :=
  if d.is (Reg.WMK_CV0.JOINED c) ∧ kget 0 d.said (d.cvPeer c) + d.peerTimeout / 4 ≤ d.now then
    d.sendFrame c frameKeepalive 0 0 0 false false []
  else d

/-- A new epoch: every convoy's instance count starts from 0 (R432). -/
def Dev.wmkEpoch (d : Dev) : Dev :=
  let side := d.sideConvoy
  let d1 := { d with wmkIssued := d.wmkIssued.filter (fun x => side x.1), txRows := d.txRows.filter (fun r => side r.convoy),
                     txBlks := d.txBlks.filter (fun b => side b.convoy), txInsts := d.txInsts.filter (fun x => side x.convoy),
                     rxInsts := d.rxInsts.filter (fun x => side x.convoy), rxBlks := d.rxBlks.filter (fun b => side b.convoy),
                     rxLow := d.rxLow.filter (fun x => side x.1), wmkSignalled := d.wmkSignalled.filter (fun x => side x.1) }
  (List.range 8).foldl (fun d p => d.updStores p) ((List.range 512).foldl (fun d c => d.put (Reg.WMK_CV7.INSTANCES c) 0) d1)

/-- A tenancy switch sends ABORT for every open instance of the outgoing tenancy and discards its blocks (R459). -/
def Dev.wmkSwitch (t : Nat) (d : Dev) : Dev :=
  let own (c : Nat) : Bool := d.get (Reg.WMK_CV0.TENANCY c) == t
  let d1 := (d.openConvoys.filter own).foldl (fun d c => d.sendAbort c 0) d
  let d2 := { d1 with txRows := d1.txRows.filter (fun r => !own r.convoy), txBlks := d1.txBlks.filter (fun b => !own b.convoy),
                      txInsts := d1.txInsts.filter (fun x => !own x.convoy), rxInsts := d1.rxInsts.filter (fun x => !own x.convoy),
                      rxBlks := d1.rxBlks.filter (fun b => !own b.convoy) }
  (List.range 8).foldl (fun d p => d.updStores p) d2

end Sys2Proof.Machine
end

