-- ==== Sys2Proof/Machine/Session.lean ====
section
/-! DEFINITION. What hosts do with Beacons, waits, session slots, messages, rings and tenancies (R380 to R420, R498, R598). -/

namespace Sys2Proof.Machine

/-! ### BAR2 (R380, R382) -/

/-- A BAR2 write that sets a Beacon. -/
def Dev.hostSet (b bcn v : Nat) (d : Dev) : Dev :=
  match d.acting b with
  | some t => if d.ownsBeacon t bcn then d.signalNow sigHost t bcn true (BitVec.ofNat 32 v) else d
  | none => d

/-- A BAR2 write that adds to a Beacon. -/
def Dev.hostAdd (b bcn v : Nat) (d : Dev) : Dev :=
  match d.acting b with
  | some t => if d.ownsBeacon t bcn then d.signalNow sigHost t bcn false (BitVec.ofNat 32 v) else d
  | none => d

/-- Byte of BAR2 as the host of a binding reads it: the Beacons of its tenancy as the slots stand, 0 outside its range. -/
def Dev.bar2Byte (d : Dev) (b off : Nat) : Byte :=
  match d.acting b with
  | some t => if d.ownsBeacon t (off / 8) then BitVec.ofNat 8 (bitsOf (d.beaconView (off / 8)) (8 * (off % 8)) 8) else 0#8
  | none => 0#8

/-- A BAR2 read of `n` bytes, of any width: the addressed bytes, in address order. The table has no row for a read: it changes nothing. -/
def Dev.bar2Read (d : Dev) (b off n : Nat) : List Byte := (List.range n).map fun k => d.bar2Byte b (off + k)

/-! ### Host waits (R387) -/

/-- A write of BCN_HWAITn_B with ARM = 1. The wait latches what BCN_HWAITn_A holds; its tag is the register's TAG field, so
it follows a write while the wait is registered. A condition that already holds releases it at once. -/
def Dev.armWait (b n tag : Nat) (d : Dev) : Dev :=
  match d.acting b with
  | none => d
  | some t =>
    if n / 16 ≠ t then d
    else
      let d1 := d.put (Reg.BCN_HWAIT_B.TAG n) tag
      if d.get (Reg.BCN_HWAIT_B.STATUS n) = 1 then
        { d1 with hwaits := d1.hwaits.map fun w => if w.n = n then { w with tag := tag } else w }
      else
        let bcn := d.get (Reg.BCN_HWAIT_A.BEACON n)
        if !d.ownsBeacon t bcn then d1
        else
          let w : HWait := { n := n, ten := t, bcn := bcn, take := d.is (Reg.BCN_HWAIT_A.MODE n),
                             target := BitVec.ofNat 32 (d.get (Reg.BCN_HWAIT_A.TARGET n)), wd := d.is (Reg.BCN_HWAIT_A.WD_EN n),
                             vector := d.get (Reg.BCN_HWAIT_A.VECTOR n), tag := tag, waited := 0 }
          ({ d1 with hwaits := waitInsert w d1.hwaits }.put (Reg.BCN_HWAIT_B.STATUS n) 1).release bcn

/-- The watchdog ends a host wait (R388). -/
def Dev.waitTimeout (n : Nat) (d : Dev) : Dev :=
  let lim := d.get Reg.BCN_WD_LIMIT.NS
  match d.hwaits.find? fun w => w.n == n && w.wd && decide (lim < w.waited) with
  | none => d
  | some w =>
    if lim = 0 then d
    else (((d.blockFault noOwner 0x0601 (!d.is Reg.BCN_EVENT.WD_TIMEOUT)).wdTimeout w.ten w.bcn w.tag w.n w.take)).endWait w 3

/-! ### Commands and their completion records (R398, R400) -/

/-- A command or message of a tenancy is refused. -/
def Dev.sesRefuse (t : Nat) (d : Dev) : Dev := d.event (Reg.SES_EVENT.CMD_REFUSED t)

/-- A tenancy may be owed another reply (R400). -/
def Dev.mayOwe (d : Dev) (t : Nat) : Bool := !d.is (Reg.SES_RING_CFG.ENABLE t) || decide (kget 0 d.repliesOwed t < 4)

/-- The completion record of an accepted command: a reply record with the fault code, or 0, as its payload; its tag is stated
nowhere, so it is a free value (notes/assumptions/23.md). -/
def Dev.complete (t code : Nat) (d : Dev) : Dev :=
  let (k, d1) := d.next
  d1.reply { ten := t, kind := 3, head := Config.freeNat k % 2 ^ 24, sender := 0xFF, payload := leBytes 4 code, reply := true,
             credit := none }

/-! ### Session slots (R404, R410, R598) -/

/-- Free a slot: every word 0. -/
def Dev.freeSlot (slot : Nat) (d : Dev) : Dev := { d with slots := kfilter (fun k => k / 32 != slot) d.slots }

/-- Word 0 with another STATE. -/
def setState (w st : Nat) : BitVec 32 := BitVec.ofNat 32 (w / 4 * 4 + st)

/-- A slot operation takes effect; `idle` says that no segment runs. -/
def Dev.applySlot (idle : Bool) (op : SlotOp) (d : Dev) : Dev :=
  match op with
  | .bind t slot => if d.slotState slot = 0 then (d.setSlotWord slot 0 (BitVec.ofNat 32 (1 + 16 * t))).complete t 0 else d
  | .unbind t slot =>
    if d.slotState slot ≠ 0 ∧ d.slotTen slot = t then
      (if idle then d.freeSlot slot else d.setSlotWord slot 0 (setState (d.slotWord slot 0).toNat 2)).complete t 0
    else d
  | .write t slot w v =>
    if d.slotState slot ≠ 0 ∧ d.slotTen slot = t then
      (if w = 0 then d.setSlotWord slot 0 (BitVec.ofNat 32 ((d.slotWord slot 0).toNat % 2 ^ 8 + bitsOf v.toNat 8 8 * 2 ^ 8))
       else d.setSlotWord slot w v)
    else d

/-- A boundary, or the end of a run: slots in STATE 2 are freed, then what waits takes effect in the order written. -/
def Dev.applySlots (idle : Bool) (d : Dev) : Dev :=
  let d1 := (List.range 1024).foldl (fun d s => if d.slotState s = 2 then d.freeSlot s else d) d
  let d2 := d1.slotOps.foldl (fun d op => d.applySlot idle op) { d1 with slotOps := [] }
  if idle then (List.range 1024).foldl (fun d s => if d.slotState s = 2 then d.freeSlot s else d) d2 else d2

/-- A slot operation waits for the boundary, or takes effect at once where no segment is running. -/
def Dev.queueSlot (op : SlotOp) (d : Dev) : Dev :=
  if d.running then { d with slotOps := d.slotOps ++ [op] } else d.applySlot true op

/-- BIND. -/
def Dev.bindSlot (b slot : Nat) (d : Dev) : Dev :=
  match d.acting b with
  | none => d
  | some t =>
    let pending := d.slotOps.any fun o => match o with
      | .bind _ s => s == slot
      | _ => false
    if !d.mayOwe t ∨ d.slotState slot ≠ 0 ∨ pending then d.sesRefuse t else (d.owe t).queueSlot (.bind t slot)

/-- UNBIND. -/
def Dev.unbindSlot (b slot : Nat) (d : Dev) : Dev :=
  match d.acting b with
  | none => d
  | some t =>
    let pending := d.slotOps.any fun o => match o with
      | .unbind _ s => s == slot
      | _ => false
    if !d.mayOwe t ∨ d.slotState slot ≠ 1 ∨ d.slotTen slot ≠ t ∨ pending then d.sesRefuse t
    else (d.owe t).queueSlot (.unbind t slot)

/-- A host write of SES_SLOT_WORDt_w: the slot that SES_SLOT_SELt selects; a free slot, or one of another tenancy, takes no
write. -/
def Dev.slotWordWrite (b t w : Nat) (v : BitVec 32) (d : Dev) : Dev :=
  let slot := d.get (Reg.SES_SLOT_SEL.SLOT t)
  if d.acting b ≠ some t ∨ d.slotState slot = 0 ∨ d.slotTen slot ≠ t then d else d.queueSlot (.write t slot w v)

/-! ### Tenancies (R382, R411, R412, R498) -/

/-- The configuration that SES_TEN registers hold for a tenancy. -/
def Dev.tenRegs (d : Dev) (t : Nat) : Ten :=
  { enable := d.is (Reg.SES_TEN_CFG.ENABLE t), port := d.get (Reg.SES_TEN_CFG.PORT t), prio := d.get (Reg.SES_TEN_CFG.PRIO t),
    bcnBase := d.get (Reg.SES_TEN_BCN.BASE t), bcnCount := d.get (Reg.SES_TEN_BCN.COUNT t),
    regions := ((List.range 4).filter fun k => d.is (Reg.SES_TEN_REGION.SIZE t k)).map fun k =>
      (d.get (Reg.SES_TEN_REGION.BASE t k) * 2 ^ 21, d.get (Reg.SES_TEN_REGION.SIZE t k) * 2 ^ 21),
    save := d.get (Reg.SES_TEN_SAVE.ADDR t) }

/-- TEN_APPLY may apply the configuration. -/
def Dev.tenOk (d : Dev) (t : Nat) (x : Ten) : Bool :=
  !(d.resident == some t && d.running) && decide (x.bcnBase + x.bcnCount ≤ 256) &&
    (!x.enable || (decide (x.port < 16) && d.is (Reg.HP_BIND.VALID x.port))) &&
    (List.range 16).all fun u =>
      let y := kget {} d.tens u
      u == t || (!(x.enable && y.enable && x.port == y.port) &&
        (x.bcnCount == 0 || y.bcnCount == 0 || decide (x.bcnBase + x.bcnCount ≤ y.bcnBase) || decide (y.bcnBase + y.bcnCount ≤ x.bcnBase)))

/-- HP_VIEW of every view follows the enabled tenancies. -/
def Dev.updViews (d : Dev) : Dev :=
  (List.range 16).foldl (fun d v =>
    match (List.range 16).find? fun t => (kget {} d.tens t).enable && (kget {} d.tens t).port == v with
    | some t => (d.put (Reg.HP_VIEW.TEN_VALID v) 1).put (Reg.HP_VIEW.TENANCY v) t
    | none => (d.put (Reg.HP_VIEW.TEN_VALID v) 0).put (Reg.HP_VIEW.TENANCY v) 0) d

/-- TEN_APPLY. -/
def Dev.tenApply (b t : Nat) (d : Dev) : Dev :=
  match d.acting b with
  | none => d
  | some me =>
    let x := d.tenRegs t
    if me ≠ 0 then d.sesRefuse me
    else if !d.mayOwe 0 ∨ !d.tenOk t x then d.sesRefuse 0
    else (({ d with tens := kset {} d.tens t x }.updViews).owe 0).complete 0 0

/-- The pending request that wins (R413): higher PRIO, then lower tenancy. -/
def Dev.winner (d : Dev) : Option Nat :=
  d.switchReqs.foldl (fun w t =>
    match w with
    | none => some t
    | some u =>
      let pu := (kget {} d.tens u).prio
      let pt := (kget {} d.tens t).prio
      if pu < pt ∨ (pu = pt ∧ t < u) then some t else some u) none

/-- SES_STATUS follows the requests and the resident tenancy. -/
def Dev.updSession (d : Dev) : Dev :=
  d |>.putB Reg.SES_STATUS.SWITCH_PENDING (!d.switchReqs.isEmpty) |>.put Reg.SES_STATUS.REQUESTER (d.winner.getD 0)
    |>.putB Reg.SES_STATUS.RESIDENT_VALID d.resident.isSome |>.put Reg.SES_STATUS.RESIDENT (d.resident.getD 0)

/-- A switch request of a tenancy. -/
def Dev.requestSwitch (t : Nat) (d : Dev) : Dev :=
  { d with switchReqs := d.switchReqs.filter (· ≠ t) ++ [t] }.updSession

/-- SWITCH: a request of an active tenancy; the resident one is answered at once. -/
def Dev.switchCmd (b : Nat) (d : Dev) : Dev :=
  match d.acting b with
  | none => d
  | some t =>
    if !(kget {} d.tens t).enable ∨ !d.mayOwe t ∨ d.switchOwed.contains t then d.sesRefuse t
    else if d.resident = some t then (d.owe t).complete t 0
    else ({ d with switchOwed := d.switchOwed ++ [t] }.owe t).requestSwitch t

/-! ### Host messages (R390, R392, R396) -/

/-- The message that a tenancy's SES_MSG registers hold. -/
def Dev.hostMsg (d : Dev) (t : Nat) : Msg :=
  let n := d.get (Reg.SES_MSG_CTL.LEN t) + 1
  let data := (List.range 8).foldr (fun k a => d.get (Reg.SES_MSG_DATA.BYTES t k) + 2 ^ 64 * a) 0
  { sender := 0xFE, dest := d.get (Reg.SES_MSG_DEST.SPACE t) * 2 ^ 21 + d.get (Reg.SES_MSG_DEST.INDEX t),
    tag := d.get (Reg.SES_MSG_CTL.TAG t), len := n, reply := false, payload := BitVec.ofNat 512 (bitsOf data 0 (8 * n)), ten := t,
    receipt := decide (n < 64) && bitsOf data 504 8 == 1 }

/-- The destination is a core row of the tenancy's resident Route. -/
def Dev.msgToCore (d : Dev) (m : Msg) : Bool :=
  bitsOf m.dest 21 3 == 0 && d.rt.loaded && d.rt.tenancy == m.ten && d.is (Reg.CORE_STATUS.PLACED (bitsOf m.dest 13 8)) &&
    decide (bitsOf m.dest 0 10 ≤ 575)

/-- The destination is a combining entry that the tenancy owns. -/
def Dev.msgToComb (d : Dev) (m : Msg) : Bool :=
  bitsOf m.dest 21 3 == 7 && decide (0x1FFE00 ≤ bitsOf m.dest 0 21 ∧ bitsOf m.dest 0 21 < 0x1FFF00) &&
    (let e := kget {} d.comb (bitsOf m.dest 0 21 - 0x1FFE00); e.valid && e.owner == m.ten)

/-- Send a message that may be sent. -/
def Dev.postMsg (m : Msg) (d : Dev) : Dev :=
  let d1 := if m.receipt then d.owe m.ten else d
  ({ d1 with hostMsgs := d1.hostMsgs ++ [m] }.put (Reg.SES_MSG_CTL.BUSY m.ten) 1).hostForward

/-- A write of SES_MSG_CTL. A message of a tenancy that is not resident to a core row is a switch request, and goes on once the
tenancy is resident. -/
def Dev.sendMsg (b t ctl : Nat) (d : Dev) : Dev :=
  if d.acting b ≠ some t then d
  else
    let d1 := (d.put (Reg.SES_MSG_CTL.LEN t) (bitsOf ctl 24 6)).put (Reg.SES_MSG_CTL.TAG t) (bitsOf ctl 0 24)
    if !bitOf ctl 31 ∨ d.is (Reg.SES_MSG_CTL.BUSY t) then d1
    else
      let m := d1.hostMsg t
      if m.receipt ∧ !d.mayOwe t then d1.sesRefuse t
      else if d.msgToComb m then d1.postMsg m
      else if d.resident ≠ some t ∧ bitsOf m.dest 21 3 = 0 ∧ (kget {} d.tens t).enable then
        ({ d1 with afterSwitch := d1.afterSwitch ++ [(t, AfterSwitch.message m)] }.put (Reg.SES_MSG_CTL.BUSY t) 1).requestSwitch t
      else if d.msgToCore m then d1.postMsg m
      else d1.sesRefuse t

/-! ### Rings (R397) -/

/-- A write of SES_RING_CFG. A size outside 12 to 20 stays unchanged (R554). -/
def Dev.ringCfg (b t cfg : Nat) (d : Dev) : Dev :=
  if d.acting b ≠ some t then d
  else
    let n := bitsOf cfg 0 5
    let d0 := d.putB (Reg.SES_RING_CFG.ENABLE t) (bitOf cfg 31)
    let d1 := if 12 ≤ n ∧ n ≤ 20 then d0.put (Reg.SES_RING_CFG.LOG2SIZE t) n else d0.count Reg.DBG_INPUT_REJ.COUNT 1
    if bitOf cfg 31 then (d1.put (Reg.SES_RING_PROD.INDEX t) 0).put (Reg.SES_RING_CONS.INDEX t) 0 else d1

end Sys2Proof.Machine
end

