-- ==== Sys2Proof/Machine/Mirror.lean ====
section
/-! DEFINITION. Mirror: folds, interval digests, comparison, variance bytes (R370 to R377, R462). -/

namespace Sys2Proof.Machine

/-! ### Folds (R370, R377) -/

/-- The order in which the events of a core are folded: tick, kind, lane, location. -/
def Seen.rank (e : Seen) : List Nat := [e.tick, e.kind, e.lane, e.loc]

/-- Enter an event in order; among equals it comes last. -/
def seenInsert (e : Seen) : List Seen → List Seen
  | [] => [e]
  | x :: l => if rankLt e.rank x.rank then e :: x :: l else x :: seenInsert e l

/-- Events in the order in which they are folded. -/
def seenSort (l : List Seen) : List Seen := l.foldl (fun s e => seenInsert e s) []

/-- The CRC of an event's data. -/
def Seen.crc (e : Seen) : Nat := (crc32c e.data).toNat

/-- The word that an event folds in. -/
def Seen.word (e : Seen) : BitVec 64 :=
  BitVec.ofNat 64 (e.crc * 2 ^ 32 + e.tick % 256 * 2 ^ 24 + e.kind * 2 ^ 20 + e.loc % 2 ^ 20)

/-- One step of a fold. -/
def foldStep (f : BitVec 64) (e : Seen) : BitVec 64 := f.rotateLeft 1 ^^^ e.word

/-- The folds of all 256 cores over the events of an interval; an absent core folds nothing. -/
def mirFolds (l : List Seen) : List (BitVec 64) :=
  (List.range 256).map fun c => (seenSort (l.filter fun e => e.core == c)).foldl foldStep 0#64

/-- The interval digest (R372). -/
def mirDigest (folds : List (BitVec 64)) (pass interval : Nat) : BitVec 384 :=
  BitVec.ofNat 384 (ofLeBytes (sha384 ((folds.flatMap fun f => leBytes 8 f.toNat) ++ leBytes 8 pass ++ leBytes 8 interval)))

/-- MODE in force: trace acts as detail unless debug feature 4 is enabled (R534). -/
def Dev.mirMode (d : Dev) : Nat := if d.mir.mode = 2 ∧ !bitOf (d.get Reg.SEC_STATUS.FEATURES) 4 then 1 else d.mir.mode

/-- The interval of a tick. -/
def Dev.intervalOf (d : Dev) (t : Nat) : Nat := t / 2 ^ d.mir.k

/-! ### Frames -/

/-- GLB_CORE_MAP as 32 bytes. -/
def Dev.coreMapBytes (d : Dev) : List Byte := (List.range 4).flatMap fun k => leBytes 8 (d.get (Reg.GLB_CORE_MAP.IN_SERVICE k))

/-- The arm frame. -/
def Dev.sendArm (d : Dev) : Dev :=
  d.mirFrame 5 0 (leBytes 48 d.rt.measure.toNat ++ leBytes 8 d.dsigNat ++ leBytes 2 (d.get Reg.GLB_LATID.LATID) ++
    leBytes 1 d.rt.placement ++ leBytes 1 (if d.mir.secondary then 1 else 0) ++ leBytes 4 0 ++ d.coreMapBytes)

/-! ### Comparison (R372, R375, R376) -/

/-- The lowest core whose folds differ. -/
def diffCore (a b : List (BitVec 64)) : Option Nat := (List.range 256).find? fun c => a.getD c 0#64 != b.getD c 0#64

/-- Write a digest into its six registers. -/
def Dev.putMirDigest (f : Nat → Fld) (x : BitVec 384) (d : Dev) : Dev := d.putDigest f (leBytes 48 x.toNat)

/-- A mismatch: the first is recorded; with STOP the segment stops and the peer is told. -/
def Dev.diverge (own peer : MirDigest) (d : Dev) : Dev :=
  if d.is Reg.MIR_EVENT.DIVERGED then d
  else
    let core := if d.mirMode = 0 then none else diffCore own.folds peer.folds
    let d1 := ((d |>.put Reg.MIR_DIV.PASS own.pass |>.put Reg.MIR_DIV.VALUE own.interval
      |>.putB Reg.MIR_DIV_CORE.VALID core.isSome |>.put Reg.MIR_DIV_CORE.CORE (core.getD 0)).putMirDigest Reg.MIR_DIGEST.BYTES
        own.digest).putMirDigest Reg.MIR_PEER_DIGEST.BYTES peer.digest
    let d2 := d1.event Reg.MIR_EVENT.DIVERGED
    if d.mir.stop then ((if d.running then d2.faultAt noOwner 0x020C d.faultTick else d2.blockFault noOwner 0x020C true)).mirFrame 4 0
      (leBytes 8 own.pass ++ leBytes 8 own.interval)
    else d2

/-- Both sides of an interval are equal. -/
def MirDigest.agrees (a b : MirDigest) (mode : Nat) : Bool := if mode = 0 then a.digest == b.digest else a.folds == b.folds

/-- UNMATCHED follows the own intervals that the peer has not matched. -/
def Dev.updUnmatched (d : Dev) : Dev := d.put Reg.MIR_STATUS.UNMATCHED (min 64 d.mir.own.length)

/-- Compare every interval of which both sides are held, oldest first. -/
def Dev.mirCompare (d : Dev) : Dev :=
  d.mir.own.foldl (fun d a =>
    match d.mir.peer.find? fun b => b.pass == a.pass && b.interval == a.interval with
    | none => d
    | some b =>
      let d1 := { d with mir := { d.mir with own := eraseFirst a d.mir.own, peer := eraseFirst b d.mir.peer } }.updUnmatched
      if a.agrees b d.mirMode then d1 else d1.diverge a b) d

/-- One side of an interval has come from the peer. -/
def Dev.mirReceive (x : MirDigest) (d : Dev) : Dev :=
  if !d.is Reg.MIR_STATUS.ACTIVE then d
  else { d with mir := { d.mir with peer := d.mir.peer ++ [x] } }.mirCompare

/-- The trace (R377): events of the traced core inside the window, up to 512 records. -/
def Dev.traceEvents (l : List Seen) (d : Dev) : Dev :=
  if d.mirMode ≠ 2 then d
  else
    let es := seenSort (l.filter fun e => e.core == d.mir.traceCore)
    let d1 := es.foldl (fun (d : Dev) e =>
      if 512 ≤ d.mir.trace.length then d
      else
        let n := d.mir.trace.length
        let r := BitVec.ofNat 128 (e.tick % 2 ^ 40 + e.kind * 2 ^ 40 + e.loc % 2 ^ 20 * 2 ^ 44 + e.crc * 2 ^ 64 + n * 2 ^ 96)
        let d' : Dev := { d with mir := { d.mir with trace := d.mir.trace ++ [r] } }
        if n = 511 then d'.event Reg.MIR_EVENT.TRACE_FULL else d') d
    if d1.mir.window ∧ d1.mir.pass % 2 ^ 24 = d1.get Reg.MIR_WIN_START.PASS ∧ d1.get Reg.MIR_WIN_END.VALUE ≤ d1.run.tick ∧
        d1.mir.trace.length < 512 then d1.event Reg.MIR_EVENT.TRACE_DONE
    else d1

/-- An interval ends: its folds, its digest, the frame, the comparison, and the hold of R375. -/
def Dev.mirInterval (d : Dev) : Dev :=
  let n := d.mir.interval
  let mine (e : Seen) : Bool := d.intervalOf e.tick == n
  let es := d.seen.filter mine
  let folds := mirFolds es
  let x : MirDigest := { pass := d.mir.pass, interval := n, digest := mirDigest folds d.mir.pass n, folds := folds }
  let d1 := { d with seen := d.seen.filter (fun e => !mine e) }.traceEvents es
  let d2 := if 64 ≤ d.mir.own.length then d1.hold 5 .mirror else d1
  let d3 := { d2 with mir := { d2.mir with own := d2.mir.own ++ [x], interval := n + 1 } }.updUnmatched
  let d4 := if d.mirMode = 0 then d3.mirFrame 1 0 (leBytes 8 x.pass ++ leBytes 8 n ++ leBytes 48 x.digest.toNat)
    else d3.mirFrame 2 0 (leBytes 8 x.pass ++ leBytes 8 n ++ folds.flatMap fun f => leBytes 8 f.toNat)
  d4.mirCompare

/-- No row whose due tick lies before tick `t` is still incomplete, so the events before `t` are known. -/
def Dev.landedBefore (d : Dev) (t : Nat) : Bool := d.run.xfers.all fun x => decide (t ≤ x.due) || x.complete || x.dropped

/-- The current interval is over at the tick reached. -/
def Dev.intervalDue (d : Dev) : Bool :=
  d.is Reg.MIR_STATUS.ACTIVE && decide (d.run.phase = .segment) && decide (d.mir.interval < d.intervalOf d.run.tick) &&
    d.landedBefore ((d.mir.interval + 1) * 2 ^ d.mir.k)

/-- MIRROR_INTERVAL_END. -/
def Dev.mirrorIntervalEnd (d : Dev) : Dev := if d.intervalDue then d.mirInterval else d

/-- A pass begins with a segment. -/
def Dev.mirPass (d : Dev) : Dev :=
  if !d.is Reg.MIR_STATUS.ACTIVE then d
  else { d with seen := [], mir := { d.mir with on := true, pass := if d.mir.on then d.mir.pass + 1 else 0, interval := 0 } }

/-- The last interval of a pass closes at the segment's end. -/
def Dev.mirPassEnd (d : Dev) : Dev := if d.is Reg.MIR_STATUS.ACTIVE then d.mirInterval else d

/-- Disarm at a boundary once ENABLE is 0. -/
def Dev.mirDisarm (d : Dev) : Dev :=
  if d.is Reg.MIR_CTL.ENABLE ∨ !d.is Reg.MIR_STATUS.ARMED then d
  else
    { d with mir := { trace := d.mir.trace, unacked := d.mir.unacked, got := d.mir.got }, seen := [] } |>.put Reg.MIR_STATUS.ARMED 0
      |>.put Reg.MIR_STATUS.ACTIVE 0 |>.put Reg.MIR_STATUS.UNMATCHED 0

/-! ### Variance bytes (R374) -/

/-- Bytes of the primary reach the secondary: the next incomplete row of the transfer they belong to, or the store of bytes
for occurrences that have not come yet. -/
def Dev.takeVariance (tag lin : Nat) (bytes : List Byte) (d : Dev) : Dev :=
  match d.run.xfers.find? fun x => decide (x.path = .peer) && x.owner.tag == tag && x.lin == lin && !x.complete && !x.dropped with
  | some x =>
    let v := ofLeBytes bytes
    let d1 := (d.landHalf x 0 (bitsOf v 0 2048)).count Reg.MIR_SUBST.COUNT 1
    match d1.run.xfers.find? fun y => y.owner.same x.owner && y.j == x.j && !y.dropped with
    | some y => d1.landHalf y 1 (bitsOf v 2048 2048)
    | none => d1
  | none => { d with mir := { d.mir with variance := d.mir.variance ++ [(tag, lin, bytes)] } }

def Dev.mirrorVariance (tag lin : Nat) (bytes : List Byte) (d : Dev) : Dev :=
  if d.is Reg.MIR_STATUS.ACTIVE && d.mir.secondary then d.takeVariance tag lin bytes else d

/-- Bytes that came before their transfer was issued go into its rows. -/
def Dev.drainVariance (d : Dev) : Dev :=
  d.mir.variance.foldl (fun (d : Dev) v =>
    if d.run.xfers.any fun x => decide (x.path = .peer) && x.owner.tag == v.1 && x.lin == v.2.1 && !x.complete && !x.dropped then
      let d1 : Dev := { d with mir := { d.mir with variance := eraseFirst v d.mir.variance } }
      d1.takeVariance v.1 v.2.1 v.2.2
    else d) d

/-- A stop frame of the peer. -/
def Dev.mirrorStop (d : Dev) : Dev :=
  if !d.is Reg.MIR_STATUS.ACTIVE then d
  else if d.running then d.faultAt noOwner 0x020C d.faultTick else d.blockFault noOwner 0x020C true

/-! ### Arming (R373) -/

/-- The Route keeps reasons 6 and 7. -/
def Dev.mirRouteOk (d : Dev) : Option Nat :=
  if d.rt.progs.any fun p => p.streams.any fun e => strKind e == 2 && !strRelaxed e then some 6
  else if d.rt.progs.any fun p => p.sb != 0#256 then some 7
  else none

/-- The first reason of R373 that fails. -/
def Dev.armReason (a : ArmInfo) (d : Dev) : Option Nat :=
  if a.measure ≠ d.rt.measure then some 1
  else if a.placement ≠ d.rt.placement then some 2
  else if a.dsig ≠ d.dsigNat then some 3
  else if a.latid ≠ d.get Reg.GLB_LATID.LATID ∧ !d.rt.envelope then some 4
  else if a.coreMap.toNat ≠ ofLeBytes d.coreMapBytes then some 5
  else match d.mirRouteOk with
    | some r => some r
    | none => if (a.role = 1) = d.mir.secondary then some 8 else none

/-- Arming fails. -/
def Dev.armFail (why : Nat) (d : Dev) : Dev :=
  ({ d with mir := { d.mir with arming := none } }.put Reg.MIR_STATUS.ARM_FAIL_WHY why).event Reg.MIR_EVENT.ARM_FAIL

/-- The arm frame of the peer settles an arming in progress. -/
def Dev.armSettle (a : ArmInfo) (d : Dev) : Dev :=
  let d0 := d.put Reg.MIR_STATUS.PEER_UP 1
  match d0.armReason a with
  | some r => d0.armFail r
  | none =>
    ({ d0 with seen := [], mir := { d0.mir with arming := none, on := false, own := [], peer := [], variance := [], trace := [] } }.put
      Reg.MIR_STATUS.ARMED 1).put Reg.MIR_STATUS.ACTIVE 1

/-- MIR_CTL as a START takes it. -/
def Dev.mirTake (d : Dev) : Dev :=
  { d with mir := { d.mir with secondary := d.is Reg.MIR_CTL.ROLE, stop := d.is Reg.MIR_CTL.STOP, window := d.is Reg.MIR_CTL.WINDOW,
                               mode := d.get Reg.MIR_CTL.MODE, k := min 30 (max 8 (d.get Reg.MIR_CTL.K)),
                               port := d.get Reg.MIR_CTL.PORT, traceCore := d.get Reg.MIR_CTL.TRACE_CORE } }

end Sys2Proof.Machine
end

