-- ==== Sys2Proof/Machine/Loader.lean ====
section
/-! DEFINITION. The Route image, the checks of the loader in their order, and the installation of a Route (R86, R102 to R120,
R230, R235, R260, R262, R274, R300, R305, R383, R403, R437, R467, R485, R494, R513, R599). -/

namespace Sys2Proof.Machine

/-- The image as the loader reads it: `n` bytes at an offset, little-endian. -/
abbrev Img := Nat → Nat → Nat

/-- A check that fails: its fault code and the descriptor index it names. -/
abbrev Fail := Option (Nat × Nat)

def need (ok : Bool) (code desc : Nat) : Fail := if ok then none else some (code, desc)

/-- The first check of a list that fails. -/
def firstFail (l : List Fail) : Fail := l.findSome? id

def codeFormat : Nat := 0x0101
def codeSignature : Nat := 0x0102
def codeLatency : Nat := 0x0103
def codeAbsent : Nat := 0x0104
def codeCredit : Nat := 0x0105
def codeVariance : Nat := 0x0106
def codeLength : Nat := 0x0107
def codeFrequency : Nat := 0x0108
def codeSpec : Nat := 0x0109
def codeAddress : Nat := 0x010A

/-! ### The image (R111 to R115) -/

/-- The image header (R111). -/
structure ImgHead where
  flags : Nat
  latid : Nat
  maxOpp : Nat
  nseg : Nat
  nplace : Nat
  dsig : Nat
  len : Nat
  segOff : Nat
  placeOff : Nat
  deriving DecidableEq, Repr

def imgHead (g : Img) : ImgHead :=
  { flags := g 6 2, latid := g 8 2, maxOpp := g 0xA 1, nseg := g 0xB 1, nplace := g 0xC 1, dsig := g 0x10 8, len := g 0x18 4,
    segOff := g 0x1C 4, placeOff := g 0x20 4 }

def imgSegs (g : Img) (h : ImgHead) : List (BitVec 256) :=
  (List.range h.nseg).map fun k => BitVec.ofNat 256 (g (h.segOff + 32 * k) 32)

/-- A placement-table entry with its core directory and credit table (R113, R115). -/
structure Place where
  index : Nat
  cores : Nat
  reloc : Nat
  relayPad : Nat
  mask : Nat
  dirOff : Nat
  creditOff : Nat
  dir : List Nat
  credits : List (BitVec 32)
  rest : Nat
  deriving DecidableEq, Repr

def imgPlace (g : Img) (h : ImgHead) (p : Nat) : Place :=
  let b := h.placeOff + 64 * p
  { index := p, cores := g b 2, reloc := g (b + 2) 1, relayPad := g (b + 3) 1, mask := g (b + 8) 32, dirOff := g (b + 40) 4,
    creditOff := g (b + 4) 4, dir := (List.range (g b 2)).map fun k => g (g (b + 40) 4 + 8 * k) 8,
    credits := (List.range (g (b + 44) 4)).map fun k => BitVec.ofNat 32 (g (g (b + 4) 4 + 4 * k) 4), rest := g (b + 48) 16 }

/-- A core block (R114). -/
def imgProg (g : Img) (core b : Nat) : Prog :=
  let h := g b 64
  let nr := bitsOf h 16 16
  { core := core, sb := BitVec.ofNat 256 (bitsOf h 32 256),
    loops := (List.range 16).map fun k => BitVec.ofNat 512 (g (b + 64 + 64 * k) 64),
    streams := (List.range 64).map fun k => BitVec.ofNat 128 (g (b + 1088 + 16 * k) 16),
    mesh := (List.range nr).map fun k => BitVec.ofNat 128 (g (b + 2112 + 16 * k) 16),
    descs := (List.range (bitsOf h 0 16)).map fun k => BitVec.ofNat 256 (g (b + 2112 + 16 * nr + 32 * k) 32) }

def Place.progs (g : Img) (p : Place) : List Prog := p.dir.map fun e => imgProg g (bitsOf e 0 8) (bitsOf e 8 32)

/-- Bytes of a core block. -/
def blockLen (g : Img) (b : Nat) : Nat := 2112 + 16 * g (b + 2) 2 + 32 * g b 2

/-- Cores set in a mask. -/
def maskCores (mask : Nat) : List Nat := (List.range 256).filter (bitOf mask)

/-! ### LOAD_FORMAT: header, tables, nests (R105, R106, R111 to R114) -/

/-- Header and segment table. -/
def headOk (g : Img) (len : Nat) : Bool :=
  let h := imgHead g
  let segs := imgSegs g h
  decide (64 ≤ len) && g 0 4 == 0x54554F52 && g 4 2 == 1 && h.len == len && decide (h.flags < 4) && decide (h.maxOpp ≤ 4) &&
    decide (1 ≤ h.nseg) && decide (h.nseg ≤ 255) && decide (1 ≤ h.nplace) && decide (h.nplace ≤ 16) && g 0xD 3 == 0 &&
    g 0x24 28 == 0 && decide (h.segOff + 32 * h.nseg ≤ len) && decide (h.placeOff + 64 * h.nplace ≤ len) &&
    segs.all fun s =>
      decide (4 ≤ segLead s) && decide (segLead s ≤ 16) && decide (segSucc s ≤ 2) &&
      (segSucc s == 2 || decide (segSuccIdx s < h.nseg)) && decide (segGate s ≤ 2) &&
      bitsOf s.toNat 55 9 == 0 && bitsOf s.toNat 176 80 == 0

/-- A placement entry, its directory, credit table and core blocks. -/
def placeOk (g : Img) (len : Nat) (p : Place) : Bool :=
  let cs := p.dir.map fun e => bitsOf e 0 8
  p.rest == 0 && decide (p.reloc ≤ 1) && decide (6 ≤ p.relayPad) && decide (p.relayPad ≤ 24) &&
    p.cores == (maskCores p.mask).length && decide (p.dirOff + 8 * p.cores ≤ len) &&
    decide (p.creditOff + 4 * p.credits.length ≤ len) && (maskCores p.mask).all cs.contains && decide (cs.Nodup) &&
    p.credits.all (fun c => bitsOf c.toNat 24 8 == 0) &&
    p.dir.all fun e =>
      let b := bitsOf e 8 32
      bitsOf e 40 24 == 0 && decide (b + 64 ≤ len) && decide (b + blockLen g b ≤ len) && decide (g b 2 ≤ 2048) &&
        decide (g (b + 2) 2 ≤ 1024) && g (b + 36) 28 == 0

def levelOk (x : Nat) : Bool := bitsOf x 127 1 == 0 && (decide (bitsOf x 0 24 ≤ 1) || decide (1 ≤ bitsOf x 24 40))

/-- Loop, stream and mesh route tables (R90, R105, R106, R258). -/
def tablesOk (p : Prog) : Bool :=
  p.loops.getD 0 0#512 == 0#512 &&
    p.loops.all (fun n => (List.range 4).all fun j => levelOk (bitsOf n.toNat (128 * j) 128)) &&
    p.streams.all (fun e => decide (strKind e ≤ 3) && bitsOf e.toNat 102 26 == 0) &&
    p.mesh.all fun e => decide (meshKind e ≤ 2) && bitsOf e.toNat 3 13 == 0 && bitsOf e.toNat 64 64 == 0 &&
      (meshKind e != 0 || (meshCols e == 0 && meshRows e == 0))

/-! ### LOAD_FORMAT: descriptors (R82, R84, R86, R87, R93, R96) -/

/-- What an opcode takes: whether it streams, the spaces of A, B and D (none where the operand is unused; space 7 alone stands
for the none operand where an operand is optional), and the MOD and EXT bits it uses. -/
structure Form where
  stream : Bool
  a : List Nat
  b : List Nat
  dd : List Nat
  mod : Nat
  ext : Nat
  deriving DecidableEq, Repr

def mFmt : Nat := 0xF0000
def mRnd : Nat := 0xC000
def mExact : Nat := 0x2000
def mAcc : Nat := 0x1000
def mEpi : Nat := 0xF00
def mSub : Nat := 0xFF
/-- EXT bits of a random stream (R176). -/
def eRng : Nat := 0x3FFFFFF

/-- The opcodes of R96. -/
def opForm : Nat → Option Form
  | 0x01 => some ⟨true, [0], [], [], mSub, 0x1FFFF⟩
  | 0x02 => some ⟨true, [2], [], [], mSub, 0x1FFFF⟩
  | 0x03 => some ⟨true, [0], [], [1], 0, 0xFF⟩
  | 0x11 | 0x12 => some ⟨true, [], [1], [1], mFmt + mRnd + mExact + mAcc + mEpi, eRng⟩
  | 0x21 => some ⟨true, [], [], [1], 0, 0⟩
  | 0x22 => some ⟨true, [], [], [1], mFmt + mRnd + mExact + mAcc + mEpi, eRng⟩
  | 0x31 => some ⟨false, [1], [2, 7], [2], mFmt + mRnd + mEpi, eRng⟩
  | 0x32 => some ⟨true, [2], [2, 7], [2], mFmt + mRnd + mSub, eRng⟩
  | 0x33 => some ⟨true, [2], [], [2], mFmt + mRnd + mSub, 0⟩
  | 0x41 => some ⟨false, [1], [], [0, 2], mFmt + mRnd + mSub, 1⟩
  | 0x42 => some ⟨false, [1], [], [1], mFmt + mRnd + mSub, 0xFFFFFFFFFF⟩
  | 0x43 => some ⟨false, [1], [0, 7], [1], mFmt + mRnd + mSub, 0xFFFFFFFF⟩
  | 0x44 => some ⟨false, [1], [], [0], mFmt + mRnd, 0x3FFF⟩
  | 0x51 => some ⟨true, [2], [], [0], 0, 0⟩
  | 0x52 => some ⟨true, [2], [0, 7], [3], 0, 0⟩
  | 0x61 | 0x62 => some ⟨true, [0], [6], [0], 0, 0⟩
  | 0x63 => some ⟨true, [0], [6], [0], mFmt, 0⟩
  | 0x71 => some ⟨true, [0], [], [0], 0, 1⟩
  | 0x72 => some ⟨true, [], [], [0], 0, 1⟩
  | 0x81 => some ⟨false, [4], [], [], mSub, 0xFFFFFFFF⟩
  | 0x82 => some ⟨false, [0], [], [0, 7], 0, 0x3FFFFFFF⟩
  | 0x90 | 0x92 | 0x97 => some ⟨false, [], [], [], 0, 0⟩
  | 0x91 => some ⟨true, [0, 4], [0, 7], [], mSub, 0x3FFFFFFFF⟩
  | 0x93 | 0x94 => some ⟨false, [], [], [0], 0, 0x7F⟩
  | 0x95 => some ⟨false, [], [], [0], 0, 0xFF7F⟩
  | 0x96 => some ⟨false, [3], [], [], 0, 0x7FFF⟩
  | 0x98 => some ⟨false, [], [], [], 0, 0xFFFFFFFF⟩
  | 0xA1 => some ⟨false, [], [], [1], mFmt + mExact, 0xFFFFFF⟩
  | 0xA2 => some ⟨false, [1], [], [1], mRnd, eRng⟩
  | 0xA3 => some ⟨false, [], [], [1], 0, 0⟩
  | 0xB1 => some ⟨true, [3], [0, 7], [0], 0, 0⟩
  | 0xB2 => some ⟨true, [0], [0, 7], [3], 0, 0⟩
  | 0xB3 => some ⟨true, [0], [5], [0], 0, 0⟩
  | 0xB4 => some ⟨true, [0], [5], [0], mSub, 0⟩
  | _ => none

/-- Index bits that R87 names for a space are the only ones set. -/
def indexOk (space ix : Nat) : Bool :=
  match space with
  | 1 => decide (ix < 2 ^ 5)
  | 2 => decide (ix < 2 ^ 7)
  | 4 => decide (ix < 2 ^ 14)
  | 5 => decide (ix < 2 ^ 15)
  | 6 => decide (ix < 2 ^ 10)
  | _ => true

/-- An operand against the spaces its opcode takes. -/
def operandOk (spaces : List Nat) (op opc : Nat) : Bool :=
  let sp := op / 2 ^ 21
  let ix := op % 2 ^ 21
  if spaces.isEmpty then op == opNone
  else spaces.contains sp && (if sp = 7 then op == opNone || (opc == 0x82 && decide (0x1FFE00 ≤ ix ∧ ix < 0x1FFF10)) else indexOk sp ix)

/-- No bit outside a mask. -/
def within (x mask : Nat) : Bool := x &&& mask == x

/-- Whether operand B is present exactly where the form uses it (R186, R204, R206, R213, R408). -/
def bNeeded (p : Prog) (x : BitVec 256) : Option Bool :=
  let m := descMod x
  match descOpc x with
  | 0x31 => some (bitsOf m 8 4 != 0)
  | 0x32 => some (decide (m % 256 ≤ 6) || (m % 256 == 8 && decide (2 ≤ bitsOf m 16 4 ∧ bitsOf m 16 4 ≤ 6)))
  | 0x43 => some (decide (2 ≤ m % 4))
  | 0x52 | 0xB2 => some (strKind (p.streams.getD (descOpd x % 64) 0#128) == 3)
  | 0xB1 => some (strKind (p.streams.getD (descOpa x % 64) 0#128) == 3)
  | 0x91 => if bitOf (descExt x) 26 then some false else if descCount x = 0 then none else some true
  | _ => none

def drainFmts : List Nat := [0, 1, 7, 8, 9, 10, 11, 12, 13]

/-- Field values that each opcode takes. -/
def valuesOk (p : Prog) (x : BitVec 256) : Bool :=
  let m := descMod x
  let e := descExt x
  let fmt := bitsOf m 16 4
  let rnd := bitsOf m 14 2
  let epi := bitsOf m 8 4
  let sub := m % 256
  decide (fmt ≤ 13) && decide (rnd ≤ 2) &&
  match descOpc x with
  | 0x01 | 0x02 => decide (sub ≤ 3)
  | 0x03 => decide (descCount x ≤ 16)
  | 0x11 | 0x12 | 0x22 | 0xA2 => rnd == 2 || e == 0
  | 0x31 => (rnd == 2 || e == 0) && drainFmts.contains fmt && decide (epi ≤ (if fmt = 13 then 2 else 6))
  | 0x32 =>
    (rnd == 2 || e == 0) && decide (sub ≤ 9) &&
      (if sub = 8 then ((drainFmts.contains fmt && fmt != 13) || decide (2 ≤ fmt ∧ fmt ≤ 6)) && (rnd != 2 || decide (descCount x ≤ 32))
       else fmt == 0xB && rnd == 0)
  | 0x33 => decide (sub ≤ 8) && fmt == 0xB && rnd == 0
  | 0x41 => decide (sub ≤ 2) && (descOpd x / 2 ^ 21 == 2 || e == 0)
  | 0x42 => within sub 0xB && bitsOf e 0 31 != 0 && bitsOf e 23 8 != 255
  | 0x43 => within sub 0xF && (decide (2 ≤ sub % 4) || e == 0)
  | 0x44 => decide (1 ≤ bitsOf e 0 6 ∧ bitsOf e 0 6 ≤ 16) && decide (1 ≤ bitsOf e 6 8 ∧ bitsOf e 6 8 ≤ 128) && decide (bitsOf e 0 6 ≤ bitsOf e 6 8)
  | 0x63 => [0xB, 0xC, 0xD].contains fmt
  | 0x71 | 0x72 => if bitOf e 0 then chainPos p.core != 0 else chainPos p.core != 255
  | 0x81 => decide (sub ≤ 1)
  | 0x91 =>
    if bitOf e 26 then descOpa x / 2 ^ 21 == 4 && bitsOf e 24 2 == 0 && bitsOf e 27 7 == 0 && descCount x == 0 && sub == 0 else descOpa x / 2 ^ 21 == 0
  | 0x93 | 0x94 => decide (e ≤ 126)
  | 0x95 => decide (e % 128 ≤ 126) && decide (bitsOf e 8 8 ≤ 0xE)
  | 0xA1 => (bitOf m 13 && fmt == 13 && decide (descOpd x % 32 = 0 ∨ descOpd x % 32 = 4)) || bitsOf e 12 12 == 0
  | 0xA3 => decide (descOpd x % 32 < 8)
  | 0xB3 => decide (descCount x ≤ 128) && descOpb x % 1024 == 0
  | 0xB4 =>
    let w := bitsOf (descOpb x) 10 5
    decide (descCount x ≤ 128) && descOpb x % 1024 == 0 && decide (sub ≤ 1) &&
      (if sub = 1 then w == 1 || w == 6 else w != 0 && !(decide (2 ≤ w ∧ w ≤ 5)))
  | _ => true

/-- STEP.OPEN and STEP.COMMIT (R467). -/
def stepFormOk (low : Nat) (p : Prog) (x : BitVec 256) : Bool :=
  if descOpc x = 0x96 ∨ descOpc x = 0x97 then
    !descSpec x && descLoop x == 0 && p.core == low && (descOpc x == 0x97 || descIssue x == 0)
  else true

/-- The convoy of a descriptor's KIND 2 stream, and whether it sends (R437). -/
def descConvoy (p : Prog) (x : BitVec 256) : Option (BitVec 128 × Bool) :=
  let h := if descOpc x = 0xB1 then descOpa x % 64 else descOpd x % 64
  let e := p.streams.getD h 0#128
  if (descOpc x = 0xB1 ∨ descOpc x = 0xB2 ∨ descOpc x = 0x52) ∧ strKind e = 2 then some (e, descOpc x != 0xB1) else none

/-- A convoy stream of a descriptor (R437). -/
def Dev.descConvoyOk (d : Dev) (p : Prog) (x : BitVec 256) : Bool :=
  match descConvoy p x with
  | none => true
  | some (e, send) =>
    let c := strBase e / 2 ^ 48
    strBase e % 2 ^ 48 == 0 && decide (c < 512) && strStride e == 512 && descOpc x != 0x52 &&
      bitsOf (if send then descOpd x else descOpa x) 6 15 == 0 && d.is (Reg.WMK_CV0.VALID c) && d.is (Reg.WMK_CV0.DIR c) != send &&
      descCount x == 8 * d.get (Reg.WMK_CV0.BLOCKS c)

/-- One descriptor but CTL.FORKX. -/
def Dev.descOk (d : Dev) (tags : List Nat) (low : Nat) (p : Prog) (x : BitVec 256) : Bool :=
  match opForm (descOpc x) with
  | none => false
  | some f =>
    descUnit x == descOpc x / 16 && ((descLane x != 0) == [0, 1, 2, 3, 5, 10].contains (descUnit x)) &&
    (descOpc x == 0x91 || (decide (1 ≤ descCount x) == f.stream)) &&
    operandOk f.a (descOpa x) (descOpc x) && operandOk f.b (descOpb x) (descOpc x) && operandOk f.dd (descOpd x) (descOpc x) &&
    (match bNeeded p x with
     | some n => (descOpb x != opNone) == n
     | none => true) &&
    within (descMod x) f.mod && within (descExt x) f.ext && valuesOk p x && stepFormOk low p x && d.descConvoyOk p x &&
    (descDep0 x == 0 || (decide (descDep0 x ≤ descTag x) && tags.contains (descTag x - descDep0 x))) &&
    (descDep1 x == 0 || (decide (descDep1 x ≤ descTag x) && tags.contains (descTag x - descDep1 x))) &&
    (descOpc x != 0x91 || descOpb x == opNone || bitsOf (descOpb x) 10 11 == 0)

/-- TAGs of a placement but those of CTL.FORKX (R102). -/
def placeTags (ps : List Prog) : List Nat :=
  ps.flatMap fun p => (p.descs.filter fun x => descOpc x != 0x9F).map descTag

/-- Convoys that descriptors of a core use. -/
def progConvoys (p : Prog) : List Nat := dedup (p.descs.filterMap fun x => (descConvoy p x).map fun c => strBase c.1 / 2 ^ 48)

/-- CTL.FORKX: the fields that R108 gives a value, the fields that an exit fork leaves unused, and the TAG of its CTL.FORK `f` (R86, R102,
R108). -/
def forkxOk (f x : BitVec 256) : Bool :=
  bitsOf x.toNat 0 52 == 0 && bitsOf x.toNat 240 8 == 0x90 &&
    (descOpc f != 0x91 || (descTag x == descTag f &&
      (!bitOf (descExt f) 26 || (bitsOf x.toNat 176 40 == 0 && bitsOf x.toNat 165 11 == 0 && bitsOf x.toNat 143 11 == 0 &&
        bitsOf x.toNat 84 48 == 0))))

/-- The descriptors of a placement. -/
def Dev.descsOk (d : Dev) (ps : List Prog) : Fail :=
  let tags := placeTags ps
  let low := (ps.map Prog.core).foldl min 255
  let convoys := ps.flatMap progConvoys
  firstFail ([need (decide tags.Nodup && tags.all (· ≠ 0)) codeFormat 0, need (decide convoys.Nodup) codeFormat 0] ++
    ps.flatMap fun p => (p.descs.zipIdx).map fun x =>
      if descOpc x.1 = 0x9F then need (forkxOk (if x.2 = 0 then 0#256 else p.descs.getD (x.2 - 1) 0#256) x.1) codeFormat x.2 else need (d.descOk tags low p x.1) codeFormat x.2)

/-! ### Mesh entries against the cores of a placement (R256, R260, R262) -/

/-- Merging routers of a Confluence at or after a router on the way to the destination: those where two inputs meet. -/
def confMerges (order dst : Nat) (srcs : List Nat) : List Nat :=
  let paths := srcs.map fun s => meshPath (order == 1) s dst
  (List.range 256).filter fun r =>
    let ins := dedup (paths.flatMap fun p => p.filter fun h => hopEnd h == r)
    decide (2 ≤ ins.length + (if srcs.contains r then 1 else 0))

/-- Least latency of a mesh transfer (R256). -/
def entryMin (e : BitVec 128) (core dst : Nat) (mem : List Nat) : Nat :=
  if meshKind e = 0 then latMin [meshPath (meshOrder e == 0) core dst] 0
  else if meshKind e = 1 then latMin (mem.map fun m => meshPath (meshOrder e == 0) core m) 0
  else
    let merges := confMerges (meshOrder e) dst mem
    let onPath (s : Nat) : Nat :=
      let rs := dedup (s :: (meshPath (meshOrder e == 1) s dst).map hopEnd)
      (rs.filter merges.contains).length
    latMin (mem.map fun m => meshPath (meshOrder e == 1) m dst) ((mem.map onPath).foldl max 0)

/-- All index vectors of a nest. -/
def allIndices : List Level → List (List Nat)
  | [] => [[]]
  | l :: ls => (List.range l.count).flatMap fun i => (allIndices ls).map (i :: ·)

/-- Index of an operand at an index vector, computed without wrap (R106). -/
def indexOf (p : Prog) (x : BitVec 256) (k : Nat) (ix : List Nat) : Int :=
  let ls := descLevels p x
  if k = 0 then (descOpa x % 2 ^ 21 : Nat) + incSum Level.incA ls ix
  else if k = 1 then (descOpb x % 2 ^ 21 : Nat) + incSum Level.incB ls ix
  else (descOpd x % 2 ^ 21 : Nat) + incSum Level.incD ls ix

/-- The mesh entry of the occurrence at an index vector. -/
def entryAt (p : Prog) (x : BitVec 256) (ix : List Nat) : BitVec 128 := p.mesh.getD (indexOf p x 1 ix).toNat 0#128

/-- The core that operand D names at an index vector. -/
def destAt (p : Prog) (x : BitVec 256) (ix : List Nat) : Nat := bitsOf (indexOf p x 2 ix).toNat 13 8

/-- An occurrence's entry: it exists, its KIND is the opcode's, and its members are what R259 and R260 ask. -/
def entryOk (p : Prog) (x : BitVec 256) (mem : BitVec 128 → List Nat) (ix : List Nat) : Bool :=
  let e := entryAt p x ix
  decide (0 ≤ indexOf p x 1 ix) && decide ((indexOf p x 1 ix).toNat < p.mesh.length) && meshKind e == descOpc x - 0x61 &&
    (meshKind e == 0 || !(mem e).isEmpty) && (meshKind e != 1 || (!(mem e).contains p.core && destAt p x ix == p.core))

/-- An occurrence's paths fit its entry's latency and its pads their limit (R256). -/
def entryFits (p : Prog) (x : BitVec 256) (mem : BitVec 128 → List Nat) (ix : List Nat) : Bool :=
  let e := entryAt p x ix
  let dst := destAt p x ix
  let lo := entryMin e p.core dst (mem e)
  decide (lo ≤ meshLat e) && decide (meshLat e ≤ lo + 64) &&
    (meshKind e != 2 || (confMerges (meshOrder e) dst (mem e)).all fun r => decide (confPad (meshOrder e) dst (mem e) r ≤ 64))

/-- Every source of a Confluence issues alike, at every occurrence (R262). -/
def confAlike (ps : List Prog) (p : Prog) (x : BitVec 256) (mem : BitVec 128 → List Nat) : Bool :=
  let ls := descLevels p x
  let loops (q : Prog) (y : BitVec 256) : List (Nat × Nat) := (descLevels q y).map fun l => (l.count, l.period)
  (allIndices ls).all fun ix =>
    (mem (entryAt p x ix)).contains p.core && (mem (entryAt p x ix)).all fun c =>
      ps.any fun q => q.core == c && q.descs.any fun y =>
        descOpc y == 0x63 && descIssue y == descIssue x && descCount y == descCount x && descMod y == descMod x && loops q y == loops p x &&
          (allIndices ls).all fun iy => indexOf q y 2 iy == indexOf p x 2 iy && entryAt q y iy == entryAt p x iy

/-- Every mesh descriptor of a placement, at every occurrence; `mem` gives an entry's members. With `fits` the latencies and pads are
held to R256 too. -/
def meshOk (ps : List Prog) (mem : BitVec 128 → List Nat) (fits : Bool) : Fail :=
  firstFail (ps.flatMap fun p => (p.descs.zipIdx).map fun x =>
    if descUnit x.1 = 6 then
      let all := allIndices (descLevels p x.1)
      need (all.all (fun ix => entryOk p x.1 mem ix && (!fits || entryFits p x.1 mem ix)) && (descOpc x.1 != 0x63 || confAlike ps p x.1 mem))
        codeFormat x.2
    else none)

/-- Every path of a placement needs at most its declared latency, and no pad passes 64 ticks (R118, R256, R260). -/
def meshFits (ps : List Prog) (mem : BitVec 128 → List Nat) : Bool :=
  ps.all fun p => p.descs.all fun x => descUnit x != 6 ||
    (allIndices (descLevels p x)).all fun ix => !entryOk p x mem ix || entryFits p x mem ix

/-- A scoreboard core takes no part in mesh or chain transfers, forks, preemption points or rotated fetches (R248). -/
def sbOk (ps : List Prog) (p : Prog) : Bool :=
  p.sb == 0#256 ||
    (p.descs.all (fun x => descUnit x != 6 && descUnit x != 7 && descOpc x != 0x91 && descOpc x != 0x92 &&
        !((descOpc x == 0x01 || descOpc x == 0x02) && bitsOf (descExt x) 8 9 != 0)) &&
      ps.all fun q => q.descs.all fun x => !((descUnit x == 6 || descUnit x == 7) &&
        (allIndices (descLevels q x)).any fun ix => destAt q x ix == p.core || (descOpc x == 0x62 &&
          bitOf (meshCols (entryAt q x ix)) (p.core % 16) && bitOf (meshRows (entryAt q x ix)) (p.core / 16))))

/-! ### Choosing a placement (R116 to R118, R269) -/

/-- Cores of an island in a list, ascending. -/
def ofIsland (i : Nat) (l : List Nat) : List Nat := l.filter fun c => islandOf c == i

/-- Cores in service. -/
def Dev.liveCores (d : Dev) : List Nat := (List.range 256).filter d.inService

/-- Where a position of a relocatable placement goes. -/
def Dev.relocate (d : Dev) (mask c : Nat) : Nat :=
  let i := islandOf c
  match (ofIsland i (maskCores mask)).idxOf? c with
  | some k => (ofIsland i d.liveCores).getD k c
  | none => c

/-- A scratch-row operand on its new core. -/
def relocOp (f : Nat → Nat) (op : Nat) : Nat :=
  if op / 2 ^ 21 = 0 then f (bitsOf op 13 8) * 2 ^ 13 + op % 2 ^ 13 else op

/-- A field of a word replaced. -/
def putBits (x lo n v : Nat) : Nat := x - bitsOf x lo n * 2 ^ lo + v % 2 ^ n * 2 ^ lo

/-- A descriptor with its core fields rewritten; OPB of CTL.FORK is a row field only. -/
def relocDesc (f : Nat → Nat) (x : BitVec 256) : BitVec 256 :=
  if descOpc x = 0x9F then x
  else
    let y := putBits x.toNat 148 24 (relocOp f (descOpa x))
    let z := if descOpc x = 0x91 then y else putBits y 124 24 (relocOp f (descOpb x))
    BitVec.ofNat 256 (putBits z 100 24 (relocOp f (descOpd x)))

/-- Members of an entry in the reference layout. -/
def refMembers (mask : Nat) (e : BitVec 128) : List Nat :=
  (maskCores mask).filter fun c => bitOf (meshCols e) (c % 16) && bitOf (meshRows e) (c / 16)

/-- A mask with the bits of a list. -/
def maskOf (l : List Nat) : Nat := (dedup l).foldl (fun m k => m + 2 ^ k) 0

/-- An entry with its masks rewritten over the members' new cores. -/
def relocEntry (f : Nat → Nat) (mask : Nat) (e : BitVec 128) : BitVec 128 :=
  if meshKind e = 0 then e
  else
    let ms := (refMembers mask e).map f
    BitVec.ofNat 128 (putBits (putBits e.toNat 16 16 (maskOf (ms.map (· % 16)))) 32 16 (maskOf (ms.map (· / 16))))

/-- A placement's programs and credits over the cores of this device. -/
def Dev.relocPlace (d : Dev) (g : Img) (p : Place) : List Prog × List (BitVec 32) :=
  if p.reloc = 0 then (p.progs g, p.credits)
  else
    let f := d.relocate p.mask
    ((p.progs g).map fun q => { q with core := f q.core, descs := q.descs.map (relocDesc f), mesh := q.mesh.map (relocEntry f p.mask) },
     p.credits.map fun c => BitVec.ofNat 32 (putBits (putBits c.toNat 0 8 (f (bitsOf c.toNat 0 8))) 8 8
       (if bitsOf c.toNat 8 8 = 0xFF then 0xFF else f (bitsOf c.toNat 8 8))))

/-- The cores that a placement needs are in service (R116). -/
def Dev.covered (d : Dev) (p : Place) : Bool :=
  if p.reloc = 0 then (maskCores p.mask).all d.inService
  else (List.range 16).all fun i => decide ((ofIsland i (maskCores p.mask)).length ≤ (ofIsland i d.liveCores).length)

/-- Every logical chain hop that the placement uses lands within RELAY_PAD, on the core its operand names (R267, R269). -/
def Dev.relayOk (d : Dev) (pad : Nat) (ps : List Prog) : Bool :=
  ps.all fun p => p.descs.all fun x =>
    if descUnit x = 7 then
      match d.nextOnChain (bitOf (descExt x) 0) 255 (chainPos p.core) with
      | some c => decide (6 * ((chainPos c - chainPos p.core) + (chainPos p.core - chainPos c)) ≤ pad) && c == bitsOf (descOpd x) 13 8
      | none => false
    else true

/-- A rewritten placement is accepted: masks name exactly the members' new cores, paths fit the declared latencies (R118). -/
def Dev.placeFits (d : Dev) (g : Img) (p : Place) : Bool :=
  let r := d.relocPlace g p
  d.covered p && d.relayOk p.relayPad r.1 &&
    (p.reloc == 0 ||
      (meshFits r.1 (fun e => d.members (meshCols e) (meshRows e)) &&
        (p.progs g).all fun q => q.mesh.all fun e =>
          meshKind e == 0 ||
            (let e' := relocEntry (d.relocate p.mask) p.mask e
             let ms := (refMembers p.mask e).map (d.relocate p.mask)
             (d.members (meshCols e') (meshRows e')).all ms.contains && ms.all (d.members (meshCols e') (meshRows e')).contains)))

/-! ### Occurrences -/

/-- Index vectors at the extreme values of a nest (R119). -/
def corners : List Level → List (List Nat)
  | [] => [[]]
  | l :: ls => (if l.count ≤ 1 then [0] else [0, l.count - 1]).flatMap fun i => (corners ls).map (i :: ·)

/-- Ticks from the first occurrence to the one at an index vector. -/
def indexTicks : List Level → List Nat → Nat
  | l :: ls, i :: is => i * l.period + indexTicks ls is
  | _, _ => 0

/-- Where a fork resolves (R62, R107). -/
def forkR (x : BitVec 256) : Nat := descIssue x + bitsOf (descExt x) 0 24

/-- Window forks and exit forks of a core: index, CTL.FORK, CTL.FORKX. -/
def Prog.forks (p : Prog) : List (Nat × BitVec 256 × BitVec 256) :=
  (p.descs.zipIdx.filter fun x => descOpc x.1 == 0x91).map fun x => (x.2, x.1, p.descs.getD (x.2 + 1) 0#256)

def fxW (x : BitVec 256) : Nat := bitsOf x.toNat 176 40
def fxPFirst (x : BitVec 256) : Nat := bitsOf x.toNat 165 11
def fxPCount (x : BitVec 256) : Nat := bitsOf x.toNat 154 11
def fxQFirst (x : BitVec 256) : Nat := bitsOf x.toNat 143 11
def fxQCount (x : BitVec 256) : Nat := bitsOf x.toNat 132 11
def fxDP (x : BitVec 256) : Nat := bitsOf x.toNat 108 24
def fxDQ (x : BitVec 256) : Nat := bitsOf x.toNat 84 24

/-- The arm a descriptor index lies in: its fork, and whether it is arm P. -/
def Prog.armOf (p : Prog) (n : Nat) : Option ((Nat × BitVec 256 × BitVec 256) × Bool) :=
  p.forks.findSome? fun f =>
    if fxPFirst f.2.2 ≤ n ∧ n < fxPFirst f.2.2 + fxPCount f.2.2 then some (f, true)
    else if fxQFirst f.2.2 ≤ n ∧ n < fxQFirst f.2.2 + fxQCount f.2.2 then some (f, false)
    else none

/-- The tick from which a descriptor's ISSUE counts (R110). -/
def Prog.baseOf (p : Prog) (n : Nat) (x : BitVec 256) : Nat :=
  match p.armOf n with
  | none => 0
  | some (f, true) => if descSpec x then 0 else forkR f.2.1
  | some (f, false) => forkR f.2.1 + 64

/-- Issue tick of the occurrence at an index vector. -/
def Prog.tickOf (p : Prog) (n : Nat) (x : BitVec 256) (ix : List Nat) : Nat :=
  p.baseOf n x + descIssue x + indexTicks (descLevels p x) ix

/-- Descriptors that the sequencer issues, with their core's program and index. -/
def placeDescs (ps : List Prog) : List (Prog × Nat × BitVec 256) :=
  ps.flatMap fun p => (p.descs.zipIdx.filter fun x => descOpc x.1 != 0x9F).map fun x => (p, x.2, x.1)

/-! ### LOAD_SEGMENT_LENGTH (R40, R41, R150) -/

/-- Ticks from issue to the last due tick, completion or landing that R40 and R41 count; none where they count none. -/
def Dev.tailOf (d : Dev) (p : Prog) (x : BitVec 256) (ix : List Nat) : Option Nat :=
  let c := descCount x
  let i := occurrence p x ix
  match descOpc x with
  | 0x11 | 0x12 => some (streamBusy (fmtClass i.fmt) i.exact c + 134)
  | 0x21 => some c
  | 0x22 => some (c + 12)
  | 0xA2 => some 66
  | 0x31 => some 72
  | 0x32 | 0x33 => some (c + 8)
  | 0x41 => some 74
  | 0x42 | 0x43 => some 138
  | 0x44 => some 90
  | 0x51 => some (c + 2)
  | 0x52 | 0xB2 => some (c - 1 + (if strKind (p.streams.getD (descOpd x % 64) 0#128) = 1 then latHost d.rt.maxOpp else 900))
  | 0x61 | 0x62 | 0x63 => some (4 * (c - 1) + meshLat (p.mesh.getD (descOpb x % 1024) 0#128))
  | 0x71 | 0x72 => some (c - 1 + d.rt.relayPad)
  | 0x81 => some 40
  | 0x93 | 0x94 | 0x95 => some 30
  | 0xB1 =>
    let e := p.streams.getD (opHandle i.opa) 0#128
    if strKind e = 1 then some (c - 1 + latHost d.rt.maxOpp)
    else if strKind e = 2 then none
    else some (c - 1 + d.latMemory p.core (if strKind e = 3 then none else d.region (strBase e + opOffset i.opa * strStride e)))
  | 0xB3 => some (c - 1 + 640)
  | 0xB4 => some (c - 1 + 900)
  | _ => none

/-- Exit forks of a placement resolve at these ticks. -/
def exitTicks (ps : List Prog) : List Nat :=
  ps.flatMap fun p => (p.forks.filter fun f => bitOf (descExt f.2.1) 26).map fun f => forkR f.2.1

def Dev.lengthOk (d : Dev) (ps : List Prog) : Fail :=
  let short := (d.rt.segs.map segLength).foldl min (2 ^ 40)
  let exits := exitTicks ps
  firstFail ((placeDescs ps).map fun q =>
    let (p, n, x) := q
    let ok := (corners (descLevels p x)).all fun ix =>
      let t := p.tickOf n x ix
      decide (t < short) && (match d.tailOf p x ix with
        | some l => decide (t + l + 24 < short)
        | none => true)
    let exitOk := exits.all fun r => (allIndices (descLevels p x)).all fun ix =>
      let t := p.tickOf n x ix
      decide (r + 23 < t) || (match d.tailOf p x ix with
        | some l => decide (t + l < r)
        | none => true)
    need (ok && exitOk) codeLength n)

/-! ### LOAD_ADDRESS (R88, R119, R199, R201, R305, R383, R403, R437, R467, R485) -/

/-- Rows or entries an operand spans: 0 A, 1 B, 2 D. -/
def spanOf (x : BitVec 256) (k : Nat) : Nat :=
  let c := descCount x
  let m := descMod x
  let fmt := bitsOf m 16 4
  let outRows (elems : Nat) : Nat := (elems * elemBits fmt + 4095) / 4096
  match descOpc x, k with
  | 0x31, 1 => if bitsOf m 8 4 = 2 ∨ bitsOf m 8 4 = 4 then 32 else 1
  | 0x31, 2 => outRows 4096
  | 0x32, 1 => if m % 256 = 5 ∨ m % 256 = 6 ∨ m % 256 = 8 then 1 else c
  | 0x32, 2 => if m % 256 = 8 then outRows (128 * c) else c
  | 0x41, 2 => if m % 4 = 0 then 32 else if fmt = 0xD then (if m % 4 = 1 then 2 else 4) else 1
  | 0x44, 2 => 1 + bitsOf (descExt x) 0 6
  | 0x52, 1 | 0xB1, 1 | 0xB2, 1 | 0x91, 0 | 0xB3, 0 | 0xB3, 2 | 0xB4, 0 | 0xB4, 2 => 1
  | o, _ => if (opForm o).any (·.stream) ∧ o ≠ 0x91 then c else 1

def descOp (x : BitVec 256) (k : Nat) : Nat := if k = 0 then descOpa x else if k = 1 then descOpb x else descOpd x

/-- Where a row of another core may be named (R88). -/
def remoteOk (opc k : Nat) : Bool := k == 2 && [0x61, 0x62, 0x63, 0x71, 0x72, 0x82].contains opc

/-- A device-memory stream operand: aligned, in one interleave region and in the tenancy's regions (R305, R408). -/
def Dev.memoryOk (d : Dev) (t : Nat) (e : BitVec 128) (off span : Nat) : Bool :=
  let a := strBase e + off * strStride e
  let z := strBase e + (off + (span - 1)) * strStride e + 511
  strBase e % 256 == 0 && strStride e % 256 == 0 &&
    (strKind e != 0 || ((d.region a).isSome && d.region a == d.region z && d.inSpace t a (z - a + 1)))

/-- One operand at an index vector. A scratch operand that names a foreign core against R88 is refused with LOAD_ADDRESS: the rule names
no code (DESIGN CHOICE, notes/assumptions/115.md). -/
def Dev.operandAddr (d : Dev) (t : Nat) (p : Prog) (x : BitVec 256) (k : Nat) (ix : List Nat) : Bool :=
  let op := descOp x k
  if op = opNone ∨ (descOpc x = 0x91 ∧ k = 1) then true
  else
    let i := indexOf p x k ix
    let n := i.toNat
    let sp := op / 2 ^ 21
    let span := spanOf x k
    decide (0 ≤ i) && decide (n < 2 ^ 21) && indexOk sp n &&
    match sp with
    | 0 => decide (n % 1024 + span ≤ 576) && (bitsOf n 13 8 == p.core || remoteOk (descOpc x) k)
    | 1 => decide (n ≤ 12)
    | 2 => decide (n + span ≤ 128) && (descOpc x != 0x31 || k != 2 || span != 128 || n == 0)
    | 3 => if descOpc x = 0x96 then true else d.memoryOk t (p.streams.getD (n % 64) 0#128) (n / 64) span
    | 4 => d.ownsBeacon t n
    | 7 => if 0x1FFF00 ≤ n then n - 0x1FFF00 == t else (let c := kget {} d.comb (n - 0x1FFE00); c.valid && c.owner == t)
    | _ => true

/-- Convoys named by a Cairn transfer (R485). -/
def Dev.cairnConvoys (d : Dev) : List Nat :=
  (if d.get Reg.CRN_XFER_A.KIND = 1 then [d.get Reg.CRN_XFER_A.CONVOY] else []) ++
  (if d.get Reg.CRN_XFER_B.KIND = 1 then [d.get Reg.CRN_XFER_B.CONVOY] else []) ++
  (if d.get Reg.CRN_AUTO.KIND = 1 then [d.get Reg.CRN_AUTO.CONVOY] else [])

def Dev.addressOk (d : Dev) (t : Nat) (ps : List Prog) : Fail :=
  firstFail ([need (d.rt.segs.all fun s => segGate s == 0 || d.ownsBeacon t (segGateBcn s)) codeAddress 0] ++
    (placeDescs ps).map fun q =>
      let (p, n, x) := q
      let ops := (corners (descLevels p x)).all fun ix => [0, 1, 2].all fun k => d.operandAddr t p x k ix
      let convoy := match descConvoy p x with
        | some (e, _) => d.get (Reg.WMK_CV0.TENANCY (strBase e / 2 ^ 48)) == t && !d.cairnConvoys.contains (strBase e / 2 ^ 48)
        | none => true
      let done := descOpc x != 0x96 || !bitOf (descExt x) 14 || d.ownsBeacon t (bitsOf (descExt x) 0 14)
      need (ops && convoy && done) codeAddress n)

/-! ### LOAD_SPECULATION (R64, R66, R67, R107 to R110, R230) -/

/-- Both descriptors of a fork. -/
def forkOk (p : Prog) (f : Nat × BitVec 256 × BitVec 256) : Bool :=
  let x := f.2.1
  let y := f.2.2
  let inList (a n : Nat) : Bool := decide (a + n ≤ p.descs.length) &&
    (List.range n).all fun k => descOpc (p.descs.getD (a + k) 0#256) != 0x91 && descOpc (p.descs.getD (a + k) 0#256) != 0x9F
  descLoop x == 0 && descLane x == 0 && descOpc y == 0x9F && bitsOf y.toNat 240 8 == 0x90 && descTag y == descTag x &&
    inList (fxPFirst y) (fxPCount y) && inList (fxQFirst y) (fxQCount y) &&
    (fxPCount y == 0 || fxQCount y == 0 || decide (fxPFirst y + fxPCount y ≤ fxQFirst y) || decide (fxQFirst y + fxQCount y ≤ fxPFirst y)) &&
    (if bitOf (descExt x) 26 then fxPCount y == 0 && fxQCount y == 0 && fxW y == 0
     else decide (fxDP y ≤ fxW y) && decide (64 + fxDQ y ≤ fxW y) && bitsOf (descOpa x) 13 8 == p.core &&
       decide ((if descOpb x = opNone then 0 else descOpb x % 1024) + descCount x ≤ 576))

/-- A row of the core lies in a fork's shadow rows. -/
def inShadow (f : BitVec 256) (bank row : Nat) : Bool :=
  descOpb f != opNone && bitOf (descMod f % 256) bank && decide (descOpb f % 1024 ≤ row) && decide (row < descOpb f % 1024 + descCount f)

/-- A SPEC descriptor of arm P touches only what R66 allows: shadow rows of its own core and weight shadows of its lanes. An approach
queue, which FETCH.ROW and FETCH.VBUF fill, and a Lantern marker are neither. -/
def specOk (p : Prog) (f x : BitVec 256) : Bool :=
  let writesShadow : Bool := (allIndices (descLevels p x)).all fun ix =>
    let n := (indexOf p x 2 ix).toNat
    (List.range (spanOf x 2)).all fun j => bitsOf n 13 8 == p.core && inShadow f (bitsOf n 10 3) (n % 1024 + j)
  match descOpc x with
  | 0x90 => true
  | 0x03 | 0xA2 => descOpd x % 32 == 8 || descOpd x % 32 == 9
  | 0xB1 => strKind (p.streams.getD (descOpa x % 64) 0#128) == 0 && writesShadow
  | 0x41 | 0x44 | 0x51 | 0x93 | 0x94 | 0x95 => descOpd x / 2 ^ 21 == 0 && writesShadow
  | _ => false

/-- Ticks between rows of an operand that is read row by row. -/
def rowStep (x : BitVec 256) : Nat :=
  if descUnit x = 0 then max 1 (descExt x % 256) else if descUnit x = 6 then 4 else 1

/-- A non-SPEC descriptor reads the fork's shadow rows, or uses its weight shadows, from F and before R (R67, R231). DMA.SSCATTER reads
its D row too (R406); a FETCH.WGT or TMOV into a filled shadow uses it. -/
def usesEarly (p : Prog) (f : Nat × BitVec 256 × BitVec 256) (n : Nat) (x : BitVec 256) : Bool :=
  let from_ := descIssue f.2.1
  let till := forkR f.2.1
  let during (t : Nat) : Bool := decide (from_ ≤ t ∧ t < till)
  let filled (lane ws : Nat) : Bool := (List.range (fxPCount f.2.2)).any fun k =>
    let y := p.descs.getD (fxPFirst f.2.2 + k) 0#256
    descSpec y && (descOpc y == 0x03 || descOpc y == 0xA2) && descOpd y % 32 == ws && (descLane y &&& lane) != 0
  let shadowUse : Bool :=
    ((descOpc x == 0x11 || descOpc x == 0x12) && filled (descLane x) (descOpb x % 32)) ||
    (descOpc x == 0xA2 && filled (descLane x) (descOpa x % 32)) ||
    ((descOpc x == 0x03 || descOpc x == 0xA2) && filled (descLane x) (descOpd x % 32))
  (allIndices (descLevels p x)).any fun ix =>
    let t := p.tickOf n x ix
    (shadowUse && during t) ||
    (if descOpc x = 0xB4 then [0, 2] else [0, 1]).any fun k =>
      descOp x k != opNone && descOp x k / 2 ^ 21 == 0 && !(descOpc x == 0x91 && k == 1) &&
        (List.range (spanOf x k)).any fun j =>
          let r := (indexOf p x k ix).toNat
          let at_ := if descOpc x = 0x91 then forkR x else t + j * rowStep x
          bitsOf r 13 8 == p.core && inShadow f.2.1 (bitsOf r 10 3) (r % 1024 + j) && during at_

/-- First and last tick at which row j of a scratch destination may be written: a transfer of variable latency lands from its issue to
its due tick. -/
def Dev.landsIn (d : Dev) (p : Prog) (n : Nat) (x : BitVec 256) (ix : List Nat) (j : Nat) : Nat × Nat :=
  let t := p.tickOf n x ix
  let tail := (d.tailOf p x ix).getD 0
  if descUnit x = 11 then (t, t + tail)
  else if descUnit x = 6 then (t + 4 * j + meshLat (entryAt p x ix), t + 4 * j + meshLat (entryAt p x ix))
  else (t + tail + j + 1 - spanOf x 2, t + tail + j + 1 - spanOf x 2)

/-- Cores whose scratch an occurrence writes. -/
def Dev.writesTo (d : Dev) (p : Prog) (x : BitVec 256) (ix : List Nat) : List Nat :=
  if descOpc x = 0x62 then d.members (meshCols (entryAt p x ix)) (meshRows (entryAt p x ix)) else [destAt p x ix]

/-- A non-SPEC descriptor, of any core, writes a fork's shadow rows from F and before R: R231 keeps them to the fork's own SPEC
descriptors (DEDUCED, notes/assumptions/116.md). BCN.MSG's row is delivered by a non-scheduled agent, and DMA.SSCATTER's D row is read. -/
def Dev.writesEarly (d : Dev) (q : Prog) (f : BitVec 256) (p : Prog) (n : Nat) (x : BitVec 256) : Bool :=
  descOpd x != opNone && descOpd x / 2 ^ 21 == 0 && descOpc x != 0x82 && descOpc x != 0xB4 &&
    (allIndices (descLevels p x)).any fun ix => (d.writesTo p x ix).contains q.core &&
      (List.range (spanOf x 2)).any fun j =>
        let r := (indexOf p x 2 ix).toNat
        let w := d.landsIn p n x ix j
        inShadow f (bitsOf r 10 3) (r % 1024 + j) && decide (w.1 < forkR f ∧ descIssue f ≤ w.2)

/-- Pairs of forks whose intervals from F to R + 63 overlap, and arms that overlap (R110, R230). -/
def forksApart (p : Prog) : Bool :=
  let fs := p.forks
  fs.all fun a => fs.all fun b => a.1 == b.1 ||
    ((decide (forkR a.2.1 + 63 < descIssue b.2.1) || decide (forkR b.2.1 + 63 < descIssue a.2.1)) &&
     (List.range p.descs.length).all fun n =>
       let inArm (f : Nat × BitVec 256 × BitVec 256) : Bool :=
         decide (fxPFirst f.2.2 ≤ n ∧ n < fxPFirst f.2.2 + fxPCount f.2.2) || decide (fxQFirst f.2.2 ≤ n ∧ n < fxQFirst f.2.2 + fxQCount f.2.2)
       !(inArm a && inArm b))

/-- Writes scratch. -/
def writesScratch (x : BitVec 256) : Bool := descOpd x != opNone && descOpd x / 2 ^ 21 == 0

def Dev.specFail (d : Dev) (ps : List Prog) : Fail :=
  firstFail (ps.flatMap fun p =>
    [need (forksApart p) codeSpec 0] ++
    (p.forks.map fun f => need (forkOk p f && (descMod f.2.1 % 256 != 0 || (List.range (fxPCount f.2.2)).all fun k =>
      let y := p.descs.getD (fxPFirst f.2.2 + k) 0#256
      !(descSpec y && writesScratch y))) codeSpec f.1) ++
    p.descs.zipIdx.map fun xn =>
      let (x, n) := xn
      if descOpc x = 0x9F then need (decide (1 ≤ n) && descOpc (p.descs.getD (n - 1) 0#256) == 0x91) codeSpec n
      else
        let ticks := (corners (descLevels p x)).map fun ix => descIssue x + indexTicks (descLevels p x) ix
        let arm : Bool := match p.armOf n with
          | none => !descSpec x
          | some (f, true) =>
            if descSpec x then ticks.all (fun t => decide (descIssue f.2.1 ≤ t ∧ t < forkR f.2.1)) && specOk p f.2.1 x
            else ticks.all fun t => decide (t < fxDP f.2.2)
          | some (f, false) => !descSpec x && ticks.all fun t => decide (t < fxDQ f.2.2)
        let early := !descSpec x && ((p.forks.any fun f => !bitOf (descExt f.2.1) 26 && usesEarly p f n x) ||
          ps.any fun q => q.forks.any fun f => !bitOf (descExt f.2.1) 26 && d.writesEarly q f.2.1 p n x)
        need (arm && !early) codeSpec n)

/-! ### LOAD_UNMARKED_VARIANCE (R104) -/

/-- A descriptor of R104 carries V; a DMA.RD is of it if any stream that its occurrences reach is. -/
def varianceFail (ps : List Prog) : Fail :=
  firstFail ((placeDescs ps).map fun q =>
    let (p, n, x) := q
    let varies (e : BitVec 128) : Bool := ((strKind e == 1 || strKind e == 3) && strConc e) || (strKind e == 2 && strRelaxed e)
    let must := [0x93, 0x94, 0x95].contains (descOpc x) ||
      (descOpc x == 0xB1 && (allIndices (descLevels p x)).any fun ix => varies (p.streams.getD ((indexOf p x 0 ix).toNat % 64) 0#128))
    need (descV x || !must) codeVariance n)

/-! ### LOAD_CREDIT (R115, R274, R300, R392, R448, R513) -/

/-- A counted half-row: what carries it, in which fill window, and the most it may carry. -/
structure Load1 where
  key : Nat
  window : Nat
  lim : Nat
  deriving DecidableEq, Repr

def keyLink (h : Nat × Nat) : Nat := h.1 * 8 + h.2
def keyEdge (router side : Nat) : Nat := 10000 + router * 8 + side
def keyEject (core : Nat) : Nat := 20000 + core
def keyInject (core : Nat) : Nat := 30000 + core
def keyChannel (ch : Nat) : Nat := 40000 + ch
def keyHost : Nat := 50000

/-- Half-rows of a channel in a window (R300). -/
def chanBudget (opp : Nat) : Nat := [6, 7, 9, 12, 18].getD opp 6

/-- Half-rows of KIND 1 transfers in a window, for the link as it is trained (R513). -/
def Dev.hostBudget (d : Dev) : Nat :=
  let b := [16, 18, 21, 28, 43].getD d.rt.maxOpp 16
  let x := if d.get (Reg.HP_LINK.WIDTH 0) = 0 then b else b / 2
  if d.get (Reg.HP_LINK.SPEED 0) = 0 then x else if d.get (Reg.HP_LINK.WIDTH 0) = 0 then b / 2 else b / 4

/-- Half-row on an arrival path. -/
def arriving (edge side core w : Nat) (rowFirst : Bool) : List Load1 :=
  [⟨keyEdge edge side, w, 128⟩, ⟨keyEject core, w, 256⟩] ++ (meshPath rowFirst edge core).map fun h => ⟨keyLink h, w, 64⟩

/-- Half-row on a departure path. -/
def leaving (edge side core w : Nat) (rowFirst : Bool) : List Load1 :=
  [⟨keyEdge edge side, w, 128⟩, ⟨keyInject core, w, 256⟩] ++ (meshPath rowFirst core edge).map fun h => ⟨keyLink h, w, 64⟩

/-- Half-rows of one occurrence. An ST.MEM stores a row in each of its lanes. A gathered row travels like host traffic (R405). Each word
of DMA.SSCATTER counts once at the fill inject, a half-row of a session-relative stream at the core's own port alone: the spec gives
neither a channel (DESIGN CHOICE, notes/assumptions/117.md). -/
def Dev.halfRows (d : Dev) (p : Prog) (n : Nat) (x : BitVec 256) (ix : List Nat) : List Load1 :=
  let t := p.tickOf n x ix
  let c := descCount x
  let west := 16 * (p.core / 16)
  let lanes := if descOpc x = 0x52 ∧ descLane x = 3 then 2 else 1
  if descOpc x = 0xB3 then
    let w := (t + c - 1) / 256
    (List.range 2).flatMap fun _ => arriving west 3 p.core w true
  else if descOpc x = 0xB4 then (List.range c).map fun k => ⟨keyInject p.core, (t + k) / 256, 256⟩
  else if descOpc x = 0xB1 ∨ descOpc x = 0xB2 ∨ descOpc x = 0x52 then
    let rd := descOpc x = 0xB1
    let i := occurrence p x ix
    let op := if rd then i.opa else i.opd
    let e := p.streams.getD (opHandle op) 0#128
    if strKind e = 2 then
      let port := d.get (Reg.WMK_CV0.PORT (strBase e / 2 ^ 48))
      if rd then (List.range (2 * c)).flatMap fun h => arriving (portRouter port p.core) 1 p.core (t / 256 + h / 43) false
      else (List.range (2 * c)).flatMap fun h => leaving (portRouter port p.core) 1 p.core ((t + h / 2) / 256) true
    else (List.range (lanes * 2 * c)).flatMap fun u =>
      let h := u % (2 * c)
      let w := (t + h / 2) / 256
      if strKind e = 3 then [⟨if rd then keyEject p.core else keyInject p.core, w, 256⟩]
      else if strKind e = 1 then
        ⟨keyHost, w, d.hostBudget⟩ :: (if rd then arriving west 3 p.core w true else leaving west 3 p.core w true)
      else
        match d.channelOf (strBase e + (opOffset op + h / 2) * strStride e + 256 * (h % 2)) with
        | none => []
        | some ch =>
          let side := if ch < 48 then 0 else 2
          ⟨keyChannel ch, w, chanBudget d.rt.maxOpp⟩ ::
            (if rd then arriving (channelRouter ch) side p.core w true else leaving (channelRouter ch) side p.core w false)
  else []

/-- Credits granted into a destination. -/
def creditsInto (cs : List (BitVec 32)) (dst : Nat) : Nat :=
  ((cs.filter fun c => bitsOf c.toNat 8 8 == dst).map fun c => bitsOf c.toNat 16 8).sum

def Dev.creditFail (d : Dev) (ps : List Prog) (cs : List (BitVec 32)) : Fail :=
  let loads := (placeDescs ps).flatMap fun q => (allIndices (descLevels q.1 q.2.2)).flatMap (d.halfRows q.1 q.2.1 q.2.2)
  firstFail [need ((List.range 256).all fun k => decide (creditsInto cs k ≤ if k = 0xFF then 256 else 32)) codeCredit 0,
    need (loads.all fun u => decide ((loads.filter fun v => v.key == u.key && v.window == u.window).length ≤ u.lim)) codeCredit 0]

/-! ### The load (R119, R120, R235, R521) -/

/-- Element offsets, least and greatest, that a placement reaches through each stream entry (R92). -/
def placeReach (ps : List Prog) : List (Nat × Nat × Nat × Nat) :=
  ps.flatMap fun p => (List.range 64).filterMap fun h =>
    let offs := p.descs.flatMap fun x =>
      [0, 2].flatMap fun k =>
        if descOpc x ≠ 0x9F ∧ descOp x k / 2 ^ 21 = 3 then
          (allIndices (descLevels p x)).flatMap fun ix =>
            let n := (indexOf p x k ix).toNat
            if n % 64 = h then [n / 64, n / 64 + (spanOf x k - 1)] else []
        else []
    match offs with
    | [] => none
    | o :: os => some (p.core, h, os.foldl min o, os.foldl max o)

/-- The Route that an image and a placement give. -/
def Dev.newRoute (d : Dev) (g : Img) (t : Nat) (p : Place) : RouteSt :=
  let h := imgHead g
  let r := d.relocPlace g p
  { loaded := true, tenancy := t, placement := p.index, envelope := bitOf h.flags 0, exact := bitOf h.flags 1, latid := h.latid,
    maxOpp := h.maxOpp, relayPad := p.relayPad, segs := imgSegs g h, progs := r.1, credits := r.2, reach := placeReach r.1 }

/-- The operating point, or a pending one, is faster than MAX_OPP allows (a smaller number is faster). -/
def Dev.tooFast (d : Dev) (maxOpp : Nat) : Bool :=
  decide (d.get Reg.CLK_OPP.CURRENT < maxOpp) || (d.is Reg.CLK_OPP.PENDING && d.pwr.opp.any fun o => decide (o.1 < maxOpp))

/-- No stream that an occurrence reaches names an absent Ethernet port, a retired channel, or host memory without CXL (R119, R437,
R494). -/
def Dev.streamsPresent (d : Dev) (ps : List Prog) : Bool :=
  ps.all fun p => p.descs.all fun x => [0, 2].all fun k =>
    if descOpc x = 0x9F ∨ descOp x k / 2 ^ 21 ≠ 3 then true
    else (allIndices (descLevels p x)).all fun ix =>
      let n := (indexOf p x k ix).toNat
      let e := p.streams.getD (n % 64) 0#128
      match strKind e with
      | 0 => match d.region (strBase e + n / 64 * strStride e) with
        | some m => (List.range m.count).all fun c => d.chMapped (m.first + c)
        | none => true
      | 1 => d.is (Reg.HP_LINK.CXL 0)
      | 2 => d.is (Reg.WMK_P_STAT.PRESENT (d.get (Reg.WMK_CV0.PORT (strBase e / 2 ^ 48))))
      | _ => true

/-- The LOAD_FORMAT checks of a placement's blocks. Of a relocatable placement the latencies have been held already when it was chosen
(R118, R260). -/
def Dev.placeFormat (d : Dev) (g : Img) (p : Place) : Fail :=
  let ps := p.progs g
  let r := (d.relocPlace g p).1
  firstFail [need (ps.all tablesOk && ps.all (sbOk ps)) codeFormat 0, d.descsOk ps,
    meshOk r (fun e => d.members (meshCols e) (meshRows e)) (p.reloc == 0)]

/-- The checks of R119 after LOAD_BUSY, in order: the code, descriptor and placement of the first that fails, or the Route. Every
placement's table and blocks are held to the image; the blocks of the chosen placement are held to the rest. -/
def Dev.loadCheck (d : Dev) (g : Img) (len t : Nat) : (Nat × Nat × Nat) ⊕ RouteSt :=
  if !headOk g len then .inl (codeFormat, 0, 0)
  else
    let h := imgHead g
    let places := (List.range h.nplace).map (imgPlace g h)
    let chosen := if places.all (placeOk g len) then places.find? (d.placeFits g) else none
    match (places.find? fun p => !placeOk g len p).map (fun p => (codeFormat, 0, p.index)) <|>
        chosen.bind fun p => (d.placeFormat g p).map fun f => (f.1, f.2, p.index) with
    | some f => .inl f
    | none =>
      if !bitOf h.flags 0 && h.latid != d.get Reg.GLB_LATID.LATID then .inl (codeLatency, 0, 0)
      else if bitOf h.flags 1 && h.dsig != d.dsigNat then .inl (codeSignature, 0, 0)
      else if d.tooFast h.maxOpp then .inl (codeFrequency, 0, 0)
      else
        match chosen with
        | none => .inl (codeAbsent, 0, h.nplace - 1)
        | some p =>
          let rt := d.newRoute g t p
          let dn : Dev := { d with rt := rt }
          if !d.streamsPresent rt.progs then .inl (codeAbsent, 0, p.index)
          else
            match firstFail [dn.lengthOk rt.progs, dn.addressOk t rt.progs, dn.specFail rt.progs, varianceFail rt.progs,
                             dn.creditFail rt.progs rt.credits] with
            | some f => .inl (f.1, f.2, p.index)
            | none => .inr rt

/-- A load is refused, having examined placement `place` last (0 where it examined none: DESIGN CHOICE, notes/assumptions/122.md): the record,
RTE_EVENT.LOAD_FAIL, and the Lantern record (R123, R549, R561). -/
def Dev.loadFail (t code desc place : Nat) (d : Dev) : Dev :=
  let valid := d.is Reg.RTE_FAULT_CODE.VALID
  let d1 := d.record noOwner code 0 desc false
  let d2 := if valid then { d1 with lastPlace := place }
    else ({ d1 with recTen := t, lastPlace := place }.put Reg.RTE_FAULT_AUX.PLACEMENT place).put Reg.RTE_FAULT_AUX.SEGMENT 0
  ({ d2.lantern 7 0xFF 0 0 0 (code + place * 2 ^ 16) none with load := none }.put Reg.RTE_STATUS.LOADING 0).event
    (Reg.RTE_EVENT.LOAD_FAIL t)

/-- A lane at a load: tile configurations and in-use flags clear, the input-scale latch reads 0x7F (R149, R167). -/
def LaneSt.unconfigured (l : LaneSt) : LaneSt :=
  { l with accCfg := [], accUse := [], ws0 := {}, ws1 := {}, array := {}, gvCfg := [], gvUse := [], approach := [],
           scale := latchReset, scaleSrc := .kept }

/-- Register windows and status that follow the loaded Route (R121, R128). -/
def Dev.showRoute (d : Dev) : Dev :=
  let d1 := d |>.putB Reg.RTE_STATUS.LOADED d.rt.loaded |>.put Reg.RTE_STATUS.TENANCY d.rt.tenancy
    |>.put Reg.RTE_STATUS.PLACEMENT d.rt.placement
  (List.range 256).foldl (fun d c =>
    match d.rt.prog c with
    | some p => (d.put (Reg.CORE_STATUS.PLACED c) 1).put (Reg.CORE_STATUS.DESC_COUNT c) p.descs.length
    | none => ((d.put (Reg.CORE_STATUS.PLACED c) 0).put (Reg.CORE_STATUS.DESC_COUNT c) 0)) d1

/-- Install a Route: Route memory, softmax sets, tile configurations, and where another tenancy loaded the previous Route every
row, buffer and latch at zero (R211, R235). -/
def Dev.installRoute (rt : RouteSt) (d : Dev) : Dev :=
  let other := d.rt.loaded && d.rt.tenancy != rt.tenancy
  let clear (k : CoreSt) : CoreSt :=
    let k1 := if other then k.zeroed else k
    { k1 with smax := [], lane0 := k1.lane0.unconfigured, lane1 := k1.lane1.unconfigured, fork := none, arms := [], specFaults := [] }
  let cores := (List.range 256).foldl (fun m c => kset {} m c (clear (kget {} m c))) d.cores
  { d with rt := rt, cores := cores, run := { d.run with resume := .none, preempt := false }, credits := [] }.showRoute

/-- The load ends: the checks, then the Route (R119, R120). A run that began meanwhile, which R122 does not forbid, makes it end with
LOAD_BUSY (DESIGN CHOICE, notes/assumptions/119.md). -/
def Dev.loadComplete (m : Memory) (d : Dev) : Dev :=
  match d.load with
  | none => d
  | some l =>
    if d.running ∨ d.is Reg.RTE_STATUS.SUSPENDED then d.loadFail l.tenancy 0x010B 0 0
    else
      match d.loadCheck (fun off n => d.readMem m (l.addr + off) n) l.len l.tenancy with
      | .inl f => d.loadFail l.tenancy f.1 f.2.1 f.2.2
      | .inr rt =>
        let dig := BitVec.ofNat 384 (ofLeBytes (sha384 (d.memBytes m l.addr l.len)))
        let d1 := { d with load := none, lastPlace := rt.placement }.installRoute { rt with measure := dig }
        ((d1.put Reg.RTE_STATUS.LOADING 0).event (Reg.RTE_EVENT.LOAD_DONE l.tenancy)).lantern 7 0xFF 0 0 0 (rt.placement * 2 ^ 16) none

/-- LOAD: the range check of R521, LOAD_BUSY, and the load's beginning. An address whose low 12 bits are not 0 is kept by the register
and refused here with LOAD_ADDRESS: the spec says only that they must be 0 (DESIGN CHOICE, notes/assumptions/118.md). -/
def Dev.loadCmd (t addr len : Nat) (d : Dev) : Dev :=
  if addr % 4096 ≠ 0 ∨ !d.inSpace t addr len then d.loadFail t codeAddress 0 0
  else if d.running ∨ d.is Reg.RTE_STATUS.SUSPENDED ∨ d.load.isSome ∨ d.is Reg.PWR_STATE.THERMAL_HOLD then
    (let e := { d with load := none }.loadFail t 0x010B 0 0; { e with load := d.load }.putB Reg.RTE_STATUS.LOADING d.load.isSome)
  else if d.resident ≠ some t ∧ (kget {} d.tens t).enable then
    { d with afterSwitch := d.afterSwitch ++ [(t, AfterSwitch.load addr len)] }.requestSwitch t
  else { d with load := some { tenancy := t, addr := addr, len := len } }.put Reg.RTE_STATUS.LOADING 1

end Sys2Proof.Machine
end

