-- ==== Sys2Proof/Machine/Engine.lean ====
section
/-! DEFINITION. The advance of one tick: landings, busy ticks of streaming occurrences, and the Route sequencer with its
scoreboard mode (R34 to R38, R47, R167, R198, R245 to R250, R268). -/

namespace Sys2Proof.Machine

/-- One busy tick of an occurrence. -/
def Dev.rowAct (opc : Nat) (i : Inst) (o : Owner) (j lane : Nat) (lt : Latch) (d : Dev) : Dev :=
  match opc with
  | 0x01 => d.fetchRowTick i o j
  | 0x02 => d.fetchVbufTick i o j lane
  | 0x03 => d.fetchWgtTick i o j
  | 0x11 => d.streamTick 0x11 i o j lane lt
  | 0x12 => d.streamTick 0x12 i o j lane lt
  | 0x21 => d.loadvTick i o j lane
  | 0x22 => d.gemvTick i o j lane lt
  | 0x31 => d.drainTick i o j lane lt
  | 0x32 => d.ewTick i o j lane lt
  | 0x33 => d.funcTick i o j lane
  | 0x41 => d.redSumTick i o j lt
  | 0x42 => d.redTwoTick 0x42 i o j lt
  | 0x43 => d.redTwoTick 0x43 i o j lt
  | 0x44 => d.topkTick i o j lt
  | 0x51 => d.stRowTick i o j lane
  | 0x52 => d.stMemTick i o j lane lt
  | 0x61 => d.sendTick i o j
  | 0x62 => d.fanTick i o j
  | 0x63 => d.confTick i o j
  | 0x71 => d.passTick i o j
  | 0x72 => d.fwdTick i o j
  | 0xA2 => d.tmovRow i o j lane lt
  | 0xB1 => d.dmaRdTick i o j lt
  | 0xB2 => d.dmaWrTick i o j lt
  | 0xB3 => d.gatherTick i o j lt
  | 0xB4 => d.scatterTick i o j lt
  | _ => d

/-- What a scheduled item does when its tick comes. -/
def Dev.act (o : Owner) (a : Act) (d : Dev) : Dev :=
  match a with
  | .row opc i j lane lt => d.rowAct opc i o j lane lt
  | .landRow core bank row data via => d.landRowAct o core bank row via data
  | .landCtl bank row word kind lin => d.landCtl o bank row word kind lin
  | .landVbuf lane row data pair => d.landBuf o o.core lane row data pair
  | .landWgt lane ws j data src => d.landWgtRow o lane ws j data src
  | .landTmov i lane lt => d.landTmov o i lane lt
  | .landTile lane tile cfg rows => d.landTileWhole o lane tile cfg rows
  | .landSmax set sts => d.landStates o.core set sts
  | .landMat lane tile r => d.landMat o lane tile r
  | .landGemv lane tile member => d.landGemv o lane tile member
  | .tzero lane tile exact => d.landTzero o lane tile exact
  | .beacon bcn set v => d.landSignal o bcn set v
  | .confLand dest opd j => d.confLand o dest opd j
  | .fault code router port => if code = 0x0502 then d.collide o router port else d.raise o code
  | .exactFault => d.raise o 0x0301
  | .noop => d

/-- Insert an item in the order of R198. -/
def itemInsert (x : Item) : List Item → List Item
  | [] => [x]
  | y :: l => if rankLt x.owner.rank y.owner.rank then x :: y :: l else y :: itemInsert x l

/-- The items due now, landings or busy ticks, in the order of R198; equals keep the order in which they were scheduled. -/
def Dev.dueItems (land : Bool) (d : Dev) : List Item :=
  (d.run.sched.filter fun x => decide (x.due ≤ d.run.tick) && x.land == land).foldl (fun l x => itemInsert x l) []

/-- Carry out an item that nothing has dropped since. -/
def Dev.runItem (x : Item) (d : Dev) : Dev :=
  if d.run.sched.contains x then (d.onRun fun r => { r with sched := eraseFirst x r.sched }).act x.owner x.act else d

/-- The Beacon that an item signals. -/
def Item.bcn (x : Item) : Option Nat :=
  match x.act with
  | .beacon b _ _ => some b
  | _ => none

/-- The stage-3 entry presented now goes into the input-scale latch; entries presented before have left the queue (R47,
R167). -/
def LaneSt.advanceQueue (t : Nat) (l : LaneSt) : LaneSt :=
  let l1 := { l with approach := l.approach.filter fun e => decide (t ≤ e.present) }
  match l1.approach.find? fun e => e.present == t && e.stage == 3 with
  | some e => { l1 with scale := e.data, scaleSrc := e.src }
  | none => l1

/-- Move to the next tick: its landings, the signals of the tick in one store cycle for each Beacon (R37, R54, R384). -/
def Dev.advance (d : Dev) : Dev :=
  let t := d.run.tick + 1
  let d1 := d.onRun fun r =>
    { r with tick := t, issued := false, asked := false, relayIn := [], undo := [], ports := r.ports.filter (fun u => decide (t ≤ u.tick)),
             busy := r.busy.filter (fun b => decide (t < b.start + b.step * b.count)) }
  let d2 := d1.cores.foldl (fun (d : Dev) c =>
    d.onCore c.1 fun k => { k with lane0 := k.lane0.advanceQueue t, lane1 := k.lane1.advanceQueue t }) d1
  let lands := d2.dueItems true
  let d3 := lands.foldl (fun d x => d.runItem x) (d2.put Reg.TIM_RUN_TICK.TICK (d2.get Reg.TIM_RUN_TICK.TICK + 1))
  let d4 := (dedup (lands.filterMap Item.bcn)).foldl (fun d b => d.release b) d3
  d4.drainVariance.onRun RunSt.sweep

/-- The busy ticks of streaming occurrences that fall in the present tick; they see what has landed and what has completed in it
(R37, R145). -/
def Dev.busyTicks (d : Dev) : Dev := (d.dueItems false).foldl (fun d x => d.runItem x) d

/-! ### The sequencer (R34, R35, R110, R198) -/

/-- Command of an occurrence. -/
def instOf (opc : Nat) (i : Inst) : Option Instr :=
  match opc with
  | 0x01 => some (.fetchRow i)
  | 0x02 => some (.fetchVbuf i)
  | 0x03 => some (.fetchWgt i)
  | 0x11 => some (.matStream i)
  | 0x12 => some (.matStreamT i)
  | 0x21 => some (.gemvLoadv i)
  | 0x22 => some (.gemvMac i)
  | 0x31 => some (.lvDrain i)
  | 0x32 => some (.lvEw i)
  | 0x33 => some (.lvFunc i)
  | 0x41 => some (.redSum i)
  | 0x42 => some (.redSmax i)
  | 0x43 => some (.redNorm i)
  | 0x44 => some (.redTopk i)
  | 0x51 => some (.stRow i)
  | 0x52 => some (.stMem i)
  | 0x61 => some (.mshSend i)
  | 0x62 => some (.mshFan i)
  | 0x63 => some (.mshConf i)
  | 0x71 => some (.rlyPass i)
  | 0x72 => some (.rlyFwd i)
  | 0x81 => some (.bcnSig i)
  | 0x82 => some (.bcnMsg i)
  | 0x90 => some (.ctlNop i)
  | 0x91 => some (.ctlFork i)
  | 0x92 => some (.ctlPpoint i)
  | 0x93 => some (.ctlTime i)
  | 0x94 => some (.ctlRand i)
  | 0x95 => some (.ctlHlth i)
  | 0x96 => some (.stepOpen i)
  | 0x97 => some (.stepCommit i)
  | 0x98 => some (.ctlMark i)
  | 0xA1 => some (.tcfg i)
  | 0xA2 => some (.tmov i)
  | 0xA3 => some (.tzero i)
  | 0xB1 => some (.dmaRd i)
  | 0xB2 => some (.dmaWr i)
  | 0xB3 => some (.dmaSgather i)
  | 0xB4 => some (.dmaSscatter i)
  | _ => none

/-- A CTL.FORK issues at tick `t`: its fork is open from that tick on (R62, R110). -/
def Prog.opensAt (p : Prog) (x : BitVec 256) (t : Nat) : Bool := descOpc x == 0x91 && !(occurrencesAt p x 0 t).isEmpty

/-- Descriptor n issues at tick `t` in the ordinary list: it lies in no arm, or is a SPEC descriptor of arm P whose fork is open. -/
def Prog.plain (p : Prog) (k : CoreSt) (t n : Nat) (x : BitVec 256) : Bool :=
  match p.armOf n with
  | none => true
  | some (f, true) => descSpec x && (p.opensAt f.2.1 t || k.fork.any fun g => g.owner.tag == descTag f.2.1)
  | some _ => false

/-- Occurrences of a core at tick t: opcode and occurrence, by descriptor index (R34, R110). -/
def Dev.coreAt (d : Dev) (p : Prog) (t : Nat) : List (Nat × Inst) :=
  let k := d.core p.core
  (p.descs.zipIdx).flatMap fun x =>
    let arms := k.arms.filter fun a => decide (a.first ≤ x.2 ∧ x.2 < a.first + a.count) && !descSpec x.1
    let bases := (if p.plain k t x.2 x.1 then [0] else []) ++ arms.map Arm.base
    bases.flatMap fun b => (occurrencesAt p x.1 b t).map fun i => (descOpc x.1, i)

/-- Rank of an occurrence in its tick: TCFG and CTL.FORK first, which act on what issues in their tick (R110, R133), then the order of
R198. -/
def issueRank (x : Nat × Inst) : List Nat :=
  [if x.1 = 0xA1 ∨ x.1 = 0x91 then 0 else 1, x.1 / 16, (if x.2.lane.toNat = 2 then 1 else 0), x.2.coreN, 0, x.2.tag.toNat]

def issueInsert (x : Nat × Inst) : List (Nat × Inst) → List (Nat × Inst)
  | [] => [x]
  | y :: l => if rankLt (issueRank x) (issueRank y) then x :: y :: l else y :: issueInsert x l

/-! ### Scoreboard mode (R245 to R249) -/

/-- A scratch row range of an occurrence: write, bank, first row, rows, and the tick from which it is no longer in flight
(none: when the transfer of its TAG has arrived). -/
def sbRangesOf (p : Prog) (opc : Nat) (i : Inst) (t tail : Nat) : List SbRange :=
  let x : BitVec 256 := (p.descs.find? fun y => descTag y == i.tag.toNat && descOpc y == opc).getD 0#256
  let rd (op : BitVec 24) (k : Nat) : List SbRange :=
    if op.toNat ≠ opNone ∧ opSpace op = 0 then
      [{ bank := opBank op, first := opRow op, count := spanOf x k, write := false,
         till := some (t + (spanOf x k - 1) * rowStep x + 1), tag := i.tag.toNat }] else []
  let wr : List SbRange :=
    if i.opd.toNat ≠ opNone ∧ opSpace i.opd = 0 ∧ opc ≠ 0x82 ∧ opc ≠ 0xB4 then
      [{ bank := opBank i.opd, first := opRow i.opd, count := spanOf x 2, write := true,
         till := if opc = 0xB1 ∨ opc = 0xB3 then none else some (t + tail + 1), tag := i.tag.toNat }]
    else if opc = 0xB4 then
      [{ bank := opBank i.opd, first := opRow i.opd, count := 1, write := false, till := some (t + 1), tag := i.tag.toNat }]
    else []
  rd i.opa 0 ++ rd i.opb 1 ++ wr

/-- Two ranges share a row. -/
def SbRange.overlaps (a b : SbRange) : Bool :=
  a.bank == b.bank && decide (a.first < b.first + b.count) && decide (b.first < a.first + a.count)

/-- The ranges still in flight at the current tick. A transfer's destination range is in flight from its instance's issue on, through
the instance's own ticks, until its last row has arrived. -/
def Dev.sbLive (d : Dev) (core : Nat) : List SbRange :=
  (d.core core).sbRanges.filter fun r =>
    match r.till with
    | some t => decide (d.run.tick < t)
    | none => ((d.core core).sbNext.any fun x => x.2.tag.toNat == r.tag) ||
        (d.run.sched.any fun x => x.owner.core == core && x.owner.tag == r.tag) ||
        d.run.xfers.any fun x => x.owner.core == core && x.owner.tag == r.tag && !x.complete && !x.dropped

/-- The scoreboard check (R246). -/
def sbPass (live new : List SbRange) : Bool :=
  decide (live.length + new.length ≤ 32) && new.all fun n => live.all fun l => !(n.overlaps l && (n.write || l.write))

/-- Issue what a scoreboard core may issue now: occurrences in ascending order until one fails the check; a tick with a
failure is held. The check occupies the issue tick, so an instance acts, and every effect of it lands, one tick later than R96 states:
what issues now acts in the next tick, what issued in the last tick acts now (R245; DEDUCED, notes/assumptions/113.md). -/
def Dev.sbIssue (p : Prog) (all : List (Nat × Inst)) (d : Dev) : List (Nat × Inst) × Dev :=
  let c := p.core
  let d0 := d.onCore c fun k => { k with sbRanges := d.sbLive c }
  let k0 := d0.core c
  let todo := all.drop k0.sbDone
  let r := todo.foldl (fun (a : List (Nat × Inst) × List SbRange × Bool) x =>
    if a.2.2 then a
    else
      let new := sbRangesOf p x.1 x.2 d.run.tick ((d.tailOf p ((p.descs.find? fun y => descTag y == x.2.tag.toNat).getD 0#256) []).getD 0)
      if sbPass a.2.1 new then (a.1 ++ [x], a.2.1 ++ new, false) else (a.1, a.2.1, true)) ([], k0.sbRanges, false)
  (k0.sbNext, d0.onCore c fun k =>
    if r.2.2 then { k with sbNext := r.1, sbRanges := r.2.1, sbDone := k.sbDone + r.1.length, sbDelta := k.sbDelta + 1 }
    else { k with sbNext := r.1, sbRanges := r.2.1, sbDone := 0, sbHeld := 0 })

/-- A core runs the current segment in scoreboard mode. -/
def Dev.sbCore (d : Dev) (p : Prog) : Bool := bitOf p.sb.toNat (d.get Reg.RTE_STATUS.SEGMENT) && d.inRoute p.core

def Dev.sbSegment (d : Dev) : Bool := d.rt.progs.any d.sbCore

/-- The occurrences that issue in the current tick, in order, and the device with its busy ticks done and its scoreboards
advanced. -/
def Dev.issueNow (d0 : Dev) : List Instr × Dev :=
  let d := d0.busyTicks
  let r := (d.rt.progs.filter fun p => d.inRoute p.core).foldl (fun (a : List (Nat × Inst) × Dev) p =>
    if d.sbCore p then
      let x := a.2.sbIssue p ((d.coreAt p (d.run.tick - (d.core p.core).sbDelta)).foldl (fun l y => issueInsert y l) [])
      (a.1 ++ x.1, x.2)
    else (a.1 ++ d.coreAt p d.run.tick, a.2)) ([], d)
  ((r.1.foldl (fun l y => issueInsert y l) []).filterMap fun x => instOf x.1 x.2, r.2.onRun fun q => { q with issued := true })

/-- Every descriptor of the core's list has its last occurrence before tick `t`. -/
def Prog.lastBefore (p : Prog) (t : Nat) : Bool :=
  p.descs.all fun x => descOpc x == 0x9F || (descLevels p x).foldl (fun n l => n + (l.count - 1) * l.period) (descIssue x) < t

/-- Every scoreboard core has issued its last occurrence and seen every effect land (R249). -/
def Dev.sbFinished (d : Dev) : Bool :=
  d.rt.progs.all fun p => !d.sbCore p ||
    (p.lastBefore (d.run.tick + 1 - (d.core p.core).sbDelta) && (d.core p.core).sbDone == 0 && (d.core p.core).sbNext.isEmpty &&
      d.run.sched.all (fun x => x.owner.core != p.core) && d.run.xfers.all (fun x => x.owner.core != p.core) &&
      d.run.stores.all (fun x => x.owner.core != p.core) && d.run.ops.all (fun x => x.core != p.core))

/-- The segment has run its last tick: by its length, or by an exit fork (R43, R65, R249). -/
def Dev.segmentOver (d : Dev) : Bool :=
  (d.run.exitAt.any fun t => decide (t ≤ d.run.tick + 1)) ||
    (decide (segLength d.seg ≤ d.run.tick + 1) && (!d.sbSegment || d.sbFinished))

end Sys2Proof.Machine
end

