-- ==== Sys2Proof/Machine/Run.lean ====
section
/-! DEFINITION. The run: START, STOP, preemption, the Eclipse, freeze and suspension, the segment boundary, gates, launches,
and the tenancy switch (R38, R42 to R45, R52 to R60, R71 to R76, R91, R92, R122, R373, R386, R412 to R417, R430 to R434, R478,
R515, R570, R571). -/

namespace Sys2Proof.Machine

/-! ### Small steps -/

def Dev.setPhase (p : Phase) (d : Dev) : Dev :=
  (d.onRun fun r => { r with phase := p }).putB Reg.RTE_STATUS.RUNNING (p ≠ .idle)

/-- Nothing is in flight any more. -/
def RunSt.cleared (r : RunSt) : RunSt :=
  { r with sched := [], busy := [], ports := [], ops := [], xfers := [], stores := [], contribs := [], relayIn := [], undo := [], keys := [],
           holds := [], eclipse := false, eclipseHolds := [], stopping := none, exitAt := none, issued := false,
           aborted := false, ppoints := [], frozen := false, freezeAt := none, freezeMark := none, preempt := false, startWait := false }

/-- What a lane's registers hold at a segment's begin counts as kept: a restart prologue reads no row of an earlier segment again
(R76, R156). -/
def LaneSt.settled (l : LaneSt) : LaneSt :=
  { l with approach := [], gvSrc := [], scaleSrc := .kept, inSrc := .kept, ws0 := { l.ws0 with srcs := [] },
           ws1 := { l.ws1 with srcs := [] }, array := { l.array with srcs := [] } }

/-- A core's sequencer state is idle. -/
def CoreSt.quiet (k : CoreSt) : CoreSt :=
  { k with fork := none, arms := [], specFaults := [], sbDelta := 0, sbRanges := [], sbNext := [], sbHeld := 0, sbDone := 0,
           lane0 := k.lane0.settled, lane1 := k.lane1.settled }

def Dev.mapCores (f : CoreSt → CoreSt) (d : Dev) : Dev :=
  d.cores.foldl (fun (d : Dev) c => d.onCore c.1 f) d

/-! ### Units that leave and return (R43, R45, R124, R126, R314, R316) -/

/-- A core's map bit and CORE_STATUS.PRESENT. -/
def Dev.setPresent (c : Nat) (b : Bool) (d : Dev) : Dev :=
  let f := Reg.GLB_CORE_MAP.IN_SERVICE (c / 64)
  let w := d.get f
  let w0 := if bitOf w (c % 64) then w - 2 ^ (c % 64) else w
  (d.put f (if b then w0 + 2 ^ (c % 64) else w0)).putB (Reg.CORE_STATUS.PRESENT c) b

/-- Pending retirements and returns of cores and channels take effect. -/
def Dev.applyUnits (d : Dev) : Dev :=
  let d1 := (List.range 256).foldl (fun (d : Dev) c =>
    let k := d.core c
    if k.life = 1 then d.setCore c { k with life := 2 }
    else if k.returning then
      let away (r : RouteSt) : RouteSt := if r.loaded then { r with away := r.away ++ [c] } else r
      ({ d with flashCores := d.flashCores.filter (· ≠ c), rt := away d.rt,
                contexts := d.contexts.map fun (x : Nat × Ctx) => (x.1, { x.2 with rt := away x.2.rt }) }.setCore c
        { k with life := 0, returning := false }).setPresent c true
    else d) d
  let d2 := d1.chRetire.foldl (fun d ch => d.chLeave ch) d1
  d2.chRejoin.foldl (fun (d : Dev) ch =>
    let d3 := if ch < 64 then d.put Reg.MEM_CH_MAP_LO.IN_SERVICE (d.get Reg.MEM_CH_MAP_LO.IN_SERVICE + 2 ^ ch)
      else d.put Reg.MEM_CH_MAP_HI.IN_SERVICE (d.get Reg.MEM_CH_MAP_HI.IN_SERVICE + 2 ^ (ch - 64))
    { d3.put (Reg.MEM_CH_STAT.STATE ch) 0 with flashChans := d3.flashChans.filter (· ≠ ch) }) { d2 with chRejoin := [] }
    |>.putB Reg.MEM_STATUS.REJOIN_PENDING false

/-- The value of WPT_CTL comes into force (R368). -/
def Dev.applyWatchpost (d : Dev) : Dev :=
  { d with wptOn := d.is Reg.WPT_CTL.ENABLE, wptStop := d.is Reg.WPT_CTL.STOP, wptMask := d.get Reg.WPT_CTL.MASK }

/-! ### Stream rewrites (R91, R92) -/

/-- A stream entry with a word rewritten: BASE, or STRIDE (R91). -/
def rewriteWord (stride : Bool) (v : BitVec 64) (e : BitVec 128) : BitVec 128 :=
  if stride then BitVec.ofNat 128 (putBits e.toNat 64 32 v.toNat) else BitVec.ofNat 128 (putBits e.toNat 0 64 v.toNat)

/-- A rewritten word of a stream entry. -/
def Dev.rewriteEntry (w : Nat × Nat × Bool × BitVec 64) (d : Dev) : Dev :=
  let g (p : Prog) : Prog := if p.core = w.1 then { p with streams := p.streams.modify w.2.1 (rewriteWord w.2.2.1 w.2.2.2) } else p
  let d1 : Dev := { d with rt := { d.rt with progs := d.rt.progs.map g } }
  if w.2.2.1 then d1.put (Reg.STREAM_HI.STRIDE w.1 w.2.1) (w.2.2.2.toNat % 2 ^ 32) else d1.put (Reg.STREAM_LO.BASE w.1 w.2.1) w.2.2.2.toNat

/-- The check of a rewritten entry: its fault code, if it fails. -/
def Dev.rewriteFault (d : Dev) (c h : Nat) : Option Nat :=
  let e := d.stream c h
  if strBase e % 256 ≠ 0 ∨ strStride e % 256 ≠ 0 then some 0x0203
  else if strKind e = 0 then
    match d.rt.reach.find? fun r => r.1 == c && r.2.1 == h with
    | some r =>
      let a := strBase e + r.2.2.1 * strStride e
      let z := strBase e + r.2.2.2 * strStride e + 511
      if (d.region a).isSome && d.region a == d.region z && d.inSpace d.rt.tenancy a (z - a + 1) then none else some 0x0206
    | none => none
  else if strKind e = 2 then
    let cv := strBase e / 2 ^ 48
    let uses (p : Prog) (x : BitVec 256) : Bool := (descConvoy p x).isSome && (if descOpc x = 0xB1 then descOpa x else descOpd x) % 64 == h
    if strBase e % 2 ^ 48 = 0 ∧ cv < 512 ∧ strStride e = 512 ∧ d.is (Reg.WMK_CV0.VALID cv) ∧ d.is (Reg.WMK_P_STAT.PRESENT (d.get (Reg.WMK_CV0.PORT cv))) ∧
        d.get (Reg.WMK_CV0.TENANCY cv) = d.rt.tenancy ∧ !d.cairnConvoys.contains cv ∧
        d.rt.progs.all (fun p => if p.core = c then p.descs.all fun x => !uses p x || d.descConvoyOk p x else !(progConvoys p).contains cv)
      then none else some 0x0206
  else none

/-- Waiting rewrites take effect; the first that fails its check, as code, core and handle. One that fails is checked again at
the next START (DEDUCED, notes/assumptions/38.md). -/
def Dev.applyRewrites (d : Dev) : Dev × Option (Nat × Nat × Nat) :=
  let ws := d.rt.rewrites
  let d1 := ws.foldl (fun (d : Dev) w => d.rewriteEntry w) d
  ({ d1 with rt := { d1.rt with rewrites := ws.filter fun w => (d1.rewriteFault w.1 w.2.1).isSome } },
    ws.findSome? fun w => (d1.rewriteFault w.1 w.2.1).map fun f => (f, w.1, w.2.1))

/-! ### The end of a run -/

/-- The run ends: what waited for a boundary takes effect, the islands are idle. -/
def Dev.goIdle (d : Dev) : Dev :=
  let d1 := ((d.onRun RunSt.cleared).mapCores CoreSt.quiet).setPhase .idle
  let d2 := d1 |>.put Reg.RTE_STATUS.GATED 0 |>.put Reg.RTE_STATUS.ECLIPSE 0 |>.put Reg.RTE_STATUS.SUSPENDED 0
    |>.put Reg.MSH_STATUS.REBALANCE 0
  let d3 := (List.range 256).foldl (fun d c => (d.put (Reg.CORE_STATUS.FORK_OPEN c) 0).put (Reg.CORE_STATUS.SCOREBOARD c) 0) d2
  { d3 with gate := none, xlatFail := [], xlatRetry := [], pwr := { d3.pwr with idleSince := some d3.now } }.applyUnits.applyComb.applySlots true

/-- A Lantern record of an Eclipse that is over or abandoned (R61, R561). -/
def Dev.eclipseRecord (d : Dev) : Dev :=
  match d.run.eclipseHolds with
  | [] => d
  | h :: hs =>
    let d1 := ({ d with regs := (d.put Reg.TIM_MILESTONE.COUNT h.ms).regs }.lantern 3 0xFF 0 0 h.d
      (h.h % 2 ^ 40 + h.cause * 2 ^ 40 + min (2 ^ 32 - 1) (d.now - d.run.eclipseSince) * 2 ^ 48 + min (2 ^ 16 - 1) (hs.length + 1) * 2 ^ 80) none)
    d1.put Reg.TIM_MILESTONE.COUNT d.now

/-- The halt of a stopped segment: every effect still to come is dropped, an open step is interrupted (R38, R473); the peers of open instances are told (R458). `why` is
that of the Lantern SEG_END record: 2 fault, 3 STOP. -/
def Dev.halt (why code : Nat) (d : Dev) : Dev :=
  let d1 := (if d.run.eclipse then d.eclipseRecord else d).abortAll code
  let d2 := (d1.interruptStep.mirPassEnd).lantern 2 0xFF 0 0 d.run.tick (why + 0xFF00) none
  let d3 := (d2.goIdle).onRun fun r => { r with resume := .none }
  let v := d.rtView
  let d4 := if d.is (Reg.HP_XLAT_CTL.SUSPENDED v) then d3.put (Reg.HP_XLAT_CTL.SUSPENDED v) 0 else d3
  let d5 := if d.run.stopping.any (·.fault) then d4.event (Reg.RTE_EVENT.FAULT d.rt.tenancy) else d4
  if why = 3 then d5.event (Reg.RTE_EVENT.DONE d.rt.tenancy) else d5

/-- The run ends at a boundary without beginning a segment, with a fault and tag 0 (R92, R388, R434). -/
def Dev.endAtBoundary (code core desc : Nat) (d : Dev) : Dev :=
  let o : Owner := { core := core }
  ((d.record o code d.run.tick desc false).event (Reg.RTE_EVENT.FAULT d.rt.tenancy)).halt 2 code

/-! ### Beginning a segment -/

/-- Random keys and counters of the slots bound to the Route's tenancy (R179). -/
def Dev.slotKeys (d : Dev) : List (Nat × BitVec 64 × BitVec 64) :=
  (List.range 1024).filterMap fun s =>
    let w (k : Nat) : Nat := (d.slotWord s k).toNat
    if d.slotState s ≠ 0 ∧ d.slotTen s = d.rt.tenancy then
      some (s, BitVec.ofNat 64 (w 4 + 2 ^ 32 * w 5), BitVec.ofNat 64 (w 6 + 2 ^ 32 * w 7)) else none

/-- Segment tick 0 of the selected segment (R39, R43). -/
def Dev.beginSegment (d : Dev) : Dev :=
  let d1 := (d.onRun fun r => { r with tick := 0, issued := false, exitAt := none, keys := d.slotKeys }).setPhase .segment
  let d2 := (d1.put Reg.RTE_STATUS.GATED 0).mapCores CoreSt.quiet
  let d3 := { d2 with gate := none, pwr := { d2.pwr with idleSince := none } }
  let d4 := d3.rt.progs.foldl (fun d p => d.putB (Reg.CORE_STATUS.SCOREBOARD p.core) (d.sbCore p)) d3
  (d4.lantern 1 0xFF 0 0 0 (d.run.passNo % 2 ^ 24 + d.rt.placement * 2 ^ 24) none).mirPass

/-- The run's epoch E, and every count that starts from it (R431, R432, R435, R438). -/
def Dev.beginRun (epoch : Nat) (d : Dev) : Dev :=
  ((d.put Reg.TIM_EPOCH.COUNT epoch).put Reg.TIM_RUN_TICK.TICK 0).wmkEpoch

/-- No launch is armed any more (R430, R431, R433). -/
def Dev.disarmLaunch (d : Dev) : Dev :=
  { (d.put Reg.TIM_STATUS.LAUNCH_ARMED 0).put Reg.TIM_LAUNCH_AT.COUNT 0xFFFFFFFFFFFFFFFF with
    tim := { d.tim with armedAt := 0xFFFFFFFFFFFFFFFF } }

/-- Enter the boundary's hold for a relaunch, or begin the segment (R432 to R434). -/
def Dev.afterGate (d : Dev) : Dev :=
  if d.is Reg.TIM_STATUS.LAUNCH_ARMED then
    if d.tim.armedAt < d.now then
      d.disarmLaunch.event Reg.TIM_EVENT.LAUNCH_MISSED
        |>.endAtBoundary 0x0702 0 0
    else (d.put Reg.RTE_STATUS.GATED 0).setPhase .relaunch
  else d.beginSegment

/-- The boundary has selected its segment: its gate registers as a waiter (R101, R386). -/
def Dev.enterGate (d : Dev) : Dev :=
  let e := d.seg
  if segGate e = 0 then d.afterGate
  else
    let g : GateWait := { bcn := segGateBcn e, take := segGate e == 2, target := BitVec.ofNat 32 (segGateTgt e),
                          seg := d.get Reg.RTE_STATUS.SEGMENT, waited := 0 }
    ({ d with gate := some g, pwr := { d.pwr with idleSince := some d.now } }.setPhase .gate |>.put Reg.RTE_STATUS.GATED 1).release g.bcn

/-- GATE_RELEASE: the released gate's segment goes on. -/
def Dev.gateRelease (d : Dev) : Dev :=
  match d.gate with
  | some g => if g.released ∧ d.run.phase = .gate ∧ d.run.stopping.isNone then { d with gate := none }.afterGate else d
  | none => d

/-- RELAUNCH: the boundary's hold ends at the armed count. -/
def Dev.relaunch (d : Dev) : Dev :=
  let at_ := d.tim.armedAt
  if d.run.phase = .relaunch ∧ d.is Reg.TIM_STATUS.LAUNCH_ARMED ∧ at_ ≤ d.now ∧ d.run.stopping.isNone then
    (d.disarmLaunch.beginRun at_).event Reg.TIM_EVENT.LAUNCHED
      |>.beginSegment
  else d

/-- Select a segment with its pass number and the repeats left. -/
def Dev.select (seg pass left : Nat) (d : Dev) : Dev :=
  (d.put Reg.RTE_STATUS.SEGMENT seg).onRun fun r => { r with passNo := pass, repeatsLeft := left }

/-- The successor of the segment that ended (R43, R112, R177). -/
def Dev.successor (d : Dev) : Dev :=
  let e := d.seg
  let s := d.get Reg.RTE_STATUS.SEGMENT
  let goTo (n : Nat) : Dev := (d.select n (if n = s then d.run.passNo + 1 else 0) (segRepeat (d.segEntry n))).enterGate
  if segSucc e = 2 then (d.goIdle.onRun fun r => { r with resume := .none }).event (Reg.RTE_EVENT.DONE d.rt.tenancy)
  else if segSucc e = 1 ∧ d.run.repeatsLeft ≠ 0 then (d.select s (d.run.passNo + 1) (d.run.repeatsLeft - 1)).enterGate
  else goTo (segSuccIdx e)

/-- The pass of a repeated step, or the first segment (R42, R478). No rule lets START clear REPEAT_ARMED, so it stays until
CLEAR_REPEAT. -/
def Dev.firstSegment (d : Dev) : Dev :=
  if d.is Reg.CRN_STATUS.REPEAT_ARMED then
    d.select (d.get Reg.CRN_STEP_POS.SEGMENT) (d.get Reg.CRN_STEP_POS.PASS) (d.get Reg.CRN_STEP_POS.REPEATS_LEFT)
  else d.select 0 0 (segRepeat (d.segEntry 0))

/-! ### START (R42, R92, R122, R373, R417, R478) -/

/-- Begin the loaded Route from its first segment. -/
def Dev.startFresh (d : Dev) : Dev := ((d.beginRun d.now).firstSegment).enterGate

/-- Resume a preempted or restored run. -/
def Dev.resumeRun (d : Dev) : Dev :=
  let d1 := (d.onRun fun r => { r with resume := .none }).lantern 9 0xFF 0 0 d.run.tick 2 none
  match d.run.resume with
  | .atTick => (d1.setPhase .segment).prologue
  | .atBoundary => d1.successor
  | .atGate => d1.enterGate
  | .none => d.startFresh

/-- Go on once the Mirror is armed or not asked for: rewritten streams are checked first, but for a run that resumes within a segment,
whose rewrites wait for the boundary (R91, R92). -/
def Dev.startGo (d : Dev) : Dev :=
  let d0 := d.onRun fun r => { r with startWait := false }
  if d.run.resume = .atTick then d0.resumeRun
  else
    let (d1, f) := d0.applyRewrites
    match f with
    | some x => d1.endAtBoundary x.1 x.2.1 x.2.2
    | none => d1.applyWatchpost.mirDisarm.resumeRun

/-- A START that arms the Mirror (R373). -/
def Dev.startMirror (d : Dev) : Dev :=
  let d1 := d.mirTake
  match d1.mirRouteOk with
  | some r => (d1.armFail r).startGo
  | none =>
    let d2 := ({ d1 with mir := { d1.mir with arming := some d.now } }.onRun fun r => { r with startWait := true }).sendArm
    match d2.mir.peerArm with
    | some a => ({ d2 with mir := { d2.mir with peerArm := none } }.armSettle a).startGo
    | none => d2

/-- START of a tenancy. -/
def Dev.startCmd (t : Nat) (d : Dev) : Dev :=
  if d.running ∨ d.run.startWait ∨ d.is Reg.PWR_STATE.THERMAL_HOLD then d
  else if d.resident ≠ some t ∧ (kget {} d.tens t).enable then
    { d with afterSwitch := d.afterSwitch ++ [(t, AfterSwitch.start)] }.requestSwitch t
  else if !d.rt.loaded ∨ d.rt.tenancy ≠ t then d
  else if d.startBarred then d.event Reg.CRN_EVENT.START_REFUSED
  else if d.run.resume = .none ∧ d.is Reg.TIM_STATUS.LAUNCH_ARMED then d
  else if d.is Reg.MIR_CTL.ENABLE ∧ !d.is Reg.MIR_STATUS.ARMED then d.startMirror
  else d.startGo

/-- LAUNCH: the armed count has come with no segment running (R431, R434). -/
def Dev.launch (d : Dev) : Dev :=
  let at_ := d.tim.armedAt
  if d.running ∨ !d.is Reg.TIM_STATUS.LAUNCH_ARMED ∨ d.now < at_ then d
  else
    let d1 := d.disarmLaunch
    if !d.rt.loaded then d1.event Reg.TIM_EVENT.LAUNCH_MISSED
    else if d.startBarred then d1.event Reg.TIM_EVENT.LAUNCH_MISSED
    else if d.get Reg.PWR_STATE.STATE > 1 then (d1.event Reg.TIM_EVENT.LAUNCH_MISSED).endAtBoundary 0x0702 0 0
    else
      let (d2, f) := d1.applyRewrites
      match f with
      | some x => d2.endAtBoundary x.1 x.2.1 x.2.2
      | none => ((d2.applyWatchpost.mirDisarm.beginRun at_).event Reg.TIM_EVENT.LAUNCHED).firstSegment.beginSegment

/-! ### STOP and PREEMPT (R71, R74, R122) -/

/-- End a suspension without its segment. -/
def Dev.endSuspension (d : Dev) : Dev :=
  { d.onRun (fun r => { r with suspendedNs := r.suspendedNs + (d.now - r.suspendSince) }) with xlatFail := [], xlatRetry := [] }
    |>.put Reg.RTE_STATUS.SUSPENDED 0 |>.put (Reg.HP_XLAT_CTL.SUSPENDED d.rtView) 0

/-- STOP: a load in progress is abandoned, with no event, and a run, or a START that waits for Mirror arming, ends with RTE_EVENT.DONE
(R122; the events are a DESIGN CHOICE, notes/assumptions/120.md). -/
def Dev.stopCmd (d : Dev) : Dev :=
  let d1 := if d.load.isSome then { d with load := none }.put Reg.RTE_STATUS.LOADING 0 else d
  if d1.run.phase = .segment then d1.stopAt (d1.run.tick + 1) 3 0
  else if d1.running then d1.halt 3 0
  else if d1.run.startWait then (d1.onRun fun r => { r with startWait := false }).event (Reg.RTE_EVENT.DONE d1.rt.tenancy)
  else d1

/-- PREEMPT: one that comes in a boundary, at a gate or in a relaunch hold is taken too, since R71 names a boundary among the preemption
points (DEDUCED, notes/assumptions/121.md). -/
def Dev.preemptCmd (d : Dev) : Dev := if d.running then d.onRun fun r => { r with preempt := true } else d

/-- A preemption, or a pending switch, waits for a preemption point. -/
def Dev.preemptPending (d : Dev) : Bool := d.run.preempt || !d.switchReqs.isEmpty

/-- The next tick to issue: after the current one, or the first of a segment. -/
def Dev.nextIssue (d : Dev) : Nat := if d.run.issued then d.run.tick + 1 else d.run.tick

/-- A CTL.PPOINT issues at tick `t`. -/
def Dev.ppointAt (t : Nat) (d : Dev) : Bool :=
  d.rt.progs.any fun p => (d.coreAt p t).any fun x => x.1 == 0x92

/-- The device stands at a preemption point: before the tick of a CTL.PPOINT, an Eclipse of that tick over (R73), or in a boundary. A
segment in scoreboard mode has none but the boundary (R71, R72, R249). -/
def Dev.atPreemptPoint (d : Dev) : Bool :=
  match d.run.phase with
  | .segment => !d.held && d.run.stopping.isNone && !d.sbSegment && d.ppointAt d.nextIssue && d.quietAt d.nextIssue &&
      d.run.holds.all fun h => decide (d.nextIssue < h.h)
  | .gate => true
  | .relaunch => true
  | _ => false

/-- The preemption: every tile operation in flight is aborted, the run stands until START (R71, R75). -/
def Dev.takePreemption (d : Dev) : Dev :=
  let res : Resume := if d.run.phase = .segment then .atTick else if d.run.phase = .boundary then .atBoundary else .atGate
  let d1 := d.onRun fun r => { r.abortOps with resume := res, preempt := false }
  let d2 := { d1 with gate := none, pwr := { d1.pwr with idleSince := some d.now } }.setPhase .idle |>.put Reg.RTE_STATUS.GATED 0
  ((d2.lantern 9 0xFF 0 0 d.run.tick 0 none).event (Reg.RTE_EVENT.PREEMPTED d.rt.tenancy)).applySlots true

/-- PREEMPTION_TAKEN. -/
def Dev.preemptionTaken (d : Dev) : Dev := if d.preemptPending && d.atPreemptPoint then d.takePreemption else d

/-! ### The segment boundary (R43) -/

/-- The segment has ended: its records, the boundary's 33 ticks, what waited for a boundary. -/
def Dev.leaveSegment (d : Dev) : Dev :=
  let why := if d.run.exitAt.isSome then 1 else 0
  let e := d.seg
  let succ := if segSucc e = 2 then 0xFF
    else if segSucc e = 1 ∧ d.run.repeatsLeft ≠ 0 then d.get Reg.RTE_STATUS.SEGMENT else segSuccIdx e
  let d1 := (d.mirPassEnd.lantern 2 0xFF 0 0 d.run.tick (why + succ * 2 ^ 8) none).onRun fun r =>
    { r.cleared with cont := r.cont + 33, preempt := r.preempt, tick := r.tick,
                     freezeAt := r.freezeAt, freezeMark := r.freezeMark }
  let d2 := (d1.setPhase .boundary).put Reg.TIM_RUN_TICK.TICK (d.get Reg.TIM_RUN_TICK.TICK + 33)
  d2.applyUnits.applyComb.applySlots false

/-- The boundary goes on: rewritten streams are checked, a preemption or a switch is taken, else the successor begins. -/
def Dev.leaveBoundary (d : Dev) : Dev :=
  let (d1, f) := d.applyRewrites
  match f with
  | some x => d1.endAtBoundary x.1 x.2.1 x.2.2
  | none =>
    let d2 := d1.applyWatchpost.mirDisarm
    if d2.preemptPending then d2.takePreemption else d2.successor

def Dev.segmentBoundary (d : Dev) : Dev :=
  if d.run.phase ≠ .segment ∨ d.held ∨ !d.segmentOver ∨ d.run.stopping.isSome then d else d.leaveSegment.leaveBoundary

/-- SCOREBOARD_SEGMENT_END: the same boundary, once every scoreboard core is done (R249). -/
def Dev.scoreboardEnd (d : Dev) : Dev := if d.sbSegment then d.segmentBoundary else d

/-! ### The Eclipse (R54 to R60) -/

/-- A hold's condition has cleared. -/
def Dev.holdClear (d : Dev) (w : HoldWhy) : Bool :=
  match w with
  | .rows c t => d.run.xfers.all fun x => !(x.owner.core == c && x.owner.tag == t && x.checked) || x.complete || x.dropped
  | .acks c t => d.run.stores.all fun x => !(x.owner.core == c && x.owner.tag == t && x.checked) || x.acked
  | .slip => d.slip.isEmpty
  | .variance t l => (d.peerBytes t l).isSome
  | .mirror => decide (d.mir.own.length < 64)

/-- Every hold condition has cleared, and the Eclipse has lasted its least time. -/
def Dev.eclipseClear (d : Dev) : Bool :=
  d.run.eclipse && !d.is Reg.RTE_STATUS.SUSPENDED && !d.stopDue && decide (40 ≤ d.now - d.run.eclipseSince) &&
    d.run.eclipseHolds.all fun h => d.holdClear h.why

/-- The Eclipse becomes a suspension (R74, R75, R515). -/
def Dev.suspend (d : Dev) : Dev :=
  match d.xlatFail with
  | [] => d
  | f :: _ =>
    let v := f.1
    let d1 := d |>.put (Reg.HP_XLAT_REC.ADDR v) f.2.1 |>.putB (Reg.HP_XLAT_REC.WRITE v) f.2.2.1 |>.putB (Reg.HP_XLAT_REC.ERROR v) f.2.2.2
    let d2 := (d1.put Reg.RTE_STATUS.SUSPENDED 1).put (Reg.HP_XLAT_CTL.SUSPENDED v) 1
    let d3 := (d2.onRun fun r => { r.abortOps with suspendSince := d.now }).lantern 9 0xFF 0 0 (d.run.tick + 1) 1 none
    (d3.blockFault noOwner 0x0403 true).event (Reg.RTE_EVENT.SUSPEND d.rt.tenancy)

/-- The effect tick of the hold requests that are due: the next tick, or the first of theirs in the boundary that follows the segment's
last tick (R54, R55). -/
def Dev.holdTick (d : Dev) : Nat :=
  if d.segmentOver then (d.run.holds.map Hold.h).foldl min ((d.run.holds.map Hold.h).headD 0) else d.run.tick + 1

/-- A hold request takes effect before the next tick. -/
def Dev.holdDue (d : Dev) : Bool := d.run.holds.any fun x => decide (x.h ≤ d.holdTick)

/-- ECLIPSE_BEGIN: a hold request takes effect. -/
def Dev.eclipseBegin (d : Dev) : Dev :=
  let h := d.holdTick
  let now := d.run.holds.filter fun x => decide (x.h ≤ h)
  if !d.inSegment ∨ d.run.eclipse ∨ now.isEmpty then d
  else
    let d1 := d.onRun fun r => { r with eclipse := true, eclipseSince := d.now, suspendedNs := 0, eclipseHolds := now,
                                        holds := r.holds.filter fun x => !decide (x.h ≤ h) }
    let d2 := if now.any fun x => x.why == .slip then d1.put Reg.MSH_STATUS.REBALANCE 1 else d1
    (d2.put Reg.RTE_STATUS.ECLIPSE 1).suspend

/-- ECLIPSE_RELEASE: tick H begins; operations that a suspension aborted are brought back first (R58, R76). -/
def Dev.eclipseRelease (d : Dev) : Dev :=
  if !d.eclipseClear then d
  else
    let d1 := ((d.eclipseRecord.onRun fun r => { r with eclipse := false, eclipseHolds := [] }).put Reg.RTE_STATUS.ECLIPSE 0).put
      Reg.MSH_STATUS.REBALANCE 0
    if d.run.aborted then d1.prologue else d1

/-- ROUTE_WATCHDOG: the Eclipse outlasts its limit, in which a suspension of it does not count (R74), a scoreboard core holds issue past
it, or its segment reaches the last
count (R60, R247, R249). -/
def Dev.watchdogDue (d : Dev) : Bool :=
  let lim := d.get Reg.RTE_ECLIPSE_LIMIT.LIMIT_NS
  d.inSegment &&
    ((d.run.eclipse && !d.is Reg.RTE_STATUS.SUSPENDED && !d.stopDue &&
        decide (lim < d.now - d.run.eclipseSince - d.run.suspendedNs)) ||
     (d.run.stopping.isNone && !d.held && d.sbSegment && (decide (2 ^ 40 - 1 ≤ d.run.tick) || d.rt.progs.any fun p => decide (lim < (d.core p.core).sbHeld))))

def Dev.routeWatchdog (d : Dev) : Dev := if d.watchdogDue then d.faultAt noOwner 0x0208 d.faultTick else d

/-- The first overrun is recorded until the host clears the event; a later one is counted in Lantern only (R277). -/
def Dev.slipRecord (router port : Nat) (plus : Bool) (d : Dev) : Dev :=
  let held := d.is Reg.MSH_EVENT.OVERRUN
  let d1 := if held then d
    else (d |>.putB Reg.MSH_SLIP_REC.SIGN plus |>.put Reg.MSH_SLIP_REC.PORT port |>.put Reg.MSH_SLIP_REC.ROUTER router
      |>.put Reg.MSH_SLIP_REC.TICK d.run.tick).event Reg.MSH_EVENT.OVERRUN
  (d1.count Reg.MSH_OVERRUNS.COUNT 1).blockFault noOwner 0x0501 (!held)

/-- MESH_SLIP_OVERRUN: the debt of a crossing reaches +4 or -4 (R270, R271, R277). -/
def Dev.slipOverrun (router port : Nat) (plus : Bool) (d : Dev) : Dev :=
  if !d.inSegment ∨ d.held ∨ (crossing router port).isNone then d
  else
    let key := router * 8 + port
    ((d.slipBy key ((if plus then 4 else -4) - d.debt key)).slipRecord router port plus).hold 6 .slip

/-! ### Translations and RETRY (R510, R515, R516) -/

/-- A failed translation is recorded; during an Eclipse it suspends the device, and during the suspension it is counted. -/
def Dev.xlatFails (v page : Nat) (write error : Bool) (d : Dev) : Dev :=
  let d1 := { d with xlatFail := d.xlatFail ++ [(v, page, write, error)] }
  if d.is Reg.RTE_STATUS.SUSPENDED then d1.blockFault noOwner 0x0403 false
  else if !d.run.eclipse then d1 else d1.suspend

/-- RETRY: every failed translation is asked for again. -/
def Dev.retryCmd (v : Nat) (d : Dev) : Dev :=
  if !d.is (Reg.HP_XLAT_CTL.SUSPENDED v) then d
  else
    let mine := d.xlatFail.filter fun f => f.1 == v
    mine.foldl (fun d f => d.emit (.cxl v cxlTranslate (f.2.1 * 4096)))
      { d with xlatFail := d.xlatFail.filter (fun f => f.1 != v), xlatRetry := mine.map fun f => (f.1, f.2.1, f.2.2.1),
               xlatPend := d.xlatPend ++ mine.map fun f => (f.1, f.2.1, f.2.2.1) }

/-- A retried translation has been answered: when the last one is, the suspension ends, or goes on with a new record. -/
def Dev.retrySettle (v page : Nat) (d : Dev) : Dev :=
  if !d.xlatRetry.any (fun x => x.1 == v && x.2.1 == page) then d
  else
    let d1 := { d with xlatRetry := d.xlatRetry.filter fun x => !(x.1 == v && x.2.1 == page) }
    if !d1.xlatRetry.isEmpty then d1
    else if d1.xlatFail.isEmpty then d1.endSuspension.lantern 9 0xFF 0 0 (d.run.tick + 1) 2 none
    else
      let f := d1.xlatFail.headD (v, page, false, false)
      let d2 := d1 |>.put (Reg.HP_XLAT_REC.ADDR v) f.2.1 |>.putB (Reg.HP_XLAT_REC.WRITE v) f.2.2.1 |>.putB (Reg.HP_XLAT_REC.ERROR v) f.2.2.2
      d2.msix v (d2.get (Reg.HP_EVT_VEC.EVT v))

/-! ### Freezing (R570, R571) -/

/-- FREEZE_BEGIN. -/
def Dev.freezeBegin (d : Dev) : Dev :=
  if d.inSegment && !d.run.eclipse && !d.run.frozen && d.run.freezeAt.any (fun t => decide (t ≤ d.run.tick + 1)) then
    (d.onRun fun r => { r with frozen := true, freezeAt := none }).lantern 9 0xFF 0 0 (d.run.tick + 1) 3 none
  else d

/-- The freeze is released; `n` ticks run before the next one, where a count is given. -/
def Dev.unfreeze (n : Option Nat) (d : Dev) : Dev :=
  (d.onRun fun r => { r with frozen := false, freezeAt := n.map (r.tick + 1 + ·) }).lantern 9 0xFF 0 0 (d.run.tick + 1) 4 none

/-! ### The tenancy switch (R412 to R417) -/

/-- Scratch as its rows read, by row number: a remapped row from its spare, a row under test from the save register (R241, R242). -/
def CoreSt.rowsOf (k : CoreSt) : KMap Row :=
  let m := k.remap.foldl (fun m e => kset 0#4096 m e.1 (kget 0#4096 k.scratch (k.cells (e.1 / 1024) (e.1 % 1024))))
    (kfilter (fun key => decide (key % 1024 < 576)) k.scratch)
  match k.test with
  | some t => if k.tested t.bank t.row then kset 0#4096 m (rowKey t.bank t.row) k.saveReg else m
  | none => m

/-- Write rows back to where each row's accesses find it now. -/
def CoreSt.storeRows (m : KMap Row) (k : CoreSt) : CoreSt :=
  m.foldl (fun (k : CoreSt) e => k.storeRow (e.1 / 1024) (e.1 % 1024) e.2) { k with scratch := [], saveReg := 0#4096 }

/-- A placed core as a restore leaves it: what belongs to the Route comes from the context, its rows by row number; remaps, tests and the
rest stay (R235, R241, R242, R415). -/
def CoreSt.restored (saved cur : CoreSt) : CoreSt :=
  let k := cur.storeRows saved.scratch
  { saved with scratch := k.scratch, saveReg := k.saveReg, bad := cur.bad, weak := cur.weak, remap := cur.remap, spareBad := cur.spareBad,
               test := cur.test, testQueue := cur.testQueue, testNext := cur.testNext, testDue := cur.testDue, outbound := [], inRoute := cur.inRoute,
               inHost := cur.inHost, inReply := cur.inReply, delivered := cur.delivered, life := cur.life, returning := cur.returning }

/-- The context of the resident tenancy (R415): with it, everything of its operations in flight, which the restart prologue brings
back (R76). -/
def Dev.saveContext (d : Dev) : Ctx :=
  { rt := d.rt, cores := d.rt.progs.map (fun p => (p.core, { d.core p.core with scratch := (d.core p.core).rowsOf })), run := { d.run with ports := [] },
    regs := [(Reg.RTE_STATUS.SEGMENT.key, d.get Reg.RTE_STATUS.SEGMENT)] }

/-- Bytes of a save area that a save writes: the header, and the part of each placed core (R416). -/
def Dev.saveRanges (d : Dev) (t : Nat) : List (Nat × Nat) :=
  let a := (kget {} d.tens t).save
  (a, 2 ^ 21) :: d.rt.progs.map fun p => (a + 2 ^ 21 + 3 * 2 ^ 20 * p.core, 3 * 2 ^ 20)

/-- Device memory after a switch: the save area of the outgoing tenancy holds bytes whose layout is open. -/
def Dev.switchMem (d : Dev) (m : Memory) : Memory :=
  match d.resident with
  | some t =>
    if d.rt.loaded then
      (d.saveRanges t).foldl (fun m r => (List.range r.2).foldl (fun m k => d.writeByte m (r.1 + k) (Config.freeByte (d.fresh + r.1 + k))) m) m
    else m
  | none => m

/-- Set every Beacon of a tenancy to 0. -/
def Dev.zeroBeacons (t : Nat) (d : Dev) : Dev := { d with beacons := kfilter (fun b => !d.ownsBeacon t b) d.beacons }

/-- The store releases the waits of a tenancy whose targets its Beacons have reached (R384). -/
def Dev.releaseOf (t : Nat) (d : Dev) : Dev :=
  (dedup ((d.hwaits.filter fun w => w.ten == t).map HWait.bcn)).foldl (fun d b => d.release b) d

/-- A switch is served: a request is pending, nothing runs or the boundary waits, no load and no suspension. -/
def Dev.switchReady (d : Dev) : Bool :=
  d.winner.isSome && !d.is Reg.RTE_STATUS.SUSPENDED && d.load.isNone && decide (d.run.phase ≠ .segment) && decide (d.run.phase ≠ .boundary)

/-- Steps 1 and 2 of R414. -/
def Dev.switchOut (t : Nat) (d : Dev) : Dev :=
  let d1 := if d.rt.loaded then
      (d.saveRanges t).foldl (fun d r => d.rewritten r.1 r.2)
        { d with contexts := d.contexts.filter (fun c => c.1 ≠ t) ++ [(t, d.saveContext)], fresh := d.fresh + 1 }
    else d
  let d2 := d1.zeroBeacons t
  ((d2.hwaits.filter fun w => w.ten == t).foldl (fun (d : Dev) w => d.endWait w 4) { d2 with gate := none }).wmkSwitch t

/-- Step 5: the incoming tenancy's context; a failed digest discards it. -/
def Dev.switchIn (t : Nat) (intact : Bool) (d : Dev) : Dev × Bool :=
  let d0 := { d with rt := {}, run := { cont := d.run.cont } }
  match d.contexts.find? fun c => c.1 == t with
  | none => (d0.showRoute, true)
  | some c =>
    let d1 := { d0 with contexts := d0.contexts.filter fun c => c.1 ≠ t }
    if !intact then (d1.showRoute.event (Reg.SES_EVENT.RESTORE_FAIL t), false)
    else
      let cores := c.2.cores.foldl (fun m x => kset {} m x.1 (x.2.restored (kget {} m x.1))) d1.cores
      let d2 := { d1 with rt := c.2.rt, cores := cores, run := { c.2.run with cont := d.run.cont, phase := .idle } }.showRoute
      (c.2.regs.foldl (fun (d : Dev) r => { d with regs := kset 0 d.regs r.1 r.2 }) d2, true)

/-- What waited for a tenancy to become resident is carried out (R412). -/
def Dev.afterSwitchDo (a : AfterSwitch) (t : Nat) (d : Dev) : Dev :=
  match a with
  | .load addr len => d.loadCmd t addr len
  | .start => d.startCmd t
  | .message m => if d.msgToCore m then d.postMsg m else (d.put (Reg.SES_MSG_CTL.BUSY t) 0).sesRefuse t

/-- A completion record for a switch: one that a SWITCH command is owed is answered by it. -/
def Dev.switchRecord (t code : Nat) (d : Dev) : Dev :=
  if d.switchOwed.contains t then { d with switchOwed := d.switchOwed.filter (· ≠ t) }.complete t code
  else (d.owe t).complete t code

/-- What waited for tenancy `t` to become resident is carried out. -/
def Dev.afterSwitchAll (t : Nat) (d : Dev) : Dev :=
  (d.afterSwitch.filter fun a => a.1 == t).foldl (fun d a => d.afterSwitchDo a.2 t)
    { d with afterSwitch := d.afterSwitch.filter fun a => a.1 != t }

/-- The reports of a switch from `old` to `t`: completion records, events, the Lantern record (R414, R417). -/
def Dev.switchReport (old : Option Nat) (t : Nat) (ok : Bool) (d : Dev) : Dev :=
  let code := if ok then 0 else 0x0606
  let d1 := match old with
    | some u => ((d.switchRecord u 0).switchRecord t code).event (Reg.SES_EVENT.SWITCHED u)
    | none => d.switchRecord t code
  (d1.event (Reg.SES_EVENT.SWITCHED t)).lantern 8 0xFF 0 0 0 (old.getD t + t * 2 ^ 4 + (if ok then 0 else 2 ^ 8)) none

/-- Tenancy `t` becomes resident, and its request ends. -/
def Dev.makeResident (t : Nat) (intact : Bool) (d : Dev) : Dev × Bool :=
  { ((d.mapCores CoreSt.zeroed).zeroBeacons t).releaseOf t with resident := some t, switchReqs := d.switchReqs.filter (· ≠ t) }.switchIn t intact

/-- Steps 1 and 2 of R414, of the tenancy that is resident; a run that waits at a boundary is left. -/
def Dev.leaveResident (d : Dev) : Dev :=
  let d1 := if d.running then d.takePreemption else d
  match d1.resident with
  | some u => d1.switchOut u
  | none => d1

/-- TENANCY_SWITCH. -/
def Dev.tenancySwitch (intact : Bool) (d : Dev) : Dev :=
  match d.winner with
  | none => d
  | some t =>
    if !d.switchReady then d
    else
      let r := d.leaveResident.makeResident t intact
      (r.1.updSession.switchReport d.resident t r.2).afterSwitchAll t

end Sys2Proof.Machine
end

