-- ==== Sys2Proof/Machine/Power.lean ====
section
/-! DEFINITION. Clock islands and power: own and shadow stretches, operating points, the throttle, the thermal and power limits,
power states and wake events (R320 to R348, R520, R556, R596, R597). -/

namespace Sys2Proof.Machine

/-! ### Stretches (R323 to R326, R596) -/

/-- The window of the continuous tick count (R324). -/
def Dev.window (d : Dev) : Nat := d.run.cont / 16

/-- Windows in which an island took an own stretch, of the most recent 4,096. -/
def Dev.stretchWins (d : Dev) (i : Nat) : List Nat := (kget [] d.pwr.wins i).filter fun k => decide (d.window < k + 4096)

/-- An island takes its own stretch in the current tick. -/
def Dev.takeStretch (i : Nat) (d : Dev) : Dev :=
  (({ d with pwr := { d.pwr with warned := kset false d.pwr.warned i false,
                                 wins := kset [] d.pwr.wins i (d.window :: d.stretchWins i) } }.stretchIslands [i]).count
    (Reg.CLK_STRETCH.COUNT i) 1).tally fun h => { h with stretched := kset 0 h.stretched i (kget 0 h.stretched i + 1) }

/-- The count of an island is above HIGH_PCT. -/
def Dev.stretchAbove (d : Dev) (i : Nat) : Bool :=
  decide (d.get Reg.CLK_STRETCH_CTL.HIGH_PCT * 4096 < (d.stretchWins i).length * 100)

/-- One period of the tick clocks: warnings are served on odd ticks, one own stretch for each island and window; in the last tick of
a window the islands whose count has fallen to the threshold may pass it again. -/
def Dev.contTick (d : Dev) : Dev :=
  let d1 := d.onRun fun r => { r with cont := r.cont + 1 }
  if d1.run.cont % 2 = 1 then
    let d2 := (List.range 21).foldl (fun (d : Dev) i =>
      if kget false d.pwr.warned i && !(d.stretchWins i).contains d.window then d.takeStretch i else d) d1
    if d2.run.cont % 16 = 15 then
      { d2 with pwr := { d2.pwr with above := kfilter (fun i => d2.stretchAbove i) d2.pwr.above } }.tally fun h => { h with windows := h.windows + 1 }
    else d2
  else d1

/-- CLK_MARGIN_LOST: the segment stops at this tick, every tick clock runs at P4, a pending change is cancelled (R325). -/
def Dev.marginLost (d : Dev) : Dev :=
  let d1 := if d.running then d.faultAt noOwner 0x0A03 d.faultTick else d.blockFault noOwner 0x0A03 true
  let d2 := { d1 with pwr := { d1.pwr with opp := none, oppTick := none, rail := 4 } }
  let d3 := ((d2.put Reg.CLK_OPP.CURRENT 4).put Reg.CLK_OPP.PENDING 0).put Reg.CLK_OPP_AT.AT 0xFFFFFFFFFFFFFFFF
  (d3.event Reg.CLK_EVENT.MARGIN_LOST).lantern 10 0xFF 0 0 d.run.tick (4 + 8 * d.get Reg.CLK_THROTTLE.LEVEL) none

/-- OWN_STRETCH: a monitor of an island reports a margin code, which asks for a stretch where it is below WARN; code 0 is CLK_MARGIN_LOST,
whatever WARN is (R323, R325). -/
def Dev.ownStretch (i margin : Nat) (d : Dev) : Dev :=
  if 20 < i ∨ 2 ≤ d.get Reg.PWR_STATE.STATE then d
  else
    let d1 : Dev := if margin < d.get Reg.CLK_STRETCH_CTL.WARN then { d with pwr := { d.pwr with warned := kset false d.pwr.warned i true } } else d
    if margin = 0 then d1.marginLost else d1

/-- The shadow tick of a window has come and some island stretched in it. -/
def Dev.shadowDue (d : Dev) : Bool :=
  decide (d.run.cont % 16 = 0) && decide (32 ≤ d.run.cont) && decide (d.pwr.shadowed < d.window - 1) &&
    (List.range 21).any fun i => (d.stretchWins i).contains (d.window - 2)

/-- SHADOW_STRETCH: every tick-clocked island that took no own stretch in window k stretches in tick 16(k + 2). -/
def Dev.shadowStretch (d : Dev) : Dev :=
  if d.shadowDue then
    ({ d with pwr := { d.pwr with shadowed := d.window - 1 } }.stretchIslands
      ((List.range 21).filter fun i => !(d.stretchWins i).contains (d.window - 2))).count Reg.CLK_SHADOWS.COUNT 1
  else d

/-- An island's count has passed HIGH_PCT in the window that ends. -/
def Dev.stretchHighDue (d : Dev) (i : Nat) : Bool :=
  decide (d.run.cont % 16 = 15) && d.stretchAbove i && !kget false d.pwr.above i

/-- STRETCH_HIGH. -/
def Dev.stretchHigh (i : Nat) (d : Dev) : Dev :=
  if d.stretchHighDue i then
    { d with pwr := { d.pwr with above := kset false d.pwr.above i true } }.event Reg.CLK_EVENT.STRETCH_HIGH
  else d

/-! ### Operating points (R331 to R335) -/

/-- What CLK_OPP_AT reads after a refused arming: the pending change's count. -/
def Dev.oppCount (d : Dev) : Nat :=
  match d.pwr.opp with
  | some x => x.2
  | none => 0xFFFFFFFFFFFFFFFF

/-- The arming is refused (R333). -/
def Dev.oppRefused (d : Dev) (c : Nat) : Bool :=
  let t := d.get Reg.CLK_OPP.TARGET
  decide (t < d.get Reg.GLB_GRADE.MAX_OPP) || (d.rt.loaded && decide (t < d.rt.maxOpp)) ||
    (decide (t < d.get Reg.CLK_OPP.CURRENT) && decide (c < d.now + 250000)) || d.is Reg.PWR_STATE.THERMAL_HOLD

/-- Arm a change, or cancel the pending one, with the count that CLK_OPP_AT holds. The rail of an upward change begins to rise
now; a cancelled one gives its rise back (R334). -/
def Dev.oppArm (d : Dev) : Dev :=
  let c := d.get Reg.CLK_OPP_AT.AT
  let cur := d.get Reg.CLK_OPP.CURRENT
  let t := d.get Reg.CLK_OPP.TARGET
  if c = 0xFFFFFFFFFFFFFFFF then
    { d with pwr := { d.pwr with opp := none, oppTick := none, rail := cur } }.put Reg.CLK_OPP.PENDING 0
  else if d.oppRefused c then (d.put Reg.CLK_OPP_AT.AT d.oppCount).event Reg.CLK_EVENT.OPP_REFUSED
  else { d with pwr := { d.pwr with opp := some (t, c), oppTick := none, rail := min t cur } }.put Reg.CLK_OPP.PENDING 1

/-- A write of CLK_OPP_AT by the host driver: a low half is stored, a write that includes the high half arms (R10, R332). -/
def Dev.oppAtWrite (b : Nat) (part : RegPart) (v : Nat) (d : Dev) : Dev :=
  if d.acting b ≠ some 0 then d
  else
    match part with
    | .low => d.put Reg.CLK_OPP_AT.AT (d.get Reg.CLK_OPP_AT.AT / 2 ^ 32 * 2 ^ 32 + v % 2 ^ 32)
    | .high => (d.put Reg.CLK_OPP_AT.AT (v % 2 ^ 32 * 2 ^ 32 + d.get Reg.CLK_OPP_AT.AT % 2 ^ 32)).oppArm
    | .whole => (d.put Reg.CLK_OPP_AT.AT v).oppArm

/-- The armed count has come: the tick of the switch is fixed (R335). During an Eclipse it is tick H; in S2 or deeper it is the
next tick that runs. -/
def Dev.oppReach (d : Dev) : Dev :=
  match d.pwr.opp, d.pwr.oppTick with
  | some x, none =>
    if x.2 ≤ d.now then
      let t := if d.run.eclipse ∨ 2 ≤ d.get Reg.PWR_STATE.STATE then d.run.cont else (d.run.cont + 24 + 15) / 16 * 16
      { d with pwr := { d.pwr with oppTick := some t } }
    else d
  | _, _ => d

/-- The switch takes effect now. -/
def Dev.oppDue (d : Dev) : Bool :=
  d.pwr.opp.isSome && !d.run.eclipse && decide (d.get Reg.PWR_STATE.STATE < 2) && d.pwr.oppTick.any fun t => decide (t ≤ d.run.cont)

/-- OPP_SWITCH. -/
def Dev.oppSwitch (d : Dev) : Dev :=
  match d.pwr.opp with
  | none => d
  | some x =>
    if !d.oppDue then d
    else
      let d1 := { d with pwr := { d.pwr with opp := none, oppTick := none, rail := x.1 } }
      let d2 := ((d1.put Reg.CLK_OPP.CURRENT x.1).put Reg.CLK_OPP.PENDING 0).put Reg.CLK_OPP_AT.AT 0xFFFFFFFFFFFFFFFF
      (d2.event Reg.CLK_EVENT.OPP_DONE).lantern 10 0xFF 0 0 d.run.tick (x.1 + 8 * d.get Reg.CLK_THROTTLE.LEVEL) none

/-! ### Sensors, the throttle, the limits (R343 to R347, R556) -/

/-- Throttle temperature in force. -/
def Dev.throttleC (d : Dev) : Int := min 105 (d.get Reg.PWR_THERM_CTL.THROTTLE_C)

/-- Power limit in force. -/
def Dev.limitW (d : Dev) : Nat := min 1500 (d.get Reg.PWR_LIMIT_W.WATTS)

/-- Hottest die sensor and its island: the lowest island among equals. -/
def Dev.hottest (d : Dev) : Int × Nat :=
  match d.dieTemp with
  | [] => (0, 0)
  | e :: l => l.foldl (fun (m : Int × Nat) x => if m.1 < x.2 then (x.2, x.1) else m) (e.2, e.1)

/-- The module's power exceeds its limit. -/
def Dev.overPower (d : Dev) : Bool := decide (d.limitW < d.get Reg.PWR_MODULE_W.WATTS)

/-- The throttle level should rise. -/
def Dev.hot (d : Dev) : Bool := decide (d.throttleC ≤ d.hottest.1) || d.overPower

/-- Temperature no longer demands the level. -/
def Dev.dieCool (d : Dev) : Bool := decide (d.hottest.1 ≤ d.throttleC - 3)

/-- Power no longer demands the level. -/
def Dev.powerCool (d : Dev) : Bool := decide (d.get Reg.PWR_MODULE_W.WATTS * 100 ≤ 95 * d.limitW)

/-- CLK_THROTTLE's demand bits follow the samples (DEDUCED, notes/assumptions/24.md). -/
def Dev.demands (d : Dev) : Dev :=
  let lv := decide (d.get Reg.CLK_THROTTLE.LEVEL ≠ 0)
  (d.putB Reg.CLK_THROTTLE.THERMAL (lv && !d.dieCool)).putB Reg.CLK_THROTTLE.POWER (lv && !d.powerCool)

/-- One die sample of an island: its hottest sensor. The second sample out of range in a row reads 150 °C. -/
def Dev.dieSample (i : Nat) (c : Int) (d : Dev) : Dev :=
  let bad := decide (c < -40 ∨ 150 < c)
  let v : Int := if bad && kget false d.dieBad i then 150 else c
  { d with dieTemp := kput d.dieTemp i v, dieBad := kset false d.dieBad i bad }

/-- SENSOR_SAMPLE. -/
def Dev.sensorSample (die : List (BitVec 5 × Int)) (watts : Nat) (d : Dev) : Dev :=
  let d1 := (die.filter fun x => decide (x.1.toNat < 21)).foldl (fun (d : Dev) x => d.dieSample x.1.toNat x.2) d
  let h := d1.hottest
  let d2 := ((d1.put Reg.PWR_TEMP.DIE (intBits 8 h.1)).put Reg.PWR_TEMP.ISLAND h.2).put Reg.PWR_MODULE_W.WATTS (min 2047 watts)
  let keep (b : Bool) (o : Option Nat) : Option Nat := if b then some (o.getD d.now) else none
  let d3 : Dev := { d2 with mod := { d2.mod with sampled := true },
                            pwr := { d2.pwr with hotSince := keep d2.hot d2.pwr.hotSince,
                                                 coolSince := keep (d2.dieCool && d2.powerCool) d2.pwr.coolSince } }
  d3.demands

/-- The level rises now, or falls. -/
def Dev.throttleStep (d : Dev) : Option Nat :=
  let l := d.get Reg.CLK_THROTTLE.LEVEL
  if l < 7 ∧ d.pwr.hotSince.any (fun t => decide (t + 100000 ≤ d.now)) then some (l + 1)
  else if 0 < l ∧ d.pwr.coolSince.any (fun t => decide (t + 1000000 ≤ d.now)) then some (l - 1)
  else none

/-- THROTTLE_LEVEL_CHANGE. -/
def Dev.throttleChange (d : Dev) : Dev :=
  match d.throttleStep with
  | none => d
  | some l =>
    let d1 : Dev := { d with pwr := { d.pwr with hotSince := d.pwr.hotSince.map fun _ => d.now, coolSince := d.pwr.coolSince.map fun _ => d.now,
                                                 fullSince := if l = 7 then some d.now else none } }
    ((d1.put Reg.CLK_THROTTLE.LEVEL l).demands.event Reg.PWR_EVENT.THROTTLE).lantern 10 0xFF 0 0 d.run.tick
      (d.get Reg.CLK_OPP.CURRENT + 8 * l + 64) none

def Dev.powerLimitDue (d : Dev) : Bool :=
  decide (d.get Reg.CLK_THROTTLE.LEVEL = 7) && d.overPower && d.pwr.fullSince.any fun t => decide (t + 10000000 ≤ d.now)

/-- POWER_LIMIT. It is raised once for each time the level reaches 7. -/
def Dev.powerLimit (d : Dev) : Dev :=
  if !d.powerLimitDue then d
  else
    let d1 : Dev := { d with pwr := { d.pwr with fullSince := none }, mod := { d.mod with limited := true } }
    (d1.raiseNext 0x0A02).event Reg.PWR_EVENT.POWER_LIMIT

/-! ### Power states (R336 to R342) -/

/-- Exit latency of a state (R336). -/
def exitNs (s : Nat) : Nat := [0, 1000, 15000, 250000, 4000000, 40000000].getD s 40000000

/-- The device is idle (R339). -/
def Dev.idle (d : Dev) : Bool :=
  (d.run.phase == .idle || d.run.phase == .gate) && d.load.isNone && !d.run.startWait && !d.is Reg.MEM_STATUS.COPY_BUSY &&
    !d.is Reg.MEM_STATUS.DIGEST_BUSY

/-- A state that R340 allows now. -/
def Dev.stateOk (d : Dev) (s : Nat) : Bool :=
  decide (s ≤ d.get Reg.PWR_STATE.MAX_DEPTH) && (d.run.phase != .gate || decide (s ≤ 2)) &&
    ((List.range 16).all fun t => !(kget {} d.tens t).enable || decide (exitNs s ≤ d.get (Reg.PWR_BUDGET_NS.NS t))) &&
    (!d.is Reg.TIM_STATUS.LAUNCH_ARMED || decide (d.now + exitNs s ≤ d.tim.armedAt))

/-- The deepest state that R340 allows now. -/
def Dev.deepest (d : Dev) : Nat := ((List.range 6).filter d.stateOk).foldl max 0

/-- Domains that the grade fuses leave on: PD19 and PD20 hold the ports (R22, R337). -/
def Dev.fusedOn (d : Dev) : Nat :=
  let m := d.get Reg.GLB_GRADE.PORT_MASK
  2 ^ 24 - 1 - (if m % 16 = 0 then 2 ^ 19 else 0) - (if m / 16 = 0 then 2 ^ 20 else 0)

/-- PWR_DOMAIN_ON and PWR_DOMAIN_RET in a state (R337). -/
def domainsOn (s : Nat) (hold : Bool) : Nat :=
  if s ≤ 2 then 0xFFFFFF
  else if s = 3 then 0xFF0000
  else if s = 4 then (if hold then 0xE70000 else 0xFF0000)
  else 0xE40000

def domainsRet (s : Nat) : Nat := if s = 3 then 0xFFFF else if s = 5 then 0x30000 else 0

def Dev.updDomains (d : Dev) : Dev :=
  let s := d.get Reg.PWR_STATE.STATE
  (d.put Reg.PWR_DOMAIN_ON.PD (domainsOn s (d.is Reg.PWR_STATE.THERMAL_HOLD) &&& d.fusedOn)).put Reg.PWR_DOMAIN_RET.PD
    (domainsRet s &&& d.fusedOn)

/-- A row test in progress ends with the row's contents back in place. -/
def CoreSt.endTest (k : CoreSt) : CoreSt :=
  match k.test with
  | some t => if 2 ≤ t.step ∧ t.row < 576 then
      { k with test := none, scratch := kset 0#4096 k.scratch (k.cells t.bank t.row) k.saveReg } else { k with test := none }
  | none => k

/-- The spare-row remaps that the configuration flash holds for a core (R236, R242). -/
def Dev.remapsOf (d : Dev) (c : Nat) : KMap Nat :=
  (d.flashRemaps.filter fun r => r.1 == c).foldl (fun m r => kset 0 m r.2.1 r.2.2) []

/-- A lane whose island was off: tile registers clear; the input-scale latch, and where its arrays were off the vector buffers,
hold values that the spec does not state (notes/assumptions/25.md). -/
def LaneSt.poweredUp (off : Bool) (k : Nat) (l : LaneSt) : LaneSt :=
  let l1 := { l.unconfigured with scale := BitVec.ofNat 4096 (Config.freeNat k), scaleSrc := .kept }
  if off then
    { l1 with vbufTag := [],
              vbuf := (List.range 128).foldl (fun m r => kset 0#4096 m r (BitVec.ofNat 4096 (Config.freeNat (k + r + 1)))) [] }
  else l1

/-- A core whose island was off (R149, R211). -/
def CoreSt.poweredUp (off : Bool) (k : Nat) (c : CoreSt) : CoreSt :=
  { c with smax := [], lane0 := c.lane0.poweredUp off k, lane1 := c.lane1.poweredUp off (k + 129), fork := none, arms := [],
           specFaults := [] }

/-- What a state loses on entry (R236, R338). Messages that wait in a core's queues, and its delivery count, go with its island in S4 and
S5 (DESIGN CHOICE, notes/assumptions/126.md). -/
def Dev.loseFor (s : Nat) (d : Dev) : Dev :=
  if s < 3 then d
  else if s = 3 then d.mapCores CoreSt.endTest
  else
    let d1 : Dev := { d with rt := {}, load := none, credits := [], run := { d.run with resume := .none, ops := [] } }
    let d2 := (d1.put Reg.RTE_STATUS.LOADING 0).showRoute
    (List.range 256).foldl (fun (d : Dev) c =>
      d.onCore c fun k => { k.zeroed with remap := d.remapsOf c, test := none, outbound := [], inRoute := [], inHost := [], inReply := [],
                                          delivered := 0 }) d2

/-- Ports lose their links when their domain goes off (R337, R421). -/
def Dev.portsDown (d : Dev) : Dev :=
  (List.range 8).foldl (fun d p =>
    if bitOf (d.get Reg.PWR_DOMAIN_ON.PD) (if p < 4 then 19 else 20) then d
    else (d.linkChange p 0 false).linkChange p 1 false) d

/-- Enter a state. The check blocks are written back before the DRAM enters self refresh or deep sleep (R288). -/
def Dev.enterState (s : Nat) (d : Dev) : Dev :=
  let d0 := if 4 ≤ s then (d.loseFor s).flushChecks else d.loseFor s
  let d1 := (d0.put Reg.PWR_STATE.STATE s).updDomains.portsDown
  { d1 with pwr := { d1.pwr with selfRefresh := decide (4 ≤ s), idleSince := some d.now } }

/-- Leave the present state for `s` (R341, R342). -/
def Dev.leaveTo (s : Nat) (d : Dev) : Dev :=
  let old := d.get Reg.PWR_STATE.STATE
  if old ≤ s then d
  else
    let d1 := if 4 ≤ old ∨ (3 ≤ old ∧ s < 3) then
        let n := d.fresh
        (List.range 256).foldl (fun (d : Dev) c => d.onCore c (CoreSt.poweredUp (decide (4 ≤ old)) (n + 258 * c)))
          { d with fresh := n + 258 * 256 }
      else d
    let d2 := (d1.put Reg.PWR_STATE.STATE s).updDomains
    let d3 : Dev := { d2 with pwr := { d2.pwr with selfRefresh := decide (4 ≤ s), idleSince := some d.now } }
    if 2 ≤ old then d3.event Reg.PWR_EVENT.WOKE else d3

/-- The conditions under which the thermal hold may end (R347). -/
def Dev.coolEnough (d : Dev) : Bool :=
  (d.dieTemp.all fun x => decide (x.2 ≤ d.throttleC - 10)) && d.pwr.mr4Over.isEmpty &&
    (List.range 12).all fun p => decide (bitsOf (d.get Reg.MEM_DERATE.MULT) (2 * p) 2 ≤ 1)

/-- A wake event (R341, R342, R597). -/
def Dev.wakeUp (ev : WakeEvent) (d : Dev) : Dev :=
  if d.is Reg.PWR_STATE.THERMAL_HOLD then
    if ev = .ctrlWake ∧ d.coolEnough ∧ d.get Reg.PWR_STATE.STATE = 4 then
      let d1 : Dev := { d with mod := { d.mod with alert := false } }
      ((d1.put Reg.PWR_STATE.THERMAL_HOLD 0).emit (.pin 2 false)).leaveTo 0
    else d
  else if d.get Reg.PWR_STATE.STATE = 0 then { d with pwr := { d.pwr with idleSince := d.pwr.idleSince.map fun _ => d.now } }
  else if ev = .cxlMem ∧ 4 ≤ d.get Reg.PWR_STATE.STATE then d.leaveTo 3
  else d.leaveTo 0

/-- WAKE: the event has come about. -/
def Dev.wake (ev : WakeEvent) (d : Dev) : Dev :=
  let real : Bool := match ev with
    | .gateReady => d.gate.any (·.released)
    | .launchNear => d.is Reg.TIM_STATUS.LAUNCH_ARMED
    | .budget => decide (d.deepest < d.get Reg.PWR_STATE.STATE)
    | _ => true
  if real then d.wakeUp ev else d

/-- Idleness has lasted PWR_IDLE_NS and a deeper state is allowed; or a thermal hold waits to be entered. -/
def Dev.stateDue (d : Dev) : Option Nat :=
  if d.is Reg.PWR_STATE.THERMAL_HOLD then
    if d.get Reg.PWR_STATE.STATE ≠ 4 ∧ !d.running then some 4 else none
  else if d.mod.fw ∧ d.idle ∧ d.get Reg.PWR_STATE.STATE < d.deepest ∧
      d.pwr.idleSince.any (fun t => decide (t + d.get Reg.PWR_IDLE_NS.NS ≤ d.now)) then some d.deepest
  else none

/-- POWER_STATE_ENTRY. -/
def Dev.powerStateEntry (d : Dev) : Dev :=
  match d.stateDue with
  | some s => d.enterState s
  | none => d

/-! ### THERMAL_TRIP (R347) -/

def Dev.tripDue (d : Dev) : Bool :=
  !d.is Reg.PWR_STATE.THERMAL_HOLD && (decide (110 ≤ d.hottest.1) || !d.pwr.mr4Over.isEmpty)

/-- THERMAL_TRIP: the alert, the stop at the next tick, and the hold; S4 is entered once the segment has stopped. -/
def Dev.thermalTrip (d : Dev) : Dev :=
  if !d.tripDue then d
  else
    let d1 : Dev := { d with mod := { d.mod with alert := true, tripped := true } }
    let d2 := ((d1.emit (.pin 2 true)).raiseNext 0x0A01).event Reg.PWR_EVENT.THERMAL_TRIP
    (d2.put Reg.PWR_STATE.THERMAL_HOLD 1).powerStateEntry

/-! ### Budgets and WAKE (R341, R499, R520, R597) -/

/-- A write of PWR_BUDGET_NSt by the host of tenancy t or of binding 0. -/
def Dev.budgetWrite (b t ns : Nat) (d : Dev) : Dev :=
  match d.acting b with
  | none => d
  | some me => if me = 0 ∨ me = t then (d.put (Reg.PWR_BUDGET_NS.NS t) ns).wake .budget else d

/-- A write of PWR_CTRL.WAKE. -/
def Dev.ctrlWake (b : Nat) (d : Dev) : Dev := if (d.acting b).isSome then d.wakeUp .ctrlWake else d

end Sys2Proof.Machine
end

