-- ==== Sys2Proof/Machine/MemCtl.lean ====
section
/-! DEFINITION. What hosts, controllers and the management processor do with device memory: the interleave map, check failures,
refresh, digests, channels that are lost, retired, tested and returned (R282 to R319, R532, R556). -/

namespace Sys2Proof.Machine

/-! ### Fuse fields (R532) -/

/-- `n` fuse bits from bit `lo`, as last sensed. -/
def Dev.fuse (d : Dev) (lo n : Nat) : Nat := bitsOf d.sec.sensed.toNat lo n

/-- The fuses hold a core present. -/
def Dev.coreFused (d : Dev) (c : Nat) : Bool := decide (c < 256) && bitOf (d.fuse 1928 256) c

/-- The fuses hold a channel present. -/
def Dev.chFused (d : Dev) (ch : Nat) : Bool := decide (ch < 96) && bitOf (d.fuse 2270 96) ch

/-! ### IMAP_APPLY (R282, R285) -/

/-- The written entries, by index; `none` where VALID is 0. -/
def Dev.imapWritten (d : Dev) (k : Nat) : Option Imap :=
  if d.is (Reg.MEM_IMAP_A.VALID k) then
    some { base := d.get (Reg.MEM_IMAP_A.BASE k), size := d.get (Reg.MEM_IMAP_A.SIZE k), gran := imapGran (d.get (Reg.MEM_IMAP_A.GRAN k)),
           first := d.get (Reg.MEM_IMAP_B.FIRST k), count := imapCount (d.get (Reg.MEM_IMAP_B.COUNT k)),
           chOff := d.get (Reg.MEM_IMAP_B.CH_OFF k), shadow := d.get (Reg.MEM_IMAP_B.SHADOW k) }
  else none

/-- An entry alone satisfies R282; its channels exist. -/
def Imap.ok (e : Imap) : Bool :=
  e.first % e.count == 0 && decide (e.first + e.count ≤ 96) && e.size % (16 * e.count) == 0 &&
    decide (e.chOff + e.size / (16 * e.count) ≤ 189)

/-- Two entries overlap in address, or in some channel's data space. -/
def Imap.clash (a b : Imap) : Bool :=
  let above (x n y k : Nat) : Bool := decide (x < y + k) && decide (y < x + n)
  above a.base a.size b.base b.size ||
    (above a.first a.count b.first b.count && above a.chOff (a.size / (16 * a.count)) b.chOff (b.size / (16 * b.count)))

/-- No entry clashes with a later one. -/
def imapsApart : List Imap → Bool
  | [] => true
  | e :: l => l.all (fun f => !e.clash f) && imapsApart l

/-- A command of the MEM block is refused. -/
def Dev.memRefuse (d : Dev) : Dev := d.event Reg.MEM_EVENT.CMD_REFUSED

/-- IMAP_APPLY: the written entries come into force and the loaded Route is discarded. -/
def Dev.imapApply (b : Nat) (d : Dev) : Dev :=
  if d.acting b ≠ some 0 then d
  else
    let es := (List.range 32).filterMap d.imapWritten
    if d.running ∨ d.load.isSome ∨ d.crn.step.isSome ∨ d.digestJob.isSome ∨ !(es.all Imap.ok && imapsApart es) then d.memRefuse
    else
      let d1 : Dev := { d with imap := es, rt := {}, credits := [], run := { d.run with resume := .none } }
      d1.showRoute

/-! ### Check failures (R291 to R295, R314) -/

/-- Device address of a channel byte offset. -/
def Dev.addrOf (d : Dev) (ch off : Nat) : Option Nat :=
  d.imap.findSome? fun e =>
    let lo := e.chOff * 2 ^ 25
    if e.first ≤ ch ∧ ch < e.first + e.count ∧ lo ≤ off ∧ off < lo + e.size * 2 ^ 21 / e.count then
      let x := off - lo
      some (e.base * 2 ^ 21 + (x / e.gran * e.count + (ch - e.first)) * e.gran + x % e.gran)
    else none

/-- Data blocks of a check group of a channel, by block of its data space. -/
def groupBlocks (ch off : Nat) : List Nat := (List.range 63).map fun b => dramKey ch (off / 16128 * 16128) / 256 + b

/-- Mark a block as failing its check until it is rewritten whole. -/
def Dev.markBad (blk : Nat) (d : Dev) : Dev := { d with badBlk := kset false d.badBlk blk true }

/-- The digest job in progress ends failed (R293, R318). -/
def Dev.digestFail (d : Dev) : Dev :=
  match d.digestJob with
  | none => d
  | some _ =>
    let d1 : Dev := { d with digestJob := none }
    ((d1.put Reg.MEM_STATUS.DIGEST_BUSY 0 |>.put Reg.MEM_DIGEST_STAT.ERROR 1).put Reg.MEM_DIGEST_STAT.VALID 0).event Reg.MEM_EVENT.DIGEST_FAIL

/-- What a persistent failure does to its reader; a scheduled transfer that its arm dropped has no reader left (R68, R69). A host access that meets it comes as a command of its own. -/
def Dev.readerFails (blk : Nat) (by_ : BlockReader) (d : Dev) : Dev :=
  match by_ with
  | .scheduled core tag =>
    match d.run.xfers.find? fun x => x.owner.core == core.toNat && x.owner.tag == tag.toNat && !x.dropped with
    | some x => d.raiseArrival x.owner 0x0401
    | none => d
  | .cxlMem => { d with failMet := some blk }
  | .copyEngine =>
    let a := (d.addrOf (blk / 2 ^ 25) (dataOffset (256 * (blk % 2 ^ 25)))).getD 0
    if d.is Reg.CRN_STATUS.RESTORING then (d.copyEnds a).restoreEnd true [] else if d.is Reg.CRN_STATUS.COPYING then d.copyEnds a else d
  | .digestEngine => d.digestFail
  | .mergeWrite => { d with failMet := some blk }

/-- Lantern records of `n` re-reads of a block. -/
def Dev.rereadRecords (ch addr : Nat) : Nat → Dev → Dev
  | 0, d => d
  | n + 1, d => (d.lantern 11 0xFF 0 0 d.run.tick (ch + 1024 * (addr / 256)) none).rereadRecords ch addr n

/-- BLOCK_CHECK_FAIL: `n` re-reads were made; where the last failed too the failure is persistent. -/
def Dev.blockCheckFail (ch off : Nat) (checkBlock : Bool) (n : Nat) (persistent : Bool) (by_ : BlockReader) (d : Dev) : Dev :=
  match d.addrOf ch off with
  | none => d
  | some a0 =>
    if !d.chServes ch then d
    else
      let a := a0 / 256 * 256
      let k := if persistent then 3 else n
      let d0 := ((d.count (Reg.MEM_CH_STAT.RESENDS ch) k).count Reg.MEM_RESENDS.COUNT k).tally fun h => { h with rereads := h.rereads + k }
      let d1 := d0.rereadRecords ch a k
      if !persistent then d1
      else
        let tag := match by_ with
          | .scheduled _ t => t.toNat
          | _ => 0
        let sched := match by_ with
          | .scheduled _ _ => true
          | _ => false
        let kind := if by_ = .mergeWrite then 4 else if checkBlock then 2 else 1
        let rec_ := if checkBlock then (d.addrOf ch (off / 16128 * 16128)).getD a else a
        let d2 := (d1.memRecord kind ch rec_ tag sched).event Reg.MEM_EVENT.PERSISTENT
        let d3 := if checkBlock then (groupBlocks ch off).foldl (fun d x => d.markBad x) d2 else d2.markBad (dramKey ch off / 256)
        (d3.countPersistent ch).readerFails (dramKey ch off / 256) by_

/-- A read that meets a block known to fail finds it failing again (R292, R294): counted now unless BLOCK_CHECK_FAIL has counted it for
this access. -/
def Dev.meetBad (at_ : Option Nat) (by_ : BlockReader) (d : Dev) : Dev :=
  match at_.bind d.dramAt with
  | some k =>
    let d1 := if d.failMet = some (k / 256) then d else d.blockCheckFail (k / 2 ^ 33) (dataOffset (k % 2 ^ 33)) false 3 true by_
    { d1 with failMet := none }
  | none => d

/-! ### The step-shadow copy engine and the digest engines (R301, R308, R309, R468, R474) -/

/-- The engine has copied its blocks before block `n`, or has ended at one whose check fails (R293). -/
def Dev.copyUpTo (n : Nat) (m : Memory) (d : Dev) : Dev :=
  match d.crn.step with
  | some s =>
    if d.is Reg.CRN_STATUS.COPYING then (d.copyTo n m).meetBad ((d.copyFails m s n).map s.blockAt) .copyEngine else d
  | none => d

/-- STEP_COPY_DONE: the last blocks are copied and the copy has completed. -/
def Dev.copyAll (m : Memory) (d : Dev) : Dev :=
  match d.crn.step with
  | some s =>
    let n := 8192 * s.addrs.length
    (d.copyUpTo n m).copyDone (d.copyToMem n m)
  | none => d

/-- Device memory after it. -/
def Dev.copyAllMem (d : Dev) (m : Memory) : Memory :=
  match d.crn.step with
  | some s => d.copyToMem (8192 * s.addrs.length) m
  | none => m

/-- The engine's order has come to the block of a held write, which can then land (R309). -/
def Dev.copyBlock (addr : Nat) (m : Memory) (d : Dev) : Dev :=
  match d.crn.step with
  | some s => if d.writeHeld addr then d.copyUpTo (s.blockOf addr + 1) m else d
  | none => d

/-- The same on device memory. -/
def Dev.copyBlockMem (addr : Nat) (d : Dev) (m : Memory) : Memory :=
  match d.crn.step with
  | some s => if d.writeHeld addr then d.copyToMem (s.blockOf addr + 1) m else m
  | none => m

/-- The end of a restore: a slot that fails its check ends it as failed (R474, R475). -/
def Dev.restoreFinish (failed : Bool) (m : Memory) (d : Dev) : Dev :=
  match d.crn.step with
  | none => d
  | some s =>
    if !d.is Reg.CRN_STATUS.RESTORING then d
    else
      match d.restoreFails m s with
      | some i => (d.restoreMends m).meetBad (some (d.slotBlock s i)) .copyEngine
      | none => (d.restoreMends m).restoreEnd failed (d.restoreMem m)

/-- The block that the digest engines hash next. -/
def Dev.digestNext (d : Dev) : Option Nat :=
  match d.digestJob with
  | some j => if 256 * d.digestAt < j.2 then some (j.1 + 256 * d.digestAt) else none
  | none => none

/-- The block that the copy engine copies next. -/
def Dev.copyNext (d : Dev) : Option Nat :=
  match d.crn.step with
  | some s => if d.is Reg.CRN_STATUS.COPYING ∧ s.copied < 8192 * s.addrs.length then some (s.blockAt s.copied) else none
  | none => none

/-- One free command slot of every channel: it serves the copy engine before the digest engines (R301); hosts are served as their accesses
come, and a test alone on its channel. One block in each time that passes is a DESIGN CHOICE (notes/assumptions/12.md). -/
def Dev.freeSlots (m : Memory) (d : Dev) : Dev :=
  let c := d.copyNext
  let d1 := match d.crn.step, c with
    | some s, some _ => d.copyUpTo (s.copied + 1) m
    | _, _ => d
  match d.digestNext with
  | some a =>
    if c.isSome ∧ c.bind d.channelOf = d.channelOf a then d1
    else if d.isBad m a then d1.meetBad (some a) .digestEngine
    else { d1.useChecks a 256 with digestAt := d.digestAt + 1 }
  | none => d1

/-- Device memory after them. -/
def Dev.freeSlotsMem (d : Dev) (m : Memory) : Memory :=
  match d.crn.step with
  | some s => if d.copyNext.isSome then d.copyToMem (s.copied + 1) m else m
  | none => m

/-! ### Channels (R295, R313 to R316, R318) -/

/-- CHANNEL_LOST. The address that MEM_ERR_ADDR shows for it is stated nowhere, so it is a free value. -/
def Dev.channelLost (ch : Nat) (d : Dev) : Dev :=
  if !d.chServes ch then d
  else
    let (k, d1) := d.next
    let d2 := (d1.memRecord 3 ch (Config.freeNat k % 2 ^ 32 * 256) 0 false).event Reg.MEM_EVENT.CH_LOST
    (if d.running then d2.raiseArrival noOwner 0x0402 else d2.blockFault noOwner 0x0402 (!d.memHeld)).retireChannel ch

/-- RETIRE. -/
def Dev.channelRetire (b ch : Nat) (d : Dev) : Dev :=
  if d.acting b ≠ some 0 then d else if !d.chFused ch then d.memRefuse else d.retireChannel ch

/-- MEM_STATUS.TEST_BUSY follows the channels in test. -/
def Dev.updTestBusy (d : Dev) : Dev :=
  d.putB Reg.MEM_STATUS.TEST_BUSY ((List.range 96).any fun c => d.get (Reg.MEM_CH_STAT.STATE c) == 2)

/-- TEST: a channel whose retirement has taken effect. -/
def Dev.channelTest (b ch : Nat) (d : Dev) : Dev :=
  if d.acting b ≠ some 0 then d
  else if !d.chFused ch ∨ d.get (Reg.MEM_CH_STAT.STATE ch) = 0 ∨ d.chRetire.contains ch then d.memRefuse
  else ({ d with chRejoin := d.chRejoin.filter (· ≠ ch) }.put (Reg.MEM_CH_STAT.STATE ch) 2).updTestBusy

/-- Device memory after a channel's test: every block of it is zero. -/
def Dev.testedMem (d : Dev) (ch : Nat) (m : Memory) : Memory :=
  if d.get (Reg.MEM_CH_STAT.STATE ch) = 2 then kfilter (fun k => k / 2 ^ 33 != ch) m else m

/-- CHANNEL_TEST_DONE. -/
def Dev.channelTestDone (ch : Nat) (pass : Bool) (d : Dev) : Dev :=
  if d.get (Reg.MEM_CH_STAT.STATE ch) ≠ 2 then d
  else
    let d1 : Dev := { d with badBlk := kfilter (fun x => x * 256 / 2 ^ 33 != ch) d.badBlk, ckBuf := kfilter (· != ch) d.ckBuf,
                             checks := kfilter (fun x => x * 4 / 2 ^ 33 != ch) d.checks }
    ((d1.snoopOut fun l => d.channelOf l == some ch).put (Reg.MEM_CH_STAT.STATE ch) (if pass then 3 else 4)).updTestBusy.event
      (if pass then Reg.MEM_EVENT.TEST_DONE else Reg.MEM_EVENT.TEST_FAIL)

/-- REJOIN: a channel whose test has passed returns, at the next boundary while a segment runs. -/
def Dev.rejoin (b ch : Nat) (d : Dev) : Dev :=
  if d.acting b ≠ some 0 then d
  else if !d.chFused ch ∨ d.get (Reg.MEM_CH_STAT.STATE ch) ≠ 3 then d.memRefuse
  else
    let d1 : Dev := { d with chRejoin := d.chRejoin.filter (· ≠ ch) ++ [ch] }
    if d.running then d1.put Reg.MEM_STATUS.REJOIN_PENDING 1 else d1.applyUnits

/-! ### Digests (R311, R312, R318) -/

/-- DIGEST. -/
def Dev.digestCmd (b : Nat) (d : Dev) : Dev :=
  if d.acting b ≠ some 0 then d
  else
    let a := d.get Reg.MEM_DIGEST_ADDR.VALUE
    let n := d.get Reg.MEM_DIGEST_LEN.VALUE
    if d.digestJob.isSome ∨ a % 2 ^ 21 ≠ 0 ∨ n % 2 ^ 21 ≠ 0 ∨ !d.allServed a n then d.memRefuse
    else { d with digestJob := some (a, n), digestAt := 0 }.put Reg.MEM_STATUS.DIGEST_BUSY 1

/-- The digest of a range (R311). -/
def Dev.rangeDigest (d : Dev) (m : Memory) (a n : Nat) : List Byte :=
  sha384 (((List.range (n / 2 ^ 21)).flatMap fun k => sha384 (d.memBytes m (a + 2 ^ 21 * k) (2 ^ 21))) ++ leBytes 8 n)

/-- DIGEST_DONE. -/
def Dev.digestDone (failed : Bool) (m : Memory) (d : Dev) : Dev :=
  match d.digestJob with
  | none => d
  | some j =>
    if failed then d.digestFail
    else if d.anyBad m j.1 j.2 then d.meetBad (((List.range (j.2 / 256)).map fun i => j.1 + 256 * i).find? (d.isBad m)) .digestEngine
    else
      let d1 := ({ (d.useChecks j.1 j.2) with digestJob := none }.put Reg.MEM_STATUS.DIGEST_BUSY 0).putDigest Reg.MEM_DIGEST_OUT.BYTES (d.rangeDigest m j.1 j.2)
      ((d1.put Reg.MEM_DIGEST_STAT.ERROR 0).put Reg.MEM_DIGEST_STAT.VALID 1).event Reg.MEM_EVENT.DIGEST_DONE

/-! ### Refresh and MR4 (R296 to R298, R343, R347, R556) -/

/-- Bank of a channel's planned refresh number `n`: the fixed rotation over 16 banks (R296). -/
def refreshBank (n : Nat) : Nat := n % 16

/-- PLANNED_REFRESH: the next bank of the rotation. At ×2 one unplanned refresh of that bank follows, at ×4 three; those that waited past
the planned interval in which their deadline came have found a free command slot (R296 to R298; the bank of an unplanned refresh is
DEDUCED, notes/assumptions/123.md). -/
def Dev.plannedRefresh (ch : Nat) (d : Dev) : Dev :=
  if 96 ≤ ch then d
  else
    let r := kget {} d.refresh ch
    let bank := refreshBank r.count
    let turn := r.count / 16
    let extra := match bitsOf (d.get Reg.MEM_DERATE.MULT) (2 * (ch / 8)) 2 with
      | 0 => 0
      | 1 => 1
      | _ => 3
    let kept := r.waiting.filter fun w => !(w.1 == bank && decide (w.2 + 8 < turn))
    { d with refresh := kset {} d.refresh ch { count := r.count + 1, waiting := kept ++ List.replicate extra (bank, turn) } }

/-- An unplanned refresh of the bank has come to its deadline, eight planned intervals of the bank after it became due (R298). -/
def Refresh.atDeadline (r : Refresh) (bank : Nat) : Option (Nat × Nat) :=
  r.waiting.find? fun w => w.1 == bank && decide (w.2 + 8 ≤ (r.count + 15 - bank) / 16 - 1)

/-- FORCED_REFRESH of an unplanned refresh at its deadline. Which device address its Lantern record names is stated nowhere: a free
value. -/
def Dev.forcedRefresh (ch bank : Nat) (d0 : Dev) : Dev :=
  let r := kget {} d0.refresh ch
  match r.atDeadline bank with
  | none => d0
  | some w =>
    let d : Dev := { d0 with refresh := kset {} d0.refresh ch { r with waiting := eraseFirst w r.waiting } }
    let (k, d1) := d.next
    (d1.count Reg.MEM_UNPLANNED.COUNT 1).lantern 11 0xFF 0 0 d.run.tick (ch + 128 * 5 + 1024 * (Config.freeNat k % 2 ^ 32)) none

/-- A package's refresh multiplier, and the hottest one. -/
def Dev.setMult (p v : Nat) (d : Dev) : Dev :=
  let old := d.get Reg.MEM_DERATE.MULT
  let w := old - bitsOf old (2 * p) 2 * 4 ^ p + v * 4 ^ p
  let above := d.pwr.mr4Over.filter (· ≠ p)
  let d1 := ({ d with pwr := { d.pwr with mr4Over := if v = 3 then above ++ [p] else above } }.put Reg.MEM_DERATE.MULT w)
  let d2 := d1.put Reg.PWR_TEMP.DRAM (((List.range 12).map fun q => bitsOf w (2 * q) 2).foldl max 0)
  if w = old then d2 else d2.event Reg.MEM_EVENT.DERATE_CHANGE

/-- MR4_POLL: a package that gives no reading twice in a row counts as beyond the range. -/
def Dev.mr4Poll (p : Nat) (reading : Option (BitVec 2)) (d : Dev) : Dev :=
  if 11 < p then d
  else
    match reading with
    | some v => { d with mr4Missed := kset 0 d.mr4Missed p 0 }.setMult p v.toNat
    | none =>
      let n := kget 0 d.mr4Missed p + 1
      let d1 : Dev := { d with mr4Missed := kset 0 d.mr4Missed p n }
      if 2 ≤ n then d1.setMult p 3 else d1

end Sys2Proof.Machine
end

