-- ==== Sys2Proof/Machine/Units.lean ====
section
/-! DEFINITION. Cores that retire, are tested and return; the scratch test engine; non-scheduled scratch accesses and the host
debug window (R124 to R127, R225 to R229, R237 to R244). -/

namespace Sys2Proof.Machine

/-! ### Core commands (R124 to R127) -/

/-- Retire a core. -/
def Dev.retireCore (c : Nat) (d : Dev) : Dev :=
  if (d.core c).life ≠ 0 then d
  else
    let d1 := (d.setPresent c false).onCore c fun k => { k with life := if d.running then 1 else 2, returning := false }
    { d1 with flashCores := d1.flashCores ++ [c] }

/-- A core command is refused. -/
def Dev.coreRefuse (d : Dev) : Dev := d.setBit Reg.RTE_CORE_STAT.REFUSED

/-- A core command of the host of binding 0, and of no other host that acts for tenancy 0; `ok` says that R127 does not refuse it. A
refused command, too, is the last command that RTE_CORE_STAT.CORE names (DEDUCED, notes/assumptions/108.md). -/
def Dev.coreCmd (b c : Nat) (ok : Bool) (f : Dev → Dev) (d : Dev) : Dev :=
  if d.acting b ≠ some 0 ∨ b ≠ 0 then d
  else
    let d1 := d.put Reg.RTE_CORE_STAT.CORE c
    if d.coreFused c && ok then f d1 else d1.coreRefuse

def Dev.coreRetire (b c : Nat) (d : Dev) : Dev := d.coreCmd b c (decide ((d.core c).life = 0)) (fun d => d.retireCore c)

def Dev.coreTest (b c : Nat) (d : Dev) : Dev :=
  d.coreCmd b c (decide (2 ≤ (d.core c).life) && !d.is Reg.RTE_CORE_STAT.BUSY && !d.is (Reg.CORE_STATUS.PLACED c)) fun d =>
    (d.onCore c fun k => { k with life := 3, returning := false }).put Reg.RTE_CORE_STAT.BUSY 1

/-- RETURN (R31, R126). While no segment runs the bit sets at once; one issued in a boundary that waits at its gate or for a relaunch, in
which no segment runs either, takes effect with the boundary that comes next (DESIGN CHOICE, notes/assumptions/109.md). -/
def Dev.coreReturn (b c : Nat) (d : Dev) : Dev :=
  d.coreCmd b c (decide ((d.core c).life = 4)) fun d =>
    let d1 := d.onCore c fun k => { k with returning := true }
    if d.running then d1 else d1.applyUnits

/-- RTE_CORE_STAT.STATE: the state of the core that the last command named. -/
def Dev.coreState (d : Dev) : Nat :=
  let c := d.get Reg.RTE_CORE_STAT.CORE
  if d.coreFused c then (d.core c).life else 6

/-! ### The scratch test engine (R239 to R244) -/

/-- A spare row is free: no row is remapped to it, and no test of it has failed. -/
def CoreSt.spareFree (k : CoreSt) (bank s : Nat) : Bool :=
  !(kget false k.spareBad (bank * 8 + s)) && (List.range 576).all fun r => kget 0 k.remap (rowKey bank r) != s + 1

/-- Lowest free spare of a bank. -/
def CoreSt.freeSpare (k : CoreSt) (bank : Nat) : Option Nat := (List.range 8).find? (k.spareFree bank)

/-- A row that failed its test names a spare from now on; the spare it named before has failed with it (R240, R242). -/
def CoreSt.remapTo (key spare : Nat) (k : CoreSt) : CoreSt :=
  let k1 := match kget 0 k.remap key with
    | 0 => k
    | o + 1 => { k with spareBad := kset false k.spareBad (key / 1024 * 8 + o) true }
  { k1 with remap := kset 0 k1.remap key (spare + 1) }

/-- The management processor records a remap in the configuration flash (R242). -/
def Dev.flashRemap (c key spare : Nat) (d : Dev) : Dev :=
  { d with flashRemaps := d.flashRemaps.filter (fun r => !(r.1 == c && r.2.1 == key)) ++ [(c, key, spare + 1)] }

/-- What the return test of core `c` found at one row or spare that failed, as bank * 1024 + row: a row takes the lowest free spare;
answers whether a working row or spare is left for it (R125). -/
def Dev.testFailed (c key : Nat) (d : Dev) : Bool × Dev :=
  let bank := key / 1024
  if 576 ≤ key % 1024 then
    (true, d.onCore c fun k => { k with spareBad := kset false k.spareBad (bank * 8 + (key % 1024 - 576)) true })
  else
    match (d.core c).freeSpare bank with
    | some s => (true, (d.onCore c (CoreSt.remapTo key s)).flashRemap c key s)
    | none => (false, d)

/-- CORE_TEST_DONE: the test engine found these rows and spares failing, spares first, and `equal` says that every result of the test
Route is equal. The core under test has every row zero (R125; DEDUCED, notes/assumptions/110.md). -/
def Dev.coreTestDone (failed : List Nat) (equal : Bool) (d : Dev) : Dev :=
  match d.cores.find? fun x => x.2.life == 3 with
  | none => d
  | some x =>
    let order := failed.filter (fun k => decide (576 ≤ k % 1024)) ++ failed.filter (fun k => decide (k % 1024 < 576))
    let r := order.foldl (fun (a : Bool × Dev) k => let y := a.2.testFailed x.1 k; (a.1 && y.1, y.2)) (true, d)
    let d1 := r.2.onCore x.1 fun k => { k.zeroed with life := if r.1 && equal then 4 else 5, test := none, testQueue := [] }
    (d1.put Reg.RTE_CORE_STAT.BUSY 0).setBit Reg.RTE_CORE_STAT.DONE


/-- The walk of R239: rows of a bank, then its free spares. Steps past spares that are not free. -/
def CoreSt.nextRow (k : CoreSt) : Nat → Nat → Nat × Nat
  | 0, n => (n % 4672, (n + 1) % 4672)
  | fuel + 1, n =>
    let m := n % 4672
    if m % 584 < 576 ∨ k.spareFree (m / 584) (m % 584 - 576) then (m, (m + 1) % 4672) else k.nextRow fuel (n + 1)

/-- The engine may begin a row of a core. -/
def Dev.testDue (d : Dev) (c : Nat) : Bool :=
  let k := d.core c
  decide (d.get Reg.PWR_STATE.STATE ≤ 1) && !d.atRest && d.inService c && k.test.isNone &&
    (!k.testQueue.isEmpty || decide (k.testDue ≤ d.run.cont))

/-- SCRATCH_TEST_START. -/
def Dev.scratchTestStart (c : Nat) (d : Dev) : Dev :=
  if !d.testDue c then d
  else
    d.onCore c fun k =>
      match k.testQueue with
      | r :: rest => { k with testQueue := rest, test := some { bank := r / 1024, row := r % 1024, step := 1, ok := true, notBefore := 0 } }
      | [] =>
        let (m, n) := k.nextRow 4672 k.testNext
        let step := if m % 584 < 576 then 1 else 2
        { k with testNext := n, testDue := k.testDue + 16777216,
                 test := some { bank := m / 584, row := m % 584, step := step, ok := true, notBefore := 0 } }

/-- A non-scheduled agent of a rank asks for a port of a bank (R225 to R228): it gets one that the Route and higher ranks leave. -/
def Dev.freePort (write : Bool) (c bank : Nat) (rank : List Nat) (d : Dev) : Bool × Dev :=
  if d.portFree c bank write rank then (true, d.takePort c bank write) else (false, d)

/-- Cells that the test of a row uses. -/
def CoreSt.testCells (k : CoreSt) (t : RowTest) : Nat := if 576 ≤ t.row then rowKey t.bank t.row else k.cells t.bank t.row

/-- Write a test pattern into the cells under test. -/
def CoreSt.testWrite (t : RowTest) (v : Row) (k : CoreSt) : CoreSt := { k with scratch := kset 0#4096 k.scratch (k.testCells t) v }

/-- Every byte of a row at `b`. -/
def patternRow (b : Nat) : Row := BitVec.ofNat 4096 ((2 ^ 4096 - 1) / 255 * b)

/-- Step 1 of a row test finds an uncorrectable word: one that this read meets or that the row is held to have; an empty row's cells are
not read (R233, R243). -/
def CoreSt.testMeetsBad (t : RowTest) (err : CellErr) (k : CoreSt) : Bool :=
  let key := rowKey t.bank t.row
  !kget false k.emptyRow key && (decide (err = .uncorrectable) || kget false k.bad key)

/-- The next step of a row test, its port being free. `err` is what the read of step 1 met, `same` says that a read step found its
pattern. A read reaches the engine 4 ticks after its step, a write lands 3 ticks after it (R221, R240). -/
def CoreSt.testStep (t : RowTest) (err : CellErr) (same : Bool) (now : Nat) (k : CoreSt) : CoreSt :=
  let go (n : Nat) (wait : Nat) (ok : Bool) : Option RowTest := some { t with step := n, ok := ok, notBefore := now + wait }
  let key := rowKey t.bank t.row
  match t.step with
  | 1 =>
    if k.testMeetsBad t err then { k with test := none, bad := kset false k.bad key true }
    else { k with saveReg := kget 0#4096 k.scratch (k.testCells t), test := go 2 4 t.ok }
  | 2 => { k.testWrite t (patternRow 0x55) with test := go 3 3 t.ok, weak := kset false k.weak key false }
  | 3 => { k with test := go 4 4 (t.ok && same) }
  | 4 => { k.testWrite t (patternRow 0xAA) with test := go 5 3 t.ok }
  | 5 =>
    if 576 ≤ t.row then
      { k with test := none, spareBad := if t.ok && same then k.spareBad else kset false k.spareBad (t.bank * 8 + (t.row - 576)) true }
    else { k with test := go 6 4 (t.ok && same) }
  | _ => { k with test := go 7 3 t.ok }

/-- The row's test found it failing and no spare of its bank is free: the core must retire (R244). -/
def CoreSt.outOfSpares (k : CoreSt) : Bool :=
  match k.test with
  | some t => t.step == 6 && !t.ok && (k.freeSpare t.bank).isNone
  | none => false

/-- SCRATCH_TEST_STEP. -/
def Dev.scratchTestStep (c : Nat) (err : CellErr) (same : Bool) (d : Dev) : Dev :=
  let k := d.core c
  match k.test with
  | none => d
  | some t =>
    if 7 ≤ t.step ∨ d.run.cont < t.notBefore ∨ 1 < d.get Reg.PWR_STATE.STATE then d
    else if k.outOfSpares then d.retireCore c
    else
      let (ok, d1) := d.freePort (t.step % 2 = 0) c t.bank [4, 0]
      if ok then d1.onCore c (CoreSt.testStep t err same d.run.cont) else d1

/-- The landing of step 6: the save register goes back to the row, or to the lowest free spare, which the row then names. -/
def Dev.testLand (c : Nat) (t : RowTest) (d : Dev) : Dev :=
  let k := d.core c
  let done (k : CoreSt) (cells : Nat) : CoreSt := { k with scratch := kset 0#4096 k.scratch cells k.saveReg, test := none }
  if t.ok then d.setCore c (done k (k.testCells t))
  else
    match k.freeSpare t.bank with
    | none => d
    | some s =>
      let key := rowKey t.bank t.row
      (d.setCore c ((done k (rowKey t.bank (576 + s))).remapTo key s)).flashRemap c key s

/-- Every landing of a step 6 that is due. -/
def Dev.testLandings (d : Dev) : Dev :=
  d.cores.foldl (fun (d : Dev) x =>
    match x.2.test with
    | some t => if t.step = 7 ∧ t.notBefore ≤ d.run.cont then d.testLand x.1 t else d
    | none => d) d

/-! ### Non-scheduled accesses and the host debug window (R226 to R229, R238) -/

/-- The 512 bytes of the staging buffer. -/
def Dev.staging (d : Dev) : Row :=
  BitVec.ofNat 4096 ((List.range 64).foldr (fun k a => d.get (Reg.DBG_HDW_DATA.BYTES k) + 2 ^ 64 * a) 0)

def Dev.putStaging (r : Row) (d : Dev) : Dev :=
  (List.range 64).foldl (fun d k => d.put (Reg.DBG_HDW_DATA.BYTES k) (rowBits r (64 * k) 64)) d

/-- The row that an index names exists and its core answers. -/
def Dev.rowThere (d : Dev) (index : Nat) : Bool :=
  decide (index % 1024 ≤ 575) && d.coreFused (index / 8192) && bitOf (d.get Reg.PWR_DOMAIN_ON.PD) (islandOf (index / 8192))

/-- What a read has met in a row's cells stays until the row is rewritten; an empty row's cells are not read (R233, R237, R243). -/
def CoreSt.meetErr (key : Nat) (err : CellErr) (k : CoreSt) : CoreSt :=
  if kget false k.emptyRow key then k
  else
    match err with
    | .none => k
    | .corrected => { k with weak := kset false k.weak key true }
    | .uncorrectable => { k with bad := kset false k.bad key true }

/-- A non-scheduled read of a row that has got its port: none where a word is uncorrectable (R233, R237 to R239). -/
def Dev.peekRow (index : Nat) (err : CellErr) (d : Dev) : Option Row × Dev :=
  let c := index / 8192
  let key := index % 8192
  let d1 := d.onCore c fun k => (k.meetErr key err).noteRead key
  let k := d1.core c
  if kget false k.bad key && !kget false k.emptyRow key then (none, d1) else (some (k.row (key / 1024) (key % 1024)), d1)

/-- A request of the host debug window. Bits 0 of the index name no row beyond 575 and no absent core: such a request completes
with nothing read or written (R28). -/
def Dev.hdwCmd (b : Nat) (write : Bool) (d : Dev) : Dev :=
  if d.acting b ≠ some 0 ∨ b ≠ 0 ∨ !bitOf (d.get Reg.SEC_STATUS.FEATURES) 2 ∨ d.is Reg.DBG_HDW_STATUS.BUSY then d
  else
    let ix := d.get Reg.DBG_HDW_ADDR.ROW
    if d.rowThere ix then { d with hdw := some (write, ix) }.put Reg.DBG_HDW_STATUS.BUSY 1
    else (if write then d else d.putStaging 0#4096).setBit Reg.DBG_HDW_STATUS.DONE

/-- The host debug window is served. -/
def Dev.serveHdw (write : Bool) (ix : Nat) (err : CellErr) (d : Dev) : Dev :=
  let d0 : Dev := { d with hdw := none }
  let d1 := if write then d0.pokeRow (ix / 8192) (ix / 1024 % 8) (ix % 1024) (fun _ => d.staging) true
    else
      let (r, d2) := d0.peekRow ix err
      match r with
      | some v => d2.putStaging v
      | none => d2.setBit Reg.DBG_HDW_STATUS.ERROR
  (d1.put Reg.DBG_HDW_STATUS.BUSY 0).setBit Reg.DBG_HDW_STATUS.DONE

/-- Phimon's row read is served. -/
def Dev.servePhimon (ix : Nat) (err : CellErr) (d : Dev) : Dev :=
  let d0 : Dev := { d with phRow := none }
  let (r, d2) := d0.peekRow ix err
  match r with
  | some v => d2.emit (.phimon 0 ((List.range 128).map fun w => (rowWord v w).toNat))
  | none => d2.emit (.phimon 4 [])

/-- NON_SCHEDULED_ACCESS: the host debug window goes before the management processor (R226). -/
def Dev.nonScheduled (c bank : Nat) (write : Bool) (err : CellErr) (d : Dev) : Dev :=
  let here (ix : Nat) : Bool := ix / 1024 == c * 8 + bank
  let d1 := match d.hdw with
    | some (w, ix) =>
      if w == write && here ix then
        let (ok, d2) := d.freePort write c bank [2, 0]
        if ok then d2.serveHdw write ix err else d2
      else d
    | none => d
  match d1.phRow with
  | some ix =>
    if !write && here ix then
      let (ok, d2) := d1.freePort false c bank [3, 0]
      if ok then d2.servePhimon ix err else d2
    else d1
  | none => d1

end Sys2Proof.Machine
end

