-- ==== Sys2Proof/Machine/Time.lean ====
section
/-! DEFINITION. The Milestone counter's time source, launches, and the PPS pins (R425 to R434, R555, R557, R590). -/

namespace Sys2Proof.Machine

/-! ### Arming a launch (R430, R499) -/

/-- Some convoy is valid. -/
def Dev.anyConvoy (d : Dev) : Bool := (List.range 512).any fun c => d.is (Reg.WMK_CV0.VALID c)

/-- Arm a launch with a count, or disarm it. A refused arming leaves the earlier one, and TIM_LAUNCH_AT reads its count (R430,
R478). -/
def Dev.launchArm (c : Nat) (d : Dev) : Dev :=
  if c = 0xFFFFFFFFFFFFFFFF then d.disarmLaunch
  else if c < d.now + 100000 ∨ (d.anyConvoy ∧ !d.is Reg.TIM_STATUS.LOCKED) ∨ d.startBarred then
    (d.put Reg.TIM_LAUNCH_AT.COUNT d.tim.armedAt).event Reg.TIM_EVENT.LAUNCH_REFUSED
  else { (d.put Reg.TIM_LAUNCH_AT.COUNT c).put Reg.TIM_STATUS.LAUNCH_ARMED 1 with tim := { d.tim with armedAt := c } }

/-- The effect of a write of TIM_LAUNCH_AT: a low half is stored, a write that includes the high half arms (R10, R430). -/
def Dev.launchAtPart (part : RegPart) (v : Nat) (d : Dev) : Dev :=
  match part with
  | .low => d.put Reg.TIM_LAUNCH_AT.COUNT (d.get Reg.TIM_LAUNCH_AT.COUNT / 2 ^ 32 * 2 ^ 32 + v % 2 ^ 32)
  | .high => d.launchArm (v % 2 ^ 32 * 2 ^ 32 + d.get Reg.TIM_LAUNCH_AT.COUNT % 2 ^ 32)
  | .whole => d.launchArm v

/-- TIM_LAUNCH_AT_WRITE: by tenancy 0's host, or by the host of the resident tenancy. -/
def Dev.launchAtWrite (b : Nat) (part : RegPart) (v : Nat) (d : Dev) : Dev :=
  match d.acting b with
  | none => d
  | some t => if t = 0 ∨ d.resident = some t then d.launchAtPart part v else d

/-! ### Sync (R425 to R428) -/

/-- The counter may be set at the first lock: nothing is armed and no convoy is valid (R425). -/
def Dev.maySet (d : Dev) : Bool :=
  !d.tim.everLocked && !d.is Reg.TIM_STATUS.LAUNCH_ARMED && d.pwr.opp.isNone && !d.anyConvoy

/-- LOCKED becomes 1; at the first lock the counter takes the source's value where that is allowed (DESIGN CHOICE,
notes/assumptions/28.md). `offset` is the counter's value less the source's. -/
def Dev.lock (offset : Int) (d : Dev) : Dev :=
  let d1 := if d.maySet then d.put Reg.TIM_MILESTONE.COUNT ((d.now : Int) - offset).toNat else d
  let d2 : Dev := { d1 with tim := { d1.tim with everLocked := true, above := 0, lastPps := d1.now } }
  ((d2.put Reg.TIM_STATUS.LOCKED 1).put Reg.TIM_STATUS.HOLDOVER 0).event Reg.TIM_EVENT.LOCK

/-- A convoy of the loaded Route is joined. -/
def Dev.routeJoined (d : Dev) : Bool :=
  (d.rt.progs.flatMap progConvoys).any fun c => d.is (Reg.WMK_CV0.JOINED c)

/-- SYNC_LOST. -/
def Dev.syncLost (d : Dev) : Dev :=
  if !d.is Reg.TIM_STATUS.LOCKED then d
  else
    let d1 := ((d.put Reg.TIM_STATUS.LOCKED 0).put Reg.TIM_STATUS.HOLDOVER 1).event Reg.TIM_EVENT.SYNC_LOST
    let d2 : Dev := { d1 with tim := { d1.tim with above := 0 } }
    if d.running && d.routeJoined then (d2.wmkRecord 0x0704 0 0).raiseNext 0x0704 else d2

/-- SYNC_MESSAGE: the measured offset, the steps from the grandmaster, and whether the counter now lies within R427's limit. -/
def Dev.syncMessage (domain : Nat) (offset : Int) (steps : Nat) (accurate : Bool) (d : Dev) : Dev :=
  if !d.mod.fw ∨ d.get Reg.TIM_CFG.SOURCE = 0 ∨ domain ≠ d.get Reg.TIM_CFG.DOMAIN then d
  else
    let above := decide ((d.get Reg.TIM_CFG.SYNC_LIMIT : Int) < offset.natAbs)
    let d1 := (d.put Reg.TIM_OFFSET.NS (intBits 32 offset)).put Reg.TIM_STATUS.STEPS steps
    let d2 : Dev := { d1 with tim := { d1.tim with above := if above then d1.tim.above + 1 else 0 } }
    let d3 := d2.put Reg.TIM_STATUS.GRANDMASTER 0
    if d.is Reg.TIM_STATUS.LOCKED then (if 3 ≤ d3.tim.above then d3.syncLost else d3)
    else if accurate ∧ (d3.maySet ∨ !above) then d3.lock offset
    else d3

/-! ### PPS (R429, R555, R557) -/

/-- PPS_IN: a pulse's width, and how far it falls from the expected second boundary. -/
def Dev.ppsIn (highNs : Nat) (missNs : Int) (d : Dev) : Dev :=
  let src := d.get Reg.TIM_CFG.SOURCE
  if !d.mod.fw ∨ highNs < 100 ∨ (src ≠ 1 ∧ src ≠ 3) ∨ (src = 3 ∧ 1000000 < missNs.natAbs) then d
  else { d with tim := { d.tim with lastPps := d.now } }

/-- Three pulses are missing under SOURCE 3: LOCKED clears. -/
def Dev.ppsCheck (d : Dev) : Dev :=
  if d.get Reg.TIM_CFG.SOURCE = 3 ∧ d.is Reg.TIM_STATUS.LOCKED ∧ d.tim.lastPps + 3001000000 < d.now then
    d.put Reg.TIM_STATUS.LOCKED 0
  else d

/-- A whole second has come since the output last rose. -/
def Dev.ppsDue (d : Dev) : Bool := d.is Reg.TIM_CFG.PPS_OUT && decide (d.tim.lastSecond < d.now / 1000000000)

/-- PPS_OUT: the output rises; its pulse width is stated nowhere. -/
def Dev.ppsOut (d : Dev) : Dev :=
  if d.is Reg.TIM_CFG.PPS_OUT then
    ({ d with tim := { d.tim with lastSecond := d.now / 1000000000 } }.emit (.pin 1 true)).emit (.pin 1 false)
  else d

end Sys2Proof.Machine
end

