-- ==== Sys2Proof/Machine/HostPort.lean ====
section
/-! DEFINITION. The CXL host port: bindings, the memory window, coherence, address translation, the link, interrupts and DOE
objects (R283, R290, R293, R307, R492 to R519, R528, R553, R555). -/

namespace Sys2Proof.Machine

/-! ### Bindings (R495, R496) -/

/-- The binding of a request with a source port ID, or of one without. -/
def Dev.bindingOf (d : Dev) (spid : Option (BitVec 12)) : Option Nat :=
  let own := match spid with
    | some p => (List.range 16).find? fun b => d.is (Reg.HP_BIND.VALID b) && d.get (Reg.HP_BIND.PID b) == p.toNat
    | none => none
  match own with
  | some b => some b
  | none => if d.is (Reg.HP_BIND.VALID 0) && d.is (Reg.HP_BIND.ANY 0) then some 0 else none

/-- Unsupported Request. -/
def cxlUnsupported : Nat := 6

/-! ### CXL.mem and BAR4 (R283, R290, R293, R307, R503 to R505, R528, R590) -/

/-- A view may reach a device address: binding 0 every mapped one, another view its tenancy's regions. -/
def Dev.reaches (d : Dev) (b a : Nat) : Bool :=
  d.mod.trained && decide (a < 567 * 2 ^ 30) && (d.dramAt a).isSome &&
    (b == 0 || (match d.acting b with
      | some t => d.inRegions t a 1
      | none => false))

/-- Blocks that a range touches. -/
def blocksOf (a n : Nat) : List Nat :=
  if n = 0 then [] else (List.range ((a + n - 1) / 256 - a / 256 + 1)).map fun k => (a / 256 + k) * 256

/-- First block of a range that fails its check. -/
def Dev.firstBad (d : Dev) (m : Memory) (a n : Nat) : Option Nat := (blocksOf a n).find? (d.isBad m)

/-- The host of a view now holds a line (R506, R508): a full filter invalidates the line entered first. -/
def Dev.holdLine (b line : Nat) (d : Dev) : Dev :=
  if d.snoop.contains (b, line) then d
  else
    let l := d.snoop ++ [(b, line)]
    if l.length ≤ 2097152 then { d with snoop := l }
    else
      match l with
      | (v, x) :: rest => { d with snoop := rest }.emit (.cxl v cxlBISnpInv x)
      | [] => d

/-- Data of a read, byte by byte: 0xFF where the view does not reach. -/
def Dev.hostBytes (d : Dev) (m : Memory) (b a n : Nat) : List Byte :=
  (List.range n).map fun i => if d.reaches b (a + i) then d.readByte m (a + i) else 0xFF#8

/-- A read of `n` bytes that a view serves. -/
def Dev.serveRead (b : Nat) (io : Bool) (a n : Nat) (m : Memory) (d : Dev) : Dev :=
  let all := (List.range n).all fun i => d.reaches b (a + i)
  let d1 := if all then d else d.event Reg.MEM_EVENT.UNMAPPED
  match d.firstBad m a n with
  | some x => (d1.meetBad (some x) .cxlMem).emit (.reply (List.replicate n 0xFF#8))
  | none => ((if io || !all then d1 else d1.holdLine b (a / 64 * 64)).useChecks a n).emit (.reply (d.hostBytes m b a n))

/-- What the port makes of a memory request before it is served: the binding that serves it, or the answer it gets. -/
inductive MemReq where
  | unbound
  | unsupported
  | dead
  | park
  | go (b : Nat)
  deriving DecidableEq, Repr

/-- CXL.io requests to BAR4 end once the view's decoder has committed; CXL.mem requests need it committed and CXL negotiated. -/
def Dev.memReq (d : Dev) (spid : Option (BitVec 12)) (io : Bool) : MemReq :=
  match d.bindingOf spid with
  | none => .unbound
  | some b =>
    if !d.mod.fw then (if io then .unsupported else .dead)
    else if io then (if kget false d.hdm b then .unsupported else .go b)
    else if !d.is (Reg.HP_LINK.CXL b) then .dead
    else if d.is Reg.PWR_STATE.THERMAL_HOLD ∧ !d.pwr.mr4Over.isEmpty then .park
    else .go b

/-- CXL_MEM_READ. -/
def Dev.cxlRead (spid : Option (BitVec 12)) (io : Bool) (a n : Nat) (m : Memory) (d : Dev) : Dev :=
  let ff : Output := .reply (List.replicate n 0xFF#8)
  match d.memReq spid io with
  | .unbound =>
    let d1 := d.count (Reg.HP_UNBOUND.COUNT 0) 1
    if io then d1.emit (.cxl 16 cxlUnsupported a) else d1.emit ff
  | .unsupported => d.emit (.cxl ((d.bindingOf spid).getD 0) cxlUnsupported a)
  | .dead => d.emit ff
  | .park => { d with parked := d.parked ++ [.cxlMemRead spid io (BitVec.ofNat 40 a) (BitVec.ofNat 9 n)] }
  | .go b =>
    let d1 := d.wakeUp .cxlMem
    if !io && !kget false d1.hdm b then (d1.event Reg.MEM_EVENT.UNMAPPED).emit ff else d1.serveRead b io a n m

/-- A byte write of a view lands: the view reaches the address and it lies in no shadow slot. -/
def Dev.hostLands (d : Dev) (b a : Nat) : Bool := d.reaches b a && !d.inSlot a

/-- The write covers the whole block of an address. -/
def coversBlock (a n x : Nat) : Bool := decide (a ≤ x / 256 * 256) && decide (x / 256 * 256 + 256 ≤ a + n)

/-- Bytes of a host write of `n` bytes from `a` are written into the block at `x`: a merge into a block that fails its check is not
performed (R290). -/
def Dev.hostWrites (d : Dev) (m : Memory) (a n x : Nat) : Bool := coversBlock a n x || !d.isBad m x

/-- Some block of a host write waits for a step-open copy that has not begun (R309, R484). -/
def Dev.writeWaits (d : Dev) (a n : Nat) : Bool := d.crn.waitCopy && (blocksOf a n).any d.writeHeld

/-- The view that a write is served for. -/
def Dev.writeView (d : Dev) (spid : Option (BitVec 12)) (io : Bool) : Option Nat :=
  match d.memReq spid io with
  | .go b => if !io && !kget false d.hdm b then none else some b
  | _ => none

/-- One block of a host write on device memory: the bytes that fall into it. -/
def Dev.hostBlockMem (b a : Nat) (bs : List Byte) (d : Dev) (x : Nat) (m : Memory) : Memory :=
  if d.hostWrites m a bs.length x then
    (bs.zipIdx).foldl (fun m y => if (a + y.2) / 256 * 256 = x ∧ d.hostLands b (a + y.2) then d.writeByte m (a + y.2) y.1 else m) m
  else m

/-- Device memory after a host write. Blocks of an open step that are not yet copied are copied first; a write that waits for the copy to
begin is not performed yet (R309). -/
def Dev.hostWriteMem (spid : Option (BitVec 12)) (io : Bool) (a : Nat) (bs : List Byte) (d : Dev) (m : Memory) : Memory :=
  match d.writeView spid io with
  | none => m
  | some b =>
    if d.writeWaits a bs.length then m
    else
      let m1 := (blocksOf a bs.length).foldl (fun m x => if d.hostLands b (max a x) then d.copyBlockMem x m else m) m
      (blocksOf a bs.length).foldl (fun m x => d.hostBlockMem b a bs x m) m1

/-- One block of a host write, on everything but device memory. -/
def Dev.hostBlock (b a n x : Nat) (m : Memory) (d : Dev) : Dev :=
  if !d.hostLands b (max a x) then d
  else
    let d1 := d.copyBlock x m
    if coversBlock a n x then d1.mendBlock x else if d.isBad m x then d1.meetBad (some x) .mergeWrite else d1.useChecks x 256

/-- CXL_MEM_WRITE on everything but device memory. A line that its host writes back is held no longer (PRESUMED,
notes/assumptions/29.md). -/
def Dev.cxlWrite (spid : Option (BitVec 12)) (io : Bool) (a : Nat) (bs : List Byte) (m : Memory) (d : Dev) : Dev :=
  let n := bs.length
  match d.memReq spid io with
  | .unbound =>
    let d1 := d.count (Reg.HP_UNBOUND.COUNT 0) 1
    if io then d1.emit (.cxl 16 cxlUnsupported a) else d1
  | .unsupported => d.emit (.cxl ((d.bindingOf spid).getD 0) cxlUnsupported a)
  | .dead => d
  | .park => { d with parked := d.parked ++ [.cxlMemWrite spid io (BitVec.ofNat 40 a) bs] }
  | .go b =>
    let d1 := d.wakeUp .cxlMem
    if !io && !kget false d1.hdm b then d1.event Reg.MEM_EVENT.UNMAPPED
    else if d1.writeWaits a n then { d1 with heldWrites := d1.heldWrites ++ [.cxlMemWrite spid io (BitVec.ofNat 40 a) bs] }
    else
      let d2 := if (List.range n).all fun i => d1.reaches b (a + i) then d1 else d1.event Reg.MEM_EVENT.UNMAPPED
      let d3 := (blocksOf a n).foldl (fun d x => d.hostBlock b a n x m) d2
      if io then d3 else { d3 with snoop := d3.snoop.filter fun l => !(l.1 == b && decide (a ≤ l.2) && decide (l.2 < a + n)) }

/-! ### Coherence (R506, R509) -/

/-- BACK_INVALIDATE: BISnpInv goes to the host that holds the line, and its response has come. -/
def Dev.backInvalidate (b line : Nat) (d : Dev) : Dev :=
  if d.snoop.contains (b, line) then
    { d with snoop := d.snoop.filter (· ≠ (b, line)) }.emit (.cxl b cxlBISnpInv line)
  else d

/-- H2D_SNOOP: the device caches nothing. -/
def Dev.h2dSnoop (b line : Nat) (d : Dev) : Dev := d.emit (.cxl b cxlRspIHitI line)

/-! ### HDM decoder 0 (R503) -/

/-- Base of the view's BAR4. -/
def Dev.bar4 (d : Dev) (b : Nat) : Nat := kget 0 d.bars (b * 8 + 4)

/-- A host commits the decoder. -/
def Dev.hdmCommit (b base size skip ways : Nat) (d : Dev) : Dev :=
  if !d.mod.fw then d
  else
    let ok := base = d.bar4 b ∧ size = 567 * 2 ^ 30 ∧ skip = 0 ∧ ways = 1
    { d with hdm := kset false d.hdm b ok, hdmErr := kset false d.hdmErr b (!ok) }

/-! ### Address translation (R510, R515 to R517, R555) -/

/-- Cache a translation: 4,096 entries for each view, the oldest leaves. -/
def Dev.cachePage (v pg : Nat) (d : Dev) : Dev :=
  if d.ats.contains (v, pg) then d
  else
    let l := d.ats ++ [(v, pg)]
    if (l.filter fun e => e.1 == v).length ≤ 4096 then { d with ats := l }
    else
      match l.find? fun e => e.1 == v with
      | some e => { d with ats := eraseFirst e l }
      | none => { d with ats := l }

/-- Line requests that waited for a page go out. -/
def Dev.releaseLines (v pg : Nat) (d : Dev) : Dev :=
  if d.rtView ≠ v then d
  else
    let reads := d.run.xfers.filter fun x => x.path == .host && x.addr / 4096 == pg && !x.complete && !x.dropped
    let writes := d.run.stores.filterMap fun x =>
      match x.sink with
      | .host a => if a / 4096 = pg ∧ !x.acked then some a else none
      | _ => none
    let d1 := reads.foldl (fun (d : Dev) x => d.lineRequests cxlRdCurr x.addr) d
    writes.foldl (fun d a => d.lineRequests cxlItoMWr a) d1

/-- An answer to a Translation Request; `ok` says that it grants the access and carries no error. -/
def Dev.xlatAnswer (v pg : Nat) (write ok error : Bool) (d : Dev) : Dev :=
  if !d.xlatPend.contains (v, pg, write) then d
  else
    let d1 : Dev := { d with xlatPend := eraseFirst (v, pg, write) d.xlatPend }
    (if ok then (d1.cachePage v pg).releaseLines v pg else d1.xlatFails v pg write error).retrySettle v pg

/-- TRANSLATION_COMPLETION. -/
def Dev.translationCompletion (v pg : Nat) (write granted error : Bool) (d : Dev) : Dev :=
  d.xlatAnswer v pg write (granted && !error) error

/-- ATS_TIMEOUT: as a completion error. -/
def Dev.atsTimeout (v pg : Nat) (write : Bool) (d : Dev) : Dev := d.xlatAnswer v pg write false true

/-- A line request that used an entry of a range of pages is outstanding. -/
def Dev.linesOpen (d : Dev) (v pg n : Nat) : Bool :=
  d.rtView == v &&
    ((d.run.xfers.any fun x => x.path == .host && decide (pg ≤ x.addr / 4096 ∧ x.addr / 4096 < pg + n) && !x.complete && !x.dropped) ||
     (d.run.stores.any fun x =>
       match x.sink with
       | .host a => decide (pg ≤ a / 4096 ∧ a / 4096 < pg + n) && !x.acked
       | _ => false))

/-- Invalidate Completions that may be sent. -/
def Dev.settleInvalidates (d : Dev) : Dev :=
  let ready := d.inval.filter fun x => !d.linesOpen x.1 x.2.1 x.2.2
  ready.foldl (fun (d : Dev) x => d.emit (.cxl x.1 cxlInvalidateDone (x.2.1 * 4096)))
    { d with inval := d.inval.filter fun x => d.linesOpen x.1 x.2.1 x.2.2 }

/-- INVALIDATE_REQUEST. -/
def Dev.invalidateRequest (v pg n : Nat) (d : Dev) : Dev :=
  { d with ats := d.ats.filter (fun e => !(e.1 == v && decide (pg ≤ e.2 ∧ e.2 < pg + n))),
           inval := d.inval ++ [(v, pg, n)] }.settleInvalidates

/-! ### The link (R494, R553) -/

/-- The Cairn transfers that use the host port. -/
def Dev.serveOnHost (d : Dev) : Bool :=
  d.crn.serve.any fun s => (if s.src = 0 then d.get Reg.CRN_AUTO.KIND else (d.fillSource false).1) == 2

def Dev.fillFromHost (d : Dev) : Bool := d.crn.fill.any fun f => (d.fillSource f.alt).1 == 2

/-- The Route names host memory, or a host transfer is outstanding. -/
def Dev.usesHost (d : Dev) : Bool :=
  (d.rt.progs.any fun p => p.streams.any fun e => strKind e == 1) || (d.run.xfers.any fun x => x.path == .host && !x.complete) ||
    d.run.stores.any fun x =>
      match x.sink with
      | .host _ => !x.acked
      | _ => false

/-- HOST_LINK_DOWN. -/
def Dev.hostLinkDown (m : Memory) (d : Dev) : Dev :=
  if !d.linkUp then d
  else
    let d1 : Dev := { d with linkUp := false, ats := [] }
    let d2 := if d.usesHost then d1.raiseArrival noOwner 0x0801 else d1
    let d3 := if d2.fillFromHost then d2.fillFail else d2
    if d3.serveOnHost then d3.serveEnd true m else d3

/-- HOST_LINK_UP: what waited goes out, in order. -/
def Dev.hostLinkUp (x16 gt64 latopt cxl : Bool) (d : Dev) : Dev :=
  if d.mod.perst then d
  else
    let d1 := (List.range 16).foldl (fun (d : Dev) v =>
      d |>.putB (Reg.HP_LINK.CXL v) cxl |>.putB (Reg.HP_LINK.LATOPT v) latopt |>.put (Reg.HP_LINK.WIDTH v) (if x16 then 2 else 1)
        |>.put (Reg.HP_LINK.SPEED v) (if gt64 then 2 else 1)) d
    d.linkWait.foldl (fun d o => d.emit o) { d1 with linkUp := true, linkWait := [] }

/-! ### MSI-X (R518) -/

/-- MSIX_UNMASK: a pending vector is sent. -/
def Dev.msixUnmask (v vec : Nat) (d : Dev) : Dev :=
  let k := v * 64 + vec
  let d1 : Dev := { d with msixMask := kset true d.msixMask k false, msixPend := kset false d.msixPend k false }
  if kget false d.msixPend k then d1.msix v vec else d1

/-! ### DOE (R519, R542) -/

/-- A view's mailbox answers. Only binding 0 is served in recovery (R528). -/
def Dev.doeServed (d : Dev) (b : Nat) : Bool := d.mod.ready && (d.mod.fw || b == 0)

/-- The device is in recovery (R528, SEC_STATUS.STAGE). -/
def Dev.inRecovery (d : Dev) : Bool := !d.mod.fw && decide (2 ≤ d.get Reg.SEC_STATUS.STAGE)

/-- Object entries of DOE Discovery: vendor, type, and the index that follows (formats PRESUMED, notes/assumptions/30.md). -/
def doeObjects : List Byte :=
  leBytes 2 0x0001 ++ [0, 1] ++ leBytes 2 0x1E98 ++ [2, 2] ++ leBytes 2 0x1F3D ++ [1, 0]

def Dev.doeDiscovery (b : Nat) (d : Dev) : Dev := if d.doeServed b then d.emit (.doe b doeObjects) else d

/-- A DSLBIS: data type, base unit, value. -/
def dslbis (kind unit v : Nat) : List Byte :=
  [1, 0] ++ leBytes 2 24 ++ [0, 0, BitVec.ofNat 8 kind, 0] ++ leBytes 8 unit ++ leBytes 2 v ++ leBytes 6 0

/-- The CDAT but for its checksum byte `c` (formats PRESUMED, notes/assumptions/30.md). -/
def cdatWith (c : Byte) : List Byte :=
  let body := [0, 0] ++ leBytes 2 24 ++ [0, 0, 0, 0] ++ leBytes 8 0 ++ leBytes 8 (567 * 2 ^ 30) ++
    dslbis 1 1000 380 ++ dslbis 2 1000 380 ++ dslbis 4 1000 110 ++ dslbis 5 1000 110 ++
    [4, 0] ++ leBytes 2 24 ++ [0, 1, 0, 0] ++ leBytes 8 0 ++ leBytes 8 (567 * 2 ^ 30)
  leBytes 4 (16 + body.length) ++ [1, c] ++ leBytes 6 0 ++ leBytes 4 0 ++ body

/-- The CDAT: all its bytes sum to 0. -/
def cdat : List Byte := cdatWith (BitVec.ofNat 8 (256 - ((cdatWith 0).map BitVec.toNat).sum % 256))

def Dev.tableAccess (b : Nat) (d : Dev) : Dev := if d.doeServed b then d.emit (.doe b cdat) else d

/-- Length of a well-formed attestation request, in whole words of four bytes. -/
def attestLen (code : Nat) : Nat := if code = 1 then 8 else 36

/-- The error byte of an attestation request that is not served; 0 for one that is. -/
def Dev.attestError (d : Dev) (msg : List Byte) : Nat :=
  let code := (msg.getD 0 0).toNat
  if d.inRecovery then 3
  else if code ≠ 1 ∧ code ≠ 2 then 1
  else if (msg.length + 3) / 4 * 4 ≠ attestLen code then 2 else 0

/-- DOE_ERROR_RESPONSE: `req` is a whole object: vendor, type, a reserved byte, its length, then its content. -/
def Dev.doeError (b : Nat) (req : List Byte) (d : Dev) : Dev :=
  if !d.doeServed b then d
  else
    let vendor := ofLeBytes (req.take 2)
    let type := (req.getD 2 0).toNat
    if (vendor = 1 ∧ type = 0) ∨ (vendor = 0x1E98 ∧ type = 2) then d
    else if vendor = 0x1F3D ∧ type = 1 then
      let e := d.attestError (req.drop 8)
      if e = 0 then d else d.emit (.doe b [0xFF, 1, BitVec.ofNat 8 e, 0])
    else d.emit (.doe b [])

end Sys2Proof.Machine
end

