-- ==== Sys2Proof/Machine/Security.lean ====
section
/-! DEFINITION. Firmware images, fuses, the debug policy and attestation (R524 to R546). -/

namespace Sys2Proof.Machine

/-! ### Events and faults (R546, R547) -/

/-- A security fault: the first stays in SEC_ERR until SEC_EVENT.ERROR is cleared. SEC_EVENT sends no vector (R518). The boot
ROM names it on the UART while it owns it (R566); else it is a fault of this block. -/
def Dev.secFault (code : Nat) (d : Dev) : Dev :=
  let held := d.is Reg.SEC_EVENT.ERROR
  let d1 := (if held then d else d.put Reg.SEC_ERR.CODE code).setBit Reg.SEC_EVENT.ERROR
  if d.mod.fw then d1.blockFault noOwner code (!held) else d1.emit (.bootLine 0 code)

/-- A command completed. -/
def Dev.secDone (d : Dev) : Dev := d.setBit Reg.SEC_EVENT.DONE

/-! ### The image (R525, R526) -/

/-- `n` bytes of an image from offset `o` as a little-endian number. -/
def imgNat (bs : List Byte) (o n : Nat) : Nat := ofLeBytes ((bs.drop o).take n)

/-- The firmware digest: header bytes 0x000 to 0x0FF, then the body. -/
def imgDigest (bs : List Byte) : List Byte := sha384 (bs.take 256 ++ (bs.drop 4096).take (imgNat bs 0x00C 4))

/-- Number of bits set among `n` bits of the fuse array from bit `lo`. -/
def countBits (x lo n : Nat) : Nat := ((List.range n).filter fun i => bitOf x (lo + i)).length

/-- The SVN floor that a fuse array holds. -/
def svnFloor (fuses : Nat) : Nat := countBits fuses 768 64

/-- The five checks. The length of the bytes at hand must be that of the header and the body. -/
def imageOk (fuses : Nat) (bs : List Byte) : Bool :=
  let len := imgNat bs 0x00C 4
  let slot := imgNat bs 0x006 1
  imgNat bs 0 4 == 0x57464B52 && imgNat bs 4 2 == 1 && decide (1 ≤ len ∧ len ≤ 8384512) && bs.length == 4096 + len &&
    decide (slot ≤ 1) && !bitOf fuses (832 + slot) &&
    ofLeBytes (sha384 ((bs.drop 0x040).take 97)) == bitsOf fuses (384 * slot) 384 &&
    decide (svnFloor fuses ≤ imgNat bs 0x008 4) &&
    ecdsaVerify ((bs.drop 0x040).take 97) (imgDigest bs) ((bs.drop 0x100).take 96)

/-- `n` bytes of the flash image from byte `a`: those programmed in this run, else what the flash held before. -/
def Dev.flashBytes (d : Dev) (a n : Nat) : List Byte :=
  (List.range n).map fun i => (kget none d.sec.flash (a + i)).getD (Config.flashByte (a + i))

/-- The image in flash, header and body. -/
def Dev.flashImage (d : Dev) : List Byte := d.flashBytes 0 (4096 + min 8384512 (ofLeBytes (d.flashBytes 0x00C 4)))

/-! ### RECOVER and UPDATE (R529, R530, R531) -/

/-- Start programming the flash with checked bytes. -/
def Dev.beginFlash (bs : List Byte) (recovery : Bool) (d : Dev) : Dev :=
  { d with sec := { d.sec with flashJob := some (bs, recovery), flashBroken := true } }.put Reg.SEC_STATUS.BUSY 1

/-- RECOVER, by the host of binding 0 in recovery. -/
def Dev.recoverCmd (b : Nat) (d : Dev) : Dev :=
  if b ≠ 0 ∨ !d.inRecovery ∨ d.get Reg.SEC_STATUS.STAGE ≠ 2 ∨ d.is Reg.SEC_STATUS.BUSY then d
  else
    let bs := (List.range (min 8388608 (d.get Reg.SEC_IMG_LEN.VALUE))).map fun i => kget 0#8 d.sec.staging i
    if d.get Reg.SEC_IMG_LEN.VALUE ≤ 8388608 && imageOk d.sec.sensed.toNat bs then (d.beginFlash bs true).put Reg.SEC_STATUS.STAGE 3
    else d.secFault 0x0902

/-- UPDATE, outside recovery. -/
def Dev.updateCmd (b : Nat) (m : Memory) (d : Dev) : Dev :=
  if d.acting b ≠ some 0 ∨ b ≠ 0 ∨ d.is Reg.SEC_STATUS.BUSY then d
  else
    let a := d.get Reg.SEC_IMG_ADDR.VALUE
    let n := d.get Reg.SEC_IMG_LEN.VALUE
    if a % 4096 == 0 && d.inSpace 0 a n && imageOk d.sec.sensed.toNat (d.memBytes m a n) then d.beginFlash (d.memBytes m a n) false
    else d.secFault 0x0902

/-- Image bytes as flash contents. -/
def flashOf (bs : List Byte) : KMap (Option Byte) := (bs.zipIdx).map fun x => (x.2, some x.1)

/-- FLASH_PROGRAM_DONE. STAGE shows the programming of a recovery only (DEDUCED, notes/assumptions/31.md). -/
def Dev.flashDone (equal : Bool) (d : Dev) : Dev :=
  match d.sec.flashJob with
  | none => d
  | some j =>
    let d1 := { d with sec := { d.sec with flashJob := none, flash := flashOf j.1, flashBroken := !equal } }.put Reg.SEC_STATUS.BUSY 0
    let d2 := if j.2 then d1.put Reg.SEC_STATUS.STAGE (if equal then 4 else 2) else d1
    if equal then d2.secDone else d2.secFault 0x0902

/-! ### Fuse commands (R533, R545) -/

/-- A fuse command of the host of binding 0, with the bits it blows. -/
def Dev.fuseCmd (b : Nat) (ok : Bool) (bits : Nat) (d : Dev) : Dev :=
  if d.acting b ≠ some 0 ∨ b ≠ 0 then d
  else if d.running || d.load.isSome || d.sec.fuseJob.isSome || d.sec.flashJob.isSome || !ok then d.secFault 0x0904
  else { d with sec := { d.sec with fuseJob := some (BitVec.ofNat 4096 bits) } }.put Reg.SEC_STATUS.BUSY 1

/-- The bits that raise the floor to `n`: the lowest unset ones (DESIGN CHOICE, notes/assumptions/32.md). -/
def floorBits (fuses n : Nat) : Nat :=
  ((List.range 64).foldl (fun (a : Nat × Nat) i =>
    if a.1 < n && !bitOf fuses (768 + i) then (a.1 + 1, a.2 + 2 ^ (768 + i)) else a) (svnFloor fuses, 0)).2

/-- DEBUG_POLICY of a fuse array, and how restrictive it is. -/
def policyOf (fuses : Nat) : Nat := bitsOf fuses 834 2

def policyRank (p : Nat) : Nat := min 2 p

/-- DBG_KEY_OWNER of a fuse array. -/
def ownerHash (fuses : Nat) : Nat := bitsOf fuses 1224 384

def Dev.evalInForce (d : Dev) : Bool := bitOf d.sec.sensed.toNat 836

def Dev.svnCommit (b fuses : Nat) (d : Dev) : Dev :=
  let r := min 64 (d.get Reg.SEC_SVN.RUNNING)
  d.fuseCmd b (decide (svnFloor fuses < r)) (floorBits fuses r)

def Dev.revoke (b k fuses : Nat) (d : Dev) : Dev :=
  d.fuseCmd b (decide (k ≤ 1) && k != d.sec.slot && !bitOf fuses (832 + (1 - k)) && !d.evalInForce) (2 ^ (832 + k))

def Dev.policy (b p fuses : Nat) (d : Dev) : Dev :=
  d.fuseCmd b (decide (p ≤ 3) && decide (policyRank (policyOf fuses) ≤ policyRank p)) (p * 2 ^ 834)

/-- SEC_RESP bytes. -/
def Dev.respBytes (d : Dev) : List Byte := (List.range 32).flatMap fun k => leBytes 8 (d.get (Reg.SEC_RESP.BYTES k))

def Dev.ownerKey (b fuses : Nat) (d : Dev) : Dev :=
  let key := d.respBytes.take 97
  d.fuseCmd b (ownerHash fuses == 0 && (pubKey key).isSome) (ofLeBytes (sha384 key) * 2 ^ 1224)

def Dev.evalCommit (b fuses : Nat) (d : Dev) : Dev :=
  d.fuseCmd b (policyOf fuses != 0 && ownerHash fuses != 0) (2 ^ 836)

/-- The fuse array after FUSE_PROGRAM_DONE: bits are blown, none is cleared. -/
def Dev.fusesAfter (d : Dev) (fuses : BitVec 4096) : BitVec 4096 :=
  match d.sec.fuseJob with
  | some bits => fuses ||| bits
  | none => fuses

def Dev.fuseDone (d : Dev) : Dev :=
  match d.sec.fuseJob with
  | some _ =>
    (({ d with sec := { d.sec with fuseJob := none } }.put Reg.SEC_STATUS.BUSY 0).put Reg.SEC_STATUS.FUSE_PENDING 1).secDone
  | none => d

/-! ### Debug authorisation (R534 to R537, R545) -/

/-- SEC_CHAL's 48 bytes. -/
def Dev.chalBytes (d : Dev) : List Byte := (List.range 6).flatMap fun k => leBytes 8 (d.get (Reg.SEC_CHAL.BYTES k))

/-- CHALLENGE. -/
def Dev.challengeCmd (b mask : Nat) (owner : Bool) (d : Dev) : Dev :=
  if d.acting b ≠ some 0 ∨ b ≠ 0 ∨ d.is Reg.SEC_STATUS.BUSY then d
  else if d.get Reg.SEC_STATUS.FAILS = 3 ∨ (d.evalInForce ∧ !owner) then d.secFault 0x0903
  else
    let k := if owner then 1 else 0
    let r (i : Nat) : Nat := (Config.randomBits (d.fresh + i)).toNat
    let words := [r 0, r 1, r 2, r 3, d.get Reg.GLB_SERIAL.SERIAL, mask + 256 * k]
    let d1 : Dev := { d with fresh := d.fresh + 4, sec := { d.sec with chal := some (mask, k, d.now) } }
    ((words.zipIdx).foldl (fun (d : Dev) w => d.put (Reg.SEC_CHAL.BYTES w.2) w.1) d1).setBit Reg.SEC_EVENT.CHAL_READY |>.secDone

/-- The response passes. -/
def Dev.responseOk (d : Dev) : Bool :=
  match d.sec.chal with
  | none => false
  | some c =>
    let key := d.respBytes.take 97
    let want := d.fuse (if c.2.1 = 0 then 840 else 1224) 384
    decide (d.now ≤ c.2.2 + 60000000000) && want != 0 && ofLeBytes (sha384 key) == want &&
      ecdsaVerify key (sha384 d.chalBytes) ((d.respBytes.drop 97).take 96)

/-- A debug authorisation may enable features: under policy authorised, and in the evaluated configuration under policy open. -/
def Dev.mayEnable (d : Dev) : Bool := d.fuse 834 2 == 1 || (d.fuse 834 2 == 0 && d.evalInForce)

/-- RESPOND. -/
def Dev.respondCmd (b : Nat) (d : Dev) : Dev :=
  if d.acting b ≠ some 0 ∨ b ≠ 0 ∨ d.is Reg.SEC_STATUS.BUSY then d
  else if d.responseOk then
    match d.sec.chal with
    | some c =>
      let d1 := { d with sec := { d.sec with chal := none, lastKey := c.2.1 + 1 } }.secDone
      if d.mayEnable then d1.put Reg.SEC_STATUS.FEATURES (d.get Reg.SEC_STATUS.FEATURES ||| c.1 % 64) else d1
    | none => d
  else (d.put Reg.SEC_STATUS.FAILS (min 3 (d.get Reg.SEC_STATUS.FAILS + 1))).secFault 0x0903

/-! ### Attestation (R539 to R544) -/

/-- The running firmware's alias key (R538). -/
def Dev.aliasPriv (d : Dev) : Nat :=
  aliasOf (secretOf d.sec.sensed.toNat) (leBytes 48 Config.bootRomDigest.toNat) (leBytes 48 d.sec.m1.toNat) (d.get Reg.SEC_SVN.RUNNING)

/-- A nonce of a signature: a free value of 1 to n - 1. -/
def sigNonce (k : Nat) : Nat := 1 + Config.freeNat k % (ecN - 1)

/-- The alias certificate of the running firmware: its extension carries M0, M1, SVN, DEBUG_POLICY and EVAL, and the DIK signs it
(R540). -/
def Dev.issueAlias (d : Dev) : Dev :=
  let secret := secretOf d.sec.sensed.toNat
  let key := publicOf d.aliasPriv
  let serial := d.fuse 1864 64
  let ext := leBytes 48 Config.bootRomDigest.toNat ++ leBytes 48 d.sec.m1.toNat ++ leBytes 4 (d.get Reg.SEC_SVN.RUNNING) ++
    [BitVec.ofNat 8 (d.fuse 834 2), BitVec.ofNat 8 (d.fuse 836 1)]
  let sig := ecdsaSign (dikOf secret) (sigNonce d.fresh) (sha384 (Config.certBody key serial ext))
  { d with fresh := d.fresh + 1, sec := { d.sec with aliasCert := some { key := key, serial := serial, ext := ext, sig := sig } } }

/-- DER of a certificate. -/
def Cert.der (c : Cert) : List Byte := Config.certDer (Config.certBody c.key c.serial c.ext) c.sig

/-- GET_CERT (R539, R540, R542). Which of its errors an index above 1 gets is open: a free value. -/
def Dev.getCert (b which : Nat) (d : Dev) : Dev :=
  if !d.doeServed b then d
  else if d.inRecovery then d.emit (.doe b [0xFF, 1, 3, 0])
  else
    let k := d.fresh
    let d1 : Dev := { d with fresh := k + 1 }
    if 1 < which then d1.emit (.doe b [0xFF, 1, BitVec.ofNat 8 (1 + Config.freeNat k % 2), 0])
    else
      let der := (if which = 0 then d.sec.idCert else d.sec.aliasCert.getD {}).der
      d.emit (.doe b ([0x81, 1, 0, 0] ++ leBytes 4 der.length ++ der))

/-- Measurement of the Route that a tenancy has loaded (R541). -/
def Dev.routeMeasure (d : Dev) (t : Nat) : Nat :=
  if d.rt.loaded ∧ d.rt.tenancy = t then d.rt.measure.toNat
  else
    match d.contexts.find? fun c => c.1 == t with
    | some c => c.2.rt.measure.toNat
    | none => 0

/-- The record that measurement 3 hashes. -/
def Dev.debugRecord (d : Dev) : Nat :=
  d.get Reg.SEC_STATUS.FEATURES + 2 ^ 8 * d.fuse 834 2 + 2 ^ 10 * d.fuse 836 1 + 2 ^ 11 * d.sec.lastKey

/-- The fuse array with DEVICE_SECRET read as zeros. -/
def withoutSecret (fuses : Nat) : Nat := fuses - bitsOf fuses 1608 256 * 2 ^ 1608

/-- A measurement by its index. -/
def Dev.measurement (d : Dev) (fuses : Nat) (i : Nat) : List Byte :=
  match i with
  | 0 => leBytes 48 Config.bootRomDigest.toNat
  | 1 => leBytes 48 d.sec.m1.toNat
  | 2 => sha384 (leBytes 512 (withoutSecret fuses))
  | 3 => sha384 (leBytes 8 d.debugRecord)
  | i => leBytes 48 (d.routeMeasure (i - 16))

/-- The tenancy of a view, as HP_VIEW shows it. -/
def Dev.viewTenancy (d : Dev) (b : Nat) : Option Nat :=
  if d.is (Reg.HP_VIEW.TEN_VALID b) then some (d.get (Reg.HP_VIEW.TENANCY b)) else none

/-- Entries that a view receives. -/
def Dev.measureList (d : Dev) (b : Nat) : List Nat :=
  [0, 1, 2, 3] ++ (if b = 0 then (List.range 16).map (16 + ·) else
    match d.viewTenancy b with
    | some t => [16 + t]
    | none => [])

/-- A measurement response but for its signature. -/
def Dev.measureBody (d : Dev) (fuses b nonce : Nat) : List Byte :=
  let l := d.measureList b
  let flags := (if d.get Reg.SEC_STATUS.FEATURES ≠ 0 then 1 else 0) + 2 * d.fuse 836 1 + (if d.load.isSome then 4 else 0)
  [0x82, 1, BitVec.ofNat 8 l.length, BitVec.ofNat 8 flags] ++ leBytes 32 nonce ++ leBytes 8 d.now ++
    leBytes 8 (d.get Reg.GLB_SERIAL.SERIAL) ++ leBytes 8 d.dsigNat ++ leBytes 2 (d.get Reg.GLB_LATID.LATID) ++
    [BitVec.ofNat 8 ((d.viewTenancy b).getD 0xFF), BitVec.ofNat 8 (d.resident.getD 0xFF)] ++ d.coreMapBytes ++
    l.flatMap fun i => [BitVec.ofNat 8 i, 0, 0, 0] ++ d.measurement fuses i

/-- GET_MEASUREMENTS, signed with the alias key over the SHA-384 of what precedes (R543). -/
def Dev.getMeasurements (b nonce fuses : Nat) (d : Dev) : Dev :=
  if !d.doeServed b then d
  else if d.inRecovery then d.emit (.doe b [0xFF, 1, 3, 0])
  else
    let body := d.measureBody fuses b nonce
    { d with fresh := d.fresh + 1 }.emit (.doe b (body ++ ecdsaSign d.aliasPriv (sigNonce d.fresh) (sha384 body)))

end Sys2Proof.Machine
end

