-- ==== Sys2Proof/Machine/RegWrite.lean ====
section
/-! DEFINITION. Reads and writes of control registers: access codes, reserved encodings, the rights of R499, the registers whose
write acts, configuration requests, and Lantern's host ring (R10 to R15, R26 to R28, R91, R105, R122, R368, R397, R403, R410, R436,
R442, R465, R499 to R502, R523, R528, R534, R551, R554, R559 to R563, R592, R593). -/

namespace Sys2Proof.Machine

/-! ### The register map (R13, R26, R27) -/

/-- A displacement from a family's base that some indices give. -/
def inDims : List (Nat × Nat) → Nat → Bool
  | [], x => x == 0
  | (s, c) :: ds, x => decide (x / s < c) && inDims ds (x % s)

/-- The register of the family that lies at an offset. -/
def RegDef.hits (r : RegDef) (off : Nat) : Bool := decide (r.base ≤ off) && inDims r.dims (off - r.base)

/-- The register at an offset and its displacement from its family's base. -/
def lookupReg (off : Nat) : Option (RegDef × Nat) := (regTable.find? fun r => r.hits off).map fun r => (r, off - r.base)

/-- Families whose reset values belong to index 0 alone. -/
def firstOnly (base : Nat) : Bool := base == 0x40100 || base == 0x40108 || base == 0x2000040

/-- A family's field at a displacement. -/
def fieldAt (r : RegDef) (f : Fld) (disp : Nat) : Fld :=
  { f with off := f.off + disp, rst := if disp ≠ 0 ∧ firstOnly r.base then 0 else f.rst }

/-! ### Reading -/

/-- A per-core window answers (R28, R592). -/
def Dev.windowOn (d : Dev) (c : Nat) : Bool := d.coreFused c && bitOf (d.get Reg.PWR_DOMAIN_ON.PD) (islandOf c)

/-- Core of an offset in the per-core windows. -/
def coreOf (off : Nat) : Option Nat := if 0x100000 ≤ off ∧ off < 0x200000 then some ((off - 0x100000) / 0x1000) else none

/-- Port of an offset in WMK_P registers (R465). -/
def portOf (off : Nat) : Option Nat := if 0x80100 ≤ off ∧ off < 0x80500 then some ((off - 0x80100) / 0x80) else none

/-- The stream entry that a core's window shows: the entry of the loaded Route with what the host has written last (R10, R91, R128). -/
def Dev.shownStream (d : Dev) (c h : Nat) : Option (BitVec 128) :=
  ((d.rt.prog c).bind fun p => p.streams[h]?).map fun e =>
    (d.rt.rewrites.filter fun w => w.1 == c && w.2.1 == h).foldl (fun e w => rewriteWord w.2.2.1 w.2.2.2 e) e

/-- A field as a read shows it: write-only fields read 0, and some fields show what the device holds elsewhere. -/
def Dev.shown (d : Dev) (f : Fld) : Nat :=
  if f.acc = .wo then 0
  else if f.key = Reg.PWR_STATE.ALLOWED.key then d.deepest
  else if f.key = Reg.RTE_CORE_STAT.STATE.key then d.coreState
  else
    match coreOf f.off with
    | some c =>
      let x := f.off % 0x1000
      if x = 8 then d.run.tick % 2 ^ 40
      else if 0x400 ≤ x ∧ x < 0x800 then
        match d.shownStream c ((x - 0x400) / 16) with
        | some e => bitsOf e.toNat (f.lo + (if x % 16 = 0 then 0 else 64)) f.width
        | none => d.get f
      else d.get f
    | none =>
      if 0x71080 ≤ f.off ∧ f.off < 0x72000 then
        let t := (f.off - 0x71000) / 0x100
        let slot := d.get (Reg.SES_SLOT_SEL.SLOT t)
        if d.slotState slot ≠ 0 ∧ d.slotTen slot = t then (d.slotWord slot ((f.off - 0x71080) % 0x100 / 4)).toNat else 0
      else d.get f

/-- Parts of the control space that read 0 and drop writes now (R28, R368, R465, R534, R592). -/
def Dev.shut (d : Dev) (off : Nat) : Bool :=
  (match coreOf off with
    | some c => !d.windowOn c
    | none => false) ||
  (decide (0xB1000 ≤ off ∧ off < 0xB2000) && !bitOf (d.get Reg.SEC_STATUS.FEATURES) 2) ||
  (off == 0xBC000 && !bitOf (d.get Reg.SEC_STATUS.FEATURES) 0)

/-- A port's registers read 0 while its domain is off (R465). -/
def Dev.portShut (d : Dev) (off : Nat) : Bool :=
  match portOf off with
  | some p => !bitOf (d.get Reg.PWR_DOMAIN_ON.PD) (if p < 4 then 19 else 20)
  | none => false

/-- A whole register as a read shows it; a core's loop table stands at its window's 0x800 (R105). -/
def Dev.readReg (d : Dev) (off : Nat) : Nat :=
  if d.shut off ∨ d.portShut off then 0
  else
    match lookupReg off with
    | some (r, x) => (r.fields.map fun f => d.shown (fieldAt r f x) * 2 ^ f.lo).sum
    | none =>
      match coreOf off with
      | some c =>
        let x := off % 0x1000
        if 0x800 ≤ x ∧ x < 0xC00 then
          match (d.rt.prog c).bind fun p => p.loops[(x - 0x800) / 64]? with
          | some l => bitsOf l.toNat (x % 64 / 8 * 64) 64
          | none => 0
        else 0
      | none => 0

/-- 32 bits at an offset, aligned: a 32-bit register, or half of a 64-bit one. -/
def Dev.read32 (d : Dev) (off : Nat) : Nat :=
  let whole (o : Nat) : Bool := (lookupReg o).any fun r => r.1.width == 64
  let loop (o : Nat) : Bool := (coreOf o).isSome && decide (0x800 ≤ o % 0x1000 ∧ o % 0x1000 < 0xC00)
  if off % 8 = 4 ∧ (whole (off - 4) ∨ loop off) then d.readReg (off - 4) / 2 ^ 32 else d.readReg off % 2 ^ 32

/-- A control-space read of 32 or 64 bits by the management processor. -/
def Dev.readBar0 (d : Dev) (off : Nat) (wide : Bool) : Nat :=
  if wide then d.read32 off + 2 ^ 32 * d.read32 (off + 4) else d.read32 off

/-- The tenancy whose own register stands at an offset: its host waits, combining entries, configuration, rings, slot window, messages and
convoy entries (R419, R420, R465). -/
def Dev.ownerAt (d : Dev) (off : Nat) : Option Nat :=
  if 0x61000 ≤ off ∧ off < 0x62000 then some ((off - 0x61000) / 0x100)
  else if 0x62000 ≤ off ∧ off < 0x63000 then some (d.get (Reg.BCN_COMB_A.OWNER ((off - 0x62000) / 0x10)))
  else if 0x70100 ≤ off ∧ off < 0x70500 then some ((off - 0x70100) / 0x40)
  else if 0x70800 ≤ off ∧ off < 0x70A00 then some ((off - 0x70800) / 0x20)
  else if 0x71000 ≤ off ∧ off < 0x72000 then some ((off - 0x71000) / 0x100)
  else if 0x72000 ≤ off ∧ off < 0x72800 then some ((off - 0x72000) / 0x80)
  else if 0x88000 ≤ off ∧ off < 0x90000 then some (d.get (Reg.WMK_CV0.TENANCY ((off - 0x88000) / 0x40)))
  else none

/-- Registers of every tenancy that tenancy 0's host reaches: SES_TEN and the convoy entries (R411, R465). -/
def zeroReaches (off : Nat) : Bool := decide (0x70100 ≤ off ∧ off < 0x70500) || decide (0x88000 ≤ off ∧ off < 0x90000)

/-- A register of another tenancy, which the host of a binding does not reach: it reads 0 and drops writes (R419, R420, R465). -/
def Dev.hidden (d : Dev) (b off : Nat) : Bool :=
  match d.ownerAt off with
  | some t => d.acting b != some t && !(d.acting b == some 0 && zeroReaches off)
  | none => false

/-- A byte of BAR0 as the host of a binding reads it: RTE_EVENT and SES_EVENT in the copy of the tenancy it acts for, 0 where no enabled
tenancy names its view; another tenancy's own registers as 0; in recovery the SEC block and the staging window alone, for binding 0 (R419,
R420, R465, R499, R528, R593). -/
def Dev.hostByte (d : Dev) (b off : Nat) : Byte :=
  let word (o : Nat) : Byte := BitVec.ofNat 8 (bitsOf (d.read32 (o / 4 * 4)) (8 * (o % 4)) 8)
  if d.inRecovery then
    if b ≠ 0 then 0#8
    else if 0x800000 ≤ off then kget 0#8 d.sec.staging (off - 0x800000)
    else if 0xA0000 ≤ off ∧ off < 0xB0000 then word off else 0#8
  else if off / 4 * 4 = 0x30014 ∨ off / 4 * 4 = 0x70004 then
    match d.acting b with
    | some u => word (off + 0x4000000 * u)
    | none => 0#8
  else if d.hidden b off then 0#8
  else word off

/-- A BAR0 read of `n` bytes, of any width: the addressed bytes, in address order (R9, R13, R14). The table has no row for a read: it
changes nothing. -/
def Dev.hostRead (d : Dev) (b off n : Nat) : List Byte := (List.range n).map fun k => d.hostByte b (off + k)

/-! ### Writing fields (R10, R11, R554) -/

/-- The encoding is one that the field's description defines. -/
def encodingOk (f : Fld) (v : Nat) : Bool :=
  let is (g : Fld) : Bool := f.key == g.key
  if is Reg.CLK_OPP.TARGET then decide (v ≤ 4)
  else if is Reg.CLK_STRETCH_CTL.HIGH_PCT then decide (v ≤ 100)
  else if is Reg.PWR_STATE.MAX_DEPTH then decide (v ≤ 5)
  else if is Reg.MIR_CTL.MODE then v != 3
  else if is (Reg.MEM_IMAP_A.GRAN 0) then decide (v ≤ 2)
  else if is (Reg.BCN_COMB_A.TARGET 0) then decide (v ≤ 1)
  else if is (Reg.BCN_COMB_A.FMT 0) then decide (0xB ≤ v ∧ v ≤ 0xD)
  else if is (Reg.BCN_COMB_A.EXPECT 0) then v != 0
  else if is (Reg.SES_TEN_BCN.COUNT 0) then decide (v ≤ 256)
  else if is (Reg.SES_RING_CFG.LOG2SIZE 0) then decide (12 ≤ v ∧ v ≤ 20)
  else if is (Reg.SES_MSG_DEST.SPACE 0) then v == 0 || v == 7
  else if is Reg.CRN_XFER_A.KIND ∨ is Reg.CRN_XFER_B.KIND ∨ is Reg.CRN_AUTO.KIND then v != 3
  else if is (Reg.WMK_CV0.BLOCKS 0) then decide (1 ≤ v ∧ v ≤ 72)
  else true

/-- What follows when a host clears an event bit: a record that the event held is released (R123, R319, R388, R551). -/
def Dev.released (f : Fld) (d : Dev) : Dev :=
  let code := d.get Reg.RTE_FAULT_CODE.CODE
  let load := decide (code / 256 = 1)
  if f.key = (Reg.RTE_EVENT.FAULT d.recTen).key then if load then d else d.put Reg.RTE_FAULT_CODE.VALID 0
  else if f.key = (Reg.RTE_EVENT.LOAD_FAIL d.recTen).key then if load then d.put Reg.RTE_FAULT_CODE.VALID 0 else d
  else if f.key = Reg.MEM_EVENT.PERSISTENT.key ∨ f.key = Reg.MEM_EVENT.CH_LOST.key then { d with memHeld := false }
  else if f.key = Reg.BCN_EVENT.WD_TIMEOUT.key then (d.put (Reg.BCN_WD_REC.VALID 0) 0).put (Reg.BCN_WD_REC.VALID 1) 0
  else d

/-- A host write of one field; `f0` is the field at index 0 of its family. An event bit that the device has set in the same tick reads 1
after both (R12). -/
def Dev.writeField (f0 f : Fld) (v : Nat) (d : Dev) : Dev :=
  match f.acc with
  | .rw => if encodingOk f0 v then d.put f v else d
  | .rw1c =>
    if v ≠ 1 ∨ !d.is f then d
    else if d.justSet.contains f.key then d.released f
    else (d.put f 0).released f
  | .ro => d
  | .wo => d

/-- The fields of a register that a write of bits lo to lo + n - 1 touches, with their new values. -/
def Dev.touched (d : Dev) (r : RegDef) (x lo n v : Nat) : List (Fld × Fld × Nat) :=
  r.fields.filterMap fun f0 =>
    let f := fieldAt r f0 x
    if f.lo + f.width ≤ lo ∨ lo + n ≤ f.lo then none
    else
      let old := if f.acc = .rw then d.get f * 2 ^ f.lo else 0
      some (f0, f, bitsOf (putBits old lo n v) f.lo f.width)

/-- Write bits lo to lo + n - 1 of a register that only stores. An undefined encoding leaves its field as it is and counts
once for the write. -/
def Dev.writeFields (r : RegDef) (x lo n v : Nat) (d : Dev) : Dev :=
  let l := d.touched r x lo n v
  let d1 := l.foldl (fun d e => d.writeField e.1 e.2.1 e.2.2) d
  if l.any fun e => e.2.1.acc == .rw && !encodingOk e.1 e.2.2 then d1.count Reg.DBG_INPUT_REJ.COUNT 1 else d1

/-! ### Registers whose write acts -/

/-- A host that acts for tenancy 0, or the management processor. -/
def Dev.byZero (b : Nat) (f : Dev → Dev) (d : Dev) : Dev := if d.acting b = some 0 then f d else d

/-- The tenancy of a LOAD or START: the TENANCY field for the host of binding 0, else the tenancy the host acts for (R412). -/
def Dev.cmdTenancy (d : Dev) (b t : Nat) : Option Nat :=
  match d.acting b with
  | none => none
  | some 0 => some t
  | some u => some u

def Dev.loadBy (b t : Nat) (d : Dev) : Dev :=
  match d.cmdTenancy b t with
  | some u => (d.wakeUp .startOrLoad).loadCmd u (d.get Reg.RTE_LOAD_ADDR.ADDR) (d.get Reg.RTE_LOAD_LEN.LEN)
  | none => d

def Dev.startBy (b t : Nat) (d : Dev) : Dev :=
  match d.cmdTenancy b t with
  | some u => (d.wakeUp .startOrLoad).startCmd u
  | none => d

/-- STOP and PREEMPT reach the run of the tenancy a host acts for, and any run for the host of binding 0 (DEDUCED,
notes/assumptions/33.md). -/
def Dev.mayStop (d : Dev) (b : Nat) : Bool :=
  match d.acting b with
  | none => false
  | some u => u == 0 || (d.rt.loaded && d.rt.tenancy == u) || d.load.any fun l => l.tenancy == u

def Dev.stopBy (b : Nat) (d : Dev) : Dev := if d.mayStop b then d.stopCmd else d

def Dev.preemptBy (b : Nat) (d : Dev) : Dev := if d.mayStop b then d.preemptCmd else d

/-- A write of a core's STREAM word. Outside a run it shows at once, and START checks it; in a run it waits (R91, R92). -/
def Dev.streamWrite (b c h : Nat) (stride : Bool) (v : BitVec 64) (d : Dev) : Dev :=
  match d.acting b with
  | none => d
  | some u =>
    if (u ≠ 0 ∧ !(d.rt.loaded && d.rt.tenancy == u)) ∨ !d.windowOn c then d
    else if (d.shownStream c h).isNone then
      if stride then d.put (Reg.STREAM_HI.STRIDE c h) v.toNat else d.put (Reg.STREAM_LO.BASE c h) v.toNat
    else
      let w := (c, h, stride, v)
      let d1 : Dev := { d with rt := { d.rt with rewrites := d.rt.rewrites ++ [w] } }
      if d.running then d1 else d1.rewriteEntry w

/-- A write of DBG_LTN_CTL. -/
def Dev.ringEnable (ctl : Nat) (d : Dev) : Dev :=
  let d1 := (d.put Reg.DBG_LTN_CTL.ENABLE (bitsOf ctl 0 1)).put Reg.DBG_LTN_CTL.RING_EN (bitsOf ctl 1 1)
  if bitOf ctl 1 then (d1.put Reg.DBG_LTN_PROD.INDEX 0).put Reg.DBG_LTN_CONS.INDEX 0 else d1

/-- A write of WMK_CTL: another device number is refused while a convoy is valid. -/
def Dev.wmkCtl (v : Nat) (d : Dev) : Dev :=
  let dev := bitsOf v 16 15
  let d1 := d.put Reg.WMK_CTL.WAYMARK_EN (bitsOf v 0 1)
  if dev ≠ d.get Reg.WMK_CTL.DEVICE ∧ d.anyConvoy then d1.event Reg.WMK_EVENT.CFG_REFUSED else d1.put Reg.WMK_CTL.DEVICE dev

/-- The host of a binding reaches a convoy entry (R499, ch. 13). -/
def Dev.reachesConvoy (d : Dev) (b c : Nat) : Bool :=
  match d.acting b with
  | none => false
  | some u => u == 0 || d.get (Reg.WMK_CV0.TENANCY c) == u

/-- A write of bits lo to lo + n - 1 of word k of a convoy entry: an entry in use takes none but the clearing of VALID (R442). -/
def Dev.convoyWrite (b c k lo n v : Nat) (r : RegDef) (d : Dev) : Dev :=
  let word0 := k == 0 && lo == 0
  if !d.reachesConvoy b c then d
  else if d.is (Reg.WMK_CV0.VALID c) then
    if word0 && !bitOf v 0 then d.convoyValid c false else d.event Reg.WMK_EVENT.CFG_REFUSED
  else
    let d1 := d.writeFields r (0x40 * c) lo n (if word0 then v - v % 2 else v)
    if word0 && bitOf v 0 then d1.convoyValid c true else d1

/-- A write of WMK_CMD. -/
def Dev.wmkCmd (b v : Nat) (d : Dev) : Dev :=
  let c := bitsOf v 16 9
  match bitsOf v 0 4 with
  | 1 => if d.reachesConvoy b c then d.join c else d
  | 2 => if d.reachesConvoy b c then d.leave c else d
  | 3 => ((List.range 512).filter fun c => d.reachesConvoy b c && d.is (Reg.WMK_CV0.VALID c)).foldl (fun d c => d.join c) d
  | _ => d

/-- A write of TIM_CFG: another source clears LOCKED (R426). -/
def Dev.timCfg (r : RegDef) (v : Nat) (d : Dev) : Dev :=
  let d1 := d.writeFields r 0 0 32 v
  if d1.get Reg.TIM_CFG.SOURCE = d.get Reg.TIM_CFG.SOURCE then d1 else d1.put Reg.TIM_STATUS.LOCKED 0

/-- A combining entry's register takes a write, which acts at the next boundary while a segment runs (R403). -/
def Dev.combStore (e lo n v : Nat) (r : RegDef) (d : Dev) : Dev :=
  let d1 := d.writeFields r (0x10 * e) lo n v
  if d.running then d1 else d1.applyComb

/-- A write of a combining entry's register by a host: OWNER by tenancy 0's host alone, every other field by the owner's alone (R419). -/
def Dev.combWrite (b e lo n v : Nat) (r : RegDef) (d : Dev) : Dev :=
  let own := d.get (Reg.BCN_COMB_A.OWNER e)
  let ownerWord := r.base == 0x62000 && lo == 0
  match d.acting b with
  | none => d
  | some 0 =>
    if own = 0 then d.combStore e lo n v r
    else if ownerWord then
      let d1 := d.put (Reg.BCN_COMB_A.OWNER e) (v % 16)
      if d.running then d1 else d1.applyComb
    else d
  | some u => if own = u then d.combStore e lo n (if ownerWord then v / 16 * 16 + own else v) r else d

/-- A write of HP_XLAT_CTL. -/
def Dev.xlatCtl (view v : Nat) (d : Dev) : Dev := if bitOf v 0 then d.retryCmd view else d

/-- A write of HP_BIND in the view of binding 0, while no enabled tenancy names the binding (R496). ANY stands in entry 0 alone. -/
def Dev.bindWrite (b v : Nat) (d : Dev) : Dev :=
  if (List.range 16).any fun t => (kget {} d.tens t).enable && (kget {} d.tens t).port == b then d
  else
    let d1 := (d.put (Reg.HP_BIND.VALID b) (bitsOf v 31 1)).put (Reg.HP_BIND.PID b) (bitsOf v 0 12)
    if b = 0 then d1.put (Reg.HP_BIND.ANY 0) (bitsOf v 30 1) else d1

/-- A write of MEM_CMD. -/
def Dev.memCmd (b v : Nat) (d : Dev) : Dev :=
  let ch := bitsOf v 8 7
  match bitsOf v 0 4 with
  | 1 => d.imapApply b
  | 2 => d.channelRetire b ch
  | 3 => d.channelTest b ch
  | 4 => d.rejoin b ch
  | 5 => d.digestCmd b
  | _ => d

/-- A write of RTE_CMD. -/
def Dev.rteCmd (b v : Nat) (d : Dev) : Dev :=
  match bitsOf v 0 4 with
  | 1 => d.loadBy b (bitsOf v 8 4)
  | 2 => d.startBy b (bitsOf v 8 4)
  | 3 => d.stopBy b
  | 4 => d.preemptBy b
  | _ => d

/-- A write of RTE_CORE_CMD. -/
def Dev.rteCoreCmd (b v : Nat) (d : Dev) : Dev :=
  let c := bitsOf v 8 8
  match bitsOf v 0 4 with
  | 1 => d.coreRetire b c
  | 2 => d.coreTest b c
  | 3 => d.coreReturn b c
  | _ => d

/-- A write of SES_CMD. -/
def Dev.sesCmd (b v : Nat) (d : Dev) : Dev :=
  let slot := bitsOf v 4 10
  match bitsOf v 0 4 with
  | 1 => d.bindSlot b slot
  | 2 => d.unbindSlot b slot
  | 3 => d.switchCmd b
  | 4 => d.tenApply b (bitsOf v 16 4)
  | _ => d

/-- A write of CRN_CMD. -/
def Dev.crnCmd (b v : Nat) (d : Dev) : Dev :=
  d.byZero b fun d =>
    match bitsOf v 0 4 with
    | 1 => d.restoreCmd
    | 2 => d.verifyCmd
    | 3 => d.fillCmd (bitOf v 5) (bitOf v 6)
    | 4 => d.serveCmd (bitsOf v 8 2) (bitOf v 7)
    | 5 => d.cairnCmd
    | 6 => d.clearRepeat
    | 7 => d.cancelQueued
    | _ => d

/-- A write of SEC_CMD. -/
def Dev.secCmd (fuses : Nat) (m : Memory) (b v : Nat) (d : Dev) : Dev :=
  let par := bitsOf v 8 8
  match bitsOf v 0 4 with
  | 1 => d.recoverCmd b
  | 2 => d.updateCmd b m
  | 3 => d.svnCommit b fuses
  | 4 => d.revoke b par fuses
  | 5 => d.policy b par fuses
  | 6 => d.ownerKey b fuses
  | 7 => d.evalCommit b fuses
  | 8 => d.challengeCmd b par (bitOf v 16)
  | 9 => d.respondCmd b
  | _ => d

/-- A write of DBG_HDW_CMD. -/
def Dev.hdwWriteCmd (b v : Nat) (d : Dev) : Dev :=
  match bitsOf v 0 2 with
  | 1 => d.hdwCmd b false
  | 2 => d.hdwCmd b true
  | _ => d

/-- A write of 32 bits whose register acts; none where the register only stores. -/
def Dev.act32 (fuses : Nat) (m : Memory) (b off v : Nat) (r : RegDef) (d : Dev) : Option Dev :=
  match r.base with
  | 0x3000C => some (d.rteCmd b v)
  | 0x30030 => some (d.rteCoreCmd b v)
  | 0x40008 => some (d.memCmd b v)
  | 0xB1004 => some (d.hdwWriteCmd b v)
  | 0x10004 => some (if bitOf v 0 then d.ctrlWake b else d)
  | 0x10100 => some (d.budgetWrite b ((off - 0x10100) / 4) v)
  | 0x70000 => some (d.sesCmd b v)
  | 0x71080 => some (d.slotWordWrite b ((off - 0x71080) / 0x100) ((off - 0x71080) % 0x100 / 4) (BitVec.ofNat 32 v))
  | 0x72004 => some (d.sendMsg b ((off - 0x72004) / 0x80) v)
  | 0x70808 => some (d.ringCfg b ((off - 0x70808) / 0x20) v)
  | 0xD0018 => some (d.timCfg r v)
  | 0x80000 => some (d.wmkCtl v)
  | 0x80100 => some (d.portCfgWrite ((off - 0x80100) / 0x80) v)
  | 0x8000C => some (d.wmkCmd b v)
  | 0x9000C => some (d.crnCmd b v)
  | 0xA0008 => some (d.secCmd fuses m b v)
  | 0xB0000 => some (d.ringEnable v)
  | 0x2000018 => some (d.xlatCtl ((off - 0x2000018) / 0x1000) v)
  | 0x2000040 => some (d.bindWrite ((off - 0x2000040) / 4) v)
  | _ => none

/-- A write of bits lo to lo + n - 1 of a 64-bit register whose write acts. -/
def Dev.act64 (b off lo n v : Nat) (r : RegDef) (d : Dev) : Option Dev :=
  let part : RegPart := if n = 64 then .whole else if lo = 0 then .low else .high
  let x := off - r.base
  match r.base with
  | 0x20008 => some (d.oppAtWrite b part v)
  | 0xD0008 => some (d.launchAtWrite b part v)
  | 0x61008 => some (if lo = 0 ∧ bitOf v 28 then d.armWait b (x / 0x10) (bitsOf v 0 24) else d.writeFields r x lo n v)
  | 0x100400 =>
    let c := x / 0x1000
    let h := x % 0x1000 / 0x10
    some (d.streamWrite b c h false (BitVec.ofNat 64 (putBits (d.readReg off) lo n v)))
  | 0x100408 =>
    some (if lo = 32 then d else d.streamWrite b (x / 0x1000) (x % 0x1000 / 0x10) true (BitVec.ofNat 64 (v % 2 ^ 32)))
  | 0x62000 => some (d.combWrite b (x / 0x10) lo n v r)
  | 0x62008 => some (d.combWrite b (x / 0x10) lo n v r)
  | 0x88000 => some (d.convoyWrite b (x / 0x40) 0 lo n v r)
  | 0x88008 => some (d.convoyWrite b (x / 0x40) 1 lo n v r)
  | 0x88010 => some (d.convoyWrite b (x / 0x40) 2 lo n v r)
  | 0x88018 => some (d.convoyWrite b (x / 0x40) 3 lo n v r)
  | 0x88020 => some (d.convoyWrite b (x / 0x40) 4 lo n v r)
  | 0x88028 => some (d.convoyWrite b (x / 0x40) 5 lo n v r)
  | 0x88030 => some (d.convoyWrite b (x / 0x40) 6 lo n v r)
  | 0x88038 => some d
  | 0x90018 => some (if d.crn.step.isSome then d else d.writeFields r 0 lo n v)
  | _ => none

/-! ### Rights (R499, R528, R593) -/

/-- Blocks that only the host of binding 0 and the management processor write: RTE_CORE_CMD, SEC, DBG and HP_BIND (R497, R547, R565, chapter 3);
another view that tenancy 0's configuration names does not. -/
def zeroOnly (off : Nat) : Bool :=
  decide (off = 0x30030 ∨ (0xA0000 ≤ off ∧ off < 0xC0000) ∨ (0x2000040 ≤ off ∧ off < 0x2000080))

/-- Registers that the host of binding `b`, acting for tenancy `u`, may write; those that act check further. -/
def Dev.mayWrite (d : Dev) (b u off : Nat) : Bool :=
  let among (lo n : Nat) : Bool := decide (lo ≤ off ∧ off < lo + n)
  (u == 0 && (b == 0 || !zeroOnly off)) || off == 0x3000C || among 0x30000 12 || off == 0x30014 || off == 0x70004 ||
    (among 0xD0008 8 && d.resident == some u) || off == 0x10100 + 4 * u || off == 0x10004 ||
    among (0x61000 + 0x100 * u) 0x100 || among 0x62000 0x1000 || off == 0x70000 || among (0x70800 + 0x20 * u) 0x20 ||
    among (0x71000 + 0x100 * u) 0x100 || among (0x72000 + 0x80 * u) 0x80 || among 0x88000 0x8000 || off == 0x8000C ||
    ((coreOf off).isSome && decide (0x400 ≤ off % 0x1000 ∧ off % 0x1000 < 0x800))

/-- The copy of RTE_EVENT and SES_EVENT that a tenancy's host reaches. -/
def ownCopy (u off : Nat) : Nat := if off = 0x30014 ∨ off = 0x70004 then off + 0x4000000 * u else off

/-- One aligned write of 32 bits, for the tenancy `u` through binding `b`. -/
def Dev.write32 (fuses : Nat) (m : Memory) (b u off v : Nat) (d : Dev) : Dev :=
  if d.shut off ∨ !d.mayWrite b u off then d
  else
    let o := ownCopy u off
    match lookupReg o with
    | some (r, x) =>
      if r.width = 64 then (d.act64 b off 0 32 v r).getD (d.writeFields r x 0 32 v)
      else (d.act32 fuses m b off v r).getD (d.writeFields r x 0 32 v)
    | none =>
      match lookupReg (o - 4) with
      | some (r, x) =>
        if r.width = 64 ∧ 4 ≤ off then (d.act64 b (off - 4) 32 32 v r).getD (d.writeFields r x 32 32 v) else d
      | none => d

/-- One aligned write of 64 bits: a 64-bit register at once, else two of 32 bits, the lower first. -/
def Dev.write64 (fuses : Nat) (m : Memory) (b u off v : Nat) (d : Dev) : Dev :=
  match lookupReg off with
  | some (r, x) =>
    if r.width = 64 then
      if d.shut off ∨ !d.mayWrite b u off then d else (d.act64 b off 0 64 v r).getD (d.writeFields r x 0 64 v)
    else (d.write32 fuses m b u off (v % 2 ^ 32)).write32 fuses m b u (off + 4) (v / 2 ^ 32)
  | none => (d.write32 fuses m b u off (v % 2 ^ 32)).write32 fuses m b u (off + 4) (v / 2 ^ 32)

/-- A write of `width` bits by a tenancy's host: one narrower than 32 bits has no effect (R14). The spec does not say what one of 32 bits off
a 4-byte boundary, or of 64 bits off an 8-byte boundary, does in control space: here it has no effect (DESIGN CHOICE,
notes/assumptions/111.md). -/
def Dev.writeFor (fuses : Nat) (m : Memory) (b u off width v : Nat) (d : Dev) : Dev :=
  if width = 32 ∧ off % 4 = 0 then d.write32 fuses m b u off (v % 2 ^ 32)
  else if width = 64 ∧ off % 8 = 0 then d.write64 fuses m b u off (v % 2 ^ 64)
  else d

/-- A write in recovery: the SEC block and the staging window, by the host of binding 0 (R528). -/
def Dev.writeRecovery (fuses : Nat) (m : Memory) (off width v : Nat) (d : Dev) : Dev :=
  if 0x800000 ≤ off then
    if (width = 32 ∧ off % 4 = 0) ∨ (width = 64 ∧ off % 8 = 0) then
      let st := (List.range (width / 8)).foldl
        (fun s k => kset 0#8 s (off - 0x800000 + k) (BitVec.ofNat 8 (bitsOf v (8 * k) 8))) d.sec.staging
      { d with sec := { d.sec with staging := st } }
    else d
  else if 0xA0000 ≤ off ∧ off < 0xB0000 then d.writeFor fuses m 0 0 off width v
  else d

/-- A combining entry's configuration word, whose OWNER tenancy 0's host writes whoever owns it. -/
def ownerWordAt (off : Nat) : Bool := decide (0x62000 ≤ off ∧ off < 0x63000) && off % 16 == 0

/-- REGISTER_WRITE through BAR0. -/
def Dev.registerWrite (fuses : Nat) (m : Memory) (b off width v : Nat) (d : Dev) : Dev :=
  if d.inRecovery then if b = 0 then d.writeRecovery fuses m off width v else d
  else if !d.mod.fw then d
  else
    match d.acting b with
    | some u => if d.hidden b off && !(u == 0 && ownerWordAt off) then d else d.writeFor fuses m b u off width v
    | none => d

/-! ### The management processor's writes (R568) -/

/-- The binding for which the management processor writes: a tenancy's own registers act for that tenancy. -/
def Dev.mgmtBinding (d : Dev) (off : Nat) : Nat :=
  let of (t : Nat) : Nat := if (kget {} d.tens t).enable then d.viewOf t else 0
  if 0x70800 ≤ off ∧ off < 0x70A00 then of ((off - 0x70800) / 0x20)
  else if 0x71000 ≤ off ∧ off < 0x72000 then of ((off - 0x71000) / 0x100)
  else if 0x72000 ≤ off ∧ off < 0x72800 then of ((off - 0x72000) / 0x80)
  else if 0x61000 ≤ off ∧ off < 0x62000 then of ((off - 0x61000) / 0x100)
  else 0

/-- A write of the management processor, which no tenancy filter holds; its writes of combining entries reach every field. -/
def Dev.mgmtWrite (fuses : Nat) (m : Memory) (off : Nat) (wide : Bool) (v : Nat) (d : Dev) : Dev :=
  if 0x62000 ≤ off ∧ off < 0x63000 then
    match lookupReg (off / 8 * 8) with
    | some (r, x) => d.combStore (x / 0x10) (if off % 8 = 0 then 0 else 32) (if wide then 64 else 32) v r
    | none => d
  else d.writeFor fuses m (d.mgmtBinding off) 0 off (if wide then 64 else 32) v

/-! ### Configuration requests (R500 to R502, R523, R528) -/

/-- Address bits of a view's BAR: its size and the low bits it reads. -/
def barShape (n : Nat) : Nat × Nat :=
  match n with
  | 0 => (2 ^ 24, 0)
  | 1 => (2 ^ 13, 0)
  | 2 => (2 ^ 17, 0)
  | 4 => (2 ^ 40, 0xC)
  | _ => (2 ^ 64, 0)

/-- 32 bits of a view's configuration space. BAR3 and BAR5 read 0 (R502), so the upper half of BAR4 takes writes at BAR5's place
and reads 0 (DEDUCED, notes/assumptions/26.md). What the spec does not state is a free value. -/
def Dev.configRead (b off : Nat) (d : Dev) : Nat × Dev :=
  let (k, d1) := d.next
  let o := off / 4 * 4
  let dv := 0x2000000 + 0x1000 * b
  let x := off - Config.dvsecBase
  if o = 0 then ((if d.inRecovery then 0x4708 else 0x4707) * 2 ^ 16 + 0x1F3D, d)
  else if o = 8 then (0x120000 * 2 ^ 8 + d.get Reg.GLB_ID.STEPPING, d)
  else if o = 0x2C then (d.get Reg.GLB_GRADE.GRADE * 2 ^ 16 + 0x1F3D, d)
  else if o = 0x1C ∨ o = 0x24 then (0, d)
  else if 0x10 ≤ o ∧ o < 0x28 then
    let n := (o - 0x10) / 4
    (kget 0 d.bars (b * 8 + n) % 2 ^ 32 + (barShape n).2, d)
  else if Config.dvsecBase ≤ off ∧ x / 4 * 4 = 4 then (Config.freeNat k % 2 ^ 16 * 2 ^ 16 + 0x1F3D, d1)
  else if Config.dvsecBase ≤ off ∧ x / 4 * 4 = 8 then (Config.freeNat k % 2 ^ 16 * 2 ^ 16 + 1, d1)
  else if Config.dvsecBase ≤ off ∧ 0xC ≤ x ∧ x < 0x80 then
    (if b ≠ 0 ∧ (0x30 ≤ x ∧ x < 0x34 ∨ 0x40 ≤ x) then 0 else d.read32 (dv + x / 4 * 4), d)
  else (Config.freeNat k % 2 ^ 32, d1)

/-- A write of a BAR, or of a register of the Renral DVSEC; the rest of configuration space holds nothing the spec describes. -/
def Dev.configWrite (fuses : Nat) (m : Memory) (b off v : Nat) (d : Dev) : Dev :=
  let o := off / 4 * 4
  let x := (off - Config.dvsecBase) / 4 * 4
  let put (n w : Nat) : Dev := { d with bars := kset 0 d.bars (b * 8 + n) (w / (barShape n).1 * (barShape n).1) }
  if o = 0x24 then put 4 (kget 0 d.bars (b * 8 + 4) % 2 ^ 32 + v * 2 ^ 32)
  else if o = 0x20 then put 4 (kget 0 d.bars (b * 8 + 4) / 2 ^ 32 * 2 ^ 32 + v)
  else if 0x10 ≤ o ∧ o < 0x1C then put ((o - 0x10) / 4) v
  else if Config.dvsecBase ≤ off ∧ 0xC ≤ x ∧ x < 0x80 then
    if b ≠ 0 ∧ (0x30 ≤ x ∧ x < 0x34 ∨ 0x40 ≤ x) then d
    else if d.inRecovery then d
    else d.write32 fuses m b 0 (0x2000000 + 0x1000 * b + x) v
  else d

/-- CONFIG_REQUEST. -/
def Dev.configRequest (fuses : Nat) (m : Memory) (b off : Nat) (op : CfgOp) (d : Dev) : Dev :=
  if !d.mod.ready then d.emit (.config b true 0)
  else if d.inRecovery ∧ b ≠ 0 then d
  else
    match op with
    | .read => let (v, d1) := d.configRead b off; d1.emit (.config b false v)
    | .write v => (d.configWrite fuses m b off v.toNat).emit (.config b false 0)

/-! ### Lantern's host ring (R559 to R563) -/

/-- The 32 header bytes of a record, and its payload. -/
def LtnRec.image (r : LtnRec) : List Byte :=
  leBytes 32 (r.milestone % 2 ^ 64 + r.tick % 2 ^ 40 * 2 ^ 64 + r.segment % 2 ^ 8 * 2 ^ 104 + r.core % 2 ^ 8 * 2 ^ 112 +
      r.lane % 4 * 2 ^ 120 + r.type % 64 * 2 ^ 122 + r.tag % 2 ^ 24 * 2 ^ 128 + r.ten % 16 * 2 ^ 152 +
      (if r.payload.isSome then 2 ^ 156 else 0) + (if r.lost then 2 ^ 157 else 0) + r.data % 2 ^ 96 * 2 ^ 160) ++
    (match r.payload with
      | some p => rowBytes p
      | none => [])

/-- Ring size in force. -/
def Dev.ltnSize (d : Dev) : Nat := 2 ^ min 24 (max 12 (d.get Reg.DBG_LTN_CFG.LOG2SIZE))

/-- The next record is marked as following a lost one. -/
def markLost (l : List LtnRec) : List LtnRec :=
  match l with
  | [] => []
  | x :: rest => { x with lost := true } :: rest

/-- LANTERN_RECORD: the oldest record goes to the host ring; a ring without room for it loses it. -/
def Dev.lanternRecord (d : Dev) : Dev :=
  match d.ltn with
  | [] => d
  | r :: rest =>
    if !d.is Reg.DBG_LTN_CTL.RING_EN ∨ !d.linkUp then d
    else
      let prod := d.get Reg.DBG_LTN_PROD.INDEX
      let used := (prod + 2 ^ 32 - d.get Reg.DBG_LTN_CONS.INDEX) % 2 ^ 32
      let size := d.ltnSize
      if used + r.size > size then
        { d.count Reg.DBG_LTN_LOST.COUNT 1 with ltn := markLost rest, ltnLost := d.ltnLost || rest.isEmpty }
      else
        let base := d.get Reg.DBG_LTN_BASE.ADDR * 2 ^ 12
        let at_ := prod % size
        let img := r.image
        let n := min r.size (size - at_)
        let d1 := d.emit (.hostWrite 0 (base + at_) (img.take n))
        let d2 := if n = r.size then d1 else d1.emit (.hostWrite 0 base (img.drop n))
        { d2 with ltn := rest }.put Reg.DBG_LTN_PROD.INDEX ((prod + r.size) % 2 ^ 32)

end Sys2Proof.Machine
end

