-- ==== Sys2Proof/Machine/Module.lean ====
section
/-! DEFINITION. The module: input and rails, PERST#, boot, the network clock, the boundary-scan port and the board-management
SMBus (R15, R33, R425, R526 to R535, R545, R558, R573 to R591). -/

namespace Sys2Proof.Machine

/-! ### Rails and input (R576 to R580) -/

/-- All six sequencer rails are in regulation. -/
def Dev.pwrgd (d : Dev) : Bool := (List.range 6).all fun r => d.mod.rails.contains r

/-- PD21 is powered and out of PERST#: the fuses have been sensed. -/
def Dev.booted (d : Dev) : Bool := d.pwrgd && !d.mod.perst

/-- What is held outside the die's volatile parts: flash, what the device sends out, positions of the free values, the module's
pins, and the TAP. -/
def Dev.remains (d : Dev) : Dev :=
  { out := d.out, fresh := d.fresh, linkUp := false, netClk := d.netClk, flashCores := d.flashCores, flashChans := d.flashChans,
    flashRemaps := d.flashRemaps,
    sec := { sensed := d.sec.sensed, flash := d.sec.flash, flashBroken := d.sec.flashBroken, idCert := d.sec.idCert },
    mod := { input := d.mod.input, rails := d.mod.rails, dramRails := d.mod.dramRails, perst := d.mod.perst, tap := d.mod.tap } }

/-- The rails fall: nothing is written back (R577, R580). -/
def Dev.railsFall (input : Bool) (d : Dev) : Dev :=
  let d1 : Dev := if d.pwrgd then d.emit (.pin 0 false) else d
  let d2 : Dev := { d1 with fresh := d1.fresh + 1 }.remains
  { d2 with mod := { d2.mod with input := input, rails := [], dramRails := false, tap := {} } }

/-- Fuses after the rails fall: of a fuse command then in progress, the bits blown so far, which are open. -/
def Dev.fusesOnLoss (d : Dev) (fuses : BitVec 4096) : BitVec 4096 :=
  match d.sec.fuseJob with
  | some bits => fuses ||| (bits &&& BitVec.ofNat 4096 (Config.freeNat d.fresh))
  | none => fuses

/-- POWER_ON. -/
def Dev.powerOn (d : Dev) : Dev :=
  if d.mod.input then d
  else { d with mod := { d.mod with input := true, rails := [0, 1, 2, 3, 4, 5] } }.emit (.pin 0 true)

/-- POWER_LOSS. -/
def Dev.powerLoss (d : Dev) : Dev := if d.mod.input then d.railsFall false else d

/-- RAIL_LEAVES_REGULATION: MOD_PWRGD deasserts; the DRAM rails, then the sequencer's own, come down (R579, R580; DEDUCED,
notes/assumptions/35.md). -/
def Dev.railLeaves (r : Nat) (d : Dev) : Dev := if d.mod.rails.contains r then d.railsFall d.mod.input else d

/-! ### PERST# (R558, R582 to R584) -/

/-- Fields that hold through PERST# (R15). -/
def stickyKeys : List Nat :=
  Reg.PWR_EVENT.THERMAL_TRIP.key :: (List.range 96).map fun ch => (Reg.MEM_CH_STAT.PERSIST ch).key

/-- The assertion acts: it lasts 1 µs or more and the module is powered. -/
def Dev.perstActs (ns : Nat) (d : Dev) : Bool := decide (1000 ≤ ns) && d.mod.input

/-- PERST_ASSERT on everything but the fuses. A flash programming in progress is abandoned, and leaves no valid image. -/
def Dev.perstAssert (ns : Nat) (d : Dev) : Dev :=
  if !d.perstActs ns then d
  else
    let r := d.remains
    { r with regs := kfilter (fun k => stickyKeys.contains k) d.regs, badBlk := d.badBlk, ckBuf := d.flushChecks.ckBuf,
             checks := d.flushChecks.checks, dieTemp := d.dieTemp, dieBad := d.dieBad,
             tim := { everLocked := d.tim.everLocked },
             mod := { r.mod with perst := true, sampled := d.mod.sampled, tripped := d.mod.tripped, limited := d.mod.limited } }

/-! ### Boot (R526 to R530, R532, R535, R545) -/

/-- Device memory channels and cores in service by fuses and retirement records. -/
def liveBits (fused : Nat) (gone : List Nat) (n : Nat) : Nat :=
  ((List.range n).filter fun i => bitOf fused i && !gone.contains i).foldl (fun a i => a + 2 ^ i) 0

/-- Step 1: the fuses are sensed and the fuse fields loaded; cores and channels of the retirement record, and spare-row remaps,
come from the configuration flash. -/
def Dev.senseFuses (fuses : BitVec 4096) (d : Dev) : Dev :=
  let d0 : Dev := { d with sec := { d.sec with sensed := fuses } }
  let f (lo n : Nat) : Nat := d0.fuse lo n
  let cores := liveBits (f 1928 256) d.flashCores 256
  let chans := liveBits (f 2270 96) d.flashChans 96
  let d1 := d0 |>.put Reg.GLB_ID.STEPPING (f 2200 8) |>.put Reg.GLB_GRADE.GRADE (f 2196 4) |>.put Reg.GLB_GRADE.CONC_LIMIT (f 2195 1)
    |>.put Reg.GLB_GRADE.MAX_OPP (f 2192 3) |>.put Reg.GLB_GRADE.PORT_MASK (f 2184 8) |>.put Reg.GLB_SERIAL.SERIAL (f 1864 64)
    |>.put Reg.GLB_LATID.LATID (f 2208 16) |>.put Reg.GLB_DSIG.FTAB_REV (f 2224 8) |>.put Reg.GLB_DSIG.EXACT_REV (f 2232 8)
    |>.put Reg.GLB_DSIG.RNG_REV (f 2240 8) |>.put Reg.GLB_DSIG.ROUND_REV (f 2248 8) |>.put Reg.GLB_DSIG.ENV_REV (f 2256 8)
    |>.put Reg.CLK_STRETCH_CTL.WARN (f 2264 6) |>.put Reg.SEC_STATUS.POLICY (f 834 2) |>.put Reg.SEC_STATUS.EVAL (f 836 1)
    |>.put Reg.SEC_SVN.FLOOR (svnFloor fuses.toNat) |>.put Reg.MEM_CH_MAP_LO.IN_SERVICE (chans % 2 ^ 64)
    |>.put Reg.MEM_CH_MAP_HI.IN_SERVICE (chans / 2 ^ 64)
  let d2 := (List.range 4).foldl (fun d k => d.put (Reg.GLB_CORE_MAP.IN_SERVICE k) (cores / 2 ^ (64 * k) % 2 ^ 64)) d1
  let d3 := (List.range 256).foldl (fun (d : Dev) c =>
    (d.putB (Reg.CORE_STATUS.PRESENT c) (bitOf cores c)).onCore c fun k =>
      { k with remap := d.remapsOf c, life := if bitOf cores c then 0 else 2 }) d2
  let d4 := (List.range 96).foldl (fun d ch => d.putB (Reg.MEM_CH_STAT.STATE ch) (!bitOf chans ch)) d3
  let d5 := (List.range 8).foldl (fun d p => d.putB (Reg.WMK_P_STAT.PRESENT p) (bitOf (f 2184 8) p)) d4
  d5.updDomains

/-- The image in flash passes R526. -/
def Dev.flashOk (d : Dev) : Bool := !d.sec.flashBroken && imageOk d.sec.sensed.toNat d.flashImage

/-- A verified image boots: steps 4 to 6. -/
def Dev.bootImage (d : Dev) : Dev :=
  let img := d.flashImage
  let d1 : Dev := { d with sec := { d.sec with m1 := BitVec.ofNat 384 (ofLeBytes (imgDigest img)), slot := imgNat img 0x006 1 },
                           mod := { d.mod with fw := true, ready := true, dramRails := true },
                           pwr := { d.pwr with idleSince := some d.now } }
  let open_ := d.fuse 834 2 == 0 && !d.evalInForce
  let d2 := d1 |>.put Reg.SEC_STATUS.STAGE 1 |>.put Reg.SEC_SVN.RUNNING (imgNat img 0x008 4 % 256)
    |>.put Reg.SEC_STATUS.FEATURES (if open_ then 0x3F else 0)
  ((List.range 16).foldl (fun d v => d.put (Reg.HP_VIEW.BINDING v) v) d2).issueAlias

/-- An image that fails: the recovery view (R528). -/
def Dev.enterRecovery (d : Dev) : Dev := { d with mod := { d.mod with ready := true } }.put Reg.SEC_STATUS.STAGE 2

/-- PERST_RELEASE: boot begins if PD21 is powered. -/
def Dev.perstRelease (selfTestOk : Bool) (fuses : BitVec 4096) (d : Dev) : Dev :=
  if !d.mod.perst then d
  else
    let d0 : Dev := { d with mod := { d.mod with perst := false } }
    if !d.pwrgd then d0
    else
      let d1 := (d0.emit (.bootLine 1 0)).senseFuses fuses
      if !selfTestOk then d1.secFault 0x0901
      else if d1.flashOk then (d1.emit (.bootLine 3 0)).bootImage else (d1.emit (.bootLine 3 1)).enterRecovery

/-- The fuse array after a release: in the evaluated configuration every boot raises the SVN floor to the running image's SVN
(R545). -/
def Dev.bootFuses (selfTestOk : Bool) (d : Dev) (fuses : BitVec 4096) : BitVec 4096 :=
  let d1 : Dev := { d with sec := { d.sec with sensed := fuses } }
  if d.mod.perst && d.pwrgd && selfTestOk && d1.flashOk && bitOf fuses.toNat 836 then
    fuses ||| BitVec.ofNat 4096 (floorBits fuses.toNat (min 64 (imgNat d1.flashImage 0x008 4)))
  else fuses

/-- DRAM_TRAINING_DONE. -/
def Dev.trainingDone (d : Dev) : Dev :=
  if !d.mod.fw ∨ d.mod.trained then d
  else { d with mod := { d.mod with trained := true }, pwr := { d.pwr with selfRefresh := false, idleSince := some d.now } }

/-- NETCLK25_RETURN. -/
def Dev.netclkReturn (d : Dev) : Dev := { d with netClk := true }

/-! ### The board-management SMBus (R588) -/

/-- The sequencer answers: V3P3 is in regulation. -/
def Dev.smbus (bs : List Byte) (d : Dev) : Dev := if d.mod.rails.contains 0 then d.emit (.smbus bs) else d

/-- GLB_ID and GLB_GRADE: before boot step 1 from the inventory copy, which equals the fuses. -/
def Dev.idWords (d : Dev) (fuses : Nat) : Nat × Nat :=
  if d.booted then (d.readReg 0, d.readReg 4)
  else
    (0x4707 * 2 ^ 16 + bitsOf fuses 2200 8 * 2 ^ 8,
     bitsOf fuses 2195 1 * 2 ^ 16 + bitsOf fuses 2184 8 * 2 ^ 8 + bitsOf fuses 2192 3 * 2 ^ 4 + bitsOf fuses 2196 4)

def Dev.smbusModel (fuses : Nat) (d : Dev) : Dev :=
  let w := d.idWords fuses
  d.smbus (leBytes 4 w.1 ++ leBytes 4 w.2)

def Dev.smbusSerial (fuses : Nat) (d : Dev) : Dev :=
  d.smbus (leBytes 8 (if d.booted then d.get Reg.GLB_SERIAL.SERIAL else bitsOf fuses 1864 64))

def Dev.smbusCores (fuses : Nat) (d : Dev) : Dev :=
  if d.booted then d.smbus ((List.range 4).flatMap fun k => leBytes 8 (d.get (Reg.GLB_CORE_MAP.IN_SERVICE k)))
  else d.smbus (leBytes 32 (liveBits (bitsOf fuses 1928 256) d.flashCores 256))

def Dev.smbusVin (mv : Nat) (d : Dev) : Dev := d.smbus (leBytes 2 mv)

/-- PIN: the last sample of module power; before the firmware runs no sample is at hand, and the reading is free. -/
def Dev.smbusPin (d : Dev) : Dev :=
  if d.mod.fw then d.smbus (leBytes 2 (d.get Reg.PWR_MODULE_W.WATTS))
  else let (k, d1) := d.next; d1.smbus (leBytes 2 (Config.freeNat k % 2 ^ 16))

def Dev.smbusTdie (d : Dev) : Dev :=
  d.smbus [if d.mod.sampled && d.pwrgd then BitVec.ofInt 8 d.hottest.1 else 0xFF#8]

def Dev.smbusTdram (d : Dev) : Dev :=
  d.smbus [if d.mod.trained && d.mod.dramRails then BitVec.ofNat 8 (d.get Reg.PWR_TEMP.DRAM) else 0xFF#8]

def Dev.smbusStatus (d : Dev) : Dev :=
  let b (i : Nat) (x : Bool) : Nat := if x then 2 ^ i else 0
  d.smbus [BitVec.ofNat 8 (b 0 d.pwrgd + b 1 d.mod.fw + b 2 d.inRecovery + b 3 d.mod.tripped + b 4 d.mod.limited +
    b 5 (d.is Reg.PWR_STATE.THERMAL_HOLD) + b 6 d.mod.perst)]

def Dev.smbusPstate (d : Dev) : Dev := d.smbus [if d.mod.ready then BitVec.ofNat 8 (d.get Reg.PWR_STATE.STATE) else 0xFF#8]

/-- A write is not acknowledged. -/
def Dev.smbusWrite (d : Dev) : Dev := if d.mod.rails.contains 0 then d.emit .nack else d

/-! ### Boundary scan (R534, R587) -/

/-- The 32 bits of IDCODE. -/
def Dev.idcode (d : Dev) (fuses : Nat) : Nat :=
  (d.idWords fuses).1 / 2 ^ 8 % 16 * 2 ^ 28 + 0x4707 * 2 ^ 12 + 0x5D3 * 2 + 1

/-- A code of the standard: BYPASS, or one of those that Config names. -/
def tapKnown (c : BitVec 8) : Bool := c == 0xFF#8 || (List.range 4).any fun n => Config.tapCode n == c

/-- The instruction selects the boundary register. -/
def TapSt.boundary (t : TapSt) : Bool :=
  !t.fresh && (t.ir == Config.tapCode 1 || t.ir == Config.tapCode 2 || t.ir == Config.tapCode 3)

/-- What a register of captured bits shifts out while `bits` go in. -/
def shiftOut (captured bits : List Bool) : List Bool := (captured ++ bits).take bits.length

/-- A code that is not of the standard, while private instructions are enabled. -/
def Dev.tapPrivate (d : Dev) (op : TapOp) : Bool :=
  match op with
  | .shiftIR c => d.mod.rails.contains 1 && !tapKnown c && bitOf (d.get Reg.SEC_STATUS.FEATURES) 5
  | .shiftDR _ => false

/-- BOUNDARY_SCAN_ACCESS. The captured pin levels are free; a code outside the standard selects BYPASS. -/
def Dev.tapAccess (op : TapOp) (fuses : Nat) (d : Dev) : Dev :=
  if !d.mod.rails.contains 1 then d
  else
    let t := d.mod.tap
    let (k, d1) := d.next
    let free := (List.range 64).map fun i => bitOf (Config.freeNat k) i
    let put (t : TapSt) (o : List Bool) (e : Dev) : Dev := { e with mod := { e.mod with tap := t } }.emit (.tap o)
    match op with
    | .shiftIR c => put { t with ir := c, fresh := false } ([true, false] ++ free.take 6) d1
    | .shiftDR bits =>
      if t.fresh || t.ir == Config.tapCode 0 then put t (shiftOut ((List.range 32).map fun i => bitOf (d.idcode fuses) i) bits) d
      else if t.boundary then put { t with cells := bits } (shiftOut free bits) d1
      else put t (shiftOut [false] bits) d

/-- TRST. -/
def Dev.trst (d : Dev) : Dev := { d with mod := { d.mod with tap := {} } }

end Sys2Proof.Machine
end

