-- ==== Sys2Proof/Machine/Phimon.lean ====
section
/-! DEFINITION. Phimon, the monitor on the UART: its commands, access levels and error numbers (R229, R381, R384, R566 to R572). -/

namespace Sys2Proof.Machine

def Dev.say (err : Nat) (vals : List Nat) (d : Dev) : Dev := d.emit (.phimon err vals)

/-- A level-1 command is carried out whenever the firmware runs. -/
def Dev.phimon (f : Dev → Dev) (d : Dev) : Dev := if d.mod.fw then f d else d

/-- The access level: 2 while debug feature 3 is enabled. -/
def Dev.phLevel (d : Dev) : Nat := if bitOf (d.get Reg.SEC_STATUS.FEATURES) 3 then 2 else 1

/-- A level-2 command: err 3 at level 1. -/
def Dev.phimon2 (f : Dev → Dev) (d : Dev) : Dev := d.phimon fun d => if d.phLevel = 2 then f d else d.say 3 []

/-- Lowest placed core. -/
def Dev.lowestPlaced (d : Dev) : Nat := ((List.range 256).find? fun c => d.is (Reg.CORE_STATUS.PLACED c)).getD 0

/-- status: the resident tenancy is 16 where there is none. -/
def Dev.phStatus (d : Dev) : Dev :=
  d.say 0 [d.readReg 0x30010, d.get Reg.RTE_STATUS.SEGMENT, d.readReg (0x100008 + 0x1000 * d.lowestPlaced), d.readReg 0x10000,
           d.readReg 0x20000, d.readReg 0xC0000, d.resident.getD 16]

/-- The held records: their event or VALID bit, and their registers (R123, R270, R276, R292, R364, R377, R388, R461, R489, R546). -/
def Dev.heldRecords (d : Dev) : List Nat :=
  let r (held : Bool) (offs : List Nat) : List Nat := if held then offs.flatMap fun o => [o, d.readReg o] else []
  r (d.is Reg.RTE_FAULT_CODE.VALID) [0x30018, 0x3001C, 0x30020, 0x30028] ++
    r (d.is Reg.MSH_EVENT.COLLISION) [0x50008] ++ r (d.is Reg.MSH_EVENT.OVERRUN) [0x50010] ++
    r (d.is Reg.MEM_EVENT.PERSISTENT) [0x40020, 0x40028] ++ r (d.is Reg.WPT_EVENT.HAZARD) [0xBC008, 0xBC010, 0xBC018] ++
    r (d.is Reg.MIR_EVENT.DIVERGED) [0xB8020, 0xB8028] ++ r (d.is (Reg.BCN_WD_REC.VALID 0)) [0x60008] ++
    r (d.is (Reg.BCN_WD_REC.VALID 1)) [0x60010] ++ r (d.is Reg.WMK_EVENT.FAULT) [0x80020] ++ r (d.is Reg.CRN_EVENT.ERROR) [0x90014] ++
    r (d.is Reg.SEC_EVENT.ERROR) [0xA000C]

def Dev.phFaults (d : Dev) : Dev := d.say 0 d.heldRecords

/-- rd and rd64: err 5 for a misaligned address. -/
def Dev.phRd (a : Nat) (wide : Bool) (d : Dev) : Dev :=
  if a % (if wide then 8 else 4) ≠ 0 then d.say 5 [] else d.say 0 [d.readBar0 a wide]

def Dev.phBcn (b : Nat) (d : Dev) : Dev := d.say 0 [d.beaconView b]

/-- core n. -/
def Dev.phCore (n : Nat) (d : Dev) : Dev :=
  let w := 0x100000 + 0x1000 * n
  d.say 0 ([d.readReg w, d.readReg (w + 8), d.readReg (w + 0x10), d.readReg (w + 0x14), d.readReg (w + 0x18)] ++
    (List.range 8).map fun b => d.readReg (w + 0x20 + 4 * b))

/-- lantern n: the last n records; 1 to 64. -/
def Dev.phLantern (n : Nat) (d : Dev) : Dev :=
  if n = 0 ∨ 64 < n then d.say 2 []
  else d.say 0 ((d.ltn.drop (d.ltn.length - n)).map fun r => ofLeBytes r.image)

def Dev.phBaud (rate : Nat) (d : Dev) : Dev :=
  if [115200, 230400, 460800, 921600, 1000000, 2000000, 3000000].contains rate then
    let d1 := d.say 0 []
    { d1 with mod := { d1.mod with baud := rate } }
  else d.say 2 []

/-- wr and wr64. -/
def Dev.phWr (fuses : Nat) (m : Memory) (a : Nat) (wide : Bool) (v : Nat) (d : Dev) : Dev :=
  if a % (if wide then 8 else 4) ≠ 0 then d.say 5 [] else (d.mgmtWrite fuses m a wide v).say 0 []

/-- The management processor's signal takes its place in the store cycle (R384, R568). -/
def Dev.phSignal (b : Nat) (set : Bool) (v : BitVec 32) (d : Dev) : Dev := (d.signalNow sigMgmt 0 b set v).say 0 []

/-- row index: answered when the row's read port serves it. -/
def Dev.phRead (ix : Nat) (d : Dev) : Dev :=
  if !d.rowThere ix then d.say 5 [] else if d.phRow.isSome then d.say 4 [] else { d with phRow := some ix }

/-- freeze, freeze at, freeze mark (R570). With no segment in progress the device has no tick reference to hold before, and the
first two are refused (DESIGN CHOICE, notes/assumptions/36.md). -/
def Dev.phFreeze (form : Freeze) (d : Dev) : Dev :=
  match form with
  | .mark m => (d.onRun fun r => { r with freezeMark := some m }).say 0 []
  | .now =>
    if !d.inSegment ∨ d.run.frozen then d.say 4 [] else (d.onRun fun r => { r with freezeAt := some (r.tick + 24) }).say 0 []
  | .at t =>
    if !d.inSegment ∨ d.run.frozen ∨ t.toNat < d.run.tick + 24 then d.say 4 []
    else (d.onRun fun r => { r with freezeAt := some t.toNat }).say 0 []

/-- tick n, on a frozen device. -/
def Dev.phTick (n : Nat) (d : Dev) : Dev :=
  if n = 0 then d.say 2 [] else if d.run.frozen then (d.unfreeze (some n)).say 0 [] else d.say 4 []

/-- run: releases the freeze. -/
def Dev.phRun (d : Dev) : Dev := if d.run.frozen then (d.unfreeze none).say 0 [] else d.say 4 []

def Dev.phStop (d : Dev) : Dev := d.stopCmd.say 0 []

/-- Commands that Phimon knows, by their first word. -/
def phWords : List (List Nat) :=
  [[115, 116, 97, 116, 117, 115], [102, 97, 117, 108, 116, 115], [114, 100], [114, 100, 54, 52], [98, 99, 110], [99, 111, 114, 101],
   [108, 97, 110, 116, 101, 114, 110], [108, 101, 118, 101, 108], [98, 97, 117, 100], [119, 114], [119, 114, 54, 52], [114, 111, 119],
   [102, 114, 101, 101, 122, 101], [116, 105, 99, 107], [114, 117, 110], [115, 116, 111, 112]]

/-- PHIMON_UNKNOWN_COMMAND: characters outside printable ASCII are discarded first; a line of more than 128 characters, or one
that begins with the word of a command, is err 2. -/
def Dev.phUnknown (line : List Byte) (d : Dev) : Dev :=
  let l := (line.map BitVec.toNat).filter fun c => decide (32 ≤ c ∧ c ≤ 126)
  let w := (l.dropWhile (· = 32)).takeWhile (· ≠ 32)
  if 128 < l.length ∨ phWords.contains w then d.say 2 [] else d.say 1 []

end Sys2Proof.Machine
end

