-- ==== Sys2Proof/Machine/Tick.lean ====
section
/-! DEFINITION. What the block does of itself when no command waits: one idle step lets Milestone time pass, advances the tick
clocks, hands out what is due, and hands out the occurrences of the tick (R34, R38, R42, R43, R54, R56 to R60, R71, R320, R386,
R388, R412, R429, R431, R433; DESIGN CHOICE, notes/assumptions/1.md). -/

namespace Sys2Proof.Machine

/-! ### Time -/

/-- Milestone time passes: how much is open (R425, R435); with it passes a tick of the fill plane, which an Eclipse does not hold (R57,
R273). -/
def Dev.timePasses (d : Dev) : Dev :=
  let (k, d1) := d.next
  let ns := Config.elapsedNs k
  let d2 := ({ d1.fillStep with justSet := [] }.put Reg.TIM_MILESTONE.COUNT (d1.now + ns)).ageWaits ns
  if d2.inSegment && !d2.held then
    (d2.rt.progs.filter d2.sbCore).foldl (fun (d : Dev) p => d.onCore p.core fun k => { k with sbHeld := k.sbHeld + ns }) d2
  else d2

/-- One tick of the tick clocks outside a segment: they stand in S2 and deeper (R336). Every scratch port is free again (R227). -/
def Dev.clocksTick (d : Dev) : Dev :=
  let d1 := d.countStalls.onRun fun r => { r with ports := [], asked := false }
  if d.get Reg.PWR_STATE.STATE < 2 then d1.contTick.testLandings else d1

/-- Since when the device has been idle (R339). -/
def Dev.trackIdle (d : Dev) : Dev :=
  { d with pwr := { d.pwr with idleSince := if d.idle then some (d.pwr.idleSince.getD d.now) else none } }

/-- What time settles without a command: an operating point's armed count, missing PPS pulses, Invalidate Requests whose lines
have landed. -/
def Dev.settle (d : Dev) : Dev := d.oppReach.ppsCheck.settleInvalidates.trackIdle

/-! ### What is due -/

/-- A Mirror arming has waited 10 ms for its peer (R373). -/
def Dev.armLate (d : Dev) : Bool := d.mir.arming.any fun t => decide (t + 10000000 ≤ d.now)

/-- Limits, states and outputs that are due in any phase. -/
def Dev.dueAny (d : Dev) : List Instr :=
  (if d.tripDue then [Instr.thermalTrip] else []) ++
    (if d.throttleStep.isSome then [Instr.throttleLevelChange] else []) ++
    (if d.powerLimitDue then [Instr.powerLimit] else []) ++
    (if d.stateDue.isSome then [Instr.powerStateEntry] else []) ++
    (if d.ppsDue then [Instr.ppsOut] else []) ++
    (if d.armLate then [Instr.mirrorArmTimeout] else []) ++
    ((d.joining.filter fun c => decide (kget 0 d.joinSent c + 100000 ≤ d.now)).map fun c => Instr.joinResend (BitVec.ofNat 9 c))

/-- Host waits whose limit has passed. -/
def Dev.dueWaits (d : Dev) : List Instr :=
  let lim := d.get Reg.BCN_WD_LIMIT.NS
  if lim = 0 then []
  else (d.hwaits.filter fun w => w.wd && decide (lim < w.waited)).map fun w => Instr.bcnWaitTimeout (.host (BitVec.ofNat 8 w.n))

/-- Stretches and switches that fall in the present tick of the islands. -/
def Dev.dueClock (d : Dev) : List Instr :=
  (if d.shadowDue then [Instr.shadowStretch] else []) ++
    ((List.range 21).filter d.stretchHighDue).map (fun i => Instr.stretchHigh (BitVec.ofNat 5 i)) ++
    (if d.oppDue then [Instr.oppSwitch] else [])

/-- Non-scheduled requests ask for their ports once in each tick, in the order of R226; a read of theirs, or a test, that no command has
reported otherwise meets no error (R225 to R227; DESIGN CHOICE, notes/assumptions/112.md). -/
def Dev.dueRequests (d : Dev) : List Instr :=
  if d.run.asked ∨ d.atRest then []
  else
    (d.cores.flatMap fun c => ((firstOfEach c.2.inRoute).map fun _ => Instr.messageDelivery (BitVec.ofNat 8 c.1) .route) ++
        (c.2.inReply.take 1).map fun _ => Instr.messageDelivery (BitVec.ofNat 8 c.1) .reply) ++
      (match d.hdw with
        | some (w, ix) => [Instr.nonScheduledAccess (BitVec.ofNat 8 (ix / 8192)) (BitVec.ofNat 3 (ix / 1024)) w .none]
        | none => []) ++
      (d.cores.flatMap fun c => (c.2.inHost.take 1).map fun _ => Instr.messageDelivery (BitVec.ofNat 8 c.1) .host) ++
      (match d.phRow with
        | some ix => [Instr.nonScheduledAccess (BitVec.ofNat 8 (ix / 8192)) (BitVec.ofNat 3 (ix / 1024)) false .none]
        | none => []) ++
      d.cores.flatMap fun c => match c.2.test with
        | some t => if t.step < 7 ∧ t.notBefore ≤ d.run.cont ∧ d.get Reg.PWR_STATE.STATE ≤ 1 then
            [Instr.scratchTestStep (BitVec.ofNat 8 c.1) .none true] else []
        | none => []

/-- Row tests that begin now: of a queued row, or every 16,777,216 ticks (R239). -/
def Dev.dueTests (d : Dev) : List Instr :=
  if d.run.cont < 16777216 ∧ d.cores.all (fun c => c.2.testQueue.isEmpty) then []
  else ((List.range 256).filter d.testDue).map fun c => Instr.scratchTestStart (BitVec.ofNat 8 c)

/-- What is due in the current tick of a segment, before its occurrences issue: completions, fork resolutions, due-tick and
acknowledgement checks, the end of a Mirror interval. -/
def Dev.dueTick (d : Dev) : List Instr :=
  let t := d.run.tick
  let cores := d.rt.progs.map Prog.core
  ((d.run.ops.filter fun o => !o.aborted && decide (o.complete ≤ t)).map fun o =>
      Instr.tileOpComplete (BitVec.ofNat 8 o.core) (BitVec.ofNat 1 o.lane) (BitVec.ofNat 3 o.tile)) ++
    (cores.filterMap fun c =>
      match (d.core c).fork with
      | some f => if f.r = t then
          some (if f.exit then Instr.exitForkResolve (BitVec.ofNat 8 c) else Instr.windowForkResolve (BitVec.ofNat 8 c)) else none
      | none => none) ++
    ((cores.filter fun c => !(d.dueRows c).isEmpty).map fun c => Instr.dueTickCheck (BitVec.ofNat 8 c)) ++
    ((cores.filter fun c => !(d.dueStores c).isEmpty).map fun c => Instr.writeAckCheck (BitVec.ofNat 8 c)) ++
    (if d.intervalDue then [Instr.mirrorIntervalEnd] else [])

/-! ### The phases -/

/-- The halt of the stop that is pending. -/
def Dev.haltNow (d : Dev) : Dev :=
  match d.run.stopping with
  | some s => d.halt s.why s.code
  | none => d

/-- A held device: a stop at H halts it at once; a release or the watchdog when due; else only time passes. -/
def Dev.heldStep (d : Dev) : Dev × List Instr :=
  if d.stopDue then (d.haltNow, [])
  else if !d.dueRequests.isEmpty then (d.onRun fun r => { r with asked := true }, d.dueRequests)
  else if d.eclipseClear then (d, [.eclipseRelease])
  else if d.watchdogDue then (d, [.routeWatchdog])
  else ((if d.run.eclipse && d.run.eclipseHolds.any (fun h => h.why == .slip) then d.rebalance else d.onRun fun r => { r with asked := false }).timePasses, [])

/-- The end of a tick: the check of its CTL.PPOINTs, the halt of a stop, an Eclipse, which comes before a preemption (R73) and which a
pending stop does not keep away (R55), the end of the segment, a freeze, a preemption, or the next tick. -/
def Dev.nextTick (d : Dev) : Dev × List Instr :=
  if !d.run.ppoints.isEmpty then (d.ppointCheck, [])
  else if d.stopDue then (d.haltNow, [])
  else if d.holdDue then (d, [.eclipseBegin])
  else if d.segmentOver then
    if d.run.stopping.isSome then (d.haltNow, []) else (d, [if d.sbSegment then .scoreboardSegmentEnd else .segmentBoundary])
  else if d.watchdogDue then (d, [.routeWatchdog])
  else if d.run.stopping.isNone && d.run.freezeAt.any fun x => decide (x ≤ d.run.tick + 1) then (d, [.freezeBegin])
  else if d.preemptPending && d.atPreemptPoint then (d, [.preemptionTaken])
  else (d.countStalls.advance.contTick.testLandings.timePasses, [])

/-- A segment in progress. -/
def Dev.segmentStep (d : Dev) : Dev × List Instr :=
  if d.held then d.heldStep
  else
    let due := d.dueClock ++ d.dueTick
    if !due.isEmpty then (d, due)
    else if !d.run.issued && d.preemptPending && d.atPreemptPoint then (d, [.preemptionTaken])
    else if !d.run.issued then
      let x := d.issueNow
      (x.2, x.1)
    else if !d.dueRequests.isEmpty then (d.onRun fun r => { r with asked := true }, d.dueRequests)
    else if !d.dueTests.isEmpty then (d, d.dueTests)
    else d.nextTick

/-- A boundary that waits for its gate (R386). -/
def Dev.gateStep (d : Dev) : Dev × List Instr :=
  let lim := d.get Reg.BCN_WD_LIMIT.NS
  if d.gate.any (·.released) then
    if d.get Reg.PWR_STATE.STATE ≠ 0 then (d, [.wake .gateReady]) else (d, [.gateRelease])
  else if d.gate.any fun g => lim ≠ 0 && decide (lim < g.waited) then (d, [.bcnWaitTimeout .gate])
  else (d.clocksTick.timePasses, [])

/-- A boundary that holds for a relaunch (R433). -/
def Dev.relaunchStep (d : Dev) : Dev × List Instr :=
  if d.tim.armedAt ≤ d.now then (d, [.relaunch]) else (d.clocksTick.timePasses, [])

/-- No run in progress: an armed launch, a wake that a launch or a budget asks for. -/
def Dev.restStep (d : Dev) : Dev × List Instr :=
  let at_ := d.tim.armedAt
  let s := d.get Reg.PWR_STATE.STATE
  let hold := d.is Reg.PWR_STATE.THERMAL_HOLD
  if d.is Reg.TIM_STATUS.LAUNCH_ARMED ∧ at_ ≤ d.now then (d, [.launch])
  else if d.is Reg.TIM_STATUS.LAUNCH_ARMED ∧ s ≠ 0 ∧ !hold ∧ at_ ≤ d.now + exitNs s then (d, [.wake .launchNear])
  else if s ≠ 0 ∧ !hold ∧ d.deepest < s then (d, [.wake .budget])
  else (d.clocksTick.timePasses, [])

/-- What the phase of the run does. -/
def Dev.phaseStep (d : Dev) : Dev × List Instr :=
  match d.run.phase with
  | .segment => d.segmentStep
  | .idle =>
    if d.switchReady then (d, [.tenancySwitch true])
    else if !d.dueClock.isEmpty then (d, d.dueClock)
    else if !d.dueRequests.isEmpty then (d.onRun fun r => { r with asked := true }, d.dueRequests)
    else if !d.dueTests.isEmpty then (d, d.dueTests)
    else d.restStep
  | p =>
    match d.run.stopping with
    | some s => (d.halt s.why s.code, [])
    | none =>
      if d.run.preempt then (d, [.preemptionTaken])
      else if d.switchReady then (d, [.tenancySwitch true])
      else if !d.dueClock.isEmpty then (d, d.dueClock)
      else if !d.dueRequests.isEmpty then (d.onRun fun r => { r with asked := true }, d.dueRequests)
      else if p = .gate then d.gateStep
      else if p = .relaunch then d.relaunchStep
      else (d.timePasses, [])

/-- One idle step: the device, and the commands it hands to its own queue. With the module unpowered nothing happens; before the
firmware runs only time passes. Host accesses that a thermal hold kept waiting go on once the packages report in range (R597). -/
def Dev.idleStep (d : Dev) : Dev × List Instr :=
  if !d.pwrgd then (d, [])
  else if !d.mod.fw then (d.timePasses, [])
  else
    let d1 := d.settle
    if !d1.parked.isEmpty ∧ d1.pwr.mr4Over.isEmpty then ({ d1 with parked := [] }, d1.parked)
    else if !d1.heldWrites.isEmpty ∧ !d1.crn.waitCopy then ({ d1 with heldWrites := [] }, d1.heldWrites)
    else if !d1.dueAny.isEmpty then (d1, d1.dueAny)
    else if !d1.dueWaits.isEmpty then (d1, d1.dueWaits)
    else d1.phaseStep

/-- One idle step of the block: the command slots that a step in which only time passes leaves free serve the copy engine and the digest
engines (R301, R308). -/
def State.idle (s : State) : State :=
  let x := s.dev.idleStep
  if x.2.isEmpty ∧ (s.dev.copyNext.isSome ∨ s.dev.digestNext.isSome) then
    let m := x.1.freeSlotsMem s.dram
    { s with dev := (x.1.freeSlots s.dram).striped s.dram m, dram := m }
  else { s with dev := x.1, pending := x.2 }

end Sys2Proof.Machine
end

