-- ==== Sys2Proof/Machine/Exec.lean ====
section
/-! DEFINITION. How a meaning acts on the state, and the operations that only a meaning uses (R34, R373, R388, R453, R458, R459,
R487). -/

namespace Sys2Proof.Machine

/-- What a command answers. -/
abbrev Res := Host.Outcome State Fault Refusal

/-- A command that reaches neither device memory nor fuses. -/
def State.on (f : Dev → Dev) (s : State) : Res := .next { s with dev := f s.dev }

/-- The issue of an occurrence: one that the Route may not issue now has no effect (R34, R38, R54). -/
def State.issue (i : Inst) (f : Dev → Dev) (s : State) : Res := s.on fun d => if d.canIssue i.core then f d else d

/-- A command that reads device memory. -/
def State.onMem (f : Memory → Dev → Dev) (s : State) : Res := s.on (f s.dram)

/-- A command that reads the fuses and device memory. -/
def State.onAll (f : Nat → Memory → Dev → Dev) (s : State) : Res := s.on (f s.fuses.toNat s.dram)

/-- A command that writes device memory: the blocks that change get their CRCs (R288). -/
def State.onBoth (f : Memory → Dev → Dev) (g : Dev → Memory → Memory) (s : State) : Res :=
  .next { s with dev := (f s.dram s.dev).striped s.dram (g s.dev s.dram), dram := g s.dev s.dram }

/-- A command that writes fuses. -/
def State.onFuses (f : Dev → Dev) (g : Dev → BitVec 4096 → BitVec 4096) (s : State) : Res :=
  .next { s with dev := f s.dev, fuses := g s.dev s.fuses }

/-- The store of an occurrence that may be acknowledged now (R51, R309, R506). -/
def Dev.ackable (d : Dev) (core tag j : Nat) : Option Store :=
  d.run.stores.find? fun x => x.owner.core == core && x.owner.tag == tag && x.j == j && !x.acked && d.canAccept d.writeHeld x

/-- Device memory as the end of a restore leaves it: it changes only while a restore is in progress (R474). -/
def Dev.restoredMem (d : Dev) (m : Memory) : Memory := if d.is Reg.CRN_STATUS.RESTORING then d.restoreMem m else m

/-- A gate's wait exceeds the limit: the run ends at that boundary (R388). -/
def Dev.gateTimeout (d : Dev) : Dev :=
  let lim := d.get Reg.BCN_WD_LIMIT.NS
  match d.gate with
  | some g =>
    if d.run.phase ≠ .gate ∨ g.released ∨ lim = 0 ∨ g.waited ≤ lim then d
    else (d.wdTimeout d.rt.tenancy g.bcn (0xFF0000 + g.seg) 256 g.take).endAtBoundary 0x0601 0 0
  | none => d

/-- A Mirror frame of the peer: it has been heard, and its interval is compared (R372, R376). -/
def Dev.peerDigest (x : MirDigest) (d : Dev) : Dev := if d.is Reg.MIR_STATUS.ACTIVE then d.mirReceive x else d

/-- A MIRROR frame of the peer: accepted only while Waymark is enabled and the frame is intact, acknowledged, and taken unless it is
the re-send of one that has come (R453, R454, R456, R459, R462). -/
def Dev.mirFrameIn (f : Frame) (g : Dev → Dev) (d : Dev) : Dev :=
  if !d.is Reg.WMK_CTL.WAYMARK_EN then d
  else if !f.intact then d.dropFrame f false
  else
    let n := f.num.toNat
    let d1 := { d with heard := kset 0 d.heard f.src.toNat d.now }.mirAckOut n
    if f.resend ∧ d.mir.got.contains n then d1
    else g { d1 with mir := { d1.mir with got := d1.mir.got ++ [n] } }

/-- The peer's arm frame: it settles an arming in progress, and the START that waits goes on; else it is kept for the own START. -/
def Dev.mirrorArm (a : ArmInfo) (d : Dev) : Dev :=
  if d.mir.arming.isSome then
    let d1 := d.armSettle a
    if d.run.startWait then d1.startGo else d1
  else { d with mir := { d.mir with peerArm := some a } }

/-- The peer has not answered within 10 ms: arming fails, and the START that waits goes on unarmed (R373). -/
def Dev.armTimeout (d : Dev) : Dev :=
  if d.armLate then
    let d1 := (d.armFail 9).put Reg.MIR_STATUS.PEER_UP 0
    if d.run.startWait then d1.startGo else d1
  else d

/-- The PPS output rises when a whole second has come (R429). -/
def Dev.ppsDueOut (d : Dev) : Dev := if d.ppsDue then d.ppsOut else d

/-- A received ABORT; its code names no further effect (R451, R458). -/
def Dev.abortReceived (f : Frame) (code : Nat) (d : Dev) : Dev := if code < 2 ^ 16 then d.abortFrame f else d

/-- A received JOIN: Waymark is enabled and the frame is intact (R453, R459). -/
def Dev.joinReceived (f : Frame) (first per len blocks dir : Nat) (d : Dev) : Dev :=
  if !d.is Reg.WMK_CTL.WAYMARK_EN then d
  else if !f.intact then d.dropFrame f false
  else d.joinFrame f.convoy.toNat first per len blocks dir

/-- A fill's source fails; the ways of failing have one effect (R487). -/
def Dev.fillSourceFails (why : SourceFail) (d : Dev) : Dev :=
  match why with
  | .timeout => d.fillFail
  | .abort => d.fillFail
  | .hostError => d.fillFail

end Sys2Proof.Machine
end

