-- ==== Sys2Proof/Machine/ExecLane.lean ====
section
/-! DEFINITION. The meanings of the commands of the data path of a core: fetch, matrix, vector, reduction and store units, tile configuration (R83 to R216). -/

namespace Sys2Proof.Machine

/-- FETCH.ROW (R83, R96). -/
def execFetchRow (i : Inst) (s : State) : Res :=
  s.issue i fun d => d.fetchRow i

/-- FETCH.VBUF (R83). -/
def execFetchVbuf (i : Inst) (s : State) : Res :=
  s.issue i fun d => d.fetchVbuf i

/-- FETCH.WGT (R137, R138). -/
def execFetchWgt (i : Inst) (s : State) : Res :=
  s.issue i fun d => d.fetchWgt i

/-- MAT.STREAM (R129 to R146). -/
def execMatStream (i : Inst) (s : State) : Res :=
  s.issue i fun d => d.forLanes i 1 (Dev.streamLane 0x11 i)

/-- MAT.STREAMT (R129, R139). -/
def execMatStreamT (i : Inst) (s : State) : Res :=
  s.issue i fun d => d.forLanes i 1 (Dev.streamLane 0x12 i)

/-- GEMV.LOADV (R153). -/
def execGemvLoadv (i : Inst) (s : State) : Res :=
  s.issue i fun d => d.forLanes i 2 (Dev.loadvLane i)

/-- GEMV.MAC (R151, R152, R595). -/
def execGemvMac (i : Inst) (s : State) : Res :=
  s.issue i fun d => d.forLanes i 2 (Dev.gemvLane i)

/-- The completion of a tile operation (R145, R146). -/
def execTileOpComplete (core : BitVec 8) (lane : BitVec 1) (tile : BitVec 3) (s : State) : Res :=
  s.on fun d => d.tileComplete core.toNat lane.toNat tile.toNat

/-- LV.DRAIN (R200 to R203). -/
def execLvDrain (i : Inst) (s : State) : Res :=
  s.issue i fun d => d.forLanes i 3 (Dev.drainLane i)

/-- LV.EW (R204, R205). -/
def execLvEw (i : Inst) (s : State) : Res :=
  s.issue i fun d => d.forLanes i 3 (Dev.ewLane i)

/-- LV.FUNC (R206, R207). -/
def execLvFunc (i : Inst) (s : State) : Res :=
  s.issue i fun d => d.forLanes i 3 (Dev.funcLane i)

/-- RED.SUM (R208 to R210). -/
def execRedSum (i : Inst) (s : State) : Res :=
  s.issue i fun d => d.redSum i

/-- RED.SMAX (R211, R212). -/
def execRedSmax (i : Inst) (s : State) : Res :=
  s.issue i fun d => d.redSmax i

/-- RED.NORM (R213). -/
def execRedNorm (i : Inst) (s : State) : Res :=
  s.issue i fun d => d.redNorm i

/-- RED.TOPK (R214). -/
def execRedTopk (i : Inst) (s : State) : Res :=
  s.issue i fun d => d.redTopk i

/-- ST.ROW (R96). -/
def execStRow (i : Inst) (s : State) : Res :=
  s.issue i fun d => d.forLanes i 5 (Dev.stRowLane i)

/-- ST.MEM (R51, R89). -/
def execStMem (i : Inst) (s : State) : Res :=
  s.issue i fun d => d.forLanes i 5 (Dev.stMemLane i)

/-- TCFG (R133 to R136). -/
def execTcfg (i : Inst) (s : State) : Res :=
  s.issue i fun d => d.forLanes i 10 (Dev.tcfgLane i)

/-- TMOV (R147, R148). -/
def execTmov (i : Inst) (s : State) : Res :=
  s.issue i fun d => d.forLanes i 10 (Dev.tmovLane i)

/-- TZERO (R147). -/
def execTzero (i : Inst) (s : State) : Res :=
  s.issue i fun d => d.forLanes i 10 (Dev.tzeroLane i)

end Sys2Proof.Machine
end

