-- ==== Sys2Proof/Machine/ExecNet.lean ====
section
/-! DEFINITION. The meanings of the commands of the mesh, the Relay chain, Beacons and messages of a Route (R251 to R281, R383 to R403). -/

namespace Sys2Proof.Machine

/-- MSH.SEND (R252 to R258). -/
def execMshSend (i : Inst) (s : State) : Res :=
  s.issue i fun d => d.meshSend i

/-- MSH.FAN (R259 to R261). -/
def execMshFan (i : Inst) (s : State) : Res :=
  s.issue i fun d => d.meshFan i

/-- MSH.CONF (R262 to R264). -/
def execMshConf (i : Inst) (s : State) : Res :=
  s.issue i fun d => d.meshConf i

/-- RLY.PASS (R265 to R269). -/
def execRlyPass (i : Inst) (s : State) : Res :=
  s.issue i fun d => d.relayPass i

/-- RLY.FWD (R265 to R269). -/
def execRlyFwd (i : Inst) (s : State) : Res :=
  s.issue i fun d => d.relayFwd i

/-- BCN.SIG (R383). -/
def execBcnSig (i : Inst) (s : State) : Res :=
  s.issue i fun d => d.beaconSignal i

/-- BCN.MSG (R390, R394). -/
def execBcnMsg (i : Inst) (s : State) : Res :=
  s.issue i fun d => d.bcnMessage i

/-- The head of an outbound queue leaves once it has a credit (R394). -/
def execMessageSend (core : BitVec 8) (s : State) : Res :=
  s.on fun d => d.messageSend core.toNat

/-- The head of an inbound queue is written into its row (R391 to R393). -/
def execMessageDelivery (core : BitVec 8) (q : MsgQueue) (s : State) : Res :=
  s.on fun d => d.messageDelivery core.toNat q

/-- The next record of a tenancy goes into its host ring (R397 to R400). -/
def execHostRingRecord (t : BitVec 4) (s : State) : Res :=
  s.on fun d => d.writeRecordTo t.toNat

/-- A contribution joins its combining entry (R401 to R403). -/
def execCombiningContribution (e : BitVec 8) (s : State) : Res :=
  s.on fun d => d.contribute e.toNat

/-- A slip buffer reaches its limit (R270, R271). -/
def execMeshSlipOverrun (router : BitVec 8) (port : BitVec 3) (plus : Bool) (s : State) : Res :=
  s.on fun d => d.slipOverrun router.toNat port.toNat plus

end Sys2Proof.Machine
end

