-- ==== Sys2Proof/Machine/ExecControl.lean ====
section
/-! DEFINITION. The meanings of the commands of control descriptors, forks, steps, transfers and their arrivals and checks (R47 to R51, R61 to R72, R404 to R409, R466 to R472). -/

namespace Sys2Proof.Machine

/-- CTL.NOP (R96). -/
def execCtlNop (i : Inst) (s : State) : Res :=
  s.issue i fun d => d.ctlNop i

/-- CTL.FORK (R62, R107 to R110). -/
def execCtlFork (i : Inst) (s : State) : Res :=
  s.issue i fun d => d.fork i

/-- A window fork resolves (R63, R68 to R70). -/
def execWindowForkResolve (core : BitVec 8) (s : State) : Res :=
  s.on fun d => d.resolveWindow core.toNat

/-- An exit fork resolves (R65, R109). -/
def execExitForkResolve (core : BitVec 8) (s : State) : Res :=
  s.on fun d => d.resolveExit core.toNat

/-- CTL.PPOINT (R71, R72). -/
def execCtlPpoint (i : Inst) (s : State) : Res :=
  s.issue i fun d => d.ppoint i

/-- CTL.TIME (R96). -/
def execCtlTime (i : Inst) (s : State) : Res :=
  s.issue i fun d => d.ctlWrite .time i

/-- CTL.RAND (R96). -/
def execCtlRand (i : Inst) (s : State) : Res :=
  s.issue i fun d => d.ctlWrite .rand i

/-- CTL.HLTH (R97). -/
def execCtlHlth (i : Inst) (s : State) : Res :=
  s.issue i fun d => d.ctlWrite (.health (i.extBits 8 8)) i

/-- STEP.OPEN (R466 to R469): the step, and the header in device memory. -/
def execStepOpen (i : Inst) (s : State) : Res :=
  if s.dev.canIssue i.core then s.onBoth (fun m d => d.stepOpen i m) (fun d m => d.stepOpenMem i m) else .next s

/-- STEP.COMMIT (R470 to R472). -/
def execStepCommit (i : Inst) (s : State) : Res :=
  s.issue i fun d => d.stepCommit i

/-- CTL.MARK (R98, R570). -/
def execCtlMark (i : Inst) (s : State) : Res :=
  s.issue i fun d => d.ctlMark i

/-- DMA.RD (R48, R49, R89, R438). -/
def execDmaRd (i : Inst) (s : State) : Res :=
  s.issue i fun d => d.dmaRead i

/-- DMA.WR (R51, R89, R438). -/
def execDmaWr (i : Inst) (s : State) : Res :=
  s.issue i fun d => d.dmaWrite i

/-- DMA.SGATHER (R405). -/
def execDmaSgather (i : Inst) (s : State) : Res :=
  s.issue i fun d => d.gather i

/-- DMA.SSCATTER (R406). -/
def execDmaSscatter (i : Inst) (s : State) : Res :=
  s.issue i fun d => d.scatter i

/-- A half-row arrives through the fill port (R218, R275). -/
def execHalfRowArrival (core : BitVec 8) (bank : BitVec 3) (row : BitVec 10) (half : BitVec 1) (hostData : BitVec 2048) (mark : DelayMark) (delay : BitVec 16)
    (s : State) : Res :=
  s.onMem fun m d => d.arrive m core.toNat bank.toNat row.toNat half.toNat hostData mark delay.toNat

/-- The check of rows at their due tick (R49). -/
def execDueTickCheck (core : BitVec 8) (s : State) : Res :=
  s.on fun d => d.checkRows core.toNat

/-- The check of acknowledgements at their due tick (R51). -/
def execWriteAckCheck (core : BitVec 8) (s : State) : Res :=
  s.on fun d => d.checkAcks core.toNat

/-- A store is accepted, and its acknowledgement mark sets (R51, R289, R309). -/
def execWriteAcknowledgement (core : BitVec 8) (tag : BitVec 24) (j : BitVec 16) (s : State) : Res :=
  match s.dev.ackable core.toNat tag.toNat j.toNat with
  | some x => s.onBoth (fun _ d => d.acceptStore x) (fun d m => d.acceptMem x m)
  | none => .next s

end Sys2Proof.Machine
end

