-- ==== Sys2Proof/Machine/ExecRun.lean ====
section
/-! DEFINITION. The meanings of the commands of segments, the Eclipse, Route commands, launches, Mirror (R42 to R60, R71 to R76, R119 to R122, R370 to R377, R430 to R434). -/

namespace Sys2Proof.Machine

/-- An Eclipse begins (R54 to R57). -/
def execEclipseBegin (s : State) : Res :=
  s.on fun d => d.eclipseBegin

/-- An Eclipse is released (R58). -/
def execEclipseRelease (s : State) : Res :=
  s.on fun d => d.eclipseRelease

/-- The Eclipse limit has passed (R60). -/
def execRouteWatchdog (s : State) : Res :=
  s.on fun d => d.routeWatchdog

/-- The segment boundary (R43). -/
def execSegmentBoundary (s : State) : Res :=
  s.on fun d => d.segmentBoundary

/-- The released gate's segment goes on (R101, R386); from a power state it is a wake event (R341). -/
def execGateRelease (s : State) : Res :=
  s.on fun d => if d.gate.any (·.released) then (d.wakeUp .gateReady).gateRelease else d

/-- A scoreboard segment ends (R249). -/
def execScoreboardSegmentEnd (s : State) : Res :=
  s.on fun d => d.scoreboardEnd

/-- A preemption is taken (R71). -/
def execPreemptionTaken (s : State) : Res :=
  s.on fun d => d.preemptionTaken

/-- LOAD (R119, R412, R521). -/
def execLoad (b : BitVec 4) (t : BitVec 4) (s : State) : Res :=
  s.on fun d => d.loadBy b.toNat t.toNat

/-- The loader ends (R119, R120). -/
def execLoadComplete (s : State) : Res :=
  s.onMem fun m d => d.loadComplete m

/-- START (R42, R122). -/
def execStart (b : BitVec 4) (t : BitVec 4) (s : State) : Res :=
  s.on fun d => d.startBy b.toNat t.toNat

/-- STOP (R122). -/
def execStop (b : BitVec 4) (s : State) : Res :=
  s.on fun d => d.stopBy b.toNat

/-- PREEMPT (R71, R122). -/
def execPreempt (b : BitVec 4) (s : State) : Res :=
  s.on fun d => d.preemptBy b.toNat

/-- A write of a stream word (R91). -/
def execStreamEntryWrite (b : BitVec 4) (core : BitVec 8) (h : BitVec 6) (stride : Bool) (value : BitVec 64) (s : State) : Res :=
  s.on fun d => d.streamWrite b.toNat core.toNat h.toNat stride value

/-- A write of TIM_LAUNCH_AT (R430). -/
def execTimLaunchAtWrite (b : BitVec 4) (part : RegPart) (value : BitVec 64) (s : State) : Res :=
  s.on fun d => d.launchAtWrite b.toNat part value.toNat

/-- An armed launch begins (R431). -/
def execLaunch (s : State) : Res :=
  s.on fun d => d.launch

/-- A boundary's hold ends at the armed count (R432). -/
def execRelaunch (s : State) : Res :=
  s.on fun d => d.relaunch

/-- The peer's digest of an interval (R372). -/
def execMirrorDigest (f : Frame) (pass interval : BitVec 64) (digest : BitVec 384) (s : State) : Res :=
  s.on fun d => d.mirFrameIn f (fun d => d.peerDigest { pass := pass.toNat, interval := interval.toNat, digest := digest, folds := [] })

/-- The peer's folds of an interval (R372). -/
def execMirrorFolds (f : Frame) (pass interval : BitVec 64) (folds : List (BitVec 64)) (s : State) : Res :=
  s.on fun d => d.mirFrameIn f (fun d => d.peerDigest { pass := pass.toNat, interval := interval.toNat, digest := mirDigest folds pass.toNat interval.toNat, folds := folds })

/-- The primary's bytes for an occurrence (R374). -/
def execMirrorVariance (f : Frame) (tag : BitVec 24) (lin : BitVec 64) (bytes : List Byte) (s : State) : Res :=
  s.on fun d => d.mirFrameIn f (fun d => d.mirrorVariance tag.toNat lin.toNat bytes)

/-- The peer's stop frame (R376). -/
def execMirrorStop (f : Frame) (_pass _interval : BitVec 64) (s : State) : Res :=
  s.on fun d => d.mirFrameIn f (fun d => d.mirrorStop)

/-- The peer's arm frame (R373). -/
def execMirrorArm (f : Frame) (measure : BitVec 384) (dsig : BitVec 64) (latid : BitVec 16) (placement : BitVec 8) (role : BitVec 8) (coreMap : BitVec 256)
    (s : State) : Res :=
  s.on fun d => d.mirFrameIn f (fun d => d.mirrorArm
    { measure := measure, dsig := dsig.toNat, latid := latid.toNat, placement := placement.toNat, role := role.toNat, coreMap := coreMap })

/-- A Mirror interval ends (R370 to R372). -/
def execMirrorIntervalEnd (s : State) : Res :=
  s.on fun d => d.mirrorIntervalEnd

/-- A freeze takes effect (R570). -/
def execFreezeBegin (s : State) : Res :=
  s.on fun d => d.freezeBegin

/-- No arm frame of the peer within 10 ms (R373). -/
def execMirrorArmTimeout (s : State) : Res :=
  s.on fun d => d.armTimeout

end Sys2Proof.Machine
end

