-- ==== Sys2Proof/Machine/ExecUnits.lean ====
section
/-! DEFINITION. The meanings of the commands of cores, scratch tests and device memory (R124 to R127, R225 to R244, R282 to R319). -/

namespace Sys2Proof.Machine

/-- RETIRE of a core (R124). -/
def execCoreRetire (b : BitVec 4) (core : BitVec 8) (s : State) : Res :=
  s.on fun d => d.coreRetire b.toNat core.toNat

/-- TEST of a core (R125). -/
def execCoreTest (b : BitVec 4) (core : BitVec 8) (s : State) : Res :=
  s.on fun d => d.coreTest b.toNat core.toNat

/-- A core's return test ends (R125). -/
def execCoreTestDone (found : CoreTestResult) (s : State) : Res :=
  s.on fun d => d.coreTestDone (found.failed.map BitVec.toNat) found.equal

/-- RETURN of a core (R126). -/
def execCoreReturn (b : BitVec 4) (core : BitVec 8) (s : State) : Res :=
  s.on fun d => d.coreReturn b.toNat core.toNat

/-- A row test begins (R239). -/
def execScratchTestStart (core : BitVec 8) (s : State) : Res :=
  s.on fun d => d.scratchTestStart core.toNat

/-- A step of a row test (R240 to R244). -/
def execScratchTestStep (core : BitVec 8) (err : CellErr) (matches_ : Bool) (s : State) : Res :=
  s.on fun d => d.scratchTestStep core.toNat err matches_

/-- A waiting non-scheduled access asks for its port (R225 to R229). -/
def execNonScheduledAccess (core : BitVec 8) (bank : BitVec 3) (write : Bool) (err : CellErr) (s : State) : Res :=
  s.on fun d => d.nonScheduled core.toNat bank.toNat write err

/-- A read through the host debug window (R229). -/
def execHdwRead (b : BitVec 4) (s : State) : Res :=
  s.on fun d => d.hdwCmd b.toNat false

/-- A write through the host debug window (R229). -/
def execHdwWrite (b : BitVec 4) (s : State) : Res :=
  s.on fun d => d.hdwCmd b.toNat true

/-- IMAP_APPLY (R285). -/
def execImapApply (b : BitVec 4) (s : State) : Res :=
  s.on fun d => d.imapApply b.toNat

/-- RETIRE of a channel (R314). -/
def execChannelRetire (b : BitVec 4) (ch : BitVec 7) (s : State) : Res :=
  s.on fun d => d.channelRetire b.toNat ch.toNat

/-- TEST of a channel (R315). -/
def execChannelTest (b : BitVec 4) (ch : BitVec 7) (s : State) : Res :=
  s.on fun d => d.channelTest b.toNat ch.toNat

/-- A channel's test ends (R315). -/
def execChannelTestDone (ch : BitVec 7) (pass : Bool) (s : State) : Res :=
  s.onBoth (fun _ d => d.channelTestDone ch.toNat pass) (fun d m => d.testedMem ch.toNat m)

/-- REJOIN (R316). -/
def execRejoin (b : BitVec 4) (ch : BitVec 7) (s : State) : Res :=
  s.on fun d => d.rejoin b.toNat ch.toNat

/-- DIGEST (R311). -/
def execDigest (b : BitVec 4) (s : State) : Res :=
  s.on fun d => d.digestCmd b.toNat

/-- A digest job ends (R312). -/
def execDigestDone (failed : Bool) (s : State) : Res :=
  s.onMem fun m d => d.digestDone failed m

/-- A block fails its check (R291 to R295). -/
def execBlockCheckFail (ch : BitVec 7) (off : BitVec 33) (checkBlock : Bool) (rereads : BitVec 2) (persistent : Bool) (by_ : BlockReader)
    (s : State) : Res :=
  s.on fun d => d.blockCheckFail ch.toNat off.toNat checkBlock rereads.toNat persistent by_

/-- A channel is lost (R313). -/
def execChannelLost (ch : BitVec 7) (s : State) : Res :=
  s.on fun d => d.channelLost ch.toNat

/-- A planned refresh (R296, R297). -/
def execPlannedRefresh (ch : BitVec 7) (s : State) : Res :=
  s.on fun d => d.plannedRefresh ch.toNat

/-- A forced refresh (R298). -/
def execForcedRefresh (ch : BitVec 7) (bank : BitVec 4) (s : State) : Res :=
  s.on fun d => d.forcedRefresh ch.toNat bank.toNat

/-- An MR4 poll of a package (R297, R556). -/
def execMr4Poll (pkg : BitVec 4) (reading : Option (BitVec 2)) (s : State) : Res :=
  s.on fun d => d.mr4Poll pkg.toNat reading

/-- The step-open copy completes (R468). -/
def execStepCopyDone (s : State) : Res :=
  s.onBoth (fun m d => d.copyAll m) (fun d m => d.copyAllMem m)

/-- The copy has come to the block of a held write (R309). -/
def execHeldWriteRelease (addr : BitVec 40) (s : State) : Res :=
  s.onBoth (fun m d => d.copyBlock addr.toNat m) (fun d m => d.copyBlockMem addr.toNat m)

end Sys2Proof.Machine
end

