-- ==== Sys2Proof/Machine/ExecPower.lean ====
section
/-! DEFINITION. The meanings of the commands of clocks, power and Milestone time (R320 to R348, R425 to R435). -/

namespace Sys2Proof.Machine

/-- A margin below WARN (R323). -/
def execOwnStretch (island : BitVec 5) (margin : BitVec 6) (s : State) : Res :=
  s.on fun d => d.ownStretch island.toNat margin.toNat

/-- A shadow stretch (R326). -/
def execShadowStretch (s : State) : Res :=
  s.on fun d => d.shadowStretch

/-- An island passes HIGH_PCT (R596). -/
def execStretchHigh (island : BitVec 5) (s : State) : Res :=
  s.on fun d => d.stretchHigh island.toNat

/-- A margin code of 0 (R325). -/
def execClkMarginLost (island : BitVec 5) (s : State) : Res :=
  s.on fun d => if island.toNat ≤ 20 then d.ownStretch island.toNat 0 else d

/-- A write of CLK_OPP_AT (R332 to R334). -/
def execClkOppAtWrite (b : BitVec 4) (part : RegPart) (value : BitVec 64) (s : State) : Res :=
  s.on fun d => d.oppAtWrite b.toNat part value.toNat

/-- The operating point switches (R335). -/
def execOppSwitch (s : State) : Res :=
  s.on fun d => d.oppSwitch

/-- Sensors are sampled (R343, R556). -/
def execSensorSample (die : List (BitVec 5 × Int)) (watts : Nat) (s : State) : Res :=
  s.on fun d => if d.booted then d.sensorSample die watts else d

/-- The throttle level changes (R345). -/
def execThrottleLevelChange (s : State) : Res :=
  s.on fun d => d.throttleChange

/-- POWER_LIMIT (R346). -/
def execPowerLimit (s : State) : Res :=
  s.on fun d => d.powerLimit

/-- THERMAL_TRIP (R347). -/
def execThermalTrip (s : State) : Res :=
  s.on fun d => d.thermalTrip

/-- Entry into a power state (R340). -/
def execPowerStateEntry (s : State) : Res :=
  s.on fun d => d.powerStateEntry

/-- A wake event (R341). -/
def execWake (ev : WakeEvent) (s : State) : Res :=
  s.on fun d => if d.mod.fw then d.wake ev else d

/-- A write of PWR_CTRL.WAKE (R597). -/
def execPwrCtrlWake (b : BitVec 4) (s : State) : Res :=
  s.on fun d => d.ctrlWake b.toNat

/-- A write of a power budget (R520). -/
def execPwrBudgetNsWrite (b : BitVec 4) (t : BitVec 4) (ns : BitVec 32) (s : State) : Res :=
  s.on fun d => d.budgetWrite b.toNat t.toNat ns.toNat

/-- A sync message (R427, R428). -/
def execSyncMessage (domain : BitVec 8) (offset : Int) (steps : BitVec 8) (accurate : Bool) (s : State) : Res :=
  s.on fun d => d.syncMessage domain.toNat offset steps.toNat accurate

/-- Sync is lost (R428). -/
def execSyncLost (s : State) : Res :=
  s.on fun d => d.syncLost

/-- A PPS input pulse (R555, R557). -/
def execPpsIn (highNs : Nat) (missNs : Int) (s : State) : Res :=
  s.on fun d => d.ppsIn highNs missNs

/-- The PPS output rises (R429). -/
def execPpsOut (s : State) : Res :=
  s.on fun d => d.ppsDueOut

end Sys2Proof.Machine
end

