-- ==== Sys2Proof/Machine/ExecSession.lean ====
section
/-! DEFINITION. The meanings of the commands of host Beacons, waits, sessions and tenancies (R380 to R420). -/

namespace Sys2Proof.Machine

/-- A BAR2 write that sets a Beacon (R380). -/
def execBeaconSet (b : BitVec 4) (bcn : BitVec 14) (wide : Bool) (value : BitVec 64) (s : State) : Res :=
  s.on fun d => d.hostSet b.toNat bcn.toNat (if wide then value.toNat % 2 ^ 32 else value.toNat)

/-- A BAR2 write that adds to a Beacon (R380). -/
def execBeaconAdd (b : BitVec 4) (bcn : BitVec 14) (value : BitVec 32) (s : State) : Res :=
  s.on fun d => d.hostAdd b.toNat bcn.toNat value.toNat

/-- ARM of a host wait (R387). -/
def execArm (b : BitVec 4) (n : BitVec 8) (tag : BitVec 24) (s : State) : Res :=
  s.on fun d => d.armWait b.toNat n.toNat tag.toNat

/-- A waiter times out (R388). -/
def execBcnWaitTimeout (w : Waiter) (s : State) : Res :=
  s.on fun d => match w with
    | .gate => d.gateTimeout
    | .host n => d.waitTimeout n.toNat

/-- BIND (R410). -/
def execBind (b : BitVec 4) (slot : BitVec 10) (s : State) : Res :=
  s.on fun d => d.bindSlot b.toNat slot.toNat

/-- UNBIND (R410). -/
def execUnbind (b : BitVec 4) (slot : BitVec 10) (s : State) : Res :=
  s.on fun d => d.unbindSlot b.toNat slot.toNat

/-- A write of a slot word (R410). -/
def execSlotWordWrite (b : BitVec 4) (t : BitVec 4) (w : BitVec 5) (value : BitVec 32) (s : State) : Res :=
  s.on fun d => d.slotWordWrite b.toNat t.toNat w.toNat value

/-- SWITCH (R412). -/
def execSwitch (b : BitVec 4) (s : State) : Res :=
  s.on fun d => d.switchCmd b.toNat

/-- A tenancy switch is served (R414 to R417). -/
def execTenancySwitch (intact : Bool) (s : State) : Res :=
  s.onBoth (fun _ d => d.tenancySwitch intact) (fun d m => if d.switchReady then d.switchMem m else m)

/-- TEN_APPLY (R411, R498). -/
def execTenApply (b : BitVec 4) (t : BitVec 4) (s : State) : Res :=
  s.on fun d => d.tenApply b.toNat t.toNat

/-- A write of SES_MSG_CTL (R396). -/
def execSend (b : BitVec 4) (t : BitVec 4) (ctl : BitVec 32) (s : State) : Res :=
  s.on fun d => d.sendMsg b.toNat t.toNat ctl.toNat

/-- A write of SES_RING_CFG (R397). -/
def execRingEnable (b : BitVec 4) (t : BitVec 4) (cfg : BitVec 32) (s : State) : Res :=
  s.on fun d => d.ringCfg b.toNat t.toNat cfg.toNat

end Sys2Proof.Machine
end

