-- ==== Sys2Proof/Machine/ExecWaymark.lean ====
section
/-! DEFINITION. The meanings of the commands of Ethernet ports, convoys and Waymark frames (R421 to R424, R436 to R465). -/

namespace Sys2Proof.Machine

/-- A write of WMK_Pp_CFG (R423). -/
def execPortCfgWrite (b : BitVec 4) (p : BitVec 3) (value : BitVec 32) (s : State) : Res :=
  s.on fun d => d.byZero b.toNat fun d => d.portCfgWrite p.toNat value.toNat

/-- A link comes up or goes down (R421, R422). -/
def execLinkChange (p : BitVec 3) (sub : BitVec 1) (up : Bool) (s : State) : Res :=
  s.on fun d => d.linkChange p.toNat sub.toNat up

/-- VALID of a convoy entry is set or cleared (R442). -/
def execConvoyValid (b : BitVec 4) (c : BitVec 9) (set : Bool) (s : State) : Res :=
  s.on fun d => if d.reachesConvoy b.toNat c.toNat then d.convoyValid c.toNat set else d

/-- JOIN (R459). -/
def execJoin (b : BitVec 4) (c : BitVec 9) (s : State) : Res :=
  s.on fun d => if d.reachesConvoy b.toNat c.toNat then d.join c.toNat else d

/-- LEAVE (R459). -/
def execLeave (b : BitVec 4) (c : BitVec 9) (s : State) : Res :=
  s.on fun d => if d.reachesConvoy b.toNat c.toNat then d.leave c.toNat else d

/-- JOIN of every valid convoy (R459). -/
def execJoinAll (b : BitVec 4) (s : State) : Res :=
  s.on fun d => d.wmkCmd b.toNat 3

/-- JOIN is sent again (R459). -/
def execJoinResend (c : BitVec 9) (s : State) : Res :=
  s.on fun d => d.joinResend c.toNat

/-- A pacing slot (R441). -/
def execBlockTransmit (c : BitVec 9) (s : State) : Res :=
  s.onMem fun m d => d.blockTransmit c.toNat m

/-- A received DATA frame (R440, R444, R453, R456). -/
def execData (f : Frame) (payload : BitVec 32768) (s : State) : Res :=
  s.on fun d => d.dataFrame f payload

/-- A stored block goes into its posted rows (R444). -/
def execReceiveStoreDrain (p : BitVec 3) (s : State) : Res :=
  s.on fun d => d.drainStore p.toNat

/-- A received ACK (R455, R457). -/
def execAck (f : Frame) (bitmap : BitVec 512) (s : State) : Res :=
  s.on fun d => d.ackFrame f bitmap

/-- The ACK at a window's end (R454). -/
def execAckWindowEnd (c : BitVec 9) (s : State) : Res :=
  s.on fun d => d.ackWindowEnd c.toNat

/-- The ACKs after a window's end (R454). -/
def execAckPeriodic (c : BitVec 9) (s : State) : Res :=
  s.on fun d => d.ackPeriodic c.toNat

/-- A received SIGNAL (R460). -/
def execSignal (f : Frame) (bcn : BitVec 14) (value : BitVec 32) (s : State) : Res :=
  s.on fun d => d.signalFrame f bcn.toNat value

/-- A received ABORT (R458). -/
def execAbort (f : Frame) (code : BitVec 16) (s : State) : Res :=
  s.on fun d => d.abortReceived f code.toNat

/-- A received JOIN (R436, R459). -/
def execJoinFrame (f : Frame) (first : BitVec 64) (period len : BitVec 32) (blocks : BitVec 16) (dir : BitVec 8)
    (s : State) : Res :=
  s.on fun d => d.joinReceived f first.toNat period.toNat len.toNat blocks.toNat dir.toNat

/-- A KEEPALIVE (R458). -/
def execKeepalive (c : BitVec 9) (s : State) : Res :=
  s.on fun d => d.keepalive c.toNat

/-- A peer is silent for PEER_TIMEOUT (R458). -/
def execWmkPeerLost (c : BitVec 9) (s : State) : Res :=
  s.on fun d => d.peerSilent c.toNat

/-- NETCLK25 leaves its tolerance (R586). -/
def execNetclk25Loss (s : State) : Res :=
  s.on fun d => d.netclkLoss

/-- NETCLK25 returns (R586). -/
def execNetclk25Return (s : State) : Res :=
  s.on fun d => d.netclkReturn

end Sys2Proof.Machine
end

