-- ==== Sys2Proof/Machine/ExecCairn.lean ====
section
/-! DEFINITION. The meanings of the commands of step shadows, Cairns and the risk score (R466 to R489). -/

namespace Sys2Proof.Machine

/-- RESTORE (R474). -/
def execRestore (b : BitVec 4) (s : State) : Res :=
  s.on fun d => d.byZero b.toNat Dev.restoreCmd

/-- A restore ends (R474, R475). -/
def execRestoreDone (failed : Bool) (s : State) : Res :=
  s.onBoth (fun m d => d.restoreFinish failed m) (fun d m => d.restoredMem m)

/-- VERIFY (R477). -/
def execVerify (b : BitVec 4) (s : State) : Res :=
  s.on fun d => d.byZero b.toNat Dev.verifyCmd

/-- FILL (R486). -/
def execFill (b : BitVec 4) (store stepMatch : Bool) (s : State) : Res :=
  s.on fun d => d.byZero b.toNat fun d => d.fillCmd store stepMatch

/-- A fill reaches its trailer (R485 to R487). -/
def execFillDone (bytes : List Byte) (s : State) : Res :=
  s.onBoth (fun _ d => d.fillReach bytes) (fun d m => d.fillReachMem bytes m)

/-- A fill's source fails (R487). -/
def execFillSourceFail (why : SourceFail) (s : State) : Res :=
  s.on fun d => d.fillSourceFails why

/-- SERVE (R483). -/
def execServe (b : BitVec 4) (src : BitVec 2) (onJoin : Bool) (s : State) : Res :=
  s.on fun d => d.byZero b.toNat fun d => d.serveCmd src.toNat onJoin

/-- A serve ends (R484). -/
def execServeEnd (failed : Bool) (s : State) : Res :=
  s.onMem fun m d => if failed || d.serveReady m then d.serveEnd failed m else d

/-- CAIRN (R480). -/
def execCairn (b : BitVec 4) (s : State) : Res :=
  s.on fun d => d.byZero b.toNat Dev.cairnCmd

/-- CLEAR_REPEAT (R478). -/
def execClearRepeat (b : BitVec 4) (s : State) : Res :=
  s.on fun d => d.byZero b.toNat Dev.clearRepeat

/-- CANCEL_QUEUED (R488). -/
def execCancelQueued (b : BitVec 4) (s : State) : Res :=
  s.on fun d => d.byZero b.toNat Dev.cancelQueued

/-- The health monitor (R479). -/
def execRiskUpdate (x : RiskInput) (s : State) : Res :=
  s.on fun d => if d.mod.fw then d.riskUpdate x else d

end Sys2Proof.Machine
end

