-- ==== Sys2Proof/Machine/ExecHost.lean ====
section
/-! DEFINITION. The meanings of the commands of the host port, control registers and Lantern's ring (R10 to R14, R490 to R523, R553 to R555, R563). -/

namespace Sys2Proof.Machine

/-- A configuration request (R500 to R502). -/
def execConfigRequest (b : BitVec 4) (off : BitVec 12) (op : CfgOp) (s : State) : Res :=
  s.onAll fun fuses m d => d.configRequest fuses m b.toNat off.toNat op

/-- A read of the memory window (R283, R503 to R505). -/
def execCxlMemRead (spid : Option (BitVec 12)) (cxlIo : Bool) (addr : BitVec 40) (len : BitVec 9) (s : State) : Res :=
  s.onMem fun m d => d.cxlRead spid cxlIo addr.toNat len.toNat m

/-- A write of the memory window (R290). -/
def execCxlMemWrite (spid : Option (BitVec 12)) (cxlIo : Bool) (addr : BitVec 40) (bytes : List Byte) (s : State) : Res :=
  s.onBoth (fun m d => d.cxlWrite spid cxlIo addr.toNat bytes m) (fun d m => d.hostWriteMem spid cxlIo addr.toNat bytes m)

/-- BISnpInv for a line that a host holds (R506). -/
def execBackInvalidate (b : BitVec 4) (line : BitVec 40) (s : State) : Res :=
  s.on fun d => d.backInvalidate b.toNat line.toNat

/-- An H2D snoop (R509). -/
def execH2dSnoop (b : BitVec 4) (line : BitVec 64) (s : State) : Res :=
  s.on fun d => d.h2dSnoop b.toNat line.toNat

/-- A Translation Completion (R510, R515). -/
def execTranslationCompletion (b : BitVec 4) (page : BitVec 52) (write granted error : Bool) (s : State) : Res :=
  s.on fun d => d.translationCompletion b.toNat page.toNat write granted error

/-- A translation not completed within 50 ms (R555). -/
def execAtsTimeout (b : BitVec 4) (page : BitVec 52) (write : Bool) (s : State) : Res :=
  s.on fun d => d.atsTimeout b.toNat page.toNat write

/-- An Invalidate Request (R517). -/
def execInvalidateRequest (b : BitVec 4) (page : BitVec 52) (pages : Nat) (s : State) : Res :=
  s.on fun d => d.invalidateRequest b.toNat page.toNat pages

/-- HP_XLAT_CTL.RETRY (R516). -/
def execRetry (b : BitVec 4) (s : State) : Res :=
  s.on fun d => if d.mod.fw then d.retryCmd b.toNat else d

/-- The host link leaves L0 (R553). -/
def execHostLinkDown (s : State) : Res :=
  s.onMem fun m d => d.hostLinkDown m

/-- DOE Discovery (R519). -/
def execDoeDiscovery (b : BitVec 4) (s : State) : Res :=
  s.on fun d => d.doeDiscovery b.toNat

/-- Table Access (R519). -/
def execTableAccess (b : BitVec 4) (s : State) : Res :=
  s.on fun d => d.tableAccess b.toNat

/-- GET_CERT (R542). -/
def execGetCert (b : BitVec 4) (which : BitVec 8) (s : State) : Res :=
  s.on fun d => d.getCert b.toNat which.toNat

/-- GET_MEASUREMENTS (R543). -/
def execGetMeasurements (b : BitVec 4) (nonce : BitVec 256) (s : State) : Res :=
  s.onAll fun fuses _ d => d.getMeasurements b.toNat nonce.toNat fuses

/-- A write of DBG_LTN_CTL (R563). -/
def execLanternRingEnable (b : BitVec 4) (ctl : BitVec 32) (s : State) : Res :=
  s.on fun d => d.byZero b.toNat fun d => d.ringEnable ctl.toNat

/-- A Lantern record goes to the host ring (R563). -/
def execLanternRecord (s : State) : Res :=
  s.on fun d => d.lanternRecord

/-- A write of a control register (R10 to R14, R499, R554). -/
def execRegisterWrite (b : BitVec 4) (off : BitVec 24) (width : BitVec 7) (value : BitVec 64) (s : State) : Res :=
  s.onAll fun fuses m d => d.registerWrite fuses m b.toNat off.toNat width.toNat value.toNat

/-- The host link reaches L0 (R494, R553). -/
def execHostLinkUp (x16 gt64 latopt cxl : Bool) (s : State) : Res :=
  s.on fun d => d.hostLinkUp x16 gt64 latopt cxl

/-- HDM decoder 0 is committed (R503). -/
def execHdmDecoderCommit (b : BitVec 4) (base size skip : BitVec 64) (ways : BitVec 8) (s : State) : Res :=
  s.on fun d => d.hdmCommit b.toNat base.toNat size.toNat skip.toNat ways.toNat

/-- An MSI-X vector is unmasked (R518). -/
def execMsixUnmask (b : BitVec 4) (vec : BitVec 6) (s : State) : Res :=
  s.on fun d => d.msixUnmask b.toNat vec.toNat

/-- A DOE request that is not served (R519, R542). -/
def execDoeErrorResponse (b : BitVec 4) (request : List Byte) (s : State) : Res :=
  s.on fun d => d.doeError b.toNat request

end Sys2Proof.Machine
end

