-- ==== Sys2Proof/Machine/ExecSecurity.lean ====
section
/-! DEFINITION. The meanings of the commands of firmware images, fuses and debug authorisation (R524 to R547). -/

namespace Sys2Proof.Machine

/-- RECOVER (R529). -/
def execRecover (b : BitVec 4) (s : State) : Res :=
  s.on fun d => d.recoverCmd b.toNat

/-- UPDATE (R531). -/
def execUpdate (b : BitVec 4) (s : State) : Res :=
  s.onMem fun m d => d.updateCmd b.toNat m

/-- Flash programming ends (R529 to R531). -/
def execFlashProgramDone (readBackEqual : Bool) (s : State) : Res :=
  s.on fun d => d.flashDone readBackEqual

/-- SVN_COMMIT (R533). -/
def execSvnCommit (b : BitVec 4) (s : State) : Res :=
  s.onAll fun fuses _ d => d.svnCommit b.toNat fuses

/-- REVOKE (R533, R545). -/
def execRevoke (b : BitVec 4) (k : BitVec 8) (s : State) : Res :=
  s.onAll fun fuses _ d => d.revoke b.toNat k.toNat fuses

/-- POLICY (R533). -/
def execPolicy (b : BitVec 4) (p : BitVec 8) (s : State) : Res :=
  s.onAll fun fuses _ d => d.policy b.toNat p.toNat fuses

/-- OWNER_KEY (R533). -/
def execOwnerKey (b : BitVec 4) (s : State) : Res :=
  s.onAll fun fuses _ d => d.ownerKey b.toNat fuses

/-- EVAL_COMMIT (R533). -/
def execEvalCommit (b : BitVec 4) (s : State) : Res :=
  s.onAll fun fuses _ d => d.evalCommit b.toNat fuses

/-- CHALLENGE (R536, R537). -/
def execChallenge (b : BitVec 4) (mask : BitVec 8) (owner : Bool) (s : State) : Res :=
  s.on fun d => d.challengeCmd b.toNat mask.toNat owner

/-- RESPOND (R536, R537). -/
def execRespond (b : BitVec 4) (s : State) : Res :=
  s.on fun d => d.respondCmd b.toNat

/-- A fuse command ends (R533). -/
def execFuseProgramDone (s : State) : Res :=
  s.onFuses (fun d => d.fuseDone) (fun d f => d.fusesAfter f)

end Sys2Proof.Machine
end

