-- ==== Sys2Proof/Machine/ExecModule.lean ====
section
/-! DEFINITION. The meanings of the commands of power, PERST#, Phimon, SMBus and boundary scan (R527, R566 to R591). -/

namespace Sys2Proof.Machine

/-- The input rises through 38 V (R579). -/
def execPowerOn (s : State) : Res :=
  s.on fun d => d.powerOn

/-- The input turns off (R577): device memory is lost. -/
def execPowerLoss (s : State) : Res :=
  if s.dev.mod.input then .next { s with dev := s.dev.powerLoss, dram := [], fuses := s.dev.fusesOnLoss s.fuses } else .next s

/-- PERST# is asserted (R558, R582 to R584). -/
def execPerstAssert (ns : Nat) (s : State) : Res :=
  s.onFuses (fun d => d.perstAssert ns) (fun d f => if d.perstActs ns then d.fusesAfter f else f)

/-- PERST# is released (R527). -/
def execPerstRelease (selfTestOk : Bool) (s : State) : Res :=
  .next { s with dev := s.dev.perstRelease selfTestOk s.fuses, fuses := s.dev.bootFuses selfTestOk s.fuses }

/-- DRAM training completes (R590). -/
def execDramTrainingDone (s : State) : Res :=
  s.on fun d => d.trainingDone

/-- status (R569). -/
def execPhimonStatus (s : State) : Res :=
  s.on fun d => d.phimon Dev.phStatus

/-- faults (R569). -/
def execPhimonFaults (s : State) : Res :=
  s.on fun d => d.phimon Dev.phFaults

/-- rd, rd64 (R569). -/
def execPhimonRd (addr : BitVec 24) (wide : Bool) (s : State) : Res :=
  s.on fun d => d.phimon (Dev.phRd addr.toNat wide)

/-- bcn (R569). -/
def execPhimonBcn (bcn : BitVec 14) (s : State) : Res :=
  s.on fun d => d.phimon (Dev.phBcn bcn.toNat)

/-- core (R569). -/
def execPhimonCore (n : BitVec 8) (s : State) : Res :=
  s.on fun d => d.phimon (Dev.phCore n.toNat)

/-- lantern (R569). -/
def execPhimonLantern (n : Nat) (s : State) : Res :=
  s.on fun d => d.phimon (Dev.phLantern n)

/-- level (R568). -/
def execPhimonLevel (s : State) : Res :=
  s.on fun d => d.phimon fun d => d.say 0 [d.phLevel]

/-- baud (R566). -/
def execPhimonBaud (rate : Nat) (s : State) : Res :=
  s.on fun d => d.phimon (Dev.phBaud rate)

/-- wr, wr64 (R568, R569). -/
def execPhimonWr (addr : BitVec 24) (wide : Bool) (value : BitVec 64) (s : State) : Res :=
  s.onAll fun fuses m d => d.phimon2 (Dev.phWr fuses m addr.toNat wide value.toNat)

/-- bcn set (R568, R569). -/
def execPhimonBcnSet (bcn : BitVec 14) (value : BitVec 32) (s : State) : Res :=
  s.on fun d => d.phimon2 (Dev.phSignal bcn.toNat true value)

/-- bcn add (R568, R569). -/
def execPhimonBcnAdd (bcn : BitVec 14) (value : BitVec 32) (s : State) : Res :=
  s.on fun d => d.phimon2 (Dev.phSignal bcn.toNat false value)

/-- row (R226, R569). -/
def execPhimonRow (index : BitVec 21) (s : State) : Res :=
  s.on fun d => d.phimon2 (Dev.phRead index.toNat)

/-- freeze (R570). -/
def execPhimonFreeze (form : Freeze) (s : State) : Res :=
  s.on fun d => d.phimon2 (Dev.phFreeze form)

/-- tick (R571). -/
def execPhimonTick (n : BitVec 32) (s : State) : Res :=
  s.on fun d => d.phimon2 (Dev.phTick n.toNat)

/-- run (R569). -/
def execPhimonRun (s : State) : Res :=
  s.on fun d => d.phimon2 Dev.phRun

/-- stop (R122, R569). -/
def execPhimonStop (s : State) : Res :=
  s.on fun d => d.phimon2 Dev.phStop

/-- MODEL (R588). -/
def execSmbusModel (s : State) : Res :=
  s.onAll fun fuses _ d => d.smbusModel fuses

/-- SERIAL (R588). -/
def execSmbusSerial (s : State) : Res :=
  s.onAll fun fuses _ d => d.smbusSerial fuses

/-- CORES (R588). -/
def execSmbusCores (s : State) : Res :=
  s.onAll fun fuses _ d => d.smbusCores fuses

/-- VIN (R588). -/
def execSmbusVin (mv : BitVec 16) (s : State) : Res :=
  s.on fun d => d.smbusVin mv.toNat

/-- PIN (R588). -/
def execSmbusPin (s : State) : Res :=
  s.on fun d => d.smbusPin

/-- TDIE (R588). -/
def execSmbusTdie (s : State) : Res :=
  s.on fun d => d.smbusTdie

/-- TDRAM (R588). -/
def execSmbusTdram (s : State) : Res :=
  s.on fun d => d.smbusTdram

/-- STATUS (R588). -/
def execSmbusStatus (s : State) : Res :=
  s.on fun d => d.smbusStatus

/-- PSTATE (R588). -/
def execSmbusPstate (s : State) : Res :=
  s.on fun d => d.smbusPstate

/-- An SMBus write (R588): not acknowledged, whatever its code. -/
def execSmbusWrite (code : BitVec 8) (s : State) : Res :=
  s.on fun d => if code.toNat < 256 then d.smbusWrite else d

/-- TRST# (R587). -/
def execTrst (s : State) : Res :=
  s.on fun d => d.trst

/-- A sequencer rail leaves regulation (R579, R580): device memory is lost. -/
def execRailLeavesRegulation (rail : BitVec 3) (s : State) : Res :=
  if s.dev.mod.rails.contains rail.toNat then .next { s with dev := s.dev.railLeaves rail.toNat, dram := [], fuses := s.dev.fusesOnLoss s.fuses } else .next s

/-- Boundary scan (R534, R587). -/
def execBoundaryScanAccess (op : TapOp) (s : State) : Res :=
  if s.dev.tapPrivate op then .refused .privateTapInstruction else s.on fun d => d.tapAccess op s.fuses.toNat

/-- A line that is no command (R567). -/
def execPhimonUnknownCommand (line : List Byte) (s : State) : Res :=
  s.on fun d => d.phimon (Dev.phUnknown line)

end Sys2Proof.Machine
end

