-- ==== Sys2Proof/Machine/Dispatch.lean ====
section
/-! DEFINITION. The meaning of each command, one arm for each row of spec/opcode_table.json. -/

namespace Sys2Proof.Machine

def exec (i : Instr) (s : State) : Host.Outcome State Fault Refusal :=
  match i with
  | .fetchRow x => Sys2Proof.Machine.execFetchRow x s
  | .fetchVbuf x => Sys2Proof.Machine.execFetchVbuf x s
  | .fetchWgt x => Sys2Proof.Machine.execFetchWgt x s
  | .matStream x => Sys2Proof.Machine.execMatStream x s
  | .matStreamT x => Sys2Proof.Machine.execMatStreamT x s
  | .gemvLoadv x => Sys2Proof.Machine.execGemvLoadv x s
  | .gemvMac x => Sys2Proof.Machine.execGemvMac x s
  | .tileOpComplete core lane tile => Sys2Proof.Machine.execTileOpComplete core lane tile s
  | .lvDrain x => Sys2Proof.Machine.execLvDrain x s
  | .lvEw x => Sys2Proof.Machine.execLvEw x s
  | .lvFunc x => Sys2Proof.Machine.execLvFunc x s
  | .redSum x => Sys2Proof.Machine.execRedSum x s
  | .redSmax x => Sys2Proof.Machine.execRedSmax x s
  | .redNorm x => Sys2Proof.Machine.execRedNorm x s
  | .redTopk x => Sys2Proof.Machine.execRedTopk x s
  | .stRow x => Sys2Proof.Machine.execStRow x s
  | .stMem x => Sys2Proof.Machine.execStMem x s
  | .mshSend x => Sys2Proof.Machine.execMshSend x s
  | .mshFan x => Sys2Proof.Machine.execMshFan x s
  | .mshConf x => Sys2Proof.Machine.execMshConf x s
  | .rlyPass x => Sys2Proof.Machine.execRlyPass x s
  | .rlyFwd x => Sys2Proof.Machine.execRlyFwd x s
  | .bcnSig x => Sys2Proof.Machine.execBcnSig x s
  | .bcnMsg x => Sys2Proof.Machine.execBcnMsg x s
  | .messageSend core => Sys2Proof.Machine.execMessageSend core s
  | .messageDelivery core q => Sys2Proof.Machine.execMessageDelivery core q s
  | .hostRingRecord t => Sys2Proof.Machine.execHostRingRecord t s
  | .combiningContribution e => Sys2Proof.Machine.execCombiningContribution e s
  | .ctlNop x => Sys2Proof.Machine.execCtlNop x s
  | .ctlFork x => Sys2Proof.Machine.execCtlFork x s
  | .windowForkResolve core => Sys2Proof.Machine.execWindowForkResolve core s
  | .exitForkResolve core => Sys2Proof.Machine.execExitForkResolve core s
  | .ctlPpoint x => Sys2Proof.Machine.execCtlPpoint x s
  | .ctlTime x => Sys2Proof.Machine.execCtlTime x s
  | .ctlRand x => Sys2Proof.Machine.execCtlRand x s
  | .ctlHlth x => Sys2Proof.Machine.execCtlHlth x s
  | .stepOpen x => Sys2Proof.Machine.execStepOpen x s
  | .stepCommit x => Sys2Proof.Machine.execStepCommit x s
  | .ctlMark x => Sys2Proof.Machine.execCtlMark x s
  | .tcfg x => Sys2Proof.Machine.execTcfg x s
  | .tmov x => Sys2Proof.Machine.execTmov x s
  | .tzero x => Sys2Proof.Machine.execTzero x s
  | .dmaRd x => Sys2Proof.Machine.execDmaRd x s
  | .dmaWr x => Sys2Proof.Machine.execDmaWr x s
  | .dmaSgather x => Sys2Proof.Machine.execDmaSgather x s
  | .dmaSscatter x => Sys2Proof.Machine.execDmaSscatter x s
  | .halfRowArrival core bank row half hostData mark delay => Sys2Proof.Machine.execHalfRowArrival core bank row half hostData mark delay s
  | .dueTickCheck core => Sys2Proof.Machine.execDueTickCheck core s
  | .writeAckCheck core => Sys2Proof.Machine.execWriteAckCheck core s
  | .eclipseBegin => Sys2Proof.Machine.execEclipseBegin s
  | .eclipseRelease => Sys2Proof.Machine.execEclipseRelease s
  | .routeWatchdog => Sys2Proof.Machine.execRouteWatchdog s
  | .meshSlipOverrun router port plus => Sys2Proof.Machine.execMeshSlipOverrun router port plus s
  | .segmentBoundary => Sys2Proof.Machine.execSegmentBoundary s
  | .gateRelease => Sys2Proof.Machine.execGateRelease s
  | .scoreboardSegmentEnd => Sys2Proof.Machine.execScoreboardSegmentEnd s
  | .preemptionTaken => Sys2Proof.Machine.execPreemptionTaken s
  | .load b t => Sys2Proof.Machine.execLoad b t s
  | .loadComplete => Sys2Proof.Machine.execLoadComplete s
  | .start b t => Sys2Proof.Machine.execStart b t s
  | .stop b => Sys2Proof.Machine.execStop b s
  | .preempt b => Sys2Proof.Machine.execPreempt b s
  | .coreRetire b core => Sys2Proof.Machine.execCoreRetire b core s
  | .coreTest b core => Sys2Proof.Machine.execCoreTest b core s
  | .coreTestDone found => Sys2Proof.Machine.execCoreTestDone found s
  | .coreReturn b core => Sys2Proof.Machine.execCoreReturn b core s
  | .streamEntryWrite b core h stride value => Sys2Proof.Machine.execStreamEntryWrite b core h stride value s
  | .scratchTestStart core => Sys2Proof.Machine.execScratchTestStart core s
  | .scratchTestStep core err matches_ => Sys2Proof.Machine.execScratchTestStep core err matches_ s
  | .nonScheduledAccess core bank write err => Sys2Proof.Machine.execNonScheduledAccess core bank write err s
  | .hdwRead b => Sys2Proof.Machine.execHdwRead b s
  | .hdwWrite b => Sys2Proof.Machine.execHdwWrite b s
  | .imapApply b => Sys2Proof.Machine.execImapApply b s
  | .channelRetire b ch => Sys2Proof.Machine.execChannelRetire b ch s
  | .channelTest b ch => Sys2Proof.Machine.execChannelTest b ch s
  | .channelTestDone ch pass => Sys2Proof.Machine.execChannelTestDone ch pass s
  | .rejoin b ch => Sys2Proof.Machine.execRejoin b ch s
  | .digest b => Sys2Proof.Machine.execDigest b s
  | .digestDone failed => Sys2Proof.Machine.execDigestDone failed s
  | .blockCheckFail ch off checkBlock rereads persistent by_ => Sys2Proof.Machine.execBlockCheckFail ch off checkBlock rereads persistent by_ s
  | .channelLost ch => Sys2Proof.Machine.execChannelLost ch s
  | .plannedRefresh ch => Sys2Proof.Machine.execPlannedRefresh ch s
  | .forcedRefresh ch bank => Sys2Proof.Machine.execForcedRefresh ch bank s
  | .mr4Poll pkg reading => Sys2Proof.Machine.execMr4Poll pkg reading s
  | .stepCopyDone => Sys2Proof.Machine.execStepCopyDone s
  | .heldWriteRelease addr => Sys2Proof.Machine.execHeldWriteRelease addr s
  | .ownStretch island margin => Sys2Proof.Machine.execOwnStretch island margin s
  | .shadowStretch => Sys2Proof.Machine.execShadowStretch s
  | .stretchHigh island => Sys2Proof.Machine.execStretchHigh island s
  | .clkMarginLost island => Sys2Proof.Machine.execClkMarginLost island s
  | .clkOppAtWrite b part value => Sys2Proof.Machine.execClkOppAtWrite b part value s
  | .oppSwitch => Sys2Proof.Machine.execOppSwitch s
  | .sensorSample die watts => Sys2Proof.Machine.execSensorSample die watts s
  | .throttleLevelChange => Sys2Proof.Machine.execThrottleLevelChange s
  | .powerLimit => Sys2Proof.Machine.execPowerLimit s
  | .thermalTrip => Sys2Proof.Machine.execThermalTrip s
  | .powerStateEntry => Sys2Proof.Machine.execPowerStateEntry s
  | .wake ev => Sys2Proof.Machine.execWake ev s
  | .pwrCtrlWake b => Sys2Proof.Machine.execPwrCtrlWake b s
  | .pwrBudgetNsWrite b t ns => Sys2Proof.Machine.execPwrBudgetNsWrite b t ns s
  | .beaconSet b bcn wide value => Sys2Proof.Machine.execBeaconSet b bcn wide value s
  | .beaconAdd b bcn value => Sys2Proof.Machine.execBeaconAdd b bcn value s
  | .arm b n tag => Sys2Proof.Machine.execArm b n tag s
  | .bcnWaitTimeout w => Sys2Proof.Machine.execBcnWaitTimeout w s
  | .bind b slot => Sys2Proof.Machine.execBind b slot s
  | .unbind b slot => Sys2Proof.Machine.execUnbind b slot s
  | .slotWordWrite b t w value => Sys2Proof.Machine.execSlotWordWrite b t w value s
  | .switch b => Sys2Proof.Machine.execSwitch b s
  | .tenancySwitch intact => Sys2Proof.Machine.execTenancySwitch intact s
  | .tenApply b t => Sys2Proof.Machine.execTenApply b t s
  | .send b t ctl => Sys2Proof.Machine.execSend b t ctl s
  | .ringEnable b t cfg => Sys2Proof.Machine.execRingEnable b t cfg s
  | .timLaunchAtWrite b part value => Sys2Proof.Machine.execTimLaunchAtWrite b part value s
  | .launch => Sys2Proof.Machine.execLaunch s
  | .relaunch => Sys2Proof.Machine.execRelaunch s
  | .syncMessage domain offset steps accurate => Sys2Proof.Machine.execSyncMessage domain offset steps accurate s
  | .syncLost => Sys2Proof.Machine.execSyncLost s
  | .ppsIn highNs missNs => Sys2Proof.Machine.execPpsIn highNs missNs s
  | .ppsOut => Sys2Proof.Machine.execPpsOut s
  | .portCfgWrite b p value => Sys2Proof.Machine.execPortCfgWrite b p value s
  | .linkChange p sub up => Sys2Proof.Machine.execLinkChange p sub up s
  | .convoyValid b c set => Sys2Proof.Machine.execConvoyValid b c set s
  | .join b c => Sys2Proof.Machine.execJoin b c s
  | .leave b c => Sys2Proof.Machine.execLeave b c s
  | .joinAll b => Sys2Proof.Machine.execJoinAll b s
  | .joinResend c => Sys2Proof.Machine.execJoinResend c s
  | .blockTransmit c => Sys2Proof.Machine.execBlockTransmit c s
  | .data f payload => Sys2Proof.Machine.execData f payload s
  | .receiveStoreDrain p => Sys2Proof.Machine.execReceiveStoreDrain p s
  | .ack f bitmap => Sys2Proof.Machine.execAck f bitmap s
  | .ackWindowEnd c => Sys2Proof.Machine.execAckWindowEnd c s
  | .ackPeriodic c => Sys2Proof.Machine.execAckPeriodic c s
  | .signal f bcn value => Sys2Proof.Machine.execSignal f bcn value s
  | .abort f code => Sys2Proof.Machine.execAbort f code s
  | .joinFrame f first period len blocks dir => Sys2Proof.Machine.execJoinFrame f first period len blocks dir s
  | .keepalive c => Sys2Proof.Machine.execKeepalive c s
  | .wmkPeerLost c => Sys2Proof.Machine.execWmkPeerLost c s
  | .mirrorDigest f pass interval digest => Sys2Proof.Machine.execMirrorDigest f pass interval digest s
  | .mirrorFolds f pass interval folds => Sys2Proof.Machine.execMirrorFolds f pass interval folds s
  | .mirrorVariance f tag lin bytes => Sys2Proof.Machine.execMirrorVariance f tag lin bytes s
  | .mirrorStop f pass interval => Sys2Proof.Machine.execMirrorStop f pass interval s
  | .mirrorArm f measure dsig latid placement role coreMap => Sys2Proof.Machine.execMirrorArm f measure dsig latid placement role coreMap s
  | .mirrorIntervalEnd => Sys2Proof.Machine.execMirrorIntervalEnd s
  | .restore b => Sys2Proof.Machine.execRestore b s
  | .restoreDone failed => Sys2Proof.Machine.execRestoreDone failed s
  | .verify b => Sys2Proof.Machine.execVerify b s
  | .fill b store stepMatch => Sys2Proof.Machine.execFill b store stepMatch s
  | .fillDone bytes => Sys2Proof.Machine.execFillDone bytes s
  | .fillSourceFail why => Sys2Proof.Machine.execFillSourceFail why s
  | .serve b src onJoin => Sys2Proof.Machine.execServe b src onJoin s
  | .serveEnd failed => Sys2Proof.Machine.execServeEnd failed s
  | .cairn b => Sys2Proof.Machine.execCairn b s
  | .clearRepeat b => Sys2Proof.Machine.execClearRepeat b s
  | .cancelQueued b => Sys2Proof.Machine.execCancelQueued b s
  | .riskUpdate x => Sys2Proof.Machine.execRiskUpdate x s
  | .configRequest b off op => Sys2Proof.Machine.execConfigRequest b off op s
  | .cxlMemRead spid cxlIo addr len => Sys2Proof.Machine.execCxlMemRead spid cxlIo addr len s
  | .cxlMemWrite spid cxlIo addr bytes => Sys2Proof.Machine.execCxlMemWrite spid cxlIo addr bytes s
  | .backInvalidate b line => Sys2Proof.Machine.execBackInvalidate b line s
  | .h2dSnoop b line => Sys2Proof.Machine.execH2dSnoop b line s
  | .translationCompletion b page write granted error => Sys2Proof.Machine.execTranslationCompletion b page write granted error s
  | .atsTimeout b page write => Sys2Proof.Machine.execAtsTimeout b page write s
  | .invalidateRequest b page pages => Sys2Proof.Machine.execInvalidateRequest b page pages s
  | .retry b => Sys2Proof.Machine.execRetry b s
  | .hostLinkDown => Sys2Proof.Machine.execHostLinkDown s
  | .doeDiscovery b => Sys2Proof.Machine.execDoeDiscovery b s
  | .tableAccess b => Sys2Proof.Machine.execTableAccess b s
  | .getCert b which => Sys2Proof.Machine.execGetCert b which s
  | .getMeasurements b nonce => Sys2Proof.Machine.execGetMeasurements b nonce s
  | .recover b => Sys2Proof.Machine.execRecover b s
  | .update b => Sys2Proof.Machine.execUpdate b s
  | .flashProgramDone readBackEqual => Sys2Proof.Machine.execFlashProgramDone readBackEqual s
  | .svnCommit b => Sys2Proof.Machine.execSvnCommit b s
  | .revoke b k => Sys2Proof.Machine.execRevoke b k s
  | .policy b p => Sys2Proof.Machine.execPolicy b p s
  | .ownerKey b => Sys2Proof.Machine.execOwnerKey b s
  | .evalCommit b => Sys2Proof.Machine.execEvalCommit b s
  | .challenge b mask owner => Sys2Proof.Machine.execChallenge b mask owner s
  | .respond b => Sys2Proof.Machine.execRespond b s
  | .powerOn => Sys2Proof.Machine.execPowerOn s
  | .powerLoss => Sys2Proof.Machine.execPowerLoss s
  | .perstAssert ns => Sys2Proof.Machine.execPerstAssert ns s
  | .perstRelease selfTestOk => Sys2Proof.Machine.execPerstRelease selfTestOk s
  | .dramTrainingDone => Sys2Proof.Machine.execDramTrainingDone s
  | .lanternRingEnable b ctl => Sys2Proof.Machine.execLanternRingEnable b ctl s
  | .lanternRecord => Sys2Proof.Machine.execLanternRecord s
  | .registerWrite b off width value => Sys2Proof.Machine.execRegisterWrite b off width value s
  | .phimonStatus => Sys2Proof.Machine.execPhimonStatus s
  | .phimonFaults => Sys2Proof.Machine.execPhimonFaults s
  | .phimonRd addr wide => Sys2Proof.Machine.execPhimonRd addr wide s
  | .phimonBcn bcn => Sys2Proof.Machine.execPhimonBcn bcn s
  | .phimonCore n => Sys2Proof.Machine.execPhimonCore n s
  | .phimonLantern n => Sys2Proof.Machine.execPhimonLantern n s
  | .phimonLevel => Sys2Proof.Machine.execPhimonLevel s
  | .phimonBaud rate => Sys2Proof.Machine.execPhimonBaud rate s
  | .phimonWr addr wide value => Sys2Proof.Machine.execPhimonWr addr wide value s
  | .phimonBcnSet bcn value => Sys2Proof.Machine.execPhimonBcnSet bcn value s
  | .phimonBcnAdd bcn value => Sys2Proof.Machine.execPhimonBcnAdd bcn value s
  | .phimonRow index => Sys2Proof.Machine.execPhimonRow index s
  | .phimonFreeze form => Sys2Proof.Machine.execPhimonFreeze form s
  | .freezeBegin => Sys2Proof.Machine.execFreezeBegin s
  | .phimonTick n => Sys2Proof.Machine.execPhimonTick n s
  | .phimonRun => Sys2Proof.Machine.execPhimonRun s
  | .phimonStop => Sys2Proof.Machine.execPhimonStop s
  | .smbusModel => Sys2Proof.Machine.execSmbusModel s
  | .smbusSerial => Sys2Proof.Machine.execSmbusSerial s
  | .smbusCores => Sys2Proof.Machine.execSmbusCores s
  | .smbusVin mv => Sys2Proof.Machine.execSmbusVin mv s
  | .smbusPin => Sys2Proof.Machine.execSmbusPin s
  | .smbusTdie => Sys2Proof.Machine.execSmbusTdie s
  | .smbusTdram => Sys2Proof.Machine.execSmbusTdram s
  | .smbusStatus => Sys2Proof.Machine.execSmbusStatus s
  | .smbusPstate => Sys2Proof.Machine.execSmbusPstate s
  | .smbusWrite code => Sys2Proof.Machine.execSmbusWrite code s
  | .trst => Sys2Proof.Machine.execTrst s
  | .writeAcknowledgement core tag j => Sys2Proof.Machine.execWriteAcknowledgement core tag j s
  | .mirrorArmTimeout => Sys2Proof.Machine.execMirrorArmTimeout s
  | .fuseProgramDone => Sys2Proof.Machine.execFuseProgramDone s
  | .hostLinkUp x16 gt64 latopt cxl => Sys2Proof.Machine.execHostLinkUp x16 gt64 latopt cxl s
  | .netclk25Loss => Sys2Proof.Machine.execNetclk25Loss s
  | .netclk25Return => Sys2Proof.Machine.execNetclk25Return s
  | .railLeavesRegulation rail => Sys2Proof.Machine.execRailLeavesRegulation rail s
  | .hdmDecoderCommit b base size skip ways => Sys2Proof.Machine.execHdmDecoderCommit b base size skip ways s
  | .msixUnmask b vec => Sys2Proof.Machine.execMsixUnmask b vec s
  | .doeErrorResponse b request => Sys2Proof.Machine.execDoeErrorResponse b request s
  | .boundaryScanAccess op => Sys2Proof.Machine.execBoundaryScanAccess op s
  | .phimonUnknownCommand line => Sys2Proof.Machine.execPhimonUnknownCommand line s

end Sys2Proof.Machine
end

