-- ==== Sys2Proof/Safety.lean ====
section
/-! DEFINITION. The terms in which statements about the machine are written: what a command leaves, and the conditions on a
state under which an occurrence runs undisturbed. -/

namespace Sys2Proof.Machine

/-- The command answers a next state: the device `d`, with fuses, device memory and queue as they were. -/
def Leaves (c : Instr) (s : State) (d : Dev) : Prop := exec c s = .next { s with dev := d }

/-- The command answers a next state whose device satisfies `P`, with fuses, device memory and queue as they were. -/
def Gives (c : Instr) (s : State) (P : Dev → Prop) : Prop := ∃ d, exec c s = .next { s with dev := d } ∧ P d

/-- The command has no effect. -/
def NoEffect (c : Instr) (s : State) : Prop := exec c s = .next s

/-- The command answers a next state with the device `d` and device memory `m`, in which the blocks that changed have their check words
placed in the check buffers (R288); fuses and queue are as they were. -/
def Stores (c : Instr) (s : State) (m : Memory) (d : Dev) : Prop := exec c s = .next { s with dev := d.striped s.dram m, dram := m }

/-- Every register field but those listed reads in `d` as in `e`. -/
def RegsKept (d e : Dev) (but : List Fld) : Prop := ∀ F : Fld, (∀ G ∈ but, F.key ≠ G.key) → d.get F = e.get F

/-- The device without what its reports go into: register fields and the event bits set in this tick, outgoing traffic, Lantern's buffer,
vectors pending or waiting for the link, the position in the streams of free values. -/
def Dev.rest (d : Dev) : Dev :=
  { d with regs := [], justSet := [], out := [], ltn := [], ltnLost := false, msixPend := [], linkWait := [], fresh := 0 }

/-- Every byte of device memory but those the condition names reads as before. -/
def BytesKept (m m' : Memory) (but : Nat → Prop) : Prop := ∀ a : Nat, ¬ but a → Memory.read m' a = Memory.read m a

/-! ### Occurrences -/

/-- The unit is not busy in this tick (R36). -/
def Dev.unitFree (d : Dev) (core unit lane : Nat) : Bool :=
  !(d.run.busy.any fun b => b.core == core && b.unit == unit && b.lane == lane && b.covers d.run.tick)

/-- The unit taken by an occurrence: busy at `count` ticks `step` apart from this tick on (R36, R85). -/
def Dev.took (o : Owner) (lane step count : Nat) (d : Dev) : Dev :=
  d.onRun fun r => { r with busy := { core := o.core, unit := o.unit, lane := lane, start := d.run.tick, step := max 1 step,
                                      count := count, tag := o.tag } :: r.busy }

/-- The unit is free in every lane the occurrence selects. -/
def Dev.lanesFree (d : Dev) (i : Inst) (unit : Nat) : Bool :=
  (laneList i.lane.toNat).all fun l => d.unitFree i.coreN unit l

/-- The occurrence in lane select `sel`, as the device names it. -/
abbrev Dev.owner (d : Dev) (i : Inst) (unit sel : Nat) : Owner := ownerOf i unit sel d

/-- The port serves one more access in this tick: it serves `lim` (R198). -/
def Dev.portOpen (d : Dev) (kind idx lim : Nat) : Bool := decide ((d.portUses (portCode kind idx) d.run.tick).length < lim)

/-- The tick's use of a port is on record (R198). -/
def Dev.ported (kind idx : Nat) (o : Owner) (d : Dev) : Dev := d.notePort (portCode kind idx) d.run.tick o

/-- A row of scratch has been read: the bank's read port is used, and a row whose words held an error that the read corrected stands in
the queue of the test engine (R218, R237, R239). -/
def Dev.rowServed (core bank row : Nat) (o : Owner) (d : Dev) : Dev :=
  (d.ported portRead (core * 8 + bank) o).onCore core (CoreSt.noteRead (rowKey bank row))

/-- A row of scratch that the Route may read now: it exists, its bank's read port is free, its check passes (R218, R221, R238). -/
def Dev.rowReadable (d : Dev) (core bank row : Nat) : Bool :=
  decide (row ≤ 575) && d.portOpen portRead (core * 8 + bank) 1 &&
    (!kget false (d.core core).bad (rowKey bank row) || kget false (d.core core).emptyRow (rowKey bank row))

/-- Watchpost reports nothing (R364, R368). -/
def Dev.watchOff (d : Dev) : Bool := !d.wptOn

/-! ### What a command may write -/

/-- The commands that may write device memory: a store, a step's header and copies, a channel's rejoin, a switch of tenancies, a
restore, a fill, the host's memory window, and the loss of power. -/
def writesMemory (c : Instr) : Bool :=
  match c with
  | .stepOpen .. | .writeAcknowledgement .. | .channelTestDone .. | .stepCopyDone | .heldWriteRelease .. | .tenancySwitch ..
  | .restoreDone .. | .fillDone .. | .cxlMemWrite .. | .powerLoss | .railLeavesRegulation .. => true
  | _ => false

/-- The commands that may blow fuses: the end of a fuse command, a PERST# or a loss of power that meets one, and boot. -/
def writesFuses (c : Instr) : Bool :=
  match c with
  | .fuseProgramDone | .perstAssert .. | .perstRelease .. | .powerLoss | .railLeavesRegulation .. => true
  | _ => false

end Sys2Proof.Machine
end

