-- ==== Sys2Proof/Certificates/Slice0/Obligations.lean ====
section
/-! DEFINITION. The statements about the model. `Leaves`, `Gives` and `NoEffect` say that a command answers a next state and which
(Safety.lean); everything a statement's command does not list stays as it was, because the next state is written out as the old one
with the named parts changed. -/

open Sys2Proof Sys2Proof.Machine

/-- FETCH (R46, R47, R83, R137, R138, R223), with Watchpost off. A fetch that may issue takes the free fetch unit of its lanes and
handles its first row; a FETCH.WGT whose COUNT its shadows take marks them as filling until its last row has landed, and a SPEC one is
noted against its fork. Row j of a FETCH.ROW is one read whose row, rotated, is presented to the stage L ticks later in every selected
lane; a FETCH.VBUF reads each lane's own buffer; a row of a FETCH.WGT lands in the shadows L ticks later. The next row follows after the
interval. Nothing else changes. -/
def Obligations.FetchStreams : Prop :=
  (∀ (i : Inst) (s : State), s.dev.canIssue i.core = true → s.dev.lanesFree i 0 = true → i.lane ≠ 0#2 →
    let d := s.dev.forLanes i 0 fun o l d => d.took o l i.interval i.cnt
    let o := s.dev.owner i 0 i.lane.toNat
    Leaves (.fetchRow i) s (d.fetchRowTick i o 0) ∧
    Leaves (.fetchVbuf i) s (d.forLanes i 0 fun o l d => d.fetchVbufTick i o 0 l) ∧
    (s.dev.watchOff = true → opTile i.opd = 8 ∨ opTile i.opd = 9 →
     (∀ l ∈ laneList i.lane.toNat, i.cnt ≤ fetchWgtLimit ((s.dev.lane i.coreN l).ws (opTile i.opd - 8)).cfg) →
      let ws := opTile i.opd - 8
      let d1 := d.forLanes i 0 fun _ l d => d.onLane i.coreN l fun x =>
        x.setWs ws { x.ws ws with fill := some (i.tag.toNat, s.dev.run.tick + (i.cnt - 1) * i.interval + s.dev.lead) }
      let d2 := if i.spec then d1.onCore i.coreN fun k =>
          { k with fork := k.fork.map fun f => { f with filled := f.filled ++ (laneList i.lane.toNat).map fun l => (l, ws) } }
        else d1
      Leaves (.fetchWgt i) s (d2.fetchWgtTick i o 0))) ∧
  (∀ (i : Inst) (d : Dev) (o : Owner) (j : Nat), d.watchOff = true →
    d.rowReadable i.coreN (opBank i.opa) (opRow i.opa + j) = true →
    let v := (d.core i.coreN).row (opBank i.opa) (opRow i.opa + j)
    let d1 := d.rowServed i.coreN (opBank i.opa) (opRow i.opa + j) o
    let e : Entry := { present := d.run.tick + d.lead, stage := i.sub, data := rotateRow i.rotate v,
                       src := .scratch (opBank i.opa) (opRow i.opa + j) i.rotate o.issue }
    let d2 := d1.forLanes i 0 fun _ l d => d.onLane i.coreN l (LaneSt.present e)
    let d3 := d1.forLanes i 0 fun _ l d' => d'.sched (d.run.tick + d.lead) true o
      (.landWgt l (opTile i.opd - 8) j v (.scratch (opBank i.opa) (opRow i.opa + j) 0 o.issue))
    d.fetchRowTick i o j =
      (if j + 1 < i.cnt then d2.sched (d.run.tick + i.interval) false o (.row 0x01 i (j + 1) 0 {}) else d2) ∧
    d.fetchWgtTick i o j =
      (if j + 1 < i.cnt then d3.sched (d.run.tick + i.interval) false o (.row 0x03 i (j + 1) 0 {}) else d3)) ∧
  (∀ (i : Inst) (d : Dev) (o : Owner) (j l : Nat), d.watchOff = true →
    d.portOpen portBufRead (i.coreN * 8 + l * 4 + (opVbuf i.opa + j) / 32) 2 = true →
    let e : Entry := { present := d.run.tick + d.lead, stage := i.sub,
                       data := rotateRow i.rotate (kget 0#4096 (d.lane i.coreN l).vbuf (opVbuf i.opa + j)),
                       src := .vbuf l (opVbuf i.opa + j) i.rotate o.issue }
    let d1 := (d.ported portBufRead (i.coreN * 8 + l * 4 + (opVbuf i.opa + j) / 32) o).onLane i.coreN l (LaneSt.present e)
    d.fetchVbufTick i o j l =
      (if j + 1 < i.cnt then d1.sched (d.run.tick + i.interval) false o (.row 0x02 i (j + 1) l {}) else d1))

/-- TCFG, TZERO and TMOV (R131 to R135, R147, R149), with Watchpost off. A TCFG that its registers take gives each its configuration and
leaves what the registers hold. A TZERO's landing one tick later zeroes its tile, as it was configured at issue, and a zeroed register
reads as all zero. A TMOV between registers it may join reads one source row in each of 64 ticks and lands three ticks after the last,
as a whole, under the configurations it latched at issue; a SPEC one notes the shadow it fills against its fork. Nothing else changes. -/
def Obligations.TileRegisters : Prop :=
  (∀ (i : Inst) (s : State), s.dev.canIssue i.core = true → s.dev.lanesFree i 10 = true → s.dev.watchOff = true →
    ((∀ l ∈ laneList i.lane.toNat, tcfgOk (s.dev.lane i.coreN l) (opTile i.opd) (tcfgOf i) = true) →
      Leaves (.tcfg i) s (s.dev.forLanes i 10 fun o l d =>
        (d.took o l 1 1).onLane i.coreN l (LaneSt.setCfg (opTile i.opd) (tcfgOf i)))) ∧
    Leaves (.tzero i) s (s.dev.forLanes i 10 fun o l d => let x := d.lane i.coreN l; let reg := opTile i.opd
      (d.took o l 1 1).sched (d.run.tick + 1) true o (.tzero l reg (x.headExact reg && reg == headOf reg))) ∧
    (∀ ca cd : Nat → TileCfg,
     (∀ l ∈ laneList i.lane.toNat, (s.dev.lane i.coreN l).regCfg (opTile i.opa) = some (ca l) ∧
        (s.dev.lane i.coreN l).regCfg (opTile i.opd) = some (cd l) ∧ tmovOk (opTile i.opa) (opTile i.opd) (ca l) (cd l) = true ∧
        (opTile i.opa < 8 → s.dev.portOpen portQueue (i.coreN * 2 + l) 1 = true)) →
      Leaves (.tmov i) s (s.dev.forLanes i 10 fun o l d =>
        let d1 := d.took o l 1 64
        let t := opTile i.opd
        (if t = 8 ∨ t = 9 then d1.noteFilled i.coreN i.spec [(l, t - 8)] else d1).tmovRow i o 0 l
          { cfgA := some (ca l), cfgD := some (cd l), key := (d.passKey (i.extBits 0 10)).1,
            ctr := (d.passKey (i.extBits 0 10)).2, pass := d.run.passNo }))) ∧
  (∀ (x : LaneSt) (reg : Nat) (c : TileCfg), let y := x.setCfg reg c
    (reg < 8 → y.cfgOf reg = some c) ∧ (reg = 8 ∨ reg = 9 → y.ws (reg - 8) = { x.ws (reg - 8) with cfg := some c }) ∧
    (reg = 10 ∨ reg = 11 → kget none y.gvCfg (reg - 10) = some c) ∧
    (∀ g r, y.accRow g r = x.accRow g r) ∧ (∀ g r, y.gvRow g r = x.gvRow g r) ∧ y.array = x.array) ∧
  (∀ (d : Dev) (o : Owner) (l reg : Nat) (exact : Bool), d.watchOff = true →
    d.landTzero o l reg exact = d.onLane o.core l (LaneSt.zeroTile exact reg)) ∧
  (∀ (x : LaneSt) (exact : Bool) (reg g r : Nat), r < 64 →
    ((x.zeroTile exact reg).accRow g r = if g ∈ groupRegs exact reg then 0#2048 else x.accRow g r) ∧
    x.zeroTile exact reg = { x with acc := (x.zeroTile exact reg).acc, accUse := (x.zeroTile exact reg).accUse }) ∧
  (∀ (i : Inst) (d : Dev) (o : Owner) (j l : Nat) (lt : Latch) (ca cd : TileCfg), lt.cfgA = some ca → lt.cfgD = some cd →
    (opTile i.opa < 8 → d.portOpen portQueue (i.coreN * 2 + l) 1 = true) →
    let d1 := if opTile i.opa < 8 then d.ported portQueue (i.coreN * 2 + l) o else d
    let x := d.lane i.coreN l
    let lt1 : Latch := { lt with rows0 := lt.rows0 ++ [x.sourceRow (opTile i.opa) ca j] }
    let lt2 : Latch := if opTile i.opa < 8 then lt1 else { lt1 with extra := (x.weightReg (opTile i.opa)).scaleRow ca.fmt }
    d.tmovRow i o j l lt = if j < 63 then d1.sched (d.run.tick + 1) false o (.row 0xA2 i (j + 1) l lt1)
      else d1.sched (d.run.tick + 3) true o (.landTmov i l lt2)) ∧
  (∀ (i : Inst) (d : Dev) (o : Owner) (l : Nat) (lt : Latch) (ca cd : TileCfg), lt.cfgA = some ca → lt.cfgD = some cd →
    d.watchOff = true → let t := opTile i.opd
    (t < 8 → d.landTmov o i l lt = d.onLane o.core l fun x => lt.rows0.zipIdx.foldl (fun x p => x.landRow t cd p.2 p.1) x) ∧
    (¬ t < 8 → ∀ x, x = (d.landTmov o i l lt).lane o.core l → (x.ws (t - 8)).used = true ∧ (x.ws (t - 8)).fill = none ∧
      ∀ r (h : r < (tmovWeights i lt ca cd).length), kget 0#4096 (x.ws (t - 8)).rows r = (tmovWeights i lt ca cd)[r]))

/-- MAT.STREAM and MAT.STREAMT (R99, R129, R136, R139, R141 to R146), with Watchpost off. A stream that its registers accept takes the
matrix unit of its lanes for its busy ticks, swaps the weight shadow it names into the array (the shadow becomes empty), joins the
operation on its tile or begins one, due 134 ticks after the busy ticks at the earliest, and enters its first row. A row that enters is
its slice of the entry last presented to the stage, zeros where none was, and lands 133 ticks later in the operation's shadow tile, or
raises EXACT_RANGE; no committed row changes. -/
def Obligations.MatrixStreams : Prop :=
  (∀ (i : Inst) (s : State) (cw cd : Nat → TileCfg), s.dev.canIssue i.core = true → s.dev.lanesFree i 1 = true →
    s.dev.watchOff = true →
    let enters (opc : Nat) : Dev := s.dev.forLanes i 1 fun o l d =>
      let b := opTile i.opb
      let busy := streamBusy (fmtClass i.fmt) i.exact i.cnt
      let w := (d.lane i.coreN l).weightSide b
      let d1 := if b = 12 then d.took o l 1 busy else (d.took o l 1 busy).onLane i.coreN l (LaneSt.swap (b - 8))
      let m : Member := { owner := o, opc := opc, cfgD := cd l, cfgW := cw l,
                          weights := if b = 12 then { w with srcs := [] } else w, acc := i.acc, rnd := i.rnd,
                          key := (d.passKey (i.extBits 0 10)).1, ctr := (d.passKey (i.extBits 0 10)).2,
                          stream := i.extBits 10 16, pass := d.run.passNo, lin := i.lin, count := i.cnt, busy := busy }
      let p := joinOp o.core l (opTile i.opd) m (d.run.tick + busy + 134) d.run.ops
      (d1.onRun fun r => { r with ops := p.2 }).streamTick opc i o 0 l { bits := p.1 }
    ((∀ l ∈ laneList i.lane.toNat, streamOk i (s.dev.lane i.coreN l) false = some (cw l, cd l)) →
      Leaves (.matStream i) s (enters 0x11)) ∧
    ((∀ l ∈ laneList i.lane.toNat, streamOk i (s.dev.lane i.coreN l) true = some (cw l, cd l)) →
      Leaves (.matStreamT i) s (enters 0x12))) ∧
  (∀ (x : LaneSt) (b : Nat), b = 8 ∨ b = 9 →
    ((x.swap (b - 8)).array = { x.ws (b - 8) with used := true, fill := none }) ∧
    ((x.swap (b - 8)).ws (b - 8)).rows = [] ∧ ((x.swap (b - 8)).ws (b - 8)).used = false ∧
    ((x.swap (b - 8)).ws (b - 8)).cfg = (x.ws (b - 8)).cfg ∧ (x.swap (b - 8)).ws (9 - b) = x.ws (9 - b)) ∧
  (∀ (core lane tile : Nat) (m : Member) (c : Nat) (ops : List TileOp),
    let on (xs : List TileOp) := xs.find? fun o => o.core == core && o.lane == lane && o.tile == tile
    let p := joinOp core lane tile m c ops
    (on ops = none → p = (0, ops ++ [{ core := core, lane := lane, tile := tile, members := [m], complete := c }])) ∧
    (∀ o, on ops = some o → p.1 = o.members.length ∧
      on p.2 = some { o with members := o.members ++ [m], complete := max o.complete c })) ∧
  (∀ (opc : Nat) (i : Inst) (d : Dev) (o : Owner) (j l : Nat) (lt : Latch),
    let d1 := d.streamTick opc i o j l lt
    let per := rowsPerEntry (fmtClass i.fmt)
    let w := 64 * elemBits i.fmt
    let entry := if j % per = 0 then (((d.lane o.core l).presented 0 d.run.tick).map Entry.data).getD 0#4096 else (d.lane o.core l).inLatch
    (∃ x ∈ d1.run.sched, x.due = d.run.tick + 133 ∧ x.land = true ∧ x.owner = o ∧
      ∃ r, x.act = .landMat l (opTile i.opd) r ∧ r.j = j ∧ r.member = lt.bits ∧ r.data = BitVec.ofNat 1024 (rowBits entry (w * (j % per)) w)) ∧
    (d1.lane o.core l).acc = (d.lane o.core l).acc ∧ (d1.lane o.core l).accUse = (d.lane o.core l).accUse ∧
    d1 = { d with cores := d1.cores, run := { d.run with sched := d1.run.sched, ops := d1.run.ops } }) ∧
  (∀ (o : Owner) (l tile : Nat) (r : MatRow) (d : Dev) (op : TileOp) (m : Member), d.opOn o.core l tile = some op →
    op.members[r.member]? = some m →
    let base := baseRows op (d.lane o.core l) m.acc m.cfgD.exact d.run.tick r.j
    (∀ rows, streamRow m r base = some rows → d.landMat o l tile r = d.setOp (op.land m d.run.tick r.j rows)) ∧
    (streamRow m r base = none → d.landMat o l tile r = d.raise o 0x0301))

/-- GEMV.LOADV and GEMV.MAC (R136, R142, R151 to R153), with Watchpost off. A GEMV.LOADV of at most 32 entries into GV0 or GV1, and a
GEMV.MAC that its registers accept, take the GEMV unit of their lanes for COUNT ticks and take in each the entry presented to their
stage, zeros where none is. A GEMV.LOADV writes it into entry j of its vector register, and into no other; a GEMV.MAC keeps it with its
operation, and lands twelve ticks after its last entry: row 0, and row 1 where D has two rows. -/
def Obligations.GemvStreams : Prop :=
  (∀ (i : Inst) (s : State), s.dev.canIssue i.core = true → s.dev.lanesFree i 2 = true → s.dev.watchOff = true →
    (i.cnt ≤ 32 → opTile i.opd = 10 ∨ opTile i.opd = 11 →
      Leaves (.gemvLoadv i) s (s.dev.forLanes i 2 fun o l d => (d.took o l 1 i.cnt).loadvTick i o 0 l)) ∧
    (∀ cg cd : Nat → TileCfg, (∀ l ∈ laneList i.lane.toNat, gemvOk i (s.dev.lane i.coreN l) = some (cg l, cd l)) →
      Leaves (.gemvMac i) s (s.dev.forLanes i 2 fun o l d =>
        let x := d.lane i.coreN l
        let m : Member := { owner := o, opc := 0x22, cfgD := cd l, cfgW := cg l, weights := {},
                            gv := kfilter (fun k => kget false x.gvUse (k / 32)) x.gv, gvSrc := x.gvSrc,
                            gv2 := decide (2 ≤ (cd l).rows), acc := i.acc, rnd := i.rnd, key := (d.passKey (i.extBits 0 10)).1,
                            ctr := (d.passKey (i.extBits 0 10)).2, stream := i.extBits 10 16, pass := d.run.passNo, lin := i.lin,
                            count := i.cnt, busy := i.cnt }
        let p := joinOp o.core l (opTile i.opd) m (d.run.tick + i.cnt + 12) d.run.ops
        ((d.took o l 1 i.cnt).onRun fun r => { r with ops := p.2 }).gemvTick i o 0 l { bits := p.1 }))) ∧
  (∀ (i : Inst) (d : Dev) (o : Owner) (j l : Nat), j < 32 →
    let g := opTile i.opd - 10
    let d1 := d.loadvTick i o j l
    (∀ h k, k < 32 → (d1.lane i.coreN l).gvRow h k =
      if h = g ∧ k = j then (((d.lane i.coreN l).presented 1 d.run.tick).map Entry.data).getD 0#4096 else (d.lane i.coreN l).gvRow h k) ∧
    d1.run.sched = d.run.sched ++ (if j + 1 < i.cnt then
      [{ due := d.run.tick + 1, land := false, owner := o, act := .row 0x21 i (j + 1) l {} }] else [])) ∧
  (∀ (i : Inst) (d : Dev) (o : Owner) (j l : Nat) (lt : Latch),
    let d1 := d.gemvTick i o j l lt
    let x : Row × Src := (((d.lane i.coreN l).presented 1 d.run.tick).map fun e => (e.data, e.src)).getD (0#4096, .kept)
    d1.opOn o.core l (opTile i.opd) = (d.opOn o.core l (opTile i.opd)).map (fun p => { p with
      members := p.members.zipIdx.map fun q => if q.2 = lt.bits then { q.1 with taken := q.1.taken ++ [x] } else q.1 }) ∧
    d1.run.sched = d.run.sched ++ [if j + 1 < i.cnt then
      { due := d.run.tick + 1, land := false, owner := o, act := .row 0x22 i (j + 1) l lt }
      else { due := d.run.tick + 12, land := true, owner := o, act := .landGemv l (opTile i.opd) lt.bits }] ∧
    d1 = { d with run := { d.run with sched := d1.run.sched, ops := d1.run.ops } }) ∧
  (∀ (o : Owner) (l tile k : Nat) (d : Dev) (op : TileOp) (m : Member) (r0 r1 : List TileRow), d.opOn o.core l tile = some op →
    op.members[k]? = some m → let base (op : TileOp) (v : Nat) := baseRows op (d.lane o.core l) m.acc m.cfgD.exact d.run.tick v
    let op1 := op.land m d.run.tick 0 r0
    gemvRow m 0 (base op 0) = some r0 →
    (m.gv2 = false → d.landGemv o l tile k = d.setOp op1) ∧
    (m.gv2 = true → gemvRow m 1 (base op1 1) = some r1 → d.landGemv o l tile k = d.setOp (op1.land m d.run.tick 1 r1)))

/-- TILE_OP_COMPLETE (R137, R145, R146, R149). An operation that is due becomes committed: every row that it landed takes, in the columns
it wrote, its value, and sets the flag of its register; every other row of every register keeps its committed value, every other
register its flag, and the operation ends. One that is not due, or none, has no effect. -/
def Obligations.TileCompletion : Prop :=
  (∀ (core : BitVec 8) (lane : BitVec 1) (tile : BitVec 3) (s : State),
    match s.dev.opDue core.toNat lane.toNat tile.toNat with
    | some op => Leaves (.tileOpComplete core lane tile) s
        ((s.dev.onLane core.toNat lane.toNat (LaneSt.commit op)).onRun fun r =>
          { r with ops := r.ops.filter fun o => !(o.core == core.toNat && o.lane == lane.toNat && o.tile == tile.toNat) })
    | none => NoEffect (.tileOpComplete core lane tile) s) ∧
  (∀ (x : LaneSt) (op : TileOp) (g r : Nat), r < 64 → (op.landed.map Prod.fst).Nodup →
    (x.commit op).accRow g r = match op.landed.find? fun e => e.1 == g * 64 + r with
      | some e => mergeCols e.2 (x.accRow g r) (kget 0#2048 op.shadow (g * 64 + r))
      | none => x.accRow g r) ∧
  (∀ (x : LaneSt) (op : TileOp) (g : Nat), kget false (x.commit op).accUse g =
    (kget false x.accUse g || op.landed.any fun e => decide (e.1 / 64 = g))) ∧
  (∀ (x : LaneSt) (op : TileOp), x.commit op = { x with acc := (x.commit op).acc, accUse := (x.commit op).accUse })

/-- LV.DRAIN, LV.EW and LV.FUNC (R194 to R207). Each runs in every selected lane, takes that lane's vector unit for its busy ticks and
handles one row in each. With Watchpost off and the ports free, LV.FUNC and an LV.EW of two buffer rows (SUB 0 to 4) read their rows and
land the result row nine ticks later; an LV.DRAIN without an epilogue reads one tile row and, whenever a buffer row is full, lands it
nine ticks later. -/
def Obligations.VectorUnits : Prop :=
  (∀ (i : Inst) (s : State), s.dev.canIssue i.core = true →
    Leaves (.lvDrain i) s (s.dev.forLanes i 3 (Dev.drainLane i)) ∧ Leaves (.lvEw i) s (s.dev.forLanes i 3 (Dev.ewLane i)) ∧
    Leaves (.lvFunc i) s (s.dev.forLanes i 3 (Dev.funcLane i))) ∧
  (∀ (i : Inst) (d : Dev) (o : Owner) (l : Nat), d.unitFree o.core o.unit l = true →
    let k := d.passKey (i.extBits 0 10)
    let cfg := (d.lane i.coreN l).regCfg (opTile i.opa)
    ((i.fmt = 0xD → cfg.map TileCfg.exact = some true) → d.drainLane i o l = (d.took o l 1 64).drainTick i o 0 l
      { cfgA := cfg, key := k.1, ctr := k.2, pass := d.run.passNo }) ∧
    d.ewLane i o l = (d.took o l 1 i.cnt).ewTick i o 0 l { key := k.1, ctr := k.2, pass := d.run.passNo } ∧
    d.funcLane i o l = (d.took o l 1 i.cnt).funcTick i o 0 l) ∧
  (∀ (i : Inst) (d : Dev) (o : Owner) (j l : Nat), d.watchOff = true →
    let a := opVbuf i.opa + j
    d.portOpen portBufRead (i.coreN * 8 + l * 4 + a / 32) 2 = true →
    let d1 := (d.ported portBufRead (i.coreN * 8 + l * 4 + a / 32) o).sched (d.run.tick + 9) true o (.landVbuf l (opVbuf i.opd + j)
      (rowOfWords ((rowF32 (kget 0#4096 (d.lane i.coreN l).vbuf a)).map (lvFunc i.sub))) false)
    d.funcTick i o j l = if j + 1 < i.cnt then d1.sched (d.run.tick + 1) false o (.row 0x33 i (j + 1) l {}) else d1) ∧
  (∀ (i : Inst) (d : Dev) (o : Owner) (j l : Nat) (lt : Latch), d.watchOff = true → i.sub ≤ 4 →
    let a := opVbuf i.opa + j
    let b := opVbuf i.opb + j
    let pa := i.coreN * 8 + l * 4 + a / 32
    let pb := i.coreN * 8 + l * 4 + b / 32
    d.portOpen portBufRead pa 2 = true → (d.ported portBufRead pa o).portOpen portBufRead pb 2 = true →
    let ra := kget 0#4096 (d.lane i.coreN l).vbuf a
    let rb := kget 0#4096 (d.lane i.coreN l).vbuf b
    let d1 := ((d.ported portBufRead pa o).ported portBufRead pb o).sched (d.run.tick + 9) true o (.landVbuf l (opVbuf i.opd + j)
      (rowOfWords ((List.range 128).map fun c => ewOp i.sub (rowWord ra c) (rowWord rb c))) false)
    d.ewTick i o j l lt =
      if j + 1 < i.cnt then d1.sched (d.run.tick + 1) false o (.row 0x32 i (j + 1) l { lt with extra := rb }) else d1) ∧
  (∀ (i : Inst) (d : Dev) (o : Owner) (j l : Nat) (lt : Latch), i.epi = 0 → i.fmt ≠ 0xD → lt.dead = false →
    d.portOpen portQueue (i.coreN * 2 + l) 1 = true →
    let exact := (lt.cfgA.map TileCfg.exact).getD false
    let es := (List.range 64).map fun c => drainElem i lt lt.cfgA ((d.lane i.coreN l).tileRow exact (opTile i.opa) j) j c
    (∀ e ∈ es, e.isSome = true) →
    let per := rowsPerBuf i.fmt
    let bits := lt.bits + packBits (elemBits i.fmt) (es.filterMap id) * 2 ^ (64 * elemBits i.fmt * (j % per))
    let full := decide (j % per = per - 1)
    let d1 := d.ported portQueue (i.coreN * 2 + l) o
    let d2 := if full then d1.sched (d.run.tick + 9) true o (.landVbuf l (opVbuf i.opd + j / per) (BitVec.ofNat 4096 bits) false)
      else d1
    d.drainTick i o j l lt =
      if j < 63 then d2.sched (d.run.tick + 1) false o (.row 0x31 i (j + 1) l { lt with bits := if full then 0 else bits }) else d2)

/-- REDUCE (R85, R197, R208 to R215). A reduction whose tiles are configured as R208 asks takes the core's reduction unit: 64 busy
ticks for RED.SUM, 128 for RED.SMAX and RED.NORM, 80 for RED.TOPK, and reads its first row (a RED.NORM of modes 2 and 3 its gain row
too, with Watchpost off). The last row completes what was read: the rows of a RED.SUM of modes 1 to 3 and of a RED.TOPK, and the tiles
and states of a RED.SMAX, land at the ticks R215 gives. Where the tiles are not configured so, TCFG_INCONSISTENT is raised. -/
def Obligations.Reductions : Prop :=
  (∀ (i : Inst) (s : State) (c : TileCfg), s.dev.canIssue i.core = true → s.dev.unitFree i.coreN 4 2 = true →
    redCfg i (s.dev.core i.coreN) = some c →
    let o := s.dev.owner i 4 0
    let set := i.sub / 8 % 2
    (¬ (c.exact = true ∧ i.sub % 4 = 0) → Leaves (.redSum i) s ((s.dev.took o 2 1 64).redSumTick i o 0 { cfgA := some c })) ∧
    (c.exact = true ∧ i.sub % 4 = 0 → Leaves (.redSum i) s ((s.dev.took o 2 1 64).raise o 0x0201)) ∧
    (c.fmt = 0xB → Leaves (.redTopk i) s ((s.dev.took o 2 1 80).topkTick i o 0 { cfgA := some c })) ∧
    (c.fmt = 0xB → redDst i (s.dev.core i.coreN) c = true →
      Leaves (.redSmax i) s ((s.dev.took o 2 1 128).redTwoTick 0x42 i o 0 { cfgA := some c, sts := (s.dev.core i.coreN).states set }) ∧
      (i.sub % 4 < 2 → Leaves (.redNorm i) s ((s.dev.took o 2 1 128).redTwoTick 0x43 i o 0
        { cfgA := some c, sts := (s.dev.core i.coreN).states set })) ∧
      (2 ≤ i.sub % 4 → s.dev.watchOff = true → s.dev.rowReadable i.coreN (opBank i.opb) (opRow i.opb) = true →
        Leaves (.redNorm i) s (((s.dev.took o 2 1 128).rowServed i.coreN (opBank i.opb) (opRow i.opb) o).redTwoTick 0x43 i o 0
          { cfgA := some c, sts := (s.dev.core i.coreN).states set,
            extra := (s.dev.core i.coreN).row (opBank i.opb) (opRow i.opb) })))) ∧
  (∀ (i : Inst) (s : State), s.dev.canIssue i.core = true → s.dev.unitFree i.coreN 4 2 = true →
    redCfg i (s.dev.core i.coreN) = none →
    let o := s.dev.owner i 4 0
    Leaves (.redSum i) s ((s.dev.took o 2 1 64).raise o 0x0201) ∧ Leaves (.redSmax i) s ((s.dev.took o 2 1 128).raise o 0x0201) ∧
    Leaves (.redNorm i) s ((s.dev.took o 2 1 128).raise o 0x0201) ∧ Leaves (.redTopk i) s ((s.dev.took o 2 1 80).raise o 0x0201)) ∧
  (∀ (i : Inst) (d : Dev) (o : Owner) (lt : Latch) (c : TileCfg), lt.cfgA = some c →
    d.portOpen portReduce (i.coreN * 2) 1 = true → d.portOpen portReduce (i.coreN * 2 + 1) 1 = true →
    let a (e : Bool) (j : Nat) := (d.lane i.coreN 0).tileRow e (opTile i.opa) j
    let b (e : Bool) (j : Nat) := (d.lane i.coreN 1).tileRow e (opTile i.opa) j
    let d1 := (d.ported portReduce (i.coreN * 2) o).ported portReduce (i.coreN * 2 + 1) o
    (let x := redSumRows c (i.sub % 4) (lt.rows0 ++ [a c.exact 63]) (lt.rows1 ++ [b c.exact 63])
     let d2 := d1.redRows i o (o.issue + 74) x.1
     i.sub % 4 ≠ 0 → d.redSumTick i o 63 lt = if x.2 then d2.sched (o.issue + 74) true o .exactFault else d2) ∧
    d.topkTick i o 63 lt = d1.redRows i o (o.issue + 90) (topkRows i c (lt.rows0 ++ [a false 63]) (lt.rows1 ++ [b false 63])) ∧
    (let r0 := lt.rows0 ++ [a false 63]
     let r1 := lt.rows1 ++ [b false 63]
     let x := smaxAll i c lt.sts (r0.take 64) (r1.take 64) (r0.drop 64) (r1.drop 64)
     let cd : TileCfg := { c with fmt := 0xB, exact := false, base := 0 }
     d.redTwoTick 0x42 i o 127 lt = ((d1.sched (o.issue + 138) true o (.landTile 0 (opTile i.opd) cd x.1)).sched
       (o.issue + 138) true o (.landTile 1 (opTile i.opd) cd x.2.1)).sched (o.issue + 138) true o
       (.landSmax (i.sub / 8 % 2) x.2.2)))

/-- ST.ROW, ST.MEM and DMA.WR (R51, R89, R96, R306, R438, R511). An occurrence that may issue takes the unit of its lanes, or the DMA
unit, for COUNT ticks and handles its first row; a DMA.WR on a joined convoy with an instance left is the convoy's next instance, and the
secondary of a Mirror opens none. With Watchpost off and its port free, a row of an ST.ROW is read and lands in its scratch row three
ticks later; a row of an ST.MEM or of a DMA.WR goes to the memory system when it is read, and its acknowledgement falls due 900 ticks
later for device memory and Waymark, after the host's latency for host memory. Nothing else changes, and no byte of device memory. -/
def Obligations.RowStores : Prop :=
  (∀ (i : Inst) (s : State), s.dev.canIssue i.core = true →
    Leaves (.stRow i) s (s.dev.forLanes i 5 (Dev.stRowLane i)) ∧ Leaves (.stMem i) s (s.dev.forLanes i 5 (Dev.stMemLane i)) ∧
    (∀ (a : StreamAt) (d : Dev), s.dev.unitFree i.coreN 11 2 = true →
      let o := s.dev.owner i 11 0
      (s.dev.took o 2 1 i.cnt).streamAt o i i.opd = (some a, d) →
      (strKind a.entry ≠ 2 → Leaves (.dmaWr i) s (d.dmaWrTick i o 0 (a.latch 0))) ∧
      (let c := strBase a.entry / 2 ^ 48
       let n := kget 0 d.wmkIssued c
       let d1 : Dev := { d with wmkIssued := kset 0 d.wmkIssued c (n + 1) }
       strKind a.entry = 2 → s.dev.is (Reg.WMK_CV0.JOINED c) = true → (s.dev.get (Reg.WMK_CV2.PERIOD c) = 0 → n = 0) →
        let d2 := if s.dev.is Reg.MIR_STATUS.ACTIVE && s.dev.mir.secondary then d1
          else { d1 with txInsts := d1.txInsts ++ [{ convoy := c, inst := n, blocks := i.cnt / 8, owner := o, slotAt := d1.windowStart c n }] }
        Leaves (.dmaWr i) s (d2.dmaWrTick i o 0 (a.latch n))))) ∧
  (∀ (i : Inst) (d : Dev) (o : Owner) (l : Nat), d.unitFree o.core o.unit l = true →
    d.stRowLane i o l = (d.took o l 1 i.cnt).stRowTick i o 0 l ∧
    (∀ a d2, (d.took o l 1 i.cnt).streamAt o i i.opd = (some a, d2) → d.stMemLane i o l = d2.stMemTick i o 0 l (a.latch 0))) ∧
  (∀ (i : Inst) (d : Dev) (o : Owner) (op : BitVec 24), let e := d.stream i.coreN (opHandle op)
    let off := opOffset op * strStride e
    (strKind e ≠ 3 → d.streamAt o i op = (some { entry := e, base := strBase e + off, limit := 0 }, d)) ∧
    (strKind e = 3 → d.watchOff = true → d.rowReadable i.coreN (opBank i.opb) (opRow i.opb) = true →
      let n := (rowWord ((d.core i.coreN).row (opBank i.opb) (opRow i.opb)) 0).toNat
      let kv := (d.slotWord n 2).toNat
      let a : StreamAt := { entry := e, base := kv * 256 + strBase e + off, limit := (kv + (d.slotWord n 3).toNat) * 256 }
      d.slotFault n = none → d.streamAt o i op = (some a, d.rowServed i.coreN (opBank i.opb) (opRow i.opb) o))) ∧
  (∀ (i : Inst) (d : Dev) (o : Owner) (j l : Nat) (lt : Latch), d.watchOff = true →
    let v := opVbuf i.opa + j
    let p := i.coreN * 8 + l * 4 + v / 32
    d.portOpen portBufRead p 2 = true →
    let x := kget 0#4096 (d.lane i.coreN l).vbuf v
    let e := d.stream i.coreN (opHandle i.opd)
    let a := lt.bits + j * strStride e
    let d1 := (d.ported portBufRead p o).sched (d.run.tick + 3) true o (.landRow i.coreN (opBank i.opd) (opRow i.opd + j) x 0)
    let d2 := ((d.ported portBufRead p o).observe o i.coreN 3 0 (2 ^ 19 + l * 128 + opVbuf i.opa + j) (rowBytes x)).store o e a j 0 x
    d.stRowTick i o j l = (if j + 1 < i.cnt then d1.sched (d.run.tick + 1) false o (.row 0x51 i (j + 1) l {}) else d1) ∧
    (d.streamFault (strKind e) a lt.pass = none → d.stMemTick i o j l lt =
      (if j + 1 < i.cnt then d2.sched (d.run.tick + 1) false o (.row 0x52 i (j + 1) l lt) else d2))) ∧
  (∀ (i : Inst) (d : Dev) (o : Owner) (j : Nat) (lt : Latch), d.watchOff = true →
    let b := opBank i.opa
    let r := opRow i.opa + j
    d.rowReadable i.coreN b r = true →
    let x := (d.core i.coreN).row b r
    let e := d.stream i.coreN (opHandle i.opd)
    let a := lt.bits + j * strStride e
    let d1 := ((d.rowServed i.coreN b r o).observe o i.coreN 3 0 (rowKey b r) (rowBytes x)).store o e a j (lt.scales.headD 0) x
    (strKind e ≠ 2 → d.streamFault (strKind e) a lt.pass = none) →
    d.dmaWrTick i o j lt = (if j + 1 < i.cnt then d1.sched (d.run.tick + 1) false o (.row 0xB2 i (j + 1) 0 lt) else d1)) ∧
  (∀ (d : Dev) (o : Owner) (e : BitVec 128) (a j n : Nat) (v : Row),
    let x : Store := { owner := o, j := j, due := d.run.tick + (if strKind e = 1 then latHost d.rt.maxOpp else 900), data := v,
                       sink := if strKind e = 1 then .host a
                         else if strKind e = 2 then .waymark (strBase e / 2 ^ 48) (j / 8) (j % 8) n else .memory a }
    let d1 := d.onRun fun r => { r with stores := r.stores ++ [x] }
    x.acked = false ∧ d.store o e a j n v = (if strKind e = 1 then d1.needPage a true else d1))

/-- DMA.RD, DMA.SGATHER and DMA.SSCATTER (R48, R303, R305, R405, R406, R438, R439, R445, R511). An occurrence that may issue takes the DMA
unit for COUNT ticks. Each row of a DMA.RD of device or host memory is posted with the due tick that its path's latency gives, and a host
row asks for its page; a DMA.RD on a joined convoy whose due tick leaves room posts every row of the convoy's next instance. With
Watchpost off, a DMA.SGATHER reads its row of slots and a DMA.SSCATTER both its rows; a gather posts its row once all words are met, due
640 ticks later, and a scatter stores a word a tick, due 900 ticks later. Nothing else changes. -/
def Obligations.Transfers : Prop :=
  (∀ (i : Inst) (s : State), s.dev.canIssue i.core = true → s.dev.unitFree i.coreN 11 2 = true →
    let o := s.dev.owner i 11 0
    let d := s.dev.took o 2 1 i.cnt
    (∀ (a : StreamAt) (d1 : Dev), d.streamAt o i i.opa = (some a, d1) →
      Leaves (.dmaRd i) s (if strKind a.entry = 2 then d1.dmaRdWaymark i o a.entry else d1.dmaRdTick i o 0 (a.latch 0))) ∧
    (s.dev.watchOff = true → s.dev.rowReadable i.coreN (opBank i.opa) (opRow i.opa) = true →
      let v := (s.dev.core i.coreN).row (opBank i.opa) (opRow i.opa)
      let d1 := d.rowServed i.coreN (opBank i.opa) (opRow i.opa) o
      (opRow i.opd ≤ 575 → Leaves (.dmaSgather i) s (d1.gatherTick i o 0 { scales := rowNumbers i.cnt v })) ∧
      (d1.rowReadable i.coreN (opBank i.opd) (opRow i.opd) = true →
        let w := (d1.core i.coreN).row (opBank i.opd) (opRow i.opd)
        Leaves (.dmaSscatter i) s ((((d1.rowServed i.coreN (opBank i.opd) (opRow i.opd) o).observe o i.coreN 3 0
          (rowKey (opBank i.opa) (opRow i.opa)) (rowBytes v)).observe o i.coreN 3 0 (rowKey (opBank i.opd) (opRow i.opd)) (rowBytes w)).scatterTick
          i o 0 { extra := v, scales := rowNumbers i.cnt w })))) ∧
  (∀ (i : Inst) (d : Dev) (o : Owner) (j : Nat) (lt : Latch),
    let e := d.stream i.coreN (opHandle i.opa)
    let a := lt.bits + j * strStride e
    opRow i.opd + j ≤ 575 → d.streamFault (strKind e) a lt.pass = none →
    let peer := d.fromPeer o e
    let lat := if strKind e = 1 then latHost d.rt.maxOpp else d.latMemory i.coreN (if strKind e = 3 then none else d.region a)
    let d1 := d.post { owner := o, path := if peer then .peer else if strKind e = 1 then .host else .memory, j := j,
                       bank := opBank i.opd, row := opRow i.opd + j, due := d.run.tick + lat, addr := a, lin := i.lin }
    let d2 := if strKind e = 1 ∧ peer = false then d1.needPage a false else d1
    d.dmaRdTick i o j lt = if j + 1 < i.cnt then d2.sched (d.run.tick + 1) false o (.row 0xB1 i (j + 1) 0 lt) else d2) ∧
  (∀ (i : Inst) (d : Dev) (o : Owner) (e : BitVec 128), let c := strBase e / 2 ^ 48
    let n := kget 0 d.wmkIssued c
    let t := d.run.tick
    let due := (d.wmkDue c n : Int) - d.get Reg.TIM_RUN_TICK.TICK + t
    let path := if d.fromPeer o e then Path.peer else Path.waymark c 0 n
    d.is (Reg.WMK_CV0.JOINED c) = true → (d.get (Reg.WMK_CV2.PERIOD c) = 0 → n = 0) →
    t + 12 * i.cnt + 512 ≤ due → due + 24 < segLength d.seg →
    let x (j : Nat) : Xfer := { owner := o, path := path, j := j, bank := opBank i.opd, row := opRow i.opd + j, due := due.toNat,
                                addr := 0, relaxed := strRelaxed e, lin := i.lin }
    d.dmaRdWaymark i o e = ((List.range i.cnt).foldl (fun (d : Dev) j => d.post (x j))
      { d with wmkIssued := kset 0 d.wmkIssued c (n + 1) }).onRx c n fun r => { r with posted := some o }) ∧
  (∀ (i : Inst) (d : Dev) (o : Owner) (k : Nat) (lt : Latch), d.slotFault (lt.scales.getD k 0) = none →
    let w := d.slotWord (lt.scales.getD k 0) (opWord i.opb)
    let lt1 : Latch := { lt with extra := rowSet lt.extra (4 * k) 4 w.toNat }
    let x : Store := { owner := o, j := k, due := d.run.tick + 900,
                       sink := .slot (lt.scales.getD k 0) (opWord i.opb) (i.sub % 2 == 1), data := BitVec.ofNat 4096 (rowWord lt.extra k).toNat }
    let d1 := d.onRun fun r => { r with stores := r.stores ++ [x] }
    d.gatherTick i o k lt = (if k + 1 < i.cnt then d.sched (d.run.tick + 1) false o (.row 0xB3 i (k + 1) 0 lt1)
      else d.post { owner := o, path := .gather, j := 0, bank := opBank i.opd, row := opRow i.opd, due := d.run.tick + 640,
                    addr := 0, data := lt1.extra, lin := i.lin }) ∧
    d.scatterTick i o k lt = (if k + 1 < i.cnt then d1.sched (d.run.tick + 1) false o (.row 0xB4 i (k + 1) 0 lt) else d1))

/-- Arrivals and checks (R49, R51, R54, R218, R251, R275, R289). A half-row that reaches its core is written where the core's fill eject
is free in this tick, else it waits there; written, it sets its half of the destination row, whose other half stays, and no row of any
other core changes. The check of a core looks at every row and store that is due: a complete row is taken, an acknowledged store is
checked, and a missing half (on a core outside scoreboard mode) or acknowledgement raises a hold request at this tick, which takes effect
24 ticks later. An acknowledged store to device memory writes the 512 bytes at its address and no other byte. -/
def Obligations.ArrivalsAndChecks : Prop :=
  (∀ (core : BitVec 8) (bank : BitVec 3) (row : BitVec 10) (half : BitVec 1) (host : BitVec 2048) (mark : DelayMark) (delay : BitVec 16)
     (s : State) (x : Xfer) (v : Nat),
    s.dev.run.xfers.find? (fun x => x.wants core.toNat bank.toNat row.toNat half.toNat) = some x →
    s.dev.halfData s.dram x half.toNat host = some v →
    let f : FillHalf := { core := core.toNat, bank := bank.toNat, row := row.toNat, half := half.toNat, data := v,
                          late := match mark with | .resend => 1 | .refresh => 2 | .none => 0 | .translation => 0,
                          from_ := s.dev.fillSide x, delay := delay.toNat, what := if x.path = .memory then 0 else 2 }
    let x1 : Xfer := { x with late := f.late }
    Leaves (.halfRowArrival core bank row half host mark delay) s (if s.dev.fillFree core.toNat then
      { ((s.dev.landHalf x1 half.toNat v).markHold x1).fillDelay core.toNat delay.toNat f.what with fillUsed := core.toNat :: s.dev.fillUsed }
      else { s.dev with fillq := fillInsert f s.dev.fillq })) ∧
  (∀ (d : Dev) (x : Xfer) (half v : Nat),
    let k := (d.landHalf x half v).core x.owner.core
    (k.row x.bank x.row = rowSet ((d.core x.owner.core).row x.bank x.row) (256 * half) 256 v) ∧
    (∀ c, c ≠ x.owner.core → (d.landHalf x half v).core c = d.core c)) ∧
  (∀ (core : BitVec 8) (s : State),
    Leaves (.dueTickCheck core) s ((s.dev.dueRows core.toNat).foldl (fun d x => d.checkDue x) s.dev) ∧
    Leaves (.writeAckCheck core) s ((s.dev.dueStores core.toNat).foldl (fun d x => d.checkAck x) s.dev)) ∧
  (∀ (d : Dev) (x : Xfer), let same (y : Xfer) : Bool := y.owner.same x.owner && y.j == x.j && !y.dropped
    let d1 := d.onRun fun r => { r with xfers := updFirst same (fun y => { y with checked := true, dropped := false }) r.xfers }
    (x.complete = true → d.checkDue x = d1.noteDue x) ∧
    (x.complete = false → x.relaxed = false → d.is (Reg.CORE_STATUS.SCOREBOARD x.owner.core) = false →
      d.run.eclipse = false → (d.run.holds.any fun h => h.d == d.run.tick && h.why == .rows x.owner.core x.owner.tag) = false →
      ∃ h ∈ (d.checkDue x).run.holds, h.d = d.run.tick ∧ h.h = d.run.tick + 24 ∧ h.why = .rows x.owner.core x.owner.tag)) ∧
  (∀ (d : Dev) (x : Store), let same (y : Store) : Bool := y.owner.same x.owner && y.j == x.j && !y.checked
    let d1 := d.onRun fun r => { r with stores := updFirst same (fun y => { y with checked := true }) r.stores }
    (x.acked = true → d.checkAck x = d1) ∧
    (x.acked = false → d.run.eclipse = false →
      (d.run.holds.any fun h => h.d == d.run.tick && h.why == .acks x.owner.core x.owner.tag) = false →
      ∃ h ∈ (d.checkAck x).run.holds, h.d = d.run.tick ∧ h.h = d.run.tick + 24 ∧ h.why = .acks x.owner.core x.owner.tag)) ∧
  (∀ (core : BitVec 8) (tag : BitVec 24) (j : BitVec 16) (s : State) (x : Store),
    s.dev.ackable core.toNat tag.toNat j.toNat = some x → let m := s.dev.acceptMem x s.dram
    Stores (.writeAcknowledgement core tag j) s m (s.dev.acceptStore x) ∧
    BytesKept s.dram m (fun k => ∃ a j, x.sink = .memory a ∧ j < 512 ∧ s.dev.dramAt (a + j) = some k) ∧
    (∀ a, x.sink = .memory a → m = s.dev.writeMem s.dram a x.data.toNat 512))

/-- The mesh and the Relay chain (R252 to R269), with Watchpost off. A transfer that may issue takes its unit (four busy ticks a row in
the mesh, one on the chain) and handles its first row. Row j of an MSH.SEND lands LAT ticks later in its destination's core; a row of an
MSH.FAN in every core in service that its masks name; a row of an MSH.CONF joins the Confluence that lands LAT ticks later, at its
destination, by the hand of its lowest-indexed source. A chain row lands RELAY_PAD ticks later in the next core in service of its
direction; RLY.FWD forwards the row that lands on its own core in this tick, or zeros. -/
def Obligations.MeshAndChain : Prop :=
  (∀ (i : Inst) (s : State), s.dev.canIssue i.core = true →
    (s.dev.unitFree i.coreN 6 2 = true →
      let o := s.dev.owner i 6 0
      let d := s.dev.took o 2 1 (4 * i.cnt)
      Leaves (.mshSend i) s (d.sendTick i o 0) ∧ Leaves (.mshFan i) s (d.fanTick i o 0) ∧ Leaves (.mshConf i) s (d.confTick i o 0)) ∧
    (s.dev.unitFree i.coreN 7 2 = true →
      let o := s.dev.owner i 7 0
      let d := s.dev.took o 2 1 i.cnt
      Leaves (.rlyPass i) s (d.passTick i o 0) ∧ Leaves (.rlyFwd i) s (d.fwdTick i o 0))) ∧
  (∀ (i : Inst) (d : Dev) (o : Owner) (j : Nat), d.watchOff = true →
    d.rowReadable i.coreN (opBank i.opa) (opRow i.opa + j) = true →
    let v := (d.core i.coreN).row (opBank i.opa) (opRow i.opa + j)
    let t := d.run.tick
    let e := d.meshEntry i.coreN (opEntry i.opb)
    let d1 := d.rowServed i.coreN (opBank i.opa) (opRow i.opa + j) o
    let land (c : Nat) : Act := .landRow c (opBank i.opd) (opRow i.opd + j) v 0
    let next (opc step : Nat) (x : Dev) : Dev := if j + 1 < i.cnt then x.sched (t + step) false o (.row opc i (j + 1) 0 {}) else x
    let leaves := d.members (meshCols e) (meshRows e)
    d.sendTick i o j = (((next 0x61 4 (d1.sched (t + meshLat e) true o (land (opCore i.opd)))).needFlits o i.coreN 4 t).needLinks o
      (pathUses (meshPath (meshOrder e == 0) i.coreN (opCore i.opd)) t)).needFlits o (opCore i.opd) 5 (t + meshLat e - 6) ∧
    d.fanTick i o j = leaves.foldl (fun d c => d.needFlits o c 5 (t + meshLat e - 6))
      (((next 0x62 4 (leaves.foldl (fun d c => d.sched (t + meshLat e) true o (land c)) d1)).needFlits o i.coreN 4 t).needLinks o
        (dedup (leaves.flatMap fun c => pathUses (meshPath (meshOrder e == 0) i.coreN c) t))) ∧
    (let c : Contrib := { opd := i.opd.toNat, j := j, land := t + meshLat e, source := i.coreN, fmt := i.fmt, entry := e, data := v }
     let first := leaves.head? = some i.coreN
     let mine := (confUses (meshOrder e) (opCore i.opd) leaves t).filter fun u => confOwner (meshOrder e) (opCore i.opd) leaves u.1 == some i.coreN
     let d2 := (d1.onRun fun r => { r with contribs := r.contribs ++ [c] }).sched (t + meshLat e) true o
       (if first then .confLand (opCore i.opd) i.opd.toNat j else .noop)
     let d3 := ((next 0x63 4 d2).needFlits o i.coreN 4 t).needLinks o mine
     d.confTick i o j = if first then d3.needFlits o (opCore i.opd) 5 (t + meshLat e - 6) else d3) ∧
    d.passTick i o j = next 0x71 1 (d1.relaySend i o j v)) ∧
  (∀ (i : Inst) (d : Dev) (o : Owner) (j : Nat) (v : Row),
    d.relaySend i o j v =
      match d.nextOnChain (decide (i.extBits 0 1 = 1)) 255 (chainPos i.coreN) with
      | some c => d.sched (d.run.tick + d.rt.relayPad) true o (.landRow c (opBank i.opd) (opRow i.opd + j) v (1 + i.extBits 0 1))
      | none => d) ∧
  (∀ (i : Inst) (d : Dev) (o : Owner) (j : Nat),
    let v := ((d.run.relayIn.find? fun x => x.1 == i.coreN && x.2.1 == i.extBits 0 1).map fun x => x.2.2).getD 0#4096
    d.fwdTick i o j = if j + 1 < i.cnt then (d.relaySend i o j v).sched (d.run.tick + 1) false o (.row 0x72 i (j + 1) 0 {})
      else d.relaySend i o j v) ∧
  (∀ c, c < 256 → chainPos (chainPos c) = c ∧ chainPos c < 256)

/-- MESH_SLIP_OVERRUN (R270, R271, R277). In a running segment, at a link that crosses between two compute islands, it brings the
crossing's debt to +4 or -4 and no other's, sets OVERRUN, counts, leaves the peak at 4 at least, and raises a hold request that takes
effect 24 ticks later; where OVERRUN was clear it records the crossing and the tick, else the record stays and Lantern counts the fault.
Outside a segment, while the device is held, or at a link that crosses no islands, it has no effect. -/
def Obligations.SlipOverrun : Prop :=
  ∀ (router : BitVec 8) (port : BitVec 3) (plus : Bool) (s : State), let key := router.toNat * 8 + port.toNat
    ((s.dev.inSegment = false ∨ s.dev.held = true ∨ crossing router.toNat port.toNat = none) → NoEffect (.meshSlipOverrun router port plus) s) ∧
    (s.dev.inSegment = true → s.dev.held = false → crossing router.toNat port.toNat ≠ none →
      Gives (.meshSlipOverrun router port plus) s fun d =>
        d.debt key = (if plus then 4 else -4) ∧ (∀ k, k ≠ key → d.debt k = s.dev.debt k) ∧ d.is Reg.MSH_EVENT.OVERRUN = true ∧
        d.get Reg.MSH_SLIP_PEAK.PEAK = min (max (s.dev.get Reg.MSH_SLIP_PEAK.PEAK) 4) 7 ∧
        d.get Reg.MSH_OVERRUNS.COUNT = min (s.dev.get Reg.MSH_OVERRUNS.COUNT + 1) (2 ^ 32 - 1) ∧
        (s.dev.is Reg.MSH_EVENT.OVERRUN = false → d.get Reg.MSH_SLIP_REC.ROUTER = router.toNat ∧ d.get Reg.MSH_SLIP_REC.PORT = port.toNat ∧
          d.get Reg.MSH_SLIP_REC.SIGN = (if plus then 1 else 0) ∧ d.get Reg.MSH_SLIP_REC.TICK = s.dev.run.tick % 2 ^ 40 ∧
          d.get Reg.DBG_LTN_FAULTS.COUNT = s.dev.get Reg.DBG_LTN_FAULTS.COUNT) ∧
        (s.dev.is Reg.MSH_EVENT.OVERRUN = true → d.get Reg.MSH_SLIP_REC.ROUTER = s.dev.get Reg.MSH_SLIP_REC.ROUTER ∧
          d.get Reg.MSH_SLIP_REC.PORT = s.dev.get Reg.MSH_SLIP_REC.PORT ∧ d.get Reg.MSH_SLIP_REC.SIGN = s.dev.get Reg.MSH_SLIP_REC.SIGN ∧
          d.get Reg.MSH_SLIP_REC.TICK = s.dev.get Reg.MSH_SLIP_REC.TICK ∧
          d.get Reg.DBG_LTN_FAULTS.COUNT = min (s.dev.get Reg.DBG_LTN_FAULTS.COUNT + 1) (2 ^ 32 - 1)) ∧
        RegsKept d s.dev [Reg.MSH_EVENT.OVERRUN, Reg.MSH_OVERRUNS.COUNT, Reg.MSH_SLIP_PEAK.PEAK, Reg.MSH_SLIP_REC.SIGN, Reg.MSH_SLIP_REC.PORT,
          Reg.MSH_SLIP_REC.ROUTER, Reg.MSH_SLIP_REC.TICK, Reg.DBG_LTN_LOST.COUNT, Reg.DBG_LTN_FAULTS.COUNT] ∧
        d.rest = (({ s.dev with slip := kset 4 s.dev.slip key (if plus then 8 else 0) } : Dev).onRun fun r => { r with
          holds := r.holds ++ [{ d := r.tick, h := r.tick + 24, cause := 6, why := .slip, ms := s.dev.now }] }).rest)


/-- Beacons (R79, R383 to R387). A BCN.SIG that may issue takes the BCN unit for one tick and signals its Beacon 40 ticks later. A
signal adds its value or sets it, modulo 2^32, and touches no other Beacon. A value has reached a target where their difference is
below 2^31. A host's WAIT waiter is released exactly where the value has reached its target, and the Beacon stays; a TAKE waiter exactly
where the Beacon is not 0, and it takes one unit. A released waiter leaves the list with status 2, and its vector is sent. A release
never raises the Beacon and touches no other. -/
def Obligations.BeaconSignals : Prop :=
  (∀ (i : Inst) (s : State), s.dev.canIssue i.core = true → s.dev.unitFree i.coreN 8 2 = true →
    let o := s.dev.owner i 8 0
    Leaves (.bcnSig i) s ((s.dev.took o 2 1 1).sched (s.dev.run.tick + 40) true o
      (.beacon (opBeacon i.opa) (i.sub % 2 == 1) (BitVec.ofNat 32 (i.extBits 0 32))))) ∧
  (∀ (kind id bcn : Nat) (set : Bool) (v : BitVec 32) (d : Dev), let e := d.signal kind id bcn set v
    e.beacon bcn = (if set then v else d.beacon bcn + v) ∧ ∀ b, b ≠ bcn → e.beacon b = d.beacon b) ∧
  (∀ a b : BitVec 32, reached a b = decide ((a.toNat + 2 ^ 32 - b.toNat) % 2 ^ 32 < 2 ^ 31)) ∧
  (∀ (w : HWait) (d : Dev), w.take = false →
    (reached (d.beacon w.bcn) w.target = false → d.tryWait w = d) ∧
    (reached (d.beacon w.bcn) w.target = true → let e := d.tryWait w
      e = (({ d with hwaits := d.hwaits.filter (fun x => x.n ≠ w.n) } : Dev).put (Reg.BCN_HWAIT_B.STATUS w.n) 2).msix (d.viewOf w.ten) w.vector ∧
      e.get (Reg.BCN_HWAIT_B.STATUS w.n) = 2 ∧ (∀ x ∈ e.hwaits, x.n ≠ w.n) ∧ ∀ b, e.beacon b = d.beacon b)) ∧
  (∀ (w : HWait) (d : Dev), w.take = true →
    (d.beacon w.bcn = 0#32 → d.tryWait w = d) ∧
    (d.beacon w.bcn ≠ 0#32 → let e := d.tryWait w
      e = (({ d with beacons := kset 0#32 d.beacons w.bcn (d.beacon w.bcn - 1#32), hwaits := d.hwaits.filter (fun x => x.n ≠ w.n) } : Dev).put
        (Reg.BCN_HWAIT_B.STATUS w.n) 2).msix (d.viewOf w.ten) w.vector ∧
      e.get (Reg.BCN_HWAIT_B.STATUS w.n) = 2 ∧ (∀ x ∈ e.hwaits, x.n ≠ w.n) ∧ e.beacon w.bcn = d.beacon w.bcn - 1#32 ∧
      ∀ b, b ≠ w.bcn → e.beacon b = d.beacon b)) ∧
  (∀ (bcn : Nat) (d : Dev), ((d.release bcn).beacon bcn).toNat ≤ (d.beacon bcn).toNat ∧
    ∀ b, b ≠ bcn → (d.release bcn).beacon b = d.beacon b)

/-- The signal network (R390 to R394). A BCN.MSG that may issue, with Watchpost off and its row readable, puts LEN + 1 bytes of the row
into the core's outbound queue where that holds fewer than 32 messages; else it raises BCN_QUEUE_OVF (0x0603). MESSAGE_SEND sends the
head of the queue once the tick after its issue has come and a credit of the Route from its sender toward its destination is free, and
takes that credit: a message for a core joins that core's inbound queue, one for the management island goes there. Before, and with an
empty queue, it has no effect. -/
def Obligations.SignalNetwork : Prop :=
  (∀ (i : Inst) (s : State), s.dev.canIssue i.core = true → s.dev.unitFree i.coreN 8 2 = true → s.dev.watchOff = true →
    s.dev.rowReadable i.coreN (opBank i.opa) (opRow i.opa) = true →
    let o := s.dev.owner i 8 0
    let d := (s.dev.took o 2 1 1).rowServed i.coreN (opBank i.opa) (opRow i.opa) o
    (32 ≤ (s.dev.core i.coreN).outbound.length → Leaves (.bcnMsg i) s (d.raise o 0x0603)) ∧
    ((s.dev.core i.coreN).outbound.length < 32 → Leaves (.bcnMsg i) s (d.onCore i.coreN fun k =>
      { k with outbound := k.outbound ++
          [{ sender := i.coreN, dest := i.opd.toNat, tag := i.extBits 6 24, len := i.extBits 0 6 + 1, reply := false,
             payload := BitVec.ofNat 512 (rowBits ((s.dev.core i.coreN).row (opBank i.opa) (opRow i.opa)) 0 (8 * (i.extBits 0 6 + 1))),
             ten := s.dev.rt.tenancy, receipt := false, ready := s.dev.run.cont + 1 }] }))) ∧
  (∀ (core : BitVec 8) (s : State),
    ((s.dev.core core.toNat).outbound = [] → NoEffect (.messageSend core) s) ∧
    ∀ m rest, (s.dev.core core.toNat).outbound = m :: rest →
      let dst := creditDest m.dest
      let d := (s.dev.onCore core.toNat fun k => { k with outbound := rest }).setCredits m.sender dst (s.dev.creditsUsed m.sender dst + 1)
      (s.dev.run.cont < m.ready ∨ s.dev.granted m.sender dst ≤ s.dev.creditsUsed m.sender dst → NoEffect (.messageSend core) s) ∧
      (m.ready ≤ s.dev.run.cont → s.dev.creditsUsed m.sender dst < s.dev.granted m.sender dst →
        (bitsOf m.dest 21 3 = 0 → Leaves (.messageSend core) s (d.onCore dst fun k => { k with inRoute := k.inRoute ++ [m] })) ∧
        (bitsOf m.dest 21 3 ≠ 0 → Leaves (.messageSend core) s (d.toMgmt m)) ∧
        d.creditsUsed m.sender dst = s.dev.creditsUsed m.sender dst + 1))

/-- A message's delivery (R225 to R228, R391 to R395). Of a core's queue, messages that ask are each sender's first (Route messages), or
the queue's head (host messages and replies). Where none of them gets a write port of its bank, MESSAGE_DELIVERY has no effect; else one
that does is written into its row: LEN bytes of payload, the header in the last eight bytes, everything else of the row unchanged. The
core's sequence number goes on, the message leaves its queue, and a Route message's credit comes back. No other row of any core changes,
but one remapped onto the same spare; for Route messages and replies no register and no other core changes. At the end of a tick,
BANK_CONFLICT of each bank counts the requests that stand for its ports. -/
def Obligations.MessageDelivery : Prop :=
  (∀ (core : BitVec 8) (q : MsgQueue) (s : State), let c := core.toNat
    ((∀ x ∈ (s.dev.core c).asking q, s.dev.portFree c (bitsOf x.2.dest 10 3) true x.1 = false) ↔ s.dev.nextDelivery c q = none) ∧
    (s.dev.nextDelivery c q = none → NoEffect (.messageDelivery core q) s) ∧
    (∀ m, s.dev.nextDelivery c q = some m →
      ∃ r, (r, m) ∈ (s.dev.core c).asking q ∧ s.dev.portFree c (bitsOf m.dest 10 3) true r = true) ∧
    (∀ m, s.dev.nextDelivery c q = some m → m.receipt = false → m.bcn = none → bitsOf m.dest 13 8 = c →
      let bank := bitsOf m.dest 10 3
      let row := bitsOf m.dest 0 10
      Gives (.messageDelivery core q) s fun d =>
        (d.core c).row bank row = deliveredRow m (s.dev.core c).delivered ((s.dev.core c).row bank row) ∧
        (∀ b r, rowKey b r ≠ rowKey bank row → (s.dev.core c).cells b r ≠ (s.dev.core c).cells bank row →
          (d.core c).row b r = (s.dev.core c).row b r) ∧
        (∀ e b r, e ≠ c → (d.core e).row b r = (s.dev.core e).row b r) ∧
        (d.core c).delivered = ((s.dev.core c).delivered + 1) % 2 ^ 24 ∧
        (q = .route → (d.core c).inRoute = eraseFirst m (s.dev.core c).inRoute ∧
          d.creditsUsed m.sender c = s.dev.creditsUsed m.sender c - 1) ∧
        (q = .reply → (d.core c).inReply = eraseFirst m (s.dev.core c).inReply) ∧
        (q = .host → ∃ e : Dev, (e.core c).inHost = eraseFirst m (s.dev.core c).inHost ∧ d = e.hostForward) ∧
        (q ≠ .host → (∀ e, e ≠ c → d.core e = s.dev.core e) ∧ ∀ F, d.get F = s.dev.get F))) ∧
  (∀ (d : Dev) (c b : Nat), b < 8 → d.countStalls.get (Reg.BANK_CONFLICT.STALLS c b) =
    if d.requestsAt c b = 0 then d.get (Reg.BANK_CONFLICT.STALLS c b)
    else min (d.get (Reg.BANK_CONFLICT.STALLS c b) + d.requestsAt c b) (2 ^ 32 - 1)) ∧
  (∀ (m : Msg) (seq : Nat) (r : Row), m.len ≤ 64 → m.len ≠ 0 → m.tag < 2 ^ 24 → m.sender < 256 →
    let x := deliveredRow m seq r
    bitsOf x.toNat 0 (8 * m.len) = bitsOf m.payload.toNat 0 (8 * m.len) ∧
    bitsOf x.toNat (8 * m.len) (4032 - 8 * m.len) = bitsOf r.toNat (8 * m.len) (4032 - 8 * m.len) ∧
    bitsOf x.toNat 4032 24 = m.tag ∧ bitsOf x.toNat 4056 6 = m.len - 1 ∧ bitsOf x.toNat 4062 1 = (if m.reply then 1 else 0) ∧
    bitsOf x.toNat 4063 1 = 1 ∧ bitsOf x.toNat 4064 8 = m.sender ∧ bitsOf x.toNat 4072 24 = seq % 2 ^ 24)

/-- A tenancy's host ring (R397 to R400, R403). With the ring enabled, the host link up and a record that may be written, the record's
image goes to PROD, after a wrap marker where it does not fit before the ring's end; PROD moves past both; the record leaves the queue,
and the credit of the message it came from comes back. A combining entry's record then signals the entry's Beacon, and the ring's vector
is sent where PROD stood at CONS. The image is a header of 16 bytes and the payload padded to a multiple of 16. Otherwise
HOST_RING_RECORD has no effect. -/
def Obligations.HostRings : Prop :=
  (∀ (t : BitVec 4) (s : State), let n := t.toNat
    (s.dev.is (Reg.SES_RING_CFG.ENABLE n) = false ∨ s.dev.linkUp = false ∨ s.dev.nextRecord n = none → NoEffect (.hostRingRecord t) s) ∧
    (∀ r, s.dev.is (Reg.SES_RING_CFG.ENABLE n) = true → s.dev.linkUp = true → s.dev.nextRecord n = some r →
      let size := 2 ^ s.dev.get (Reg.SES_RING_CFG.LOG2SIZE n)
      let base := s.dev.get (Reg.SES_RING_BASE.ADDR n) * 4096
      let prod := s.dev.get (Reg.SES_RING_PROD.INDEX n)
      let tail := size - prod % size
      let v := s.dev.viewOf n
      ∃ y : Dev,
        y.get (Reg.SES_RING_PROD.INDEX n) = (prod + (if tail < r.bytes then tail else 0) + r.bytes) % 2 ^ 32 ∧
        y.ringQueue = eraseFirst r s.dev.ringQueue ∧ RegsKept y s.dev [Reg.SES_RING_PROD.INDEX n] ∧ y.cores = s.dev.cores ∧
        y.beacons = s.dev.beacons ∧
        (∀ c, r.credit = some c → y.creditsUsed c 0xFF = s.dev.creditsUsed c 0xFF - 1) ∧
        y.out = s.dev.out ++
          (if tail < r.bytes then
            [.hostWrite v (base + prod % size) (wrapImage tail s.dev.now), .hostWrite v base (r.image s.dev.now)]
          else [.hostWrite v (base + prod % size) (r.image s.dev.now)]) ∧
        (let z := match r.bcn with
          | some b => y.signalNow sigMgmt 0 b false 1#32
          | none => y
         Leaves (.hostRingRecord t) s
           (if prod = s.dev.get (Reg.SES_RING_CONS.INDEX n) then z.msix v (s.dev.get (Reg.HP_EVT_VEC.RING v)) else z)))) ∧
  (∀ (r : RingRec) (now : Nat), (r.image now).length = r.bytes ∧ r.bytes % 16 = 0 ∧ 16 ≤ r.bytes)

/-- A combining entry (R401 to R403). With no contribution for the entry waiting the command has no effect. The first that waits leaves
the queue (a core's credit comes back). One for an entry that is not valid is dropped; one of the wrong length sets the entry's error and
COMB_ERROR, and the sum stays; one of the right length that is not the last of its round is kept, and RECEIVED says how many have come.
The last delivers the round's sum, as a record of its owner's ring or as a message to its row, and the entry starts a new round; an exact
sum out of range sets the error. Integer sums saturate to 32 bits; an exact sum out of range is delivered as zeros. -/
def Obligations.CombiningEntries : Prop :=
  (∀ (e : BitVec 8) (s : State), let n := e.toNat
    ((s.dev.mgmtQueue.find? fun m => bitsOf m.dest 0 21 == 0x1FFE00 + n) = none → NoEffect (.combiningContribution e) s) ∧
    (∀ m, (s.dev.mgmtQueue.find? fun m => bitsOf m.dest 0 21 == 0x1FFE00 + n) = some m →
      let c := kget {} s.dev.comb n
      let q := s.dev.takeContribution m
      let all := c.got ++ [m.payload]
      (c.valid = false → Leaves (.combiningContribution e) s q) ∧
      (c.valid = true → m.len ≠ c.elems * combElem c.fmt → Leaves (.combiningContribution e) s (q.combError n)) ∧
      (c.valid = true → m.len = c.elems * combElem c.fmt →
        (all.length < c.expect → Leaves (.combiningContribution e) s
          (({ q with comb := kset {} s.dev.comb n { c with got := all } } : Dev).put (Reg.BCN_COMB_B.RECEIVED n) all.length)) ∧
        (c.expect ≤ all.length → Gives (.combiningContribution e) s fun d =>
          let sum := (combSum c.fmt c.elems all).1
          let bcn := if c.bcnEn then some c.beacon else none
          let dst := bitsOf c.row 13 8
          (kget {} d.comb n).got = [] ∧ d.get (Reg.BCN_COMB_B.RECEIVED n) = 0 ∧
          (c.target ≠ 1 → d.cores = s.dev.cores ∧ d.ringQueue = q.ringQueue ++
            [{ ten := c.owner, kind := 0, head := n, sender := 0xFF, payload := sum, reply := false, credit := none, bcn := bcn }]) ∧
          (c.target = 1 → d.ringQueue = q.ringQueue ∧ (d.core dst).inRoute = (s.dev.core dst).inRoute ++
            [{ sender := 0xFF, dest := c.row, tag := n, len := sum.length, reply := false, payload := BitVec.ofNat 512 (ofLeBytes sum),
               ten := c.owner, receipt := false, bcn := bcn }]) ∧
          ((combSum c.fmt c.elems all).2 = true → d.is (Reg.BCN_COMB_B.ERROR n) = true ∧ d.is Reg.BCN_EVENT.COMB_ERROR = true))))) ∧
  (∀ (m : Msg) (d : Dev), m.receipt = false → let q := d.takeContribution m
    q.mgmtQueue = eraseFirst m d.mgmtQueue ∧ q.comb = d.comb ∧ q.cores = d.cores ∧ q.ringQueue = d.ringQueue ∧ (∀ F, q.get F = d.get F) ∧
    (m.sender ≠ 0xFE → q.creditsUsed m.sender 0xFF = d.creditsUsed m.sender 0xFF - 1)) ∧
  (∀ (d : Dev) (n : Nat), (d.combError n).is (Reg.BCN_COMB_B.ERROR n) = true ∧ (d.combError n).is Reg.BCN_EVENT.COMB_ERROR = true ∧
    (d.combError n).comb = d.comb) ∧
  (∀ (fmt n : Nat) (got : List (BitVec 512)), let el (w k : Nat) (p : BitVec 512) : Int := signedOf w (bitsOf p.toNat (w * k) w)
    (fmt ≠ 0xB → fmt ≠ 0xD → (combSum fmt n got).2 = false ∧ (combSum fmt n got).1 =
      (List.range n).flatMap fun k => leBytes 4 (intBits 32 (satInt 32 (got.map (el 32 k)).sum))) ∧
    (fmt = 0xD → ((combSum fmt n got).2 = true ↔ ∃ k, k < n ∧ exactInRange (got.map (el 128 k)).sum = false) ∧
      ((combSum fmt n got).2 = true → (combSum fmt n got).1 = List.replicate (16 * n) 0#8) ∧
      ((combSum fmt n got).2 = false → (combSum fmt n got).1 =
        (List.range n).flatMap fun k => leBytes 16 (intBits 128 (got.map (el 128 k)).sum))))


/-- The CTL unit (R36, R72, R96, R97, R374, R570). A control descriptor that may issue takes the CTL unit for one tick. CTL.NOP does
nothing else. CTL.TIME, CTL.RAND and CTL.HLTH land 30 ticks later, at word WORD of their row: eight bytes, the Milestone count, a free
64-bit word, or the reading with its code; in the secondary of an active Mirror, the primary's bytes, and where those have not come at
issue it raises a hold. CTL.PPOINT is noted; once the tick has issued, each one noted raises PPOINT_NOT_QUIET (0x0205) where the device
is not quiet, and nothing follows where it is. CTL.MARK leaves its marker in Lantern, and a freeze that waits for it is to begin 24
ticks later. -/
def Obligations.ControlDescriptors : Prop :=
  (∀ (i : Inst) (s : State), s.dev.canIssue i.core = true → s.dev.unitFree i.coreN 9 2 = true →
    let o := s.dev.owner i 9 0
    let d := s.dev.took o 2 1 1
    let t := s.dev.run.tick
    let lands (kind : CtlKind) : Dev := d.sched (t + 30) true o (.landCtl (opBank i.opd) (opRow i.opd) (i.extBits 0 7) kind i.lin)
    let m := i.extBits 0 32
    let marked := d.lantern 6 i.coreN 0 i.tag.toNat t m none
    Leaves (.ctlNop i) s d ∧
    ((s.dev.is Reg.MIR_STATUS.ACTIVE && s.dev.mir.secondary) = false ∨ (s.dev.peerBytes i.tag.toNat i.lin).isSome = true →
      Leaves (.ctlTime i) s (lands .time) ∧ Leaves (.ctlRand i) s (lands .rand) ∧ Leaves (.ctlHlth i) s (lands (.health (i.extBits 8 8)))) ∧
    ((s.dev.is Reg.MIR_STATUS.ACTIVE && s.dev.mir.secondary) = true → s.dev.peerBytes i.tag.toNat i.lin = none →
      Leaves (.ctlTime i) s ((lands .time).hold 5 (.variance i.tag.toNat i.lin)) ∧
      Leaves (.ctlRand i) s ((lands .rand).hold 5 (.variance i.tag.toNat i.lin)) ∧
      Leaves (.ctlHlth i) s ((lands (.health (i.extBits 8 8))).hold 5 (.variance i.tag.toNat i.lin))) ∧
    Leaves (.ctlPpoint i) s (d.onRun fun r => { r with ppoints := r.ppoints ++ [o] }) ∧
    (s.dev.run.freezeMark ≠ some (BitVec.ofNat 32 m) → Leaves (.ctlMark i) s marked) ∧
    (s.dev.run.freezeMark = some (BitVec.ofNat 32 m) →
      Leaves (.ctlMark i) s (marked.onRun fun r => { r with freezeMark := none, freezeAt := some (t + 24) }))) ∧
  (∀ d : Dev,
    (d.quietAt d.run.tick = true → d.ppointCheck = d.onRun fun r => { r with ppoints := [] }) ∧
    (d.quietAt d.run.tick = false → ∀ o, d.run.ppoints = [o] → d.ppointCheck = (d.onRun fun r => { r with ppoints := [] }).raise o 0x0205)) ∧
  (∀ (d : Dev) (o : Owner) (bank row word : Nat) (kind : CtlKind) (lin : Nat),
    let secondary := d.is Reg.MIR_STATUS.ACTIVE && d.mir.secondary
    (secondary = false → d.landCtl o bank row word kind lin =
      let v := d.ctlValue o.core kind
      (v.2.landScratch o o.core bank row (fun r => rowSet r (4 * word) 8 v.1) false).sendVariance o lin (leBytes 8 v.1)) ∧
    (∀ bytes, secondary = true → d.peerBytes o.tag lin = some bytes → ∃ e : Dev, e.cores = d.cores ∧ e.run = d.run ∧
      d.landCtl o bank row word kind lin = e.landScratch o o.core bank row (fun r => rowSet r (4 * word) 8 (ofLeBytes bytes)) false)) ∧
  (∀ (core : Nat) (d : Dev), d.ctlValue core .time = (d.now, d) ∧
    d.ctlValue core .rand = ((Config.randomBits d.fresh).toNat, { d with fresh := d.fresh + 1 }) ∧
    ∀ c, ((d.ctlValue core (.health c)).1 % 2 ^ 32 = d.health core c % 2 ^ 32 ∧ (d.ctlValue core (.health c)).1 / 2 ^ 32 = c))

/-- A scheduled landing in scratch, with Watchpost off (R218 to R221). With its row in range and a write port of its bank free in this
tick, the row reads as what landed and its TAG is on record as the row's last writer. No other core changes, and no other row of this
core but one whose cells are the same (a row remapped onto the same spare). -/
def Obligations.RowLandings : Prop :=
  ∀ (d : Dev) (o : Owner) (core bank row : Nat) (f : Row → Row) (whole : Bool), row ≤ 575 → d.watchOff = true →
    d.portOpen portWrite (core * 8 + bank) 2 = true →
    let e := d.landScratch o core bank row f whole
    (e.core core).row bank row = f ((d.core core).row bank row) ∧
    kget 0 (e.core core).lastTag (rowKey bank row) = o.tag ∧
    (∀ c, c ≠ core → e.core c = d.core c) ∧
    (∀ b r, rowKey b r ≠ rowKey bank row → (d.core core).cells b r ≠ (d.core core).cells bank row →
      (e.core core).row b r = (d.core core).row b r)

/-- Forks (R62 to R70, R107 to R110). A CTL.FORK that may issue opens its core's fork, which resolves at F plus its offset. At R, with
Watchpost off and its row readable, a window fork closes: where the comparison holds, arm P issues from R, what was speculative is
ordinary, and a fault that was held stops the segment; where it does not, arm Q issues from R + 64, MISS counts, the held faults are
counted as dropped, and no speculative landing, transfer or store is left in flight. At R an exit fork closes: where its Beacon has
reached its target the segment's end is R + 24, or an earlier end that stands. In a core without a fork, for a fork of the other kind, or
at another tick neither command has an effect. -/
def Obligations.Forks : Prop :=
  (∀ (i : Inst) (s : State), s.dev.canIssue i.core = true → s.dev.unitFree i.coreN 9 2 = true →
    Gives (.ctlFork i) s fun e => (∃ f, (e.core i.coreN).fork = some f ∧ f.r = s.dev.run.tick + i.extBits 0 24 ∧
        f.exit = (i.extBits 26 1 == 1) ∧ f.opa = i.opa.toNat ∧ f.cmp = i.extBits 24 2 ∧ f.word = i.extBits 27 7 ∧ f.row = opRow i.opb ∧
        f.count = i.cnt ∧ f.banks = i.sub) ∧
      e.get (Reg.CORE_STATUS.FORK_OPEN i.coreN) = 1 ∧ RegsKept e s.dev [Reg.CORE_STATUS.FORK_OPEN i.coreN] ∧
      (∀ c, c ≠ i.coreN → e.core c = s.dev.core c) ∧ e.run = (s.dev.took (s.dev.owner i 9 0) 2 1 1).run) ∧
  (∀ (core : BitVec 8) (s : State), let c := core.toNat
    ((s.dev.core c).fork = none → NoEffect (.windowForkResolve core) s ∧ NoEffect (.exitForkResolve core) s) ∧
    ∀ f, (s.dev.core c).fork = some f →
      (f.exit = true ∨ s.dev.run.tick ≠ f.r → NoEffect (.windowForkResolve core) s) ∧
      (f.exit = false ∨ s.dev.run.tick ≠ f.r → NoEffect (.exitForkResolve core) s) ∧
      (f.exit = true → s.dev.run.tick = f.r → Gives (.exitForkResolve core) s fun e =>
        (e.core c).fork = none ∧ e.get (Reg.CORE_STATUS.FORK_OPEN c) = 0 ∧ e.run =
          if reached (s.dev.beacon (bitsOf f.opa 0 14)) (BitVec.ofNat 32 f.imm) then
            { s.dev.run with exitAt := some (min (s.dev.run.exitAt.getD (f.r + 24)) (f.r + 24)) }
          else s.dev.run) ∧
      (f.exit = false → s.dev.run.tick = f.r → s.dev.watchOff = true →
        s.dev.rowReadable c (bitsOf f.opa 10 3) (bitsOf f.opa 0 10) = true →
        let w := (rowWord ((s.dev.core c).row (bitsOf f.opa 10 3) (bitsOf f.opa 0 10)) f.word).toNat
        let held := (s.dev.core c).specFaults
        Gives (.windowForkResolve core) s fun e =>
          (forkCompare f.cmp w f.imm = true → held = [] → (e.core c).fork = none ∧ e.get (Reg.CORE_STATUS.FORK_OPEN c) = 0 ∧
            (e.core c).arms = (s.dev.core c).arms ++ [{ first := f.pFirst, count := f.pCount, base := f.r }] ∧
            e.run.sched.length = s.dev.run.sched.length ∧ ∀ x ∈ e.run.sched, x.owner.specOf c = false) ∧
          (forkCompare f.cmp w f.imm = true → held ≠ [] → s.dev.running = true → e.run.stopping.isSome = true) ∧
          (forkCompare f.cmp w f.imm = false → (e.core c).fork = none ∧ e.get (Reg.CORE_STATUS.FORK_OPEN c) = 0 ∧
            (e.core c).arms = (s.dev.core c).arms ++ [{ first := f.qFirst, count := f.qCount, base := f.r + 64 }] ∧
            e.get (Reg.SPEC_MISS.COUNT c) = min (s.dev.get (Reg.SPEC_MISS.COUNT c) + 1) (2 ^ 32 - 1) ∧
            e.get (Reg.SPEC_DROPPED.FAULTS c) = min (s.dev.get (Reg.SPEC_DROPPED.FAULTS c) + held.length) (2 ^ 16 - 1) ∧
            e.run.sched = s.dev.run.sched.filter (fun x => !x.owner.specOf c) ∧
            e.run.xfers = s.dev.run.xfers.filter (fun x => !x.owner.specOf c) ∧
            e.run.stores = s.dev.run.stores.filter (fun x => !x.owner.specOf c)))) ∧
  (∀ w imm, forkCompare 0 w imm = decide (w = imm) ∧ forkCompare 1 w imm = decide (w ≠ imm) ∧ forkCompare 2 w imm = decide (w < imm) ∧
    forkCompare 3 w imm = decide (imm ≤ w))


/-- The RTE fault record and the stop it carries (R38, R59, R121, R123, R549 to R552). A fault of an occurrence in a running device with
no stop under way is recorded where the record is free, with its code, core, lane, tag, tick and segment; where it holds an earlier fault
it stays, and Lantern counts the new one. Every island halts 24 ticks later, or at the fault's tick while the device is held; nothing of
the occurrence is left to land, and no core changes where none of its landings of this tick is taken back. -/
def Obligations.FaultRecord : Prop :=
  ∀ (d : Dev) (o : Owner) (code t : Nat), d.running = true → d.run.stopping = none →
    let e := d.faultAt o code t
    (d.is Reg.RTE_FAULT_CODE.VALID = false → code < 2 ^ 16 → o.core < 256 → o.lane < 4 → o.tag < 2 ^ 24 → t < 2 ^ 40 →
      e.get Reg.RTE_FAULT_CODE.VALID = 1 ∧ e.get Reg.RTE_FAULT_CODE.CODE = code ∧ e.get Reg.RTE_FAULT_CODE.CORE = o.core ∧
      e.get Reg.RTE_FAULT_CODE.LANE = o.lane ∧ e.get Reg.RTE_FAULT_TAG.TAG = o.tag ∧ e.get Reg.RTE_FAULT_TICK.TICK = t ∧
      e.get Reg.RTE_FAULT_AUX.SEGMENT = d.get Reg.RTE_STATUS.SEGMENT % 2 ^ 8) ∧
    (d.is Reg.RTE_FAULT_CODE.VALID = true → RegsKept e d [Reg.DBG_LTN_FAULTS.COUNT, Reg.DBG_LTN_LOST.COUNT] ∧
      e.get Reg.DBG_LTN_FAULTS.COUNT = min (d.get Reg.DBG_LTN_FAULTS.COUNT + 1) (2 ^ 32 - 1)) ∧
    e.run.stopping = some { t := t, at_ := if d.held then t else t + 24, why := 2, fault := true, code := code } ∧
    (∀ x ∈ e.run.sched, x.owner.same o = false) ∧ e.run.tick = d.run.tick ∧
    ((d.run.undo.filter fun u => u.owner.same o) = [] → ∀ c, e.core c = d.core c)

/-- The Eclipse (R54 to R60, R74) and the freeze (R570). A hold request that is due begins an Eclipse before the next tick: ECLIPSE sets,
REBALANCE where a slip overrun is among the causes, and a failed translation makes it a suspension at once, with SUSPENDED and its event.
It is released once every condition has cleared, it has lasted 40 ns and no stop takes effect: ECLIPSE and REBALANCE clear, the segment
stands where it stood, and operations that a suspension aborted are brought back. The watchdog raises ECLIPSE_TIMEOUT (0x0208) where the
limit has passed, a suspension not counted. A freeze that is due takes effect. None of the four commands has an effect before. -/
def Obligations.Eclipses : Prop :=
  (∀ s : State, let due := s.dev.run.holds.filter fun x => decide (x.h ≤ s.dev.holdTick)
    (s.dev.segmentOver = false → s.dev.holdTick = s.dev.run.tick + 1) ∧
    (s.dev.inSegment = false ∨ s.dev.run.eclipse = true ∨ due = [] → NoEffect .eclipseBegin s) ∧
    (s.dev.inSegment = true → s.dev.run.eclipse = false → due ≠ [] →
      let d := s.dev.onRun fun r => { r with eclipse := true, eclipseSince := s.dev.now, suspendedNs := 0, eclipseHolds := due,
                                             holds := r.holds.filter fun x => !decide (x.h ≤ s.dev.holdTick) }
      let e := if due.any fun x => x.why == .slip then d.put Reg.MSH_STATUS.REBALANCE 1 else d
      (s.dev.xlatFail = [] → Leaves .eclipseBegin s (e.put Reg.RTE_STATUS.ECLIPSE 1)) ∧
      (s.dev.xlatFail ≠ [] → Gives .eclipseBegin s fun x =>
        x.is Reg.RTE_STATUS.SUSPENDED = true ∧ x.is (Reg.RTE_EVENT.SUSPEND s.dev.rt.tenancy) = true ∧ x.run.eclipse = true))) ∧
  (∀ d : Dev, d.eclipseClear = true ↔ d.run.eclipse = true ∧ d.is Reg.RTE_STATUS.SUSPENDED = false ∧ d.stopDue = false ∧
    40 ≤ d.now - d.run.eclipseSince ∧ ∀ h ∈ d.run.eclipseHolds, d.holdClear h.why = true) ∧
  (∀ s : State, (s.dev.eclipseClear = false → NoEffect .eclipseRelease s) ∧
    (s.dev.eclipseClear = true → ∃ d : Dev,
      d.run = { s.dev.run with eclipse := false, eclipseHolds := [] } ∧ d.get Reg.RTE_STATUS.ECLIPSE = 0 ∧ d.get Reg.MSH_STATUS.REBALANCE = 0 ∧
      d.cores = s.dev.cores ∧ Leaves .eclipseRelease s (if s.dev.run.aborted then d.prologue else d))) ∧
  (∀ s : State, (s.dev.watchdogDue = false → NoEffect .routeWatchdog s) ∧
    (s.dev.watchdogDue = true → Leaves .routeWatchdog s (s.dev.faultAt noOwner 0x0208 s.dev.faultTick))) ∧
  (∀ s : State, s.dev.sbSegment = false → s.dev.watchdogDue = (s.dev.inSegment && s.dev.run.eclipse && !s.dev.is Reg.RTE_STATUS.SUSPENDED &&
    !s.dev.stopDue && decide (s.dev.get Reg.RTE_ECLIPSE_LIMIT.LIMIT_NS < s.dev.now - s.dev.run.eclipseSince - s.dev.run.suspendedNs))) ∧
  (∀ s : State, let due := s.dev.inSegment && !s.dev.run.eclipse && !s.dev.run.frozen &&
      s.dev.run.freezeAt.any (fun t => decide (t ≤ s.dev.run.tick + 1))
    (due = false → NoEffect .freezeBegin s) ∧
    (due = true → Gives .freezeBegin s fun d => d.run = { s.dev.run with frozen := true, freezeAt := none } ∧ d.held = true))

/-- Segment boundaries (R43, R71, R72, R101, R112, R249, R386, R432 to R434). A segment that is over, with the device not held and no stop
under way, leaves: an active Mirror's last interval closes, 33 ticks pass, then what waited for a boundary takes effect. With no stream rewritten, a preemption that waits is
taken, or the successor begins: none after END, the segment itself with the next pass number while repeats are left, else the one
SUCC_IDX names, its passes counted from 0 unless it is the same segment. A segment without a gate begins at tick 0, or waits for an armed
count still to come; one with a gate waits for its Beacon. A released gate lets the boundary go on, and so does an armed count that has
come, which becomes the run's epoch. At a preemption point a preemption that waits is taken. -/
def Obligations.Boundaries : Prop :=
  (∀ s : State,
    (s.dev.inSegment = false ∨ s.dev.held = true ∨ s.dev.segmentOver = false ∨ s.dev.run.stopping ≠ none → NoEffect .segmentBoundary s) ∧
    (s.dev.inSegment = true → s.dev.held = false → s.dev.segmentOver = true → s.dev.run.stopping = none →
      Leaves .segmentBoundary s s.dev.leaveSegment.leaveBoundary) ∧
    (s.dev.sbSegment = false → NoEffect .scoreboardSegmentEnd s) ∧
    (s.dev.sbSegment = true → exec .scoreboardSegmentEnd s = exec .segmentBoundary s)) ∧
  (∀ d : Dev, ∃ e : Dev, e.run.cont = d.mirPassEnd.run.cont + 33 ∧ e.run.phase = .boundary ∧
    e.get Reg.TIM_RUN_TICK.TICK = (d.get Reg.TIM_RUN_TICK.TICK + 33) % 2 ^ 64 ∧
    d.leaveSegment = e.applyUnits.applyComb.applySlots false) ∧
  (∀ d : Dev, d.rt.rewrites = [] → let e := d.applyWatchpost.mirDisarm
    (e.preemptPending = true → d.leaveBoundary = e.takePreemption) ∧ (e.preemptPending = false → d.leaveBoundary = e.successor)) ∧
  (∀ d : Dev, let n := d.get Reg.RTE_STATUS.SEGMENT
    (segSucc d.seg = 2 → d.successor = (d.goIdle.onRun fun r => { r with resume := .none }).event (Reg.RTE_EVENT.DONE d.rt.tenancy) ∧
      d.successor.is (Reg.RTE_EVENT.DONE d.rt.tenancy) = true) ∧
    (segSucc d.seg = 1 → d.run.repeatsLeft ≠ 0 → d.successor = (d.select n (d.run.passNo + 1) (d.run.repeatsLeft - 1)).enterGate) ∧
    (segSucc d.seg ≠ 2 → (segSucc d.seg ≠ 1 ∨ d.run.repeatsLeft = 0) →
      d.successor = (d.select (segSuccIdx d.seg) (if segSuccIdx d.seg = n then d.run.passNo + 1 else 0)
        (segRepeat (d.segEntry (segSuccIdx d.seg)))).enterGate)) ∧
  (∀ d : Dev,
    (segGate d.seg = 0 → d.is Reg.TIM_STATUS.LAUNCH_ARMED = false →
      d.enterGate.run.phase = .segment ∧ d.enterGate.run.tick = 0 ∧ d.enterGate.gate = none) ∧
    (segGate d.seg = 0 → d.is Reg.TIM_STATUS.LAUNCH_ARMED = true → d.now ≤ d.tim.armedAt →
      d.enterGate = (d.put Reg.RTE_STATUS.GATED 0).setPhase .relaunch) ∧
    (segGate d.seg ≠ 0 → ∃ e : Dev, e.run.phase = .gate ∧ e.get Reg.RTE_STATUS.GATED = 1 ∧ e.beacons = d.beacons ∧
      e.gate = some { bcn := segGateBcn d.seg, take := segGate d.seg == 2, target := BitVec.ofNat 32 (segGateTgt d.seg),
                      seg := d.get Reg.RTE_STATUS.SEGMENT, waited := 0 } ∧
      d.enterGate = e.release (segGateBcn d.seg))) ∧
  (∀ s : State, let d := s.dev.wakeUp .gateReady
    (s.dev.gate.any (·.released) = false → NoEffect .gateRelease s) ∧
    (s.dev.gate.any (·.released) = true → Leaves .gateRelease s d.gateRelease) ∧
    (∀ g, d.gate = some g → g.released = true → d.run.phase = .gate → d.run.stopping = none →
      d.gateRelease = ({ d with gate := none } : Dev).afterGate)) ∧
  (∀ s : State, let c := s.dev.tim.armedAt
    (s.dev.run.phase ≠ .relaunch ∨ s.dev.is Reg.TIM_STATUS.LAUNCH_ARMED = false ∨ s.dev.now < c ∨ s.dev.run.stopping ≠ none →
      NoEffect .relaunch s) ∧
    (s.dev.run.phase = .relaunch → s.dev.is Reg.TIM_STATUS.LAUNCH_ARMED = true → c ≤ s.dev.now → s.dev.run.stopping = none →
      Leaves .relaunch s (((s.dev.disarmLaunch.beginRun c).event Reg.TIM_EVENT.LAUNCHED).beginSegment))) ∧
  (∀ s : State,
    (s.dev.preemptPending = false ∨ s.dev.atPreemptPoint = false → NoEffect .preemptionTaken s) ∧
    (s.dev.preemptPending = true → s.dev.atPreemptPoint = true → Leaves .preemptionTaken s s.dev.takePreemption))


/-- The Route commands (R42, R71, R91, R92, R119 to R122, R412, R521). LOAD and START act for the tenancy of the binding that writes them,
or for the one named where the host acts for tenancy 0; both are wake events. LOAD of a range outside the tenancy's memory fails, and so
does one that comes while the device is busy, whose earlier load goes on; one for a tenancy that is not resident asks for a switch; another
begins. A load that completes while a run goes on fails (the model's choice, 119); else its Route comes into force where its checks pass,
and where they do not LOAD_FAIL is set. START has no effect during a run; with the tenancy resident and its Route loaded it is refused
while it may not begin, has no effect where a launch is armed for a run that would begin, begins an arming where the Mirror is asked for,
and else goes on, from the first segment or from where the run was preempted. STOP abandons a load, stops a segment at the next tick and
ends any other run, and also a START that waits (120: the events are the model's choice). PREEMPT asks for the next preemption point.
Others may not stop or preempt. -/
def Obligations.RouteCommands : Prop :=
  (∀ (b t : BitVec 4) (s : State),
    (s.dev.cmdTenancy b.toNat t.toNat = none → NoEffect (.load b t) s ∧ NoEffect (.start b t) s) ∧
    ∀ u, s.dev.cmdTenancy b.toNat t.toNat = some u →
      Leaves (.load b t) s ((s.dev.wakeUp .startOrLoad).loadCmd u (s.dev.get Reg.RTE_LOAD_ADDR.ADDR) (s.dev.get Reg.RTE_LOAD_LEN.LEN)) ∧
      Leaves (.start b t) s ((s.dev.wakeUp .startOrLoad).startCmd u)) ∧
  (∀ (d : Dev) (b t : Nat), (d.acting b = none → d.cmdTenancy b t = none) ∧ (d.acting b = some 0 → d.cmdTenancy b t = some t) ∧
    ∀ u, u ≠ 0 → d.acting b = some u → d.cmdTenancy b t = some u) ∧
  (∀ (d : Dev) (u a n : Nat),
    (a % 4096 ≠ 0 ∨ d.inSpace u a n = false → d.loadCmd u a n = d.loadFail u codeAddress 0 0) ∧
    (a % 4096 = 0 → d.inSpace u a n = true →
      (d.running = true ∨ d.is Reg.RTE_STATUS.SUSPENDED = true ∨ d.load.isSome = true ∨ d.is Reg.PWR_STATE.THERMAL_HOLD = true) →
      (d.loadCmd u a n).load = d.load ∧ (d.loadCmd u a n).is (Reg.RTE_EVENT.LOAD_FAIL u) = true) ∧
    (a % 4096 = 0 → d.inSpace u a n = true → d.running = false → d.is Reg.RTE_STATUS.SUSPENDED = false → d.load = none →
      d.is Reg.PWR_STATE.THERMAL_HOLD = false →
      (d.resident = some u ∨ (kget {} d.tens u).enable = false →
        d.loadCmd u a n = ({ d with load := some { tenancy := u, addr := a, len := n } } : Dev).put Reg.RTE_STATUS.LOADING 1) ∧
      (d.resident ≠ some u → (kget {} d.tens u).enable = true →
        d.loadCmd u a n = ({ d with afterSwitch := d.afterSwitch ++ [(u, AfterSwitch.load a n)] } : Dev).requestSwitch u)) ∧
    (d.loadFail u codeAddress 0 0).load = none ∧ (d.loadFail u codeAddress 0 0).is (Reg.RTE_EVENT.LOAD_FAIL u) = true) ∧
  (∀ s : State, (s.dev.load = none → NoEffect .loadComplete s) ∧
    ∀ l, s.dev.load = some l →
      (s.dev.running = true ∨ s.dev.is Reg.RTE_STATUS.SUSPENDED = true → Leaves .loadComplete s (s.dev.loadFail l.tenancy 0x010B 0 0)) ∧
      (s.dev.running = false → s.dev.is Reg.RTE_STATUS.SUSPENDED = false →
        (∀ f, s.dev.loadCheck (fun off n => s.dev.readMem s.dram (l.addr + off) n) l.len l.tenancy = .inl f →
          Leaves .loadComplete s (s.dev.loadFail l.tenancy f.1 f.2.1 f.2.2)) ∧
        (∀ r, s.dev.loadCheck (fun off n => s.dev.readMem s.dram (l.addr + off) n) l.len l.tenancy = .inr r →
          Leaves .loadComplete s (((({ s.dev with load := none, lastPlace := r.placement } : Dev).installRoute
            { r with measure := BitVec.ofNat 384 (ofLeBytes (sha384 (s.dev.memBytes s.dram l.addr l.len))) }).put Reg.RTE_STATUS.LOADING 0
              |>.event (Reg.RTE_EVENT.LOAD_DONE l.tenancy)).lantern 7 0xFF 0 0 0 (r.placement * 2 ^ 16) none)))) ∧
  (∀ (d : Dev) (u : Nat), (d.running = true → d.startCmd u = d) ∧
    (d.running = false → d.run.startWait = false → d.is Reg.PWR_STATE.THERMAL_HOLD = false → d.resident = some u → d.rt.loaded = true →
      d.rt.tenancy = u → (d.startBarred = true → d.startCmd u = d.event Reg.CRN_EVENT.START_REFUSED) ∧
      (d.startBarred = false → d.run.resume = .none → d.is Reg.TIM_STATUS.LAUNCH_ARMED = true → d.startCmd u = d) ∧
      (d.startBarred = false → (d.run.resume ≠ .none ∨ d.is Reg.TIM_STATUS.LAUNCH_ARMED = false) →
        (d.is Reg.MIR_CTL.ENABLE = true → d.is Reg.MIR_STATUS.ARMED = false → d.startCmd u = d.startMirror) ∧
        (d.is Reg.MIR_CTL.ENABLE = false ∨ d.is Reg.MIR_STATUS.ARMED = true → d.startCmd u = d.startGo)))) ∧
  (∀ d : Dev, let e := d.onRun fun r => { r with startWait := false }
    (d.run.resume = .atTick → d.startGo = e.resumeRun) ∧
    (d.run.resume ≠ .atTick → d.rt.rewrites = [] → d.startGo = e.applyWatchpost.mirDisarm.resumeRun) ∧
    (d.run.resume = .none → d.resumeRun = ((d.beginRun d.now).firstSegment).enterGate)) ∧
  (∀ (b : BitVec 4) (s : State), (s.dev.mayStop b.toNat = false → NoEffect (.stop b) s ∧ NoEffect (.preempt b) s) ∧
    (s.dev.mayStop b.toNat = true →
      (let d := if s.dev.load.isSome then ({ s.dev with load := none } : Dev).put Reg.RTE_STATUS.LOADING 0 else s.dev
       (s.dev.inSegment = true → Leaves (.stop b) s (d.stopAt (s.dev.run.tick + 1) 3 0)) ∧
       (s.dev.inSegment = false → s.dev.running = true → Leaves (.stop b) s (d.halt 3 0)) ∧
       (s.dev.running = false → s.dev.run.startWait = true → Leaves (.stop b) s
         ((d.onRun fun r => { r with startWait := false }).event (Reg.RTE_EVENT.DONE s.dev.rt.tenancy))) ∧
       (s.dev.running = false → s.dev.run.startWait = false → Leaves (.stop b) s d)) ∧
      (s.dev.running = true → Leaves (.preempt b) s (s.dev.onRun fun r => { r with preempt := true })) ∧
      (s.dev.running = false → NoEffect (.preempt b) s)))

/-- Rewritten streams and launches (R10, R91, R92, R430 to R434). A write of a stream word, by a host that may write it, acts at once
outside a run and waits in one; by another, or for a core whose window is shut, it has no effect. TIM_LAUNCH_AT takes a count whole or
in halves: the low half is stored, the high half arms with both. All ones disarms; a count less than 100 microseconds ahead, one with a
convoy and no lock, and one while a Route may not begin are refused, and the earlier arming stands; another arms the launch. LAUNCH, once
the armed count has come outside a run, disarms it, and begins the Route's first segment with the count as its epoch; with no Route loaded
or one that may not begin it is missed, and in a power state deeper than S1 it is missed with LAUNCH_FAULT (0x0702). -/
def Obligations.Launches : Prop :=
  (∀ (b : BitVec 4) (core : BitVec 8) (h : BitVec 6) (stride : Bool) (v : BitVec 64) (s : State),
    let c := core.toNat
    let w := (c, h.toNat, stride, v)
    let d : Dev := { s.dev with rt := { s.dev.rt with rewrites := s.dev.rt.rewrites ++ [w] } }
    (s.dev.acting b.toNat = none ∨ s.dev.windowOn c = false → NoEffect (.streamEntryWrite b core h stride v) s) ∧
    (∀ u, s.dev.acting b.toNat = some u → u ≠ 0 → (s.dev.rt.loaded = false ∨ s.dev.rt.tenancy ≠ u) → NoEffect (.streamEntryWrite b core h stride v) s) ∧
    (∀ u, s.dev.acting b.toNat = some u → (u = 0 ∨ (s.dev.rt.loaded = true ∧ s.dev.rt.tenancy = u)) → s.dev.windowOn c = true →
      (s.dev.shownStream c h.toNat).isSome = true →
      (s.dev.running = true → Leaves (.streamEntryWrite b core h stride v) s d) ∧
      (s.dev.running = false → Leaves (.streamEntryWrite b core h stride v) s (d.rewriteEntry w)))) ∧
  (∀ (d : Dev) (c h : Nat) (v : BitVec 64), (d.rewriteEntry (c, h, false, v)).get (Reg.STREAM_LO.BASE c h) = v.toNat ∧
    (d.rewriteEntry (c, h, true, v)).get (Reg.STREAM_HI.STRIDE c h) = v.toNat % 2 ^ 32) ∧
  (∀ (b : BitVec 4) (part : RegPart) (v : BitVec 64) (s : State),
    (s.dev.acting b.toNat = none → NoEffect (.timLaunchAtWrite b part v) s) ∧
    (∀ u, s.dev.acting b.toNat = some u → (u ≠ 0 → s.dev.resident ≠ some u → NoEffect (.timLaunchAtWrite b part v) s) ∧
      (u = 0 ∨ s.dev.resident = some u → Leaves (.timLaunchAtWrite b part v) s (s.dev.launchAtPart part v.toNat)))) ∧
  (∀ (d : Dev) (v : Nat), d.launchAtPart .whole v = d.launchArm v ∧
    (d.launchAtPart .low (v % 2 ^ 32)).launchAtPart .high (v / 2 ^ 32 % 2 ^ 32) =
      (d.launchAtPart .low (v % 2 ^ 32)).launchArm (v % 2 ^ 64) ∧
    (d.launchAtPart .low v).get Reg.TIM_LAUNCH_AT.COUNT = d.get Reg.TIM_LAUNCH_AT.COUNT % 2 ^ 64 / 2 ^ 32 * 2 ^ 32 + v % 2 ^ 32 ∧
    (d.launchAtPart .low v).tim = d.tim) ∧
  (∀ (d : Dev) (c : Nat), c < 2 ^ 64 →
    let bad := c < d.now + 100000 ∨ (d.anyConvoy = true ∧ d.is Reg.TIM_STATUS.LOCKED = false) ∨ d.startBarred = true
    (c = 2 ^ 64 - 1 → (d.launchArm c).is Reg.TIM_STATUS.LAUNCH_ARMED = false ∧ (d.launchArm c).get Reg.TIM_LAUNCH_AT.COUNT = 2 ^ 64 - 1) ∧
    (c ≠ 2 ^ 64 - 1 → bad → d.launchArm c = (d.put Reg.TIM_LAUNCH_AT.COUNT d.tim.armedAt).event Reg.TIM_EVENT.LAUNCH_REFUSED) ∧
    (c ≠ 2 ^ 64 - 1 → ¬ bad → (d.launchArm c).is Reg.TIM_STATUS.LAUNCH_ARMED = true ∧ (d.launchArm c).get Reg.TIM_LAUNCH_AT.COUNT = c ∧
      (d.launchArm c).tim.armedAt = c)) ∧
  (∀ s : State, let c := s.dev.tim.armedAt
    let d := s.dev.disarmLaunch
    (s.dev.running = true ∨ s.dev.is Reg.TIM_STATUS.LAUNCH_ARMED = false ∨ s.dev.now < c → NoEffect .launch s) ∧
    (s.dev.running = false → s.dev.is Reg.TIM_STATUS.LAUNCH_ARMED = true → c ≤ s.dev.now →
      (s.dev.rt.loaded = false → Leaves .launch s (d.event Reg.TIM_EVENT.LAUNCH_MISSED)) ∧
      (s.dev.rt.loaded = true → s.dev.startBarred = true → Leaves .launch s (d.event Reg.TIM_EVENT.LAUNCH_MISSED)) ∧
      (s.dev.rt.loaded = true → s.dev.startBarred = false → 1 < s.dev.get Reg.PWR_STATE.STATE →
        Leaves .launch s ((d.event Reg.TIM_EVENT.LAUNCH_MISSED).endAtBoundary 0x0702 0 0)) ∧
      (s.dev.rt.loaded = true → s.dev.startBarred = false → s.dev.get Reg.PWR_STATE.STATE ≤ 1 → s.dev.rt.rewrites = [] →
        Leaves .launch s (((d.applyWatchpost.mirDisarm.beginRun c).event Reg.TIM_EVENT.LAUNCHED).firstSegment.beginSegment))))

/-- Mirror frames and intervals (R370 to R376, R453 to R456, R462). The frames of a peer are taken only while Waymark is enabled; one that
is not intact is counted; each other is acknowledged, and a re-send of one that has come does nothing more. To an active Mirror a digest
or folds join the peer's intervals and are compared, and a stop frame stops a run with MIRROR_DIVERGED (0x020C); to a secondary with no
transfer waiting the primary's bytes are kept for their occurrence; to a Mirror that is not active the four do nothing more. An arm frame
settles an arming in progress, and a START that waits goes on; else it is kept for the own START. Arming fails with the first reason that
holds; else the Mirror is armed and active. After 10 ms without the peer it fails with reason 9, and a START that waits goes on. An
interval that ends, with none of the peer's waiting, joins the own intervals with its folds and digest, UNMATCHED counts it, its events
leave, and the interval's number goes up. -/
def Obligations.MirrorExchange : Prop :=
  (∀ (f : Frame) (pass interval : BitVec 64) (digest : BitVec 384) (folds : List (BitVec 64)) (tag : BitVec 24) (lin : BitVec 64)
      (bytes : List Byte) (m : BitVec 384) (dsig : BitVec 64) (latid : BitVec 16) (pl role : BitVec 8) (cm : BitVec 256) (s : State),
    let d := s.dev; let n := f.num.toNat
    let frames : List Instr := [.mirrorDigest f pass interval digest, .mirrorFolds f pass interval folds, .mirrorVariance f tag lin bytes,
      .mirrorStop f pass interval, .mirrorArm f m dsig latid pl role cm]
    let answered : Dev := ({ d with heard := kset 0 d.heard f.src.toNat d.now } : Dev).mirAckOut n
    let e : Dev := { answered with mir := { answered.mir with got := answered.mir.got ++ [n] } }
    let a : ArmInfo := { measure := m, dsig := dsig.toNat, latid := latid.toNat, placement := pl.toNat, role := role.toNat, coreMap := cm }
    let x (g : BitVec 384) (f : List (BitVec 64)) : MirDigest := { pass := pass.toNat, interval := interval.toNat, digest := g, folds := f }
    let joins (y : MirDigest) : Dev := ({ e with mir := { e.mir with peer := e.mir.peer ++ [y] } } : Dev).mirCompare
    (d.is Reg.WMK_CTL.WAYMARK_EN = false → ∀ c ∈ frames, NoEffect c s) ∧
    (d.is Reg.WMK_CTL.WAYMARK_EN = true → f.intact = false →
      ∀ c ∈ frames, Leaves c s (d.count (Reg.WMK_P_CRC_ERR.COUNT f.port.toNat) 1)) ∧
    (d.is Reg.WMK_CTL.WAYMARK_EN = true → f.intact = true → f.resend = true → n ∈ d.mir.got → ∀ c ∈ frames, Leaves c s answered) ∧
    (d.is Reg.WMK_CTL.WAYMARK_EN = true → f.intact = true → f.resend = false ∨ n ∉ d.mir.got →
      (d.is Reg.MIR_STATUS.ACTIVE = true →
        Leaves (.mirrorDigest f pass interval digest) s (joins (x digest [])) ∧
        Leaves (.mirrorFolds f pass interval folds) s (joins (x (mirDigest folds pass.toNat interval.toNat) folds)) ∧
        (d.mir.secondary = true → d.run.xfers = [] → Leaves (.mirrorVariance f tag lin bytes) s
          { e with mir := { e.mir with variance := e.mir.variance ++ [(tag.toNat, lin.toNat, bytes)] } }) ∧
        (d.running = true → Leaves (.mirrorStop f pass interval) s (e.faultAt noOwner 0x020C e.faultTick))) ∧
      (d.is Reg.MIR_STATUS.ACTIVE = false → Leaves (.mirrorDigest f pass interval digest) s e ∧ Leaves (.mirrorFolds f pass interval folds) s e ∧
        Leaves (.mirrorVariance f tag lin bytes) s e ∧ Leaves (.mirrorStop f pass interval) s e) ∧
      (d.mir.arming = none → Leaves (.mirrorArm f m dsig latid pl role cm) s { e with mir := { e.mir with peerArm := some a } }) ∧
      (d.mir.arming.isSome = true → 
        Leaves (.mirrorArm f m dsig latid pl role cm) s (if d.run.startWait then (e.armSettle a).startGo else e.armSettle a)))) ∧
  (∀ (d : Dev) (a : ArmInfo), let e := d.armSettle a
    (∀ r, (d.put Reg.MIR_STATUS.PEER_UP 1).armReason a = some r → r < 16 → e.get Reg.MIR_STATUS.ARM_FAIL_WHY = r ∧ e.is Reg.MIR_EVENT.ARM_FAIL = true ∧
      e.mir.arming = none) ∧
    ((d.put Reg.MIR_STATUS.PEER_UP 1).armReason a = none → e.is Reg.MIR_STATUS.ARMED = true ∧ e.is Reg.MIR_STATUS.ACTIVE = true ∧ e.mir.arming = none ∧
      e.mir.own = [] ∧ e.mir.peer = [])) ∧
  (∀ s : State, (s.dev.armLate = false → NoEffect .mirrorArmTimeout s) ∧
    (s.dev.armLate = true → ∃ d : Dev,
      d.get Reg.MIR_STATUS.ARM_FAIL_WHY = 9 ∧ d.get Reg.MIR_STATUS.PEER_UP = 0 ∧ d.is Reg.MIR_EVENT.ARM_FAIL = true ∧ d.mir.arming = none ∧
      Leaves .mirrorArmTimeout s (if s.dev.run.startWait then d.startGo else d))) ∧
  (∀ s : State, (s.dev.intervalDue = false → NoEffect .mirrorIntervalEnd s) ∧
    (s.dev.intervalDue = true → s.dev.mir.peer = [] →
      let n := s.dev.mir.interval
      let mine (e : Seen) : Bool := s.dev.intervalOf e.tick == n
      let f := mirFolds (s.dev.seen.filter mine)
      Gives .mirrorIntervalEnd s fun d =>
        d.mir.own = s.dev.mir.own ++ [{ pass := s.dev.mir.pass, interval := n, digest := mirDigest f s.dev.mir.pass n, folds := f }] ∧
        d.mir.interval = n + 1 ∧ d.seen = s.dev.seen.filter (fun e => !mine e) ∧
        d.get Reg.MIR_STATUS.UNMATCHED = min 64 (s.dev.mir.own.length + 1)))


/-- Cores that retire, are tested and return (R124 to R127). The commands are those of the host of binding 0, and the last of them names the
core that RTE_CORE_STAT shows; a core the fuses do not hold present, or one in the wrong state, is refused. RETIRE takes a core out of
service, at once where no segment runs, else at the boundary; TEST of a retired core that is not placed begins its test; a test that ends
leaves every row of the core zero, and the core passed where each failing row found a spare and the results were equal; RETURN of a core
that passed brings it back, at the next boundary while a segment runs. -/
def Obligations.CoreLife : Prop :=
  (∀ (b : BitVec 4) (core : BitVec 8) (s : State), let c := core.toNat
    let named := s.dev.put Reg.RTE_CORE_STAT.CORE c
    let refused := named.setBit Reg.RTE_CORE_STAT.REFUSED
    (s.dev.acting b.toNat ≠ some 0 ∨ b ≠ 0 →
      NoEffect (.coreRetire b core) s ∧ NoEffect (.coreTest b core) s ∧ NoEffect (.coreReturn b core) s) ∧
    (s.dev.acting b.toNat = some 0 → b = 0 →
      (s.dev.coreFused c = false →
        Leaves (.coreRetire b core) s refused ∧ Leaves (.coreTest b core) s refused ∧ Leaves (.coreReturn b core) s refused) ∧
      (s.dev.coreFused c = true →
        ((s.dev.core c).life ≠ 0 → Leaves (.coreRetire b core) s refused) ∧
        ((s.dev.core c).life = 0 → Gives (.coreRetire b core) s fun d =>
          d.core c = { s.dev.core c with life := if s.dev.running then 1 else 2, returning := false } ∧
          d.get (Reg.CORE_STATUS.PRESENT c) = 0 ∧ d.flashCores = s.dev.flashCores ++ [c] ∧ (∀ e, e ≠ c → d.core e = s.dev.core e)) ∧
        ((s.dev.core c).life < 2 ∨ s.dev.is Reg.RTE_CORE_STAT.BUSY = true ∨ s.dev.is (Reg.CORE_STATUS.PLACED c) = true →
          Leaves (.coreTest b core) s refused) ∧
        (2 ≤ (s.dev.core c).life → s.dev.is Reg.RTE_CORE_STAT.BUSY = false → s.dev.is (Reg.CORE_STATUS.PLACED c) = false →
          Leaves (.coreTest b core) s ((named.onCore c fun k => { k with life := 3, returning := false }).put Reg.RTE_CORE_STAT.BUSY 1)) ∧
        ((s.dev.core c).life = 4 → let d := named.onCore c fun k => { k with returning := true }
          Leaves (.coreReturn b core) s (if s.dev.running then d else d.applyUnits)) ∧
        ((s.dev.core c).life ≠ 4 → Leaves (.coreReturn b core) s refused)))) ∧
  (∀ (failed : List (BitVec 13)) (equal : Bool) (s : State),
    ((s.dev.cores.find? fun x => x.2.life == 3) = none → NoEffect (.coreTestDone ⟨failed, equal⟩) s) ∧
    ∀ c k, (s.dev.cores.find? fun x => x.2.life == 3) = some (c, k) → Gives (.coreTestDone ⟨failed, equal⟩) s fun d =>
      (failed = [] → (d.core c).life = if equal then 4 else 5) ∧ (equal = false → (d.core c).life = 5) ∧
      (∀ bank row, (d.core c).row bank row = 0#4096) ∧ (d.core c).test = none ∧
      d.get Reg.RTE_CORE_STAT.BUSY = 0 ∧ d.get Reg.RTE_CORE_STAT.DONE = 1 ∧ ∀ e, e ≠ c → d.core e = s.dev.core e) ∧
  (∀ (c key : Nat) (d : Dev), key % 1024 < 576 →
    ((d.core c).freeSpare (key / 1024) = none → d.testFailed c key = (false, d)) ∧
    ∀ x, (d.core c).freeSpare (key / 1024) = some x →
      d.testFailed c key = (true, (d.onCore c (CoreSt.remapTo key x)).flashRemap c key x) ∧
      ((d.core c).remapTo key x).cells (key / 1024) (key % 1024) = rowKey (key / 1024) (576 + x))

/-- The scratch test engine (R239 to R244). A core whose test is due begins its next row: the one that waits, or the next of the walk. A
step whose port is left to it is taken; with the port taken it waits and nothing changes; a failing row without a free spare retires its
core. Through every step of a row's test the row reads as before, whatever the engine's read meets. -/
def Obligations.ScratchTests : Prop :=
  (∀ (core : BitVec 8) (s : State), let c := core.toNat
    (s.dev.testDue c = false → NoEffect (.scratchTestStart core) s) ∧
    (s.dev.testDue c = true → (∀ r rest, (s.dev.core c).testQueue = r :: rest → Leaves (.scratchTestStart core) s (s.dev.onCore c fun k =>
        { k with testQueue := rest, test := some { bank := r / 1024, row := r % 1024, step := 1, ok := true, notBefore := 0 } })) ∧
      ((s.dev.core c).testQueue = [] → let n := (s.dev.core c).nextRow 4672 (s.dev.core c).testNext
        Leaves (.scratchTestStart core) s (s.dev.onCore c fun k =>
        { k with testNext := n.2, testDue := k.testDue + 16777216,
                 test := some { bank := n.1 / 584, row := n.1 % 584, step := if n.1 % 584 < 576 then 1 else 2, ok := true, notBefore := 0 } })))) ∧
  (∀ (core : BitVec 8) (err : CellErr) (same : Bool) (s : State), let c := core.toNat
    ((s.dev.core c).test = none → NoEffect (.scratchTestStep core err same) s) ∧
    ∀ t, (s.dev.core c).test = some t →
      (7 ≤ t.step ∨ s.dev.run.cont < t.notBefore ∨ 1 < s.dev.get Reg.PWR_STATE.STATE → NoEffect (.scratchTestStep core err same) s) ∧
      (t.step < 7 → t.notBefore ≤ s.dev.run.cont → s.dev.get Reg.PWR_STATE.STATE ≤ 1 →
        ((s.dev.core c).outOfSpares = true → Leaves (.scratchTestStep core err same) s (s.dev.retireCore c)) ∧
        ((s.dev.core c).outOfSpares = false → let write := decide (t.step % 2 = 0)
          (s.dev.portFree c t.bank write [4, 0] = false → NoEffect (.scratchTestStep core err same) s) ∧
          (s.dev.portFree c t.bank write [4, 0] = true →
            Leaves (.scratchTestStep core err same) s
              ((s.dev.takePort c t.bank write).onCore c (CoreSt.testStep t err same s.dev.run.cont)))))) ∧
  (∀ (k : CoreSt) (t : RowTest) (err : CellErr) (same : Bool) (now : Nat), k.test = some t → t.row < 576 → 1 ≤ t.step → t.step ≤ 6 →
    (k.testStep t err same now).row t.bank t.row = k.row t.bank t.row) ∧
  (∀ (k : CoreSt) (t : RowTest) (same : Bool) (now : Nat), t.step = 1 →
    (k.emptyRow = [] → (k.testStep t .uncorrectable same now).test = none ∧
      kget false (k.testStep t .uncorrectable same now).bad (rowKey t.bank t.row) = true) ∧
    (k.bad = [] → (k.testStep t .none same now).saveReg = kget 0#4096 k.scratch (k.testCells t)))

/-- The host debug window and the non-scheduled accesses (R225 to R229). A request by the host of binding 0, with its debug feature enabled,
waits for its port; one for a row that is not there completes at once, a read of it with zeros. An access that gets its port moves the row
into the staging buffer, or the staging buffer into the row, and DONE sets; a read that meets an uncorrectable word sets ERROR; one that
does not get its port waits, and nothing changes. With nothing waiting NON_SCHEDULED_ACCESS has no effect. -/
def Obligations.HostWindow : Prop :=
  (∀ (b : BitVec 4) (s : State), let ix := s.dev.get Reg.DBG_HDW_ADDR.ROW
    (s.dev.acting b.toNat ≠ some 0 ∨ b ≠ 0 ∨ bitOf (s.dev.get Reg.SEC_STATUS.FEATURES) 2 = false ∨ s.dev.is Reg.DBG_HDW_STATUS.BUSY = true →
      NoEffect (.hdwRead b) s ∧ NoEffect (.hdwWrite b) s) ∧
    (s.dev.acting b.toNat = some 0 → b = 0 → bitOf (s.dev.get Reg.SEC_STATUS.FEATURES) 2 = true → s.dev.is Reg.DBG_HDW_STATUS.BUSY = false →
      (s.dev.rowThere ix = true →
        Leaves (.hdwRead b) s (({ s.dev with hdw := some (false, ix) } : Dev).put Reg.DBG_HDW_STATUS.BUSY 1) ∧
        Leaves (.hdwWrite b) s (({ s.dev with hdw := some (true, ix) } : Dev).put Reg.DBG_HDW_STATUS.BUSY 1)) ∧
      (s.dev.rowThere ix = false → Leaves (.hdwWrite b) s (s.dev.setBit Reg.DBG_HDW_STATUS.DONE) ∧
        Leaves (.hdwRead b) s ((s.dev.putStaging 0#4096).setBit Reg.DBG_HDW_STATUS.DONE)))) ∧
  (∀ (core : BitVec 8) (bank : BitVec 3) (write : Bool) (err : CellErr) (s : State), let c := core.toNat
    (s.dev.hdw = none → s.dev.phRow = none → NoEffect (.nonScheduledAccess core bank write err) s) ∧
    (∀ ix, s.dev.hdw = some (write, ix) → s.dev.phRow = none → ix / 1024 = c * 8 + bank.toNat →
      (s.dev.portFree c bank.toNat write [2, 0] = true →
        Leaves (.nonScheduledAccess core bank write err) s ((s.dev.takePort c bank.toNat write).serveHdw write ix err)) ∧
      (s.dev.portFree c bank.toNat write [2, 0] = false → NoEffect (.nonScheduledAccess core bank write err) s)) ∧
    (∀ ix, s.dev.hdw = none → s.dev.phRow = some ix → ix / 1024 = c * 8 + bank.toNat →
      (s.dev.portFree c bank.toNat false [3, 0] = true →
        Leaves (.nonScheduledAccess core bank false err) s ((s.dev.takePort c bank.toNat false).servePhimon ix err)) ∧
      (s.dev.portFree c bank.toNat false [3, 0] = false → NoEffect (.nonScheduledAccess core bank false err) s))) ∧
  (∀ (d : Dev) (ix : Nat) (err : CellErr) (write : Bool), let e := d.serveHdw write ix err
    e.hdw = none ∧ e.get Reg.DBG_HDW_STATUS.BUSY = 0 ∧ e.get Reg.DBG_HDW_STATUS.DONE = 1 ∧ (∀ c, c ≠ ix / 8192 → e.core c = d.core c) ∧
    (write = true → (e.core (ix / 8192)).row (ix / 1024 % 8) (ix % 1024) = d.staging) ∧
    (write = false → let k := (d.core (ix / 8192)).meetErr (ix % 8192) err
      (kget false k.bad (ix % 8192) = false → e.staging = (d.core (ix / 8192)).row (ix / 1024 % 8) (ix % 1024)) ∧
      (kget false k.bad (ix % 8192) = true → kget false k.emptyRow (ix % 8192) = false → e.get Reg.DBG_HDW_STATUS.ERROR = 1)))

/-- The interleave map and the channels (R282, R285, R313 to R316). The commands are those of the hosts that act for tenancy 0. IMAP_APPLY
brings the written entries into force and discards the Route, unless a run, a load, a step or a digest is in progress or the entries break
R282. A channel the fuses do not hold present is refused. RETIRE retires it; TEST of a retired channel begins its test, which ends with
every byte of it zero and every other byte as it was; REJOIN of a channel that passed brings it back, at the next boundary while a segment
runs. A lost channel is recorded, reported and retired, and a running segment stops; the address that the record shows is a free value. -/
def Obligations.MemoryChannels : Prop :=
  (∀ (b : BitVec 4) (s : State), let es := (List.range 32).filterMap s.dev.imapWritten
    (s.dev.acting b.toNat ≠ some 0 → NoEffect (.imapApply b) s) ∧
    (s.dev.acting b.toNat = some 0 →
      (s.dev.running = true ∨ s.dev.load.isSome = true ∨ s.dev.crn.step.isSome = true ∨ s.dev.digestJob.isSome = true ∨
        es.all Imap.ok = false ∨ imapsApart es = false → Leaves (.imapApply b) s (s.dev.event Reg.MEM_EVENT.CMD_REFUSED)) ∧
      (s.dev.running = false → s.dev.load = none → s.dev.crn.step = none → s.dev.digestJob = none → es.all Imap.ok = true →
        imapsApart es = true → Leaves (.imapApply b) s
          ({ s.dev with imap := es, rt := {}, credits := [], run := { s.dev.run with resume := .none } } : Dev).showRoute))) ∧
  (∀ e : Imap, e.ok = true ↔ e.first % e.count = 0 ∧ e.first + e.count ≤ 96 ∧ e.size % (16 * e.count) = 0 ∧
    e.chOff + e.size / (16 * e.count) ≤ 189) ∧
  (∀ (b : BitVec 4) (ch : BitVec 7) (s : State), let c := ch.toNat
    let refuses (x : Instr) : Prop := Leaves x s (s.dev.event Reg.MEM_EVENT.CMD_REFUSED)
    (s.dev.acting b.toNat ≠ some 0 → NoEffect (.channelRetire b ch) s ∧ NoEffect (.channelTest b ch) s ∧ NoEffect (.rejoin b ch) s) ∧
    (s.dev.acting b.toNat = some 0 →
      (s.dev.chFused c = false → refuses (.channelRetire b ch) ∧ refuses (.channelTest b ch) ∧ refuses (.rejoin b ch)) ∧
      (s.dev.chFused c = true →
        Leaves (.channelRetire b ch) s (s.dev.retireChannel c) ∧
        (s.dev.get (Reg.MEM_CH_STAT.STATE c) = 0 ∨ s.dev.chRetire.contains c = true → refuses (.channelTest b ch)) ∧
        (s.dev.get (Reg.MEM_CH_STAT.STATE c) ≠ 0 → s.dev.chRetire.contains c = false → Leaves (.channelTest b ch) s
          (({ s.dev with chRejoin := s.dev.chRejoin.filter (· ≠ c) } : Dev).put (Reg.MEM_CH_STAT.STATE c) 2).updTestBusy) ∧
        (s.dev.get (Reg.MEM_CH_STAT.STATE c) ≠ 3 → refuses (.rejoin b ch)) ∧
        (s.dev.get (Reg.MEM_CH_STAT.STATE c) = 3 → s.dev.running = true → Leaves (.rejoin b ch) s
          (({ s.dev with chRejoin := s.dev.chRejoin.filter (· ≠ c) ++ [c] } : Dev).put Reg.MEM_STATUS.REJOIN_PENDING 1)) ∧
        (s.dev.get (Reg.MEM_CH_STAT.STATE c) = 3 → s.dev.running = false → Leaves (.rejoin b ch) s
          ({ s.dev with chRejoin := s.dev.chRejoin.filter (· ≠ c) ++ [c] } : Dev).applyUnits)))) ∧
  (∀ (ch : Nat) (d : Dev), d.chMapped ch = true → let e := d.retireChannel ch
    e.get (Reg.MEM_CH_STAT.STATE ch) = 1 ∧ e.is Reg.MEM_EVENT.RETIRED = true ∧ e.flashChans = d.flashChans ++ [ch] ∧
    e.chRetire = (if d.running then d.chRetire ++ [ch] else d.chRetire)) ∧
  (∀ (ch : BitVec 7) (pass : Bool) (s : State), let c := ch.toNat
    (s.dev.get (Reg.MEM_CH_STAT.STATE c) ≠ 2 → NoEffect (.channelTestDone ch pass) s) ∧
    (s.dev.get (Reg.MEM_CH_STAT.STATE c) = 2 → ∃ m d, Stores (.channelTestDone ch pass) s m d ∧
      (∀ o, o < 2 ^ 33 → physAddr o < 2 ^ 33 → Memory.read m (dramKey c o) = 0#8) ∧
      (∀ k, k / 2 ^ 33 ≠ c → Memory.read m k = Memory.read s.dram k) ∧
      (∀ k, k * 256 / 2 ^ 33 = c → kget false d.badBlk k = false) ∧
      d.get (Reg.MEM_CH_STAT.STATE c) = (if pass then 3 else 4) ∧
      d.is (if pass then Reg.MEM_EVENT.TEST_DONE else Reg.MEM_EVENT.TEST_FAIL) = true)) ∧
  (∀ (ch : BitVec 7) (s : State), let c := ch.toNat
    (s.dev.chServes c = false → NoEffect (.channelLost ch) s) ∧
    (s.dev.chServes c = true → let d := (({ s.dev with fresh := s.dev.fresh + 1 } : Dev).memRecord 3 c
        (Config.freeNat s.dev.fresh % 2 ^ 32 * 256) 0 false).event Reg.MEM_EVENT.CH_LOST
      Leaves (.channelLost ch) s
        ((if s.dev.running then d.raiseArrival noOwner 0x0402 else d.blockFault noOwner 0x0402 (!s.dev.memHeld)).retireChannel c)))

/-- Checks, refresh, digests and the step-open copy (R291, R296 to R298, R309, R311, R312, R468, R556). A digest reads every block of its
range: one that fails its check ends it in an error, else it leaves the digest; a failed block read counts its re-reads; refreshes go round
the 16 banks of a channel, and at a multiplier above x1 unplanned ones wait for a free slot, the ones past their deadline forced; a package
that gives no reading twice in a row counts as beyond the range; the copy engine copies the blocks of the step's regions in its order. -/
def Obligations.MemoryChecks : Prop :=
  (∀ (b : BitVec 4) (s : State), let a := s.dev.get Reg.MEM_DIGEST_ADDR.VALUE
    let n := s.dev.get Reg.MEM_DIGEST_LEN.VALUE
    (s.dev.acting b.toNat ≠ some 0 → NoEffect (.digest b) s) ∧
    (s.dev.acting b.toNat = some 0 →
      (s.dev.digestJob.isSome = true ∨ a % 2 ^ 21 ≠ 0 ∨ n % 2 ^ 21 ≠ 0 ∨ s.dev.allServed a n = false →
        Leaves (.digest b) s (s.dev.event Reg.MEM_EVENT.CMD_REFUSED)) ∧
      (s.dev.digestJob = none → a % 2 ^ 21 = 0 → n % 2 ^ 21 = 0 → s.dev.allServed a n = true →
        Leaves (.digest b) s (({ s.dev with digestJob := some (a, n), digestAt := 0 } : Dev).put Reg.MEM_STATUS.DIGEST_BUSY 1)))) ∧
  (∀ (failed : Bool) (s : State),
    (s.dev.digestJob = none → NoEffect (.digestDone failed) s) ∧
    ∀ a n, s.dev.digestJob = some (a, n) →
      (failed = true → Leaves (.digestDone failed) s s.dev.digestFail) ∧
      (failed = false → s.dev.anyBad s.dram a n = true → Leaves (.digestDone failed) s
        (s.dev.meetBad (((List.range (n / 256)).map fun i => a + 256 * i).find? (s.dev.isBad s.dram)) .digestEngine)) ∧
      (failed = false → s.dev.anyBad s.dram a n = false → Gives (.digestDone failed) s fun d => d.digestJob = none ∧
        d.get Reg.MEM_STATUS.DIGEST_BUSY = 0 ∧ d.get Reg.MEM_DIGEST_STAT.ERROR = 0 ∧ d.get Reg.MEM_DIGEST_STAT.VALID = 1 ∧
        d.is Reg.MEM_EVENT.DIGEST_DONE = true ∧ ∀ k, k < 6 →
          d.get (Reg.MEM_DIGEST_OUT.BYTES k) = ofLeBytes (((s.dev.rangeDigest s.dram a n).drop (8 * k)).take 8) % 2 ^ 64)) ∧
  (∀ d : Dev, d.digestJob.isSome = true → d.digestFail.digestJob = none ∧ d.digestFail.get Reg.MEM_STATUS.DIGEST_BUSY = 0 ∧
    d.digestFail.get Reg.MEM_DIGEST_STAT.ERROR = 1 ∧ d.digestFail.get Reg.MEM_DIGEST_STAT.VALID = 0 ∧
    d.digestFail.is Reg.MEM_EVENT.DIGEST_FAIL = true) ∧
  (∀ (ch : BitVec 7) (off : BitVec 33) (chk : Bool) (n : BitVec 2) (by_ : BlockReader) (s : State), let c := ch.toNat
    (s.dev.addrOf c off.toNat = none ∨ s.dev.chServes c = false → ∀ p, NoEffect (.blockCheckFail ch off chk n p by_) s) ∧
    (∀ a, s.dev.addrOf c off.toNat = some a → s.dev.chServes c = true → Leaves (.blockCheckFail ch off chk n false by_) s
      ((((s.dev.count (Reg.MEM_CH_STAT.RESENDS c) n.toNat).count Reg.MEM_RESENDS.COUNT n.toNat).tally fun h =>
        { h with rereads := h.rereads + n.toNat }).rereadRecords c (a / 256 * 256) n.toNat))) ∧
  (∀ (ch : BitVec 7) (s : State), let c := ch.toNat
    let r := kget {} s.dev.refresh c
    (96 ≤ c → NoEffect (.plannedRefresh ch) s) ∧
    (c < 96 → Gives (.plannedRefresh ch) s fun d => d = { s.dev with refresh := d.refresh } ∧
      (kget {} d.refresh c).count = r.count + 1 ∧ (∀ e, e ≠ c → kget {} d.refresh e = kget {} s.dev.refresh e) ∧
      (bitsOf (s.dev.get Reg.MEM_DERATE.MULT) (2 * (c / 8)) 2 = 0 → (kget {} d.refresh c).waiting.length ≤ r.waiting.length) ∧
      (∀ k : Nat, 0 < k → k ≤ 3 → bitsOf (s.dev.get Reg.MEM_DERATE.MULT) (2 * (c / 8)) 2 = k → r.waiting = [] →
        (kget {} d.refresh c).waiting = List.replicate (if k = 1 then 1 else 3) (r.count % 16, r.count / 16)))) ∧
  (∀ (ch : BitVec 7) (bank : BitVec 4) (s : State), let r := kget {} s.dev.refresh ch.toNat
    (r.atDeadline bank.toNat = none → NoEffect (.forcedRefresh ch bank) s) ∧
    (∀ w, r.atDeadline bank.toNat = some w → Gives (.forcedRefresh ch bank) s fun d =>
      kget {} d.refresh ch.toNat = { r with waiting := eraseFirst w r.waiting } ∧
      d.get Reg.MEM_UNPLANNED.COUNT = min (s.dev.get Reg.MEM_UNPLANNED.COUNT + 1) (2 ^ 32 - 1) ∧
      d.rest = { s.dev.rest with refresh := d.refresh } ∧ RegsKept d s.dev [Reg.MEM_UNPLANNED.COUNT, Reg.DBG_LTN_LOST.COUNT])) ∧
  (∀ (pkg : BitVec 4) (s : State), let p := pkg.toNat
    (11 < p → ∀ r, NoEffect (.mr4Poll pkg r) s) ∧
    (p ≤ 11 → (∀ v, Leaves (.mr4Poll pkg (some v)) s
        (({ s.dev with mr4Missed := kset 0 s.dev.mr4Missed p 0 } : Dev).setMult p v.toNat)) ∧
      (kget 0 s.dev.mr4Missed p = 0 → Leaves (.mr4Poll pkg none) s { s.dev with mr4Missed := kset 0 s.dev.mr4Missed p 1 }) ∧
      (1 ≤ kget 0 s.dev.mr4Missed p → Leaves (.mr4Poll pkg none) s
        (({ s.dev with mr4Missed := kset 0 s.dev.mr4Missed p (kget 0 s.dev.mr4Missed p + 1) } : Dev).setMult p 3)))) ∧
  (∀ s : State,
    (s.dev.crn.step = none ∨ s.dev.is Reg.CRN_STATUS.COPYING = false → NoEffect .stepCopyDone s) ∧
    (∀ x, s.dev.crn.step = some x → s.dev.is Reg.CRN_STATUS.COPYING = true → x.done = none → let n := 8192 * x.addrs.length
      s.dev.copyFails s.dram x n = none → ∃ m d, Stores .stepCopyDone s m d ∧
        m = (List.range (n - x.copied)).foldl (fun m j =>
          s.dev.copyMem m (x.blockAt (x.copied + j)) (s.dev.slotBlock x (x.copied + j)) 256) s.dram ∧
        d.crn.step = some { x with copied := max x.copied n, complete := true } ∧
        d.get Reg.CRN_STATUS.COPYING = 0 ∧ d.get Reg.MEM_STATUS.COPY_BUSY = 0)) ∧
  (∀ (addr : BitVec 40) (s : State), let a := addr.toNat
    (s.dev.writeHeld a = false ∨ s.dev.is Reg.CRN_STATUS.COPYING = false → NoEffect (.heldWriteRelease addr) s) ∧
    (∀ x, s.dev.crn.step = some x → s.dev.is Reg.CRN_STATUS.COPYING = true → s.dev.writeHeld a = true →
      let n := x.blockOf a + 1
      s.dev.copyFails s.dram x n = none → ∃ m d, Stores (.heldWriteRelease addr) s m d ∧
        m = (List.range (n - x.copied)).foldl (fun m j =>
          s.dev.copyMem m (x.blockAt (x.copied + j)) (s.dev.slotBlock x (x.copied + j)) 256) s.dram ∧
        d.crn.step = some { x with copied := max x.copied n } ∧ d.writeHeld a = false))


/-- Stretches of the tick clocks (R323 to R326, R596). A margin code below WARN, in S0 or S1, warns its island; code 0 is CLK_MARGIN_LOST,
whatever WARN is: a running segment stops, the tick clocks run at P4 and a pending change is cancelled. A warned island that takes its own stretch
is no longer warned, and the stretch is counted and noted for its window and
for the risk score. A shadow stretch, in which every island stretches that did not in
the window, is counted once, when due; an island's pass of HIGH_PCT is reported once, when due. -/
def Obligations.Stretches : Prop :=
  (∀ (i : BitVec 5) (m : BitVec 6) (s : State), let n := i.toNat
    let d : Dev := { s.dev with pwr := { s.dev.pwr with warned := kset false s.dev.pwr.warned n true } }
    let warn := s.dev.get Reg.CLK_STRETCH_CTL.WARN
    (20 < n ∨ 2 ≤ s.dev.get Reg.PWR_STATE.STATE → NoEffect (.ownStretch i m) s ∧ NoEffect (.clkMarginLost i) s) ∧
    (n ≤ 20 → s.dev.get Reg.PWR_STATE.STATE < 2 →
      (m ≠ 0#6 → warn ≤ m.toNat → NoEffect (.ownStretch i m) s) ∧ (m ≠ 0#6 → m.toNat < warn → Leaves (.ownStretch i m) s d) ∧
      (let e := (if 0 < warn then d else s.dev).marginLost
       (m = 0#6 → Leaves (.ownStretch i m) s e) ∧ Leaves (.clkMarginLost i) s e))) ∧
  (∀ d : Dev, let e := d.marginLost
    (d.running = true → e.run = (d.faultAt noOwner 0x0A03 d.faultTick).run) ∧ (d.running = false → e.run = d.run) ∧
    e.get Reg.CLK_OPP.CURRENT = 4 ∧ e.get Reg.CLK_OPP.PENDING = 0 ∧ e.get Reg.CLK_OPP_AT.AT = 2 ^ 64 - 1 ∧ e.pwr.opp = none ∧ e.pwr.rail = 4 ∧
    e.is Reg.CLK_EVENT.MARGIN_LOST = true) ∧
  (∀ (d : Dev) (i : Nat), i ≤ 20 → let e := d.takeStretch i
    kget false e.pwr.warned i = false ∧ e.get (Reg.CLK_STRETCH.COUNT i) = min (d.get (Reg.CLK_STRETCH.COUNT i) + 1) (2 ^ 32 - 1) ∧
    kget [] e.pwr.wins i = d.window :: d.stretchWins i ∧ e.pwr.stretches = kset 0 d.pwr.stretches i (kget 0 d.pwr.stretches i + 1) ∧
    kget 0 e.events.cur.stretched i = kget 0 d.events.cur.stretched i + 1) ∧
  (∀ s : State, (s.dev.shadowDue = false → NoEffect .shadowStretch s) ∧
    (s.dev.shadowDue = true → Gives .shadowStretch s fun d =>
      d.get Reg.CLK_SHADOWS.COUNT = min (s.dev.get Reg.CLK_SHADOWS.COUNT + 1) (2 ^ 32 - 1) ∧ d.pwr.shadowed = s.dev.window - 1 ∧
      d.pwr.stretches = ((List.range 21).filter fun i => !(s.dev.stretchWins i).contains (s.dev.window - 2)).foldl
        (fun m i => kset 0 m i (kget 0 m i + 1)) s.dev.pwr.stretches ∧ d.shadowDue = false)) ∧
  (∀ (i : BitVec 5) (s : State), let n := i.toNat
    (s.dev.stretchHighDue n = false → NoEffect (.stretchHigh i) s) ∧
    (s.dev.stretchHighDue n = true → Gives (.stretchHigh i) s fun d =>
      kget false d.pwr.above n = true ∧ d.is Reg.CLK_EVENT.STRETCH_HIGH = true ∧ d.stretchHighDue n = false))

/-- Operating points (R331 to R335). CLK_OPP_AT is written by the hosts that act for tenancy 0, in one write or in
halves, of which the low one is stored only. All ones cancels the pending change; an
arming that R333 refuses leaves what was pending; another is pending until the switch, at which the tick clocks run at its target. -/
def Obligations.OperatingPoints : Prop :=
  (∀ (b : BitVec 4) (v : BitVec 64) (s : State),
    (s.dev.acting b.toNat ≠ some 0 → ∀ part, NoEffect (.clkOppAtWrite b part v) s) ∧
    (s.dev.acting b.toNat = some 0 →
      Leaves (.clkOppAtWrite b .low v) s
        (s.dev.put Reg.CLK_OPP_AT.AT (s.dev.get Reg.CLK_OPP_AT.AT / 2 ^ 32 * 2 ^ 32 + v.toNat % 2 ^ 32)) ∧
      Leaves (.clkOppAtWrite b .high v) s
        (s.dev.put Reg.CLK_OPP_AT.AT (v.toNat % 2 ^ 32 * 2 ^ 32 + s.dev.get Reg.CLK_OPP_AT.AT % 2 ^ 32)).oppArm ∧
      Leaves (.clkOppAtWrite b .whole v) s (s.dev.put Reg.CLK_OPP_AT.AT v.toNat).oppArm)) ∧
  (∀ d : Dev, let c := d.get Reg.CLK_OPP_AT.AT
    (c = 2 ^ 64 - 1 → d.oppArm.pwr.opp = none ∧ d.oppArm.get Reg.CLK_OPP.PENDING = 0) ∧
    (c ≠ 2 ^ 64 - 1 → d.oppRefused c = true → d.oppArm.is Reg.CLK_EVENT.OPP_REFUSED = true ∧ d.oppArm.pwr = d.pwr ∧
      d.oppArm.get Reg.CLK_OPP_AT.AT = (match d.pwr.opp with | some x => x.2 | none => 2 ^ 64 - 1) % 2 ^ 64) ∧
    (c ≠ 2 ^ 64 - 1 → d.oppRefused c = false → d.oppArm.pwr.opp = some (d.get Reg.CLK_OPP.TARGET, c) ∧ d.oppArm.get Reg.CLK_OPP.PENDING = 1 ∧
      d.oppArm.get Reg.CLK_OPP.CURRENT = d.get Reg.CLK_OPP.CURRENT)) ∧
  (∀ (d : Dev) (c : Nat), d.oppRefused c = true ↔ d.get Reg.CLK_OPP.TARGET < d.get Reg.GLB_GRADE.MAX_OPP ∨
    (d.rt.loaded = true ∧ d.get Reg.CLK_OPP.TARGET < d.rt.maxOpp) ∨ (d.get Reg.CLK_OPP.TARGET < d.get Reg.CLK_OPP.CURRENT ∧ c < d.now + 250000) ∨
    d.is Reg.PWR_STATE.THERMAL_HOLD = true) ∧
  (∀ s : State, (s.dev.oppDue = false → NoEffect .oppSwitch s) ∧
    (∀ t c, s.dev.pwr.opp = some (t, c) → t < 8 → s.dev.oppDue = true → Gives .oppSwitch s fun d =>
      d.get Reg.CLK_OPP.CURRENT = t ∧ d.get Reg.CLK_OPP.PENDING = 0 ∧ d.get Reg.CLK_OPP_AT.AT = 2 ^ 64 - 1 ∧ d.is Reg.CLK_EVENT.OPP_DONE = true ∧
      d.pwr.opp = none ∧ d.pwr.rail = t))

/-- Sensors, the throttle and the limits (R343 to R347, R556). A sample shows the hottest sensor, its island and the module's power; a second
sample in a row out of range reads 150 °C. A due change of the level moves it by one and records THROTTLE. A power limit and a thermal trip
that are due record their event; the trip sets THERMAL_HOLD and raises the alert. None of them has an effect before. -/
def Obligations.ThermalLimits : Prop :=
  (∀ (die : List (BitVec 5 × Int)) (w : Nat) (s : State), (s.dev.booted = false → NoEffect (.sensorSample die w) s) ∧
    (s.dev.booted = true → Gives (.sensorSample die w) s fun d =>
      d.dieTemp = ((die.filter fun x => decide (x.1.toNat < 21)).foldl (fun (e : Dev) x => e.dieSample x.1.toNat x.2) s.dev).dieTemp ∧
      d.get Reg.PWR_MODULE_W.WATTS = min 2047 w ∧ d.get Reg.PWR_TEMP.DIE = intBits 8 d.hottest.1 % 2 ^ 8 ∧
      d.get Reg.PWR_TEMP.ISLAND = d.hottest.2 % 2 ^ 5 ∧ d.mod.sampled = true)) ∧
  (∀ (d : Dev) (i : Nat) (c : Int), let e := d.dieSample i c
    (-40 ≤ c ∧ c ≤ 150 → kget 0 e.dieTemp i = c ∧ kget false e.dieBad i = false) ∧
    (c < -40 ∨ 150 < c → kget false e.dieBad i = true ∧ kget 0 e.dieTemp i = (if kget false d.dieBad i then 150 else c))) ∧
  (∀ s : State, (s.dev.throttleStep = none → NoEffect .throttleLevelChange s) ∧
    (∀ l, s.dev.throttleStep = some l → l < 8 → Gives .throttleLevelChange s fun d =>
      d.get Reg.CLK_THROTTLE.LEVEL = l ∧ d.is Reg.PWR_EVENT.THROTTLE = true)) ∧
  (∀ (d : Dev) (l : Nat), d.throttleStep = some l → l + 1 = d.get Reg.CLK_THROTTLE.LEVEL ∨ l = d.get Reg.CLK_THROTTLE.LEVEL + 1) ∧
  (∀ s : State, (s.dev.powerLimitDue = false → NoEffect .powerLimit s) ∧
    (s.dev.powerLimitDue = true → Leaves .powerLimit s
      ((({ s.dev with pwr := { s.dev.pwr with fullSince := none }, mod := { s.dev.mod with limited := true } } : Dev).raiseNext 0x0A02).event
        Reg.PWR_EVENT.POWER_LIMIT))) ∧
  (∀ s : State, (s.dev.tripDue = false → NoEffect .thermalTrip s) ∧
    (s.dev.tripDue = true → Leaves .thermalTrip s
      (((((({ s.dev with mod := { s.dev.mod with alert := true, tripped := true } } : Dev).emit (.pin 2 true)).raiseNext 0x0A01).event
        Reg.PWR_EVENT.THERMAL_TRIP).put Reg.PWR_STATE.THERMAL_HOLD 1).powerStateEntry))) ∧
  (∀ (d : Dev) (n : Nat), d.stateDue = some n → d.is Reg.PWR_STATE.THERMAL_HOLD = true → n = 4 ∧ d.running = false) ∧
  (∀ d : Dev, d.is Reg.PWR_STATE.THERMAL_HOLD = true → d.tripDue = false)

/-- Power states (R336 to R342, R347, R520, R597). A state that is due is entered: to S3 at the deepest, PWR_STATE shows it, the domains follow,
and up to S2 every core keeps its state; S4 and S5 empty the scratch. A wake event that has come about leaves a state deeper than S0 for S0;
CXL.mem traffic leaves S4 and S5 for S3; none ends a thermal hold but WAKE in S4 once the module is cool. A budget is written by the hosts
of its tenancy and of tenancy 0. -/
def Obligations.PowerStates : Prop :=
  (∀ s : State, (s.dev.stateDue = none → NoEffect .powerStateEntry s) ∧
    (∀ n, s.dev.stateDue = some n → Leaves .powerStateEntry s (s.dev.enterState n))) ∧
  (∀ (d : Dev) (n : Nat), n ≤ 3 → let e := d.enterState n
    e.get Reg.PWR_STATE.STATE = n ∧ e.get Reg.PWR_DOMAIN_ON.PD = domainsOn n (d.is Reg.PWR_STATE.THERMAL_HOLD) &&& d.fusedOn ∧
    e.get Reg.PWR_DOMAIN_RET.PD = domainsRet n &&& d.fusedOn ∧ (n ≤ 2 → e.cores = d.cores)) ∧
  (∀ (d : Dev) (n c bank row : Nat), 4 ≤ n → c < 256 → ((d.enterState n).core c).row bank row = 0#4096) ∧
  (∀ (d : Dev) (n : Nat), (d.enterState n).pwr.selfRefresh = decide (4 ≤ n)) ∧
  (∀ (ev : WakeEvent) (s : State), let near := s.dev.is Reg.TIM_STATUS.LAUNCH_ARMED
    let free := s.dev.gate.any (·.released)
    (s.dev.mod.fw = false ∨ (ev = .launchNear ∧ near = false) ∨ (ev = .gateReady ∧ free = false) ∨
      (ev = .budget ∧ s.dev.get Reg.PWR_STATE.STATE ≤ s.dev.deepest) → NoEffect (.wake ev) s) ∧
    (s.dev.mod.fw = true → (ev = .launchNear → near = true) → (ev = .gateReady → free = true) →
      (ev = .budget → s.dev.deepest < s.dev.get Reg.PWR_STATE.STATE) → Leaves (.wake ev) s (s.dev.wakeUp ev))) ∧
  (∀ (d : Dev) (ev : WakeEvent),
    (d.is Reg.PWR_STATE.THERMAL_HOLD = true → ev ≠ .ctrlWake ∨ d.coolEnough = false ∨ d.get Reg.PWR_STATE.STATE ≠ 4 → d.wakeUp ev = d) ∧
    (d.is Reg.PWR_STATE.THERMAL_HOLD = true → ev = .ctrlWake → d.coolEnough = true → d.get Reg.PWR_STATE.STATE = 4 → d.wakeUp ev =
      ((({ d with mod := { d.mod with alert := false } } : Dev).put Reg.PWR_STATE.THERMAL_HOLD 0).emit (.pin 2 false)).leaveTo 0) ∧
    (d.is Reg.PWR_STATE.THERMAL_HOLD = false → d.get Reg.PWR_STATE.STATE ≠ 0 →
      (ev = .cxlMem → 4 ≤ d.get Reg.PWR_STATE.STATE → d.wakeUp ev = d.leaveTo 3) ∧
      (ev ≠ .cxlMem ∨ d.get Reg.PWR_STATE.STATE < 4 → d.wakeUp ev = d.leaveTo 0))) ∧
  (∀ (d : Dev) (n : Nat), d.get Reg.PWR_STATE.STATE ≤ n → d.leaveTo n = d) ∧
  (∀ (d : Dev) (n : Nat), n < d.get Reg.PWR_STATE.STATE → d.get Reg.PWR_STATE.STATE < 3 → n < 8 → let e := d.leaveTo n
    e.get Reg.PWR_STATE.STATE = n ∧ (2 ≤ d.get Reg.PWR_STATE.STATE → e.is Reg.PWR_EVENT.WOKE = true) ∧ e.cores = d.cores) ∧
  (∀ (d : Dev) (n : Nat), d.stateDue = some n → d.is Reg.PWR_STATE.THERMAL_HOLD = false → d.idle = true ∧ n = d.deepest ∧
    d.get Reg.PWR_STATE.STATE < n) ∧
  (∀ (b : BitVec 4) (s : State), (s.dev.acting b.toNat = none → NoEffect (.pwrCtrlWake b) s) ∧
    ((s.dev.acting b.toNat).isSome = true → Leaves (.pwrCtrlWake b) s (s.dev.wakeUp .ctrlWake))) ∧
  (∀ (b t : BitVec 4) (ns : BitVec 32) (s : State),
    (s.dev.acting b.toNat = none → NoEffect (.pwrBudgetNsWrite b t ns) s) ∧
    (∀ u, s.dev.acting b.toNat = some u → (u ≠ 0 → u ≠ t.toNat → NoEffect (.pwrBudgetNsWrite b t ns) s) ∧
      (u = 0 ∨ u = t.toNat → Leaves (.pwrBudgetNsWrite b t ns) s ((s.dev.put (Reg.PWR_BUDGET_NS.NS t.toNat) ns.toNat).wake .budget)))) ∧
  (∀ s : Nat, s ≤ 5 → (domainsOn s false ||| domainsRet s) < 2 ^ 24 ∧ domainsOn s false &&& domainsRet s = 0)

/-- The Milestone counter's sync and the PPS pins (R425 to R429, R555, R557). A sync message counts only with a source selected and in the
module's domain: OFFSET and STEPS show it; an accurate one within the limit locks, and the first lock may set the counter; the third in a row
over the limit loses sync. SYNC_LOST clears LOCKED and sets HOLDOVER, and a running segment of a joined convoy stops. A PPS pulse that is wide enough, from a selected source and near its second, is noted. PPS_OUT rises when a second has come. -/
def Obligations.MilestoneTime : Prop :=
  (∀ (dom : BitVec 8) (off : Int) (st : BitVec 8) (acc : Bool) (s : State),
    (s.dev.mod.fw = false ∨ s.dev.get Reg.TIM_CFG.SOURCE = 0 ∨ dom.toNat ≠ s.dev.get Reg.TIM_CFG.DOMAIN → NoEffect (.syncMessage dom off st acc) s) ∧
    (s.dev.mod.fw = true → s.dev.get Reg.TIM_CFG.SOURCE ≠ 0 → dom.toNat = s.dev.get Reg.TIM_CFG.DOMAIN →
      (s.dev.is Reg.TIM_STATUS.LOCKED = false → acc = true → (off.natAbs : Int) ≤ s.dev.get Reg.TIM_CFG.SYNC_LIMIT →
        Gives (.syncMessage dom off st acc) s fun d => d.is Reg.TIM_STATUS.LOCKED = true ∧ d.is Reg.TIM_STATUS.HOLDOVER = false ∧
          d.is Reg.TIM_EVENT.LOCK = true ∧ d.get Reg.TIM_STATUS.STEPS = st.toNat ∧ d.tim.everLocked = true) ∧
      (s.dev.is Reg.TIM_STATUS.LOCKED = true → (off.natAbs : Int) ≤ s.dev.get Reg.TIM_CFG.SYNC_LIMIT →
        Gives (.syncMessage dom off st acc) s fun d => d.is Reg.TIM_STATUS.LOCKED = true ∧ d.get Reg.TIM_OFFSET.NS = intBits 32 off % 2 ^ 32 ∧
          d.get Reg.TIM_STATUS.STEPS = st.toNat ∧ d.tim.above = 0 ∧ d.now = s.dev.now) ∧
      (s.dev.is Reg.TIM_STATUS.LOCKED = true → s.dev.get Reg.TIM_CFG.SYNC_LIMIT < off.natAbs → Gives (.syncMessage dom off st acc) s fun d =>
        (s.dev.tim.above < 2 → d.is Reg.TIM_STATUS.LOCKED = true ∧ d.tim.above = s.dev.tim.above + 1) ∧
        (2 ≤ s.dev.tim.above → s.dev.running = false →
          d.is Reg.TIM_STATUS.LOCKED = false ∧ d.is Reg.TIM_STATUS.HOLDOVER = true ∧ d.is Reg.TIM_EVENT.SYNC_LOST = true)) ∧
      (s.dev.is Reg.TIM_STATUS.LOCKED = false → acc = false → Gives (.syncMessage dom off st acc) s fun d =>
        d.is Reg.TIM_STATUS.LOCKED = false ∧ d.get Reg.TIM_OFFSET.NS = intBits 32 off % 2 ^ 32 ∧ d.now = s.dev.now))) ∧
  (∀ (d : Dev) (off : Int), (d.lock off).now = if d.maySet then ((d.now : Int) - off).toNat % 2 ^ 64 else d.now) ∧
  (∀ s : State, (s.dev.is Reg.TIM_STATUS.LOCKED = false → NoEffect .syncLost s) ∧
    (s.dev.is Reg.TIM_STATUS.LOCKED = true →
      let e := ((s.dev.put Reg.TIM_STATUS.LOCKED 0).put Reg.TIM_STATUS.HOLDOVER 1).event Reg.TIM_EVENT.SYNC_LOST
      let d : Dev := { e with tim := { e.tim with above := 0 } }
      Leaves .syncLost s (if s.dev.running && s.dev.routeJoined then (d.wmkRecord 0x0704 0 0).raiseNext 0x0704 else d)) ∧
    (s.dev.is Reg.TIM_STATUS.LOCKED = true → (s.dev.running && s.dev.routeJoined) = false → Gives .syncLost s fun d =>
      d.is Reg.TIM_STATUS.LOCKED = false ∧ d.is Reg.TIM_STATUS.HOLDOVER = true ∧ d.is Reg.TIM_EVENT.SYNC_LOST = true ∧
      RegsKept d s.dev [Reg.TIM_STATUS.LOCKED, Reg.TIM_STATUS.HOLDOVER, Reg.TIM_EVENT.SYNC_LOST])) ∧
  (∀ (h : Nat) (m : Int) (s : State), let src := s.dev.get Reg.TIM_CFG.SOURCE
    (s.dev.mod.fw = false ∨ h < 100 ∨ (src ≠ 1 ∧ src ≠ 3) ∨ (src = 3 ∧ 1000000 < m.natAbs) → NoEffect (.ppsIn h m) s) ∧
    (s.dev.mod.fw = true → 100 ≤ h → src = 1 ∨ (src = 3 ∧ m.natAbs ≤ 1000000) →
      Leaves (.ppsIn h m) s { s.dev with tim := { s.dev.tim with lastPps := s.dev.now } })) ∧
  (∀ s : State, (s.dev.ppsDue = false → NoEffect .ppsOut s) ∧
    (s.dev.ppsDue = true → Leaves .ppsOut s ((({ s.dev with tim := { s.dev.tim with lastSecond := s.dev.now / 1000000000 } } : Dev).emit
      (.pin 1 true)).emit (.pin 1 false))))

/-- Step shadows (R466 to R470, R480, R484, R489). STEP.OPEN with a step open is STEP_ORDER, with a list that R466 refuses STEP_LIST, and
neither leaves a step open or changes device memory. Otherwise the step opens: the list and the tenancy are recorded, the copy starts or
waits for a serve that holds the slots, the header is written at CRN_STEP_REC, and an armed serve from NEXT begins. STEP.COMMIT without a
step open is STEP_ORDER; else it closes the step and counts it, and arms a serve when AUTO is set, the score is above the threshold and no
serve is in progress. A write is held only in a region of the open step, at a block that the copy has yet to reach. -/
def Obligations.Steps : Prop :=
  (∀ (i : Inst) (s : State), let d := s.dev; let o := d.owner i 9 0; let t := d.took o 2 1 1; let l := d.stepList s.dram i
    (d.canIssue i.core = false → NoEffect (.stepOpen i) s) ∧
    (d.canIssue i.core = true → d.unitFree i.coreN 9 2 = true →
      (d.crn.step.isSome = true → Leaves (.stepOpen i) s ((t.crnError 0x0906).closeStep.raise o 0x0906)) ∧
      (d.crn.step = none → l = [] ∨ d.listOk d.rt.tenancy l = false →
        Leaves (.stepOpen i) s ((t.crnError 0x0907).closeStep.raiseArrival o 0x0907)) ∧
      (d.crn.step = none → l ≠ [] → d.listOk d.rt.tenancy l = true → ∃ e : Dev,
        Stores (.stepOpen i) s (d.writeBytes s.dram (d.get Reg.CRN_STEP_REC.BASE * 2 ^ 21) (e.cairnHeader d.rt.tenancy l)) e ∧
        (∃ x, e.crn.step = some x ∧ x.ten = d.rt.tenancy ∧ x.addrs = l ∧ x.copied = 0 ∧ x.complete = false ∧
          x.done = if i.extBits 14 1 = 1 then some (i.extBits 0 14) else none) ∧
        e.is Reg.CRN_STATUS.STEP_OPEN = true ∧ e.is Reg.CRN_STATUS.COPYING = d.crn.held.isNone ∧ e.crn.waitCopy = d.crn.held.isSome ∧
        e.get Reg.CRN_STEP_POS.SEGMENT = d.get Reg.RTE_STATUS.SEGMENT % 2 ^ 8 ∧
        (d.is Reg.CRN_STATUS.CAIRN_ARMED = false → e.crn.serve = d.crn.serve) ∧
        (d.is Reg.CRN_STATUS.CAIRN_ARMED = true → (e.crn.serve.any fun v => v.src == 0) = true ∧ e.is Reg.CRN_STATUS.CAIRN_ARMED = false ∧
          e.is Reg.CRN_EVENT.CAIRN_BEGUN = true)))) ∧
  (∀ (i : Inst) (s : State), let d := s.dev; let o := d.owner i 9 0; let t := d.took o 2 1 1
    (d.canIssue i.core = false → NoEffect (.stepCommit i) s) ∧
    (d.canIssue i.core = true → d.unitFree i.coreN 9 2 = true →
      (d.crn.step = none → Leaves (.stepCommit i) s ((t.crnError 0x0906).raise o 0x0906)) ∧
      (d.crn.step.isSome = true → Gives (.stepCommit i) s fun e => e.crn.step = none ∧ e.is Reg.CRN_STATUS.STEP_OPEN = false ∧
        e.is Reg.CRN_STATUS.COPYING = false ∧ e.get Reg.CRN_STEP.NUMBER = (d.get Reg.CRN_STEP.NUMBER + 1) % 2 ^ Reg.CRN_STEP.NUMBER.width ∧
        (e.is Reg.CRN_STATUS.CAIRN_ARMED = true ↔ d.is Reg.CRN_STATUS.CAIRN_ARMED = true ∨
          (d.get Reg.CRN_RISK_THRESH.VALUE % 256 < d.get Reg.HLT_RISK.RISK ∧ d.is Reg.CRN_CFG.AUTO = true ∧ d.get Reg.CRN_AUTO.KIND ≠ 0 ∧
            d.crn.serve = none))))) ∧
  (∀ (d : Dev) (a : Nat), d.writeHeld a = true → ∃ x, d.crn.step = some x ∧ (x.regionOf a).isSome = true ∧
    x.complete = false ∧ x.copied ≤ x.blockOf a ∧ (d.is Reg.CRN_STATUS.COPYING = true ∨ d.crn.waitCopy = true))

/-- RESTORE, VERIFY and CLEAR_REPEAT (R473 to R478, R488). They are for tenancy 0's hosts. RESTORE is busy while a restore runs or a fill of
its own step is held, refused without an interrupted step or while a segment runs, and else starts. Its end puts every copied block back,
with fresh checks, up to a slot block that fails its check; unless it failed it arms the repeat, and the step closes either way. VERIFY
compares the restored digest with the reference. CLEAR_REPEAT disarms the repeat and gives the interrupted step up. -/
def Obligations.Restores : Prop :=
  (∀ (b : BitVec 4) (s : State), (s.dev.acting b.toNat ≠ some 0 → NoEffect (.restore b) s ∧ NoEffect (.verify b) s ∧ NoEffect (.clearRepeat b) s) ∧
    (s.dev.acting b.toNat = some 0 → let d := s.dev
      (d.is Reg.CRN_STATUS.RESTORING = true ∨ d.fillOwn = true → Leaves (.restore b) s (d.crnFault 0x0905)) ∧
      (d.is Reg.CRN_STATUS.RESTORING = false → d.fillOwn = false → d.is Reg.CRN_STATUS.INTERRUPTED = false ∨ d.running = true →
        Leaves (.restore b) s (d.event Reg.CRN_EVENT.CMD_REFUSED)) ∧
      (d.is Reg.CRN_STATUS.RESTORING = false → d.fillOwn = false → d.is Reg.CRN_STATUS.INTERRUPTED = true → d.running = false →
        Leaves (.restore b) s ((d.put Reg.CRN_STATUS.RESTORING 1).put Reg.MEM_STATUS.COPY_BUSY 1)) ∧
      (d.is Reg.CRN_STATUS.RESTORING = true → Leaves (.verify b) s (d.crnFault 0x0905)) ∧
      (d.is Reg.CRN_STATUS.RESTORING = false → Gives (.verify b) s fun e => e.is Reg.CRN_EVENT.VERIFY_DONE = true ∧
        (e.is Reg.CRN_STATUS.VERIFIED = true ↔ ∀ k < 6, d.get (Reg.CRN_RESTORED_DIGEST.BYTES k) = d.get (Reg.CRN_REF_DIGEST.BYTES k))) ∧
      Gives (.clearRepeat b) s fun e => e.is Reg.CRN_STATUS.REPEAT_ARMED = false ∧ e.is Reg.CRN_STATUS.VERIFIED = false ∧
        e.is Reg.CRN_STATUS.INTERRUPTED = false ∧ (d.is Reg.CRN_STATUS.INTERRUPTED = true → e.crn.step = none) ∧
        (d.is Reg.CRN_STATUS.INTERRUPTED = false → e.crn = d.crn))) ∧
  (∀ (f : Bool) (s : State), let d := s.dev; let r := d.restoreMends s.dram
    (d.crn.step = none ∨ d.is Reg.CRN_STATUS.RESTORING = false → NoEffect (.restoreDone f) s) ∧
    (∀ x, d.crn.step = some x → d.is Reg.CRN_STATUS.RESTORING = true →
      (∀ i, d.restoreFails s.dram x = some i →
        Stores (.restoreDone f) s (d.restoreMem s.dram) (r.meetBad (some (d.slotBlock x i)) .copyEngine)) ∧
      (d.restoreFails s.dram x = none →
        d.restoreMem s.dram = (List.range x.copied).foldl (fun m i => d.copyMem m (d.slotBlock x i) (x.blockAt i) 256) s.dram ∧
        (f = true ∨ d.crn.slotBad ≠ [] → Stores (.restoreDone f) s (d.restoreMem s.dram) (((((r.closeStep.put Reg.CRN_STATUS.RESTORING 0).put
          Reg.CRN_STATUS.INTERRUPTED 0).event Reg.CRN_EVENT.RESTORE_DONE).put Reg.CRN_STATUS.REPEAT_ARMED 0).crnFault 0x0908)) ∧
        (f = false → d.crn.slotBad = [] → ∃ e : Dev, Stores (.restoreDone f) s (d.restoreMem s.dram) e ∧
          e.is Reg.CRN_STATUS.REPEAT_ARMED = true)))) ∧
  (∀ (d : Dev) (m : Memory), ∃ b c k n o, d.restoreMends m = { d with badBlk := b, ckBuf := c, checks := k, snoop := n, out := o }) ∧
  (∀ d : Dev, d.closeStep.crn.step = none ∧ d.closeStep.is Reg.CRN_STATUS.STEP_OPEN = false ∧ d.closeStep.is Reg.CRN_STATUS.COPYING = false ∧
    d.closeStep.is Reg.MEM_STATUS.COPY_BUSY = false)

/-- FILL, SERVE, CAIRN and CANCEL_QUEUED (R480 to R488), and the health score (R479). All but the ends of transfers are for tenancy 0's hosts.
A fill begins, waits behind the one in progress, is refused, or is busy. One with a bad manifest writes no device memory and turns to its
alternative; one with bad digests turns to it too. Over a convoy its bytes are the blocks that have come, once all have. Its source's failure
turns once to the alternative. A serve that ends releases the held slots. The score's components, over the device's own counts of
the last 1,000 ms, and their weighted mean go into their registers. -/
def Obligations.FillsAndServes : Prop :=
  (∀ (b : BitVec 4) (s : State), let d := s.dev
    (d.acting b.toNat ≠ some 0 → (∀ x y, NoEffect (.fill b x y) s) ∧ (∀ x y, NoEffect (.serve b x y) s) ∧ NoEffect (.cairn b) s ∧
      NoEffect (.cancelQueued b) s) ∧
    (d.acting b.toNat = some 0 →
      (∀ x y, x = true ∨ d.is Reg.CRN_STATUS.RESTORING = false →
        (d.crn.fill.isSome = true → d.crn.queued.isSome = true → Leaves (.fill b x y) s (d.crnFault 0x0905)) ∧
        (d.crn.fill.isSome = true → d.crn.queued = none → Gives (.fill b x y) s fun e =>
          e.crn.queued = some { store := x, stepMatch := y } ∧ e.crn.fill = d.crn.fill ∧ e.is Reg.CRN_STATUS.FILL_QUEUED = true) ∧
        (d.crn.fill = none → d.xferOk (d.fillSource false) true (!x) = true → (x = false → d.running = false ∧ d.crn.step = none) →
          (x = true → 2 ≤ d.get Reg.CRN_STORE.SIZE) → Gives (.fill b x y) s fun e =>
          e.crn.fill = some { store := x, stepMatch := y } ∧ e.is Reg.CRN_STATUS.FILLING = true ∧ e.get Reg.CRN_PROGRESS.FILLED = 0) ∧
        (d.crn.fill = none → d.xferOk (d.fillSource false) true (!x) = false ∨ (x = false ∧ (d.running = true ∨ d.crn.step.isSome = true)) ∨
          (x = true ∧ d.get Reg.CRN_STORE.SIZE < 2) → Leaves (.fill b x y) s (d.event Reg.CRN_EVENT.CMD_REFUSED))) ∧
      (∀ y, d.is Reg.CRN_STATUS.RESTORING = true → Leaves (.fill b false y) s (d.crnFault 0x0905)) ∧
      (∀ x y, Leaves (.serve b x y) s (d.serveCmd x.toNat y)) ∧
      (d.serveBusy = true → Leaves (.cairn b) s (d.crnFault 0x0905)) ∧
      (d.serveBusy = false → d.get Reg.CRN_AUTO.KIND = 0 → Leaves (.cairn b) s (d.event Reg.CRN_EVENT.CMD_REFUSED)) ∧
      (d.serveBusy = false → d.get Reg.CRN_AUTO.KIND ≠ 0 → Leaves (.cairn b) s (d.put Reg.CRN_STATUS.CAIRN_ARMED 1)) ∧
      (d.crn.queued = none → Leaves (.cancelQueued b) s (d.event Reg.CRN_EVENT.CMD_REFUSED)) ∧
      (d.crn.queued.isSome = true → Gives (.cancelQueued b) s fun e => e.crn.queued = none ∧ e.is Reg.CRN_STATUS.FILL_QUEUED = false))) ∧
  (∀ d : Dev, d.serveBusy = true → ∀ x y, x ≠ 0 → d.serveCmd x y = d.crnFault 0x0905) ∧
  (∀ d : Dev, d.serveBusy = false →
    (d.is Reg.CRN_STATUS.STORE_VALID = false → ∀ y, d.serveCmd 1 y = d.event Reg.CRN_EVENT.CMD_REFUSED) ∧ (∀ y, d.serveCmd 0 y = d.event Reg.CRN_EVENT.CMD_REFUSED) ∧
    (d.is Reg.CRN_STATUS.STORE_VALID = true → d.xferOk (d.fillSource false) true false = true →
      d.serveCmd 1 false = d.beginServe { src := 1, wait := false })) ∧
  (∀ (bs : List Byte) (s : State), let d := s.dev
    (d.fillBytes bs = none → NoEffect (.fillDone bs) s) ∧
    (∀ f x, d.crn.fill = some f → d.fillBytes bs = some x →
      (d.manifestOk f x = false → Leaves (.fillDone bs) s d.fillFail) ∧
      (d.manifestOk f x = true → Stores (.fillDone bs) s (d.fillMem x s.dram) ((d.fillMends x).fillEnd x)))) ∧
  (∀ (d : Dev) (f : FillReq) (x : List Byte) (m : Memory), d.crn.fill = some f → d.manifestOk f x = true → f.store = true →
    let a := d.storeHalf (1 - d.get Reg.CRN_STATUS.STORE_HALF)
    d.fillMem x m = d.writeBytes m a x ∧ d.fillMends x = d.rewritten a x.length ∧
    (trailerOk x = false → (d.fillMends x).fillEnd x = ((d.fillMends x).crnFault 0x0909).fillFail)) ∧
  (∀ (d : Dev) (f : FillReq) (bs : List Byte), d.crn.fill = some f →
    ((d.fillSource f.alt).1 ≠ 1 → d.fillBytes bs = some bs) ∧
    ((d.fillSource f.alt).1 = 1 → (f.blocks 512 = none → d.fillBytes bs = none) ∧
      (∀ h, f.blocks 512 = some h → d.fillBytes bs = if d.manifestOk f h = true then f.blocks (cairnField h 0x20 8 / 4096) else some h) ∧
      (∀ n k x, (d.fillTake (d.fillSource f.alt).2.1 n k x).crn = { d.crn with fill := some { f with blks := f.blks ++ [(72 * n + k, x)] } }))) ∧
  (∀ (w : SourceFail) (s : State), Leaves (.fillSourceFail w) s s.dev.fillFail) ∧
  (∀ (d : Dev) (f : FillReq), d.crn.fill = some f →
    (f.alt = false → d.get Reg.CRN_XFER_B.KIND ≠ 0 → d.fillFail.crn.fill = some { f with alt := true, blks := [] } ∧ d.fillFail.is Reg.CRN_EVENT.ALTERNATE = true) ∧
    (f.alt = true ∨ d.get Reg.CRN_XFER_B.KIND = 0 → f.store = true → d.fillFail = ((d.dropSource f.alt).crnFault 0x090A).endFill)) ∧
  (∀ (f : Bool) (s : State), let d := s.dev
    (f = false → d.serveReady s.dram = false → NoEffect (.serveEnd f) s) ∧ (d.crn.serve = none → NoEffect (.serveEnd f) s) ∧
    (d.crn.serve.isSome = true → f = true ∨ d.serveReady s.dram = true → Gives (.serveEnd f) s fun e =>
      e.crn.serve = none ∧ e.crn.held = none ∧ e.crn.waitCopy = false ∧ e.is Reg.CRN_STATUS.SERVING = false ∧
      e.is Reg.CRN_EVENT.SERVE_END = true)) ∧
  (∀ (x : RiskInput) (s : State), let d := s.dev; let e := d.riskUpdate x; let w := fun F : Fld => d.get F
    let h := d.events.close x.droops
    (d.mod.fw = false → NoEffect (.riskUpdate x) s) ∧ (d.mod.fw = true → Leaves (.riskUpdate x) s e) ∧
    e.events = h ∧ h.cur = {} ∧ h.past.length ≤ 1000 ∧ (∃ m, h.past = (m :: d.events.past).take 1000 ∧ m.rereads = d.events.cur.rereads ∧
      m.blocks = d.events.cur.blocks ∧ m.windows = d.events.cur.windows ∧ m.stretched = d.events.cur.stretched) ∧
    e.get Reg.HLT_COMP.RESEND = min 255 (255 * (h.past.map HealthMs.rereads).sum / max 1 (w Reg.HLT_FULL.RESEND)) ∧
    e.get Reg.HLT_COMP.LINK = min 255 (255 * (h.past.map HealthMs.blocks).sum / max 1 (w Reg.HLT_FULL.LINK)) ∧
    e.get Reg.HLT_COMP.DROOP = min 255 (255 * (h.past.map HealthMs.droops).sum / max 1 (w Reg.HLT_FULL.DROOP)) ∧
    e.get Reg.HLT_COMP.TEMP =
      min 255 (255 * (sgn 8 (w Reg.PWR_TEMP.DIE) - ((w Reg.PWR_THERM_CTL.THROTTLE_C : Int) - 20)).toNat / 30) ∧
    (∀ i ≤ 20, min 255 (255 * (100 * (h.past.map fun m => kget 0 m.stretched i).sum) /
      max 1 (max 1 (h.past.map HealthMs.windows).sum * max 1 (w Reg.HLT_FULL.STRETCH))) ≤ e.get Reg.HLT_COMP.STRETCH) ∧
    e.get Reg.HLT_RISK.RISK = min 255 ((w Reg.HLT_WEIGHT.RESEND * e.get Reg.HLT_COMP.RESEND + w Reg.HLT_WEIGHT.STRETCH * e.get Reg.HLT_COMP.STRETCH +
      w Reg.HLT_WEIGHT.TEMP * e.get Reg.HLT_COMP.TEMP + w Reg.HLT_WEIGHT.LINK * e.get Reg.HLT_COMP.LINK +
      w Reg.HLT_WEIGHT.DROOP * e.get Reg.HLT_COMP.DROOP) / 16))

/-- Ports and convoy entries (R421 to R423, R436, R441, R442, R586). A write of WMK_Pp_CFG acts for tenancy 0's hosts alone; a change of ENABLE or SPLIT is
refused while a valid entry uses the port; a disabled port has no links. A link of a port that is absent does nothing, and none comes up on
a disabled port, on the second link of an unsplit one, or without NETCLK25. VALID is set only where R442 allows the entry, and cleared only where the loaded Route does not name it. -/
def Obligations.PortsAndEntries : Prop :=
  (∀ (b : BitVec 4) (p : BitVec 3) (v : BitVec 32) (s : State), let d := s.dev; let q := p.toNat; let n := v.toNat
    let used := ∃ c < 512, d.is (Reg.WMK_CV0.VALID c) = true ∧ d.cvPort c = q
    let same := bitOf n 0 = d.is (Reg.WMK_P_CFG.ENABLE q) ∧ bitOf n 1 = d.is (Reg.WMK_P_CFG.SPLIT q)
    (d.acting b.toNat ≠ some 0 ∨ d.portPresent q = false → NoEffect (.portCfgWrite b p v) s) ∧
    (d.acting b.toNat = some 0 → d.portPresent q = true →
      (¬ same → used → Leaves (.portCfgWrite b p v) s (d.event Reg.WMK_EVENT.CFG_REFUSED)) ∧
      (same ∨ ¬ used → Gives (.portCfgWrite b p v) s fun e => e.is (Reg.WMK_P_CFG.ENABLE q) = bitOf n 0 ∧ e.is (Reg.WMK_P_CFG.SPLIT q) = bitOf n 1 ∧
        e.is (Reg.WMK_P_CFG.VLAN_EN q) = bitOf n 2 ∧ e.get (Reg.WMK_P_CFG.VLAN_ID q) = bitsOf n 4 12 % 2 ^ 12 ∧
        e.get (Reg.WMK_P_CFG.PCP q) = bitsOf n 16 3 % 2 ^ 3 ∧
        (bitOf n 0 = false → e.is (Reg.WMK_P_STAT.LINK0 q) = false ∧ e.is (Reg.WMK_P_STAT.LINK1 q) = false)))) ∧
  (∀ (p : BitVec 3) (sub : BitVec 1) (up : Bool) (s : State), let d := s.dev; let q := p.toNat
    let F := if sub.toNat = 0 then Reg.WMK_P_STAT.LINK0 q else Reg.WMK_P_STAT.LINK1 q
    let able := d.is (Reg.WMK_P_CFG.ENABLE q) = true ∧ d.netClk = true ∧ (sub = 1#1 → d.is (Reg.WMK_P_CFG.SPLIT q) = true)
    (d.portPresent q = false ∨ d.is F = up ∨ (up = true ∧ ¬ able) → NoEffect (.linkChange p sub up) s) ∧
    (d.portPresent q = true → d.is F ≠ up → (up = true → able) → Leaves (.linkChange p sub up) s ((d.putB F up).event Reg.WMK_EVENT.LINK_CHANGE))) ∧
  (∀ (b : BitVec 4) (c : BitVec 9) (set : Bool) (s : State), let d := s.dev; let k := c.toNat; let v := d.is (Reg.WMK_CV0.VALID k)
    (d.reachesConvoy b.toNat k = false → NoEffect (.convoyValid b c set) s) ∧
    (d.reachesConvoy b.toNat k = true →
      (set = true → v = true ∨ d.convoyOk k = false → Leaves (.convoyValid b c set) s (d.event Reg.WMK_EVENT.CFG_REFUSED)) ∧
      (set = true → v = false → d.convoyOk k = true → Gives (.convoyValid b c set) s fun e => e.is (Reg.WMK_CV0.VALID k) = true) ∧
      (set = false → v = false → NoEffect (.convoyValid b c set) s) ∧
      (set = false → v = true → d.routeNames k = true → Leaves (.convoyValid b c set) s (d.event Reg.WMK_EVENT.CFG_REFUSED)) ∧
      (set = false → v = true → d.routeNames k = false → Gives (.convoyValid b c set) s fun e => e.is (Reg.WMK_CV0.VALID k) = false ∧
        e.is (Reg.WMK_CV0.JOINED k) = false ∧ k ∉ e.joining))) ∧
  (∀ (d : Dev) (c : Nat), let len := d.get (Reg.WMK_CV2.LEN c); let per := d.get (Reg.WMK_CV2.PERIOD c)
    d.convoyOk c = true ↔
      100 * (d.cvBlocks c * if d.is (Reg.WMK_P_CFG.SPLIT (d.cvPort c)) then 86 else 43) ≤ len * min 90 (max 10 (d.get Reg.WMK_TIMERS.PACE_PCT)) ∧
      2000 ≤ len ∧ (per = 0 ∨ len ≤ per) ∧ ¬ (64 ≤ d.cvPeer c ∧ d.is Reg.GLB_GRADE.CONC_LIMIT = true)) ∧
  (∀ s : State, (Gives .netclk25Loss s fun e => e.netClk = false) ∧ Leaves .netclk25Return s { s.dev with netClk := true })

/-- Joining, keeping and losing a peer (R436, R453, R458, R459). JOIN is sent for a valid entry that is not joined, and again 100 µs after
the last. The peer's JOIN joins a convoy whose entries agree, else it is JOIN_MISMATCH; one that comes early is kept. LEAVE is refused while
the loaded Route names the convoy. A keepalive goes to a joined peer that was sent nothing for a quarter of the time-out. A silent peer of an
open instance, or one that sends ABORT, is lost with 0x0703, but not where every open convoy with it is a Mirror's or a Cairn transfer's. -/
def Obligations.Joining : Prop :=
  (∀ (b : BitVec 4) (c : BitVec 9) (s : State), let d := s.dev; let k := c.toNat
    (d.reachesConvoy b.toNat k = false → NoEffect (.join b c) s ∧ NoEffect (.leave b c) s) ∧
    (d.reachesConvoy b.toNat k = true →
      (d.is (Reg.WMK_CV0.VALID k) = false ∨ d.is (Reg.WMK_CV0.JOINED k) = true → NoEffect (.join b c) s) ∧
      (d.is (Reg.WMK_CV0.VALID k) = true → d.is (Reg.WMK_CV0.JOINED k) = false → (∀ x ∈ d.peerJoin, x.1 ≠ k) →
        Leaves (.join b c) s (({ d with joining := d.joining.filter (· ≠ k) ++ [k] } : Dev).sendJoin k)) ∧
      (d.routeNames k = true → NoEffect (.leave b c) s) ∧
      (d.routeNames k = false → Gives (.leave b c) s fun e => e.is (Reg.WMK_CV0.JOINED k) = false ∧ k ∉ e.joining))) ∧
  (∀ (b : BitVec 4) (s : State), Leaves (.joinAll b) s
    (((List.range 512).filter fun c => s.dev.reachesConvoy b.toNat c && s.dev.is (Reg.WMK_CV0.VALID c)).foldl (fun d c => d.join c) s.dev)) ∧
  (∀ (c : BitVec 9) (s : State), let d := s.dev; let k := c.toNat
    (k ∉ d.joining ∨ d.now < kget 0 d.joinSent k + 100000 → NoEffect (.joinResend c) s) ∧
    (k ∈ d.joining → kget 0 d.joinSent k + 100000 ≤ d.now → Leaves (.joinResend c) s (d.sendJoin k))) ∧
  (∀ (f : Frame) (first : BitVec 64) (per len : BitVec 32) (blk : BitVec 16) (dir : BitVec 8) (s : State), let d := s.dev; let k := f.convoy.toNat
    let j := Instr.joinFrame f first per len blk dir
    (d.is Reg.WMK_CTL.WAYMARK_EN = false → NoEffect j s) ∧
    (d.is Reg.WMK_CTL.WAYMARK_EN = true → f.intact = false → Leaves j s (d.count (Reg.WMK_P_CRC_ERR.COUNT f.port.toNat) 1)) ∧
    (f.intact = true → d.is (Reg.WMK_CV0.VALID k) = false ∨ d.is (Reg.WMK_CV0.JOINED k) = true → NoEffect j s) ∧
    (d.is Reg.WMK_CTL.WAYMARK_EN = true → f.intact = true → d.is (Reg.WMK_CV0.VALID k) = true → d.is (Reg.WMK_CV0.JOINED k) = false →
      (k ∉ d.joining → Gives j s fun e => (k, first.toNat, per.toNat, len.toNat, blk.toNat, dir.toNat) ∈ e.peerJoin) ∧
      (k ∈ d.joining → Leaves j s (d.joinSettle k first.toNat per.toNat len.toNat blk.toNat dir.toNat).serveJoined))) ∧
  (∀ (d : Dev) (k first per len blk dir : Nat), let e := d.joinSettle k first per len blk dir
    (d.joinAgrees k first per len blk dir = true → e.is (Reg.WMK_CV0.JOINED k) = true ∧ kget 0 e.heard (d.cvPeer k) = d.now) ∧
    (d.joinAgrees k first per len blk dir = false → e.is Reg.WMK_EVENT.JOIN_MISMATCH = true ∧ e.is (Reg.WMK_CV0.JOINED k) = d.is (Reg.WMK_CV0.JOINED k)) ∧
    (d.joinAgrees k first per len blk dir = true ↔ d.get (Reg.WMK_CV1.FIRST k) = first ∧ d.get (Reg.WMK_CV2.PERIOD k) = per ∧
      d.get (Reg.WMK_CV2.LEN k) = len ∧ d.cvBlocks k = blk ∧ d.get (Reg.WMK_CV0.DIR k) ≠ dir)) ∧
  (∀ (c : BitVec 9) (s : State), let d := s.dev; let k := c.toNat
    let quiet := d.is (Reg.WMK_CV0.JOINED k) = true ∧ kget 0 d.said (d.cvPeer k) + d.peerTimeout / 4 ≤ d.now
    let silent := k ∈ d.openConvoys ∧ kget 0 d.heard (d.cvPeer k) + d.peerTimeout ≤ d.now
    (¬ quiet → NoEffect (.keepalive c) s) ∧ (quiet → Leaves (.keepalive c) s (d.sendFrame k frameKeepalive 0 0 0 false false [])) ∧
    (¬ silent ∨ d.sideConvoy k = true → NoEffect (.wmkPeerLost c) s) ∧
    (silent → d.sideConvoy k = false → Leaves (.wmkPeerLost c) s ((d.wmkRecord 0x0703 k 0).raiseArrival noOwner 0x0703))) ∧
  (∀ (f : Frame) (code : BitVec 16) (s : State), let d := s.dev
    let heard : Dev := { d with heard := kset 0 d.heard (d.cvPeer f.convoy.toNat) d.now }
    (d.takeFrame f = none → Leaves (.abort f code) s (d.dropFrame f false)) ∧
    (d.takeFrame f = some heard → (∀ k ∈ d.openConvoys, d.cvPeer k = d.cvPeer f.convoy.toNat → d.sideConvoy k = true) → Leaves (.abort f code) s heard) ∧
    (∀ k, d.takeFrame f = some heard → (d.openConvoys.find? fun k => d.cvPeer k == d.cvPeer f.convoy.toNat && !d.sideConvoy k) = some k →
      Leaves (.abort f code) s ((heard.wmkRecord 0x0703 k 0).raiseArrival noOwner 0x0703)))

/-- Frames and blocks (R440, R441, R444, R453 to R457, R460, R462, R485). A frame is taken only with Waymark enabled, intact, and of a joined convoy; any
other is dropped, and with Waymark enabled counted in WMK_Pp_CRC_ERR; a damaged DATA frame of a joined convoy is answered with an ACK of
what has come, where none was sent in the last ACK time and the instance is not closed. A DATA frame marked CE
is counted and its instance's next ACK echoes it. A DATA frame of a closed instance is acknowledged whole, one the store already has is
acknowledged where the instance is whole, and one that finds 256 blocks of its port stored is dropped and counted. A pacing slot sends the next block of an instance
whose slot is open. A stored block leaves for its posted rows as sixteen half-rows of the fill plane. The ACKs of a window's end and after it show what has come. An ACK frees the
blocks it shows. -/
def Obligations.FramesAndBlocks : Prop :=
  (∀ (d : Dev) (f : Frame), d.takeFrame f =
    if d.is Reg.WMK_CTL.WAYMARK_EN = true ∧ f.intact = true ∧ d.is (Reg.WMK_CV0.JOINED f.convoy.toNat) = true then
      some { d with heard := kset 0 d.heard (d.cvPeer f.convoy.toNat) d.now } else none) ∧
  (∀ (f : Frame) (s : State), s.dev.takeFrame f = none →
    (∀ x, Leaves (.data f x) s (s.dev.dropFrame f true)) ∧
    (f.convoy ≠ 511#9 ∨ s.dev.is Reg.WMK_CTL.WAYMARK_EN = false ∨ f.intact = false → ∀ x, Leaves (.ack f x) s (s.dev.dropFrame f false)) ∧
    (∀ x y, Leaves (.signal f x y) s (s.dev.dropFrame f false))) ∧
  (∀ (d : Dev) (f : Frame), (d.is Reg.WMK_CTL.WAYMARK_EN = false → d.dropFrame f true = d ∧ d.dropFrame f false = d) ∧
    (d.is Reg.WMK_CTL.WAYMARK_EN = true →
      let g := d.count (Reg.WMK_P_CRC_ERR.COUNT f.port.toNat) 1; let c := f.convoy.toNat; let n := f.num.toNat
      d.dropFrame f false = g ∧
      (f.intact = true ∨ d.is (Reg.WMK_CV0.JOINED c) = false ∨ g.rx c n = none → d.dropFrame f true = g) ∧
      (∀ r, f.intact = false → d.is (Reg.WMK_CV0.JOINED c) = true → g.rx c n = some r →
        ((∀ t, r.lastAck = some t → t + d.get Reg.WMK_TIMERS.ACK_NS ≤ d.now) → r.closed = false →
          d.dropFrame f true = g.sendAck c n (r.got.map (·.1))) ∧
        (∀ t, r.lastAck = some t → d.now < t + d.get Reg.WMK_TIMERS.ACK_NS → d.dropFrame f true = g) ∧
        (r.closed = true → d.dropFrame f true = g)))) ∧
  (∀ (f : Frame) (s : State) (e : Dev), let c := f.convoy.toNat; let n := f.num.toNat; let x := e.cvPort c
    let e2 := if f.ce then e.count (Reg.WMK_P_ECN_CE.COUNT x) 1 else e
    let e3 := if f.ce then e2.onRx c n fun r => { r with echo := true } else e2
    let stored := (e.rxBlks.filter fun b => e.cvPort b.convoy == x).length
    s.dev.takeFrame f = some e →
    (n < kget 0 e.rxLow c → ∀ w, Leaves (.data f w) s (e2.sendFullAck c n)) ∧
    (kget 0 e.rxLow c ≤ n → e3.rx c n = none →
      (stored < 256 → ∀ w, Leaves (.data f w) s (e3.rxStore f w)) ∧
      (256 ≤ stored → ∀ w, Leaves (.data f w) s (e3.count (Reg.WMK_P_STORE_DROPS.COUNT x) 1))) ∧
    (∀ r, kget 0 e.rxLow c ≤ n → e3.rx c n = some r →
      ((r.got.any fun g => g.1 == f.block.toNat) = true → ∀ w,
        Leaves (.data f w) s (if r.full (e.cvBlocks c) then e3.sendAck c n (r.got.map (·.1)) else e3)) ∧
      ((r.got.any fun g => g.1 == f.block.toNat) = false →
        (stored < 256 ∨ r.posted.isSome = true → ∀ w, Leaves (.data f w) s (e3.rxStore f w)) ∧
        (256 ≤ stored → r.posted = none → ∀ w, Leaves (.data f w) s (e3.count (Reg.WMK_P_STORE_DROPS.COUNT x) 1))))) ∧
  (∀ (f : Frame) (s : State) (e : Dev) (b : BitVec 14) (v : BitVec 32), let c := f.convoy.toNat; let n := f.num.toNat
    s.dev.takeFrame f = some e →
    (n < kget 0 e.rxLow c ∨ ((e.rx c n).any fun r => r.closed) = true → Leaves (.signal f b v) s (e.applySignal c n (b.toNat, v))) ∧
    (kget 0 e.rxLow c ≤ n → ((e.rx c n).any fun r => r.closed) = false →
      Leaves (.signal f b v) s (e.onRx c n fun r => { r with signal := some (b.toNat, v) }))) ∧
  (∀ (c : BitVec 9) (s : State), let d := s.dev; let k := c.toNat
    let ready := fun t : TxInst => t.convoy == k && d.slotOpen t && (d.nextBlock t).isSome
    (d.is Reg.WMK_CTL.WAYMARK_EN = false ∨ d.linkOf k = false ∨ (d.txInsts.find? ready = none ∧ d.slotWanted (d.cvPort k) = true) →
      NoEffect (.blockTransmit c) s) ∧
    (d.is Reg.WMK_CTL.WAYMARK_EN = true → d.linkOf k = true → d.txInsts.find? ready = none → d.slotWanted (d.cvPort k) = false →
      (d.serveOver k = none → NoEffect (.blockTransmit c) s) ∧
      (∀ v, d.serveOver k = some v →
        (d.now < v.nextAt ∨ d.serveNext s.dram v = none → NoEffect (.blockTransmit c) s) ∧
        (∀ j, v.nextAt ≤ d.now → d.serveNext s.dram v = some (j, false) → Gives (.blockTransmit c) s fun e =>
          e.crn = { d.crn with serve := some { v with bytes := v.bytes ++ d.serveBlock s.dram v j,
                                                      flying := v.flying.filter (fun b => b.idx != j) ++ [{ idx := j, sent := d.now }],
                                                      nextAt := d.now + d.cairnGap k } } ∧
          e.get (Reg.WMK_P_TX_BLOCKS.COUNT (d.cvPort k)) = min (d.get (Reg.WMK_P_TX_BLOCKS.COUNT (d.cvPort k)) + 1) (2 ^ 32 - 1)) ∧
        (∀ j, v.nextAt ≤ d.now → d.serveNext s.dram v = some (j, true) → Gives (.blockTransmit c) s fun e =>
          e.crn = { d.crn with serve := some { v with flying := v.flying.filter (fun b => b.idx != j) ++ [{ idx := j, sent := d.now }],
                                                      nextAt := d.now + d.cairnGap k } }))) ∧
    (∀ t b, d.is Reg.WMK_CTL.WAYMARK_EN = true → d.linkOf k = true → d.txInsts.find? ready = some t → d.nextBlock t = some b →
      Leaves (.blockTransmit c) s (d.transmit t b))) ∧
  (∀ (p : BitVec 3) (s : State), let d := s.dev
    let next := d.rxBlks.find? fun b => d.cvPort b.convoy == p.toNat && d.drainable b
    (next = none → NoEffect (.receiveStoreDrain p) s) ∧
    (∀ b, next = some b → Leaves (.receiveStoreDrain p) s
      (((({ d with rxBlks := eraseFirst b d.rxBlks } : Dev).fillTake b.convoy b.inst b.blk b.data).writeBlock b).updStores p.toNat))) ∧
  (∀ (c : BitVec 9) (s : State), let d := s.dev; let k := c.toNat
    let due := if d.sideConvoy k then none else d.openRx k fun r => !r.ended && decide (d.windowEnd k r.inst ≤ d.now)
    let again := d.openRx k fun r => (r.ended || d.sideConvoy k) && !r.full (d.cvBlocks k) && r.lastAck.all fun t => decide (t + d.get Reg.WMK_TIMERS.ACK_NS ≤ d.now)
    (due = none → NoEffect (.ackWindowEnd c) s) ∧ (again = none → NoEffect (.ackPeriodic c) s) ∧
    (∀ r, due = some r → Leaves (.ackWindowEnd c) s
      ((d.sendAck k r.inst ((r.got.filter fun g => decide (g.2 < d.windowEnd k r.inst)).map (·.1))).onRx k r.inst fun r => { r with ended := true })) ∧
    (∀ r, again = some r → Leaves (.ackPeriodic c) s (d.sendAck k r.inst (r.got.map (·.1))))) ∧
  (∀ (f : Frame) (m : BitVec 512) (s : State), let c := f.convoy.toNat; let n := f.num.toNat; let bits := m.toNat; let base := f.block.toNat
    (s.dev.is Reg.WMK_CTL.WAYMARK_EN = true → f.intact = true → f.convoy = 511#9 → base = 0 →
      Leaves (.ack f m) s (({ s.dev with heard := kset 0 s.dev.heard f.src.toNat s.dev.now } : Dev).mirAcked n (bitOf bits 0))) ∧
    (∀ e, s.dev.takeFrame f = some e → f.convoy ≠ 511#9 →
      (e.txInsts.find? (fun t => t.convoy == c && t.inst == n) = none → Leaves (.ack f m) s (e.serveAck c n bits base)) ∧
      ((e.txInsts.find? (fun t => t.convoy == c && t.inst == n)).isSome = true → Gives (.ack f m) s fun g =>
        ∀ x ∈ g.txBlks, x.convoy = c → x.inst = n → base ≤ x.blk → bitOf bits (x.blk - base) = false))) ∧
  (∀ (d : Dev) (bits base : Nat) (b : TxBlk) (t : Nat), ¬ (base ≤ b.blk ∧ bitOf bits (b.blk - base) = true) → b.sent = some t →
    (d.now < t + d.get Reg.WMK_TIMERS.RESEND_GAP_NS → d.ackBlock bits base b = d) ∧
    (t + d.get Reg.WMK_TIMERS.RESEND_GAP_NS ≤ d.now → d.sideConvoy b.convoy = false →
      (b.resends < max 1 (d.get Reg.WMK_TIMERS.RETRY_MAX) →
        (d.ackBlock bits base b).txBlks = updFirst (fun x => x.convoy == b.convoy && x.inst == b.inst && x.blk == b.blk)
          (fun x => { x with again := true }) d.txBlks) ∧
      (max 1 (d.get Reg.WMK_TIMERS.RETRY_MAX) ≤ b.resends →
        d.ackBlock bits base b = ((d.wmkRecord 0x0701 b.convoy b.blk).sendAbort b.convoy 0x0701).raiseArrival b.owner 0x0701))) ∧
  (∀ (d : Dev) (c n bits base : Nat) (v : ServeReq), d.serveOver c = some v → ∃ w, (d.serveAck c n bits base).crn = { d.crn with serve := some w } ∧
    w.bytes = v.bytes ∧
    (∀ b ∈ w.flying, b.idx / 72 = n → base ≤ b.idx % 72 → bitOf bits (b.idx % 72 - base) = false) ∧
    (∀ b ∈ v.flying, b.idx / 72 = n → ¬ (base ≤ b.idx % 72 ∧ bitOf bits (b.idx % 72 - base) = true) →
      b.sent + d.get Reg.WMK_TIMERS.RESEND_GAP_NS ≤ d.now → { b with again := true } ∈ w.flying) ∧
    (∀ b ∈ v.flying, b.idx / 72 ≠ n → b ∈ w.flying)) ∧
  (∀ (d : Dev) (n : Nat) (x : MirOut), d.mir.unacked.find? (fun x => x.inst == n) = some x →
    (∀ y ∈ (d.mirAcked n true).mir.unacked, y.inst ≠ n) ∧
    (d.now < x.sent + d.get Reg.WMK_TIMERS.RESEND_GAP_NS → d.mirAcked n false = d) ∧
    (x.sent + d.get Reg.WMK_TIMERS.RESEND_GAP_NS ≤ d.now →
      (x.resends < max 1 (d.get Reg.WMK_TIMERS.RETRY_MAX) →
        (d.mirAcked n false).get (Reg.WMK_P_RESENDS.COUNT d.mir.port) = min (d.get (Reg.WMK_P_RESENDS.COUNT d.mir.port) + 1) (2 ^ 32 - 1) ∧
        ∀ y ∈ (d.mirAcked n false).mir.unacked, y.inst = n → y.sent = d.now ∧ 1 ≤ y.resends) ∧
      (max 1 (d.get Reg.WMK_TIMERS.RETRY_MAX) ≤ x.resends →
        d.mirAcked n false = ((d.wmkRecord 0x0701 511 0).sendAbort 511 0x0701).raiseArrival noOwner 0x0701)))

/-- Hosts and Beacons (R380 to R382, R387, R388). A host that acts for a tenancy sets or adds to the Beacons of its range; any other write has
no effect. A read of any width gives the addressed bytes of the slots' debug views, and 0 outside the range. ARM registers a wait of the own tenancy's wait registers with what BCN_HWAITn_A holds, and its Beacon is released; a registered
wait only takes the new tag. A waiter that has waited longer than the limit ends: a host wait with status 3, the gate with the run. -/
def Obligations.HostBeacons : Prop :=
  (∀ (b : BitVec 4) (n : BitVec 14) (s : State),
    (s.dev.acting b.toNat = none → (∀ w v, NoEffect (.beaconSet b n w v) s) ∧ ∀ v, NoEffect (.beaconAdd b n v) s) ∧
    (∀ t, s.dev.acting b.toNat = some t →
      (s.dev.ownsBeacon t n.toNat = false → (∀ w v, NoEffect (.beaconSet b n w v) s) ∧ ∀ v, NoEffect (.beaconAdd b n v) s) ∧
      (s.dev.ownsBeacon t n.toNat = true →
        (∀ w v, Leaves (.beaconSet b n w v) s (s.dev.signalNow sigHost t n.toNat true (v.setWidth 32))) ∧
        ∀ v, Leaves (.beaconAdd b n v) s (s.dev.signalNow sigHost t n.toNat false v)))) ∧
  (∀ (d : Dev) (b : Nat), (d.mod.fw = false → d.acting b = none) ∧ (d.mod.fw = true → d.acting 0 = some 0) ∧
    (∀ t, b ≠ 0 → d.acting b = some t → d.mod.fw = true ∧ t < 16 ∧ (kget {} d.tens t).enable = true ∧ (kget {} d.tens t).port = b)) ∧
  (∀ (b : BitVec 4) (n : BitVec 8) (tag : BitVec 24) (s : State), let d := s.dev; let k := n.toNat; let A := d.get (Reg.BCN_HWAIT_A.BEACON k)
    let e := d.put (Reg.BCN_HWAIT_B.TAG k) tag.toNat
    (d.acting b.toNat ≠ some (k / 16) → NoEffect (.arm b n tag) s) ∧
    (d.acting b.toNat = some (k / 16) →
      (d.get (Reg.BCN_HWAIT_B.STATUS k) = 1 → Leaves (.arm b n tag) s
        { e with hwaits := d.hwaits.map fun w => if w.n = k then { w with tag := tag.toNat } else w }) ∧
      (d.get (Reg.BCN_HWAIT_B.STATUS k) ≠ 1 → d.ownsBeacon (k / 16) A = false → Leaves (.arm b n tag) s e) ∧
      (d.get (Reg.BCN_HWAIT_B.STATUS k) ≠ 1 → d.ownsBeacon (k / 16) A = true → ∃ w : HWait,
        w.n = k ∧ w.ten = k / 16 ∧ w.bcn = A ∧ w.take = d.is (Reg.BCN_HWAIT_A.MODE k) ∧ w.target.toNat = d.get (Reg.BCN_HWAIT_A.TARGET k) % 2 ^ 32 ∧
        w.wd = d.is (Reg.BCN_HWAIT_A.WD_EN k) ∧ w.vector = d.get (Reg.BCN_HWAIT_A.VECTOR k) ∧ w.tag = tag.toNat ∧ w.waited = 0 ∧
        Leaves (.arm b n tag) s ((({ e with hwaits := waitInsert w d.hwaits } : Dev).put (Reg.BCN_HWAIT_B.STATUS k) 1).release A)))) ∧
  (∀ (n : BitVec 8) (s : State), let d := s.dev; let lim := d.get Reg.BCN_WD_LIMIT.NS
    let above := d.hwaits.find? fun w => w.n == n.toNat && w.wd && decide (lim < w.waited)
    (lim = 0 ∨ above = none → NoEffect (.bcnWaitTimeout (.host n)) s) ∧
    (∀ w, lim ≠ 0 → above = some w → Gives (.bcnWaitTimeout (.host n)) s fun e =>
      e.get (Reg.BCN_HWAIT_B.STATUS w.n) = 3 ∧ (∀ x ∈ e.hwaits, x.n ≠ w.n))) ∧
  (∀ s : State, let d := s.dev; let lim := d.get Reg.BCN_WD_LIMIT.NS
    (lim = 0 ∨ d.gate = none → NoEffect (.bcnWaitTimeout .gate) s) ∧
    (∀ g, d.gate = some g → lim ≠ 0 → g.released = false → lim < g.waited → d.run.phase = .gate → Leaves (.bcnWaitTimeout .gate) s
      ((d.wdTimeout d.rt.tenancy g.bcn (0xFF0000 + g.seg) 256 g.take).endAtBoundary 0x0601 0 0))) ∧
  (∀ (d : Dev) (b off n : Nat), (d.bar2Read b off n).length = n ∧ ∀ k < n, let x := (d.bar2Read b off n)[k]?
    (d.acting b = none → x = some 0#8) ∧
    (∀ t, d.acting b = some t →
      (d.ownsBeacon t ((off + k) / 8) = false → x = some 0#8) ∧
      (d.ownsBeacon t ((off + k) / 8) = true → x = some (BitVec.ofNat 8 (d.beaconView ((off + k) / 8) / 2 ^ (8 * ((off + k) % 8))))))) ∧
  (∀ (d : Dev) (b : Nat), d.beaconView b % 2 ^ 32 = (d.beacon b).toNat ∧ d.beaconView b / 2 ^ 32 % 2 ^ 8 = min 255 (d.waiters b) ∧
    d.beaconView b / 2 ^ 40 % 2 ^ 8 = 0 ∧ d.beaconView b / 2 ^ 48 = kget 0 d.bcnSig b)

/-- Slots, tenancies, switches, host messages and rings (R396, R397, R410 to R417, R498, R554). BIND and UNBIND are refused with CMD_REFUSED where
the slot is not free or not the own tenancy's, the same command waits for it, or the ring is owed four records; else they take effect at
once, or wait for the boundary while a segment runs. A slot word is written only by its tenancy's host. TEN_APPLY that acts for another
tenancy than 0 is refused, and takes effect only where R411 allows the configuration. SWITCH is refused where the tenancy is disabled, its
ring is owed four records, or it has asked already. Of the switch requests the highest PRIO, then the lowest tenancy, wins;
a switch saves the resident tenancy's context where it has a Route, ends its host waits and its gate, zeroes its Beacons and those of the
winner, and makes the winner resident with the Route of its context, or without one where it left none or the context fails. A host's message to a destination it may reach is accepted, sets BUSY and goes on
where there is room; one to a core of a tenancy that is enabled and not resident waits for the switch it asks for; any other, and one that
asks for a receipt its ring has no room for, is refused. A ring that is enabled starts from index 0. -/
def Obligations.SlotsAndTenancies : Prop :=
  (∀ (b : BitVec 4) (n : BitVec 10) (s : State), let d := s.dev; let k := n.toNat
    (d.acting b.toNat = none → NoEffect (.bind b n) s ∧ NoEffect (.unbind b n) s) ∧
    (∀ t, d.acting b.toNat = some t →
      (d.mayOwe t = false ∨ d.slotState k ≠ 0 ∨ (∃ u, .bind u k ∈ d.slotOps) → Leaves (.bind b n) s (d.event (Reg.SES_EVENT.CMD_REFUSED t))) ∧
      (d.mayOwe t = false ∨ d.slotState k ≠ 1 ∨ d.slotTen k ≠ t ∨ (∃ u, .unbind u k ∈ d.slotOps) →
        Leaves (.unbind b n) s (d.event (Reg.SES_EVENT.CMD_REFUSED t))) ∧
      (d.mayOwe t = true → d.slotState k = 0 → (∀ u, .bind u k ∉ d.slotOps) →
        (d.running = false → Leaves (.bind b n) s (((d.owe t).setSlotWord k 0 (BitVec.ofNat 32 (1 + 16 * t))).complete t 0)) ∧
        (d.running = true → Leaves (.bind b n) s { d.owe t with slotOps := d.slotOps ++ [.bind t k] })) ∧
      (d.mayOwe t = true → d.slotState k = 1 → d.slotTen k = t → (∀ u, .unbind u k ∉ d.slotOps) →
        (d.running = false → Leaves (.unbind b n) s (((d.owe t).freeSlot k).complete t 0)) ∧
        (d.running = true → Leaves (.unbind b n) s { d.owe t with slotOps := d.slotOps ++ [.unbind t k] })))) ∧
  (∀ (b t : BitVec 4) (w : BitVec 5) (v : BitVec 32) (s : State), let d := s.dev; let k := d.get (Reg.SES_SLOT_SEL.SLOT t.toNat)
    (d.acting b.toNat ≠ some t.toNat ∨ d.slotState k = 0 ∨ d.slotTen k ≠ t.toNat → NoEffect (.slotWordWrite b t w v) s) ∧
    (d.acting b.toNat = some t.toNat → d.slotState k ≠ 0 → d.slotTen k = t.toNat →
      (d.running = true → Leaves (.slotWordWrite b t w v) s { d with slotOps := d.slotOps ++ [.write t.toNat k w.toNat v] }) ∧
      (d.running = false → w ≠ 0#5 → Leaves (.slotWordWrite b t w v) s (d.setSlotWord k w.toNat v)) ∧
      (d.running = false → w = 0#5 → Leaves (.slotWordWrite b t w v) s
        (d.setSlotWord k 0 (BitVec.ofNat 32 ((d.slotWord k 0).toNat % 2 ^ 8 + bitsOf v.toNat 8 8 * 2 ^ 8)))))) ∧
  (∀ (b t : BitVec 4) (s : State), let d := s.dev
    (d.acting b.toNat = none → NoEffect (.tenApply b t) s) ∧
    (∀ u, u ≠ 0 → d.acting b.toNat = some u → Leaves (.tenApply b t) s (d.event (Reg.SES_EVENT.CMD_REFUSED u))) ∧
    (d.acting b.toNat = some 0 →
      (d.mayOwe 0 = false ∨ d.tenOk t.toNat (d.tenRegs t.toNat) = false → Leaves (.tenApply b t) s (d.event (Reg.SES_EVENT.CMD_REFUSED 0))) ∧
      (d.tenOk t.toNat (d.tenRegs t.toNat) = true → d.mayOwe 0 = true → Leaves (.tenApply b t) s
        (((({ d with tens := kset {} d.tens t.toNat (d.tenRegs t.toNat) } : Dev).updViews).owe 0).complete 0 0)))) ∧
  (∀ (b : BitVec 4) (s : State), let d := s.dev
    (d.acting b.toNat = none → NoEffect (.switch b) s) ∧
    (∀ t, d.acting b.toNat = some t → d.mayOwe t = false ∨ (kget {} d.tens t).enable = false ∨ t ∈ d.switchOwed →
      Leaves (.switch b) s (d.event (Reg.SES_EVENT.CMD_REFUSED t))) ∧
    (∀ t, d.acting b.toNat = some t → d.mayOwe t = true → (kget {} d.tens t).enable = true → t ∉ d.switchOwed →
      (d.resident = some t → Leaves (.switch b) s ((d.owe t).complete t 0)) ∧
      (d.resident ≠ some t → Leaves (.switch b) s ((({ d with switchOwed := d.switchOwed ++ [t] } : Dev).owe t).requestSwitch t)))) ∧
  (∀ (d : Dev) (t : Nat), d.winner = some t → t ∈ d.switchReqs ∧ ∀ u ∈ d.switchReqs,
    (kget {} d.tens u).prio < (kget {} d.tens t).prio ∨ ((kget {} d.tens u).prio = (kget {} d.tens t).prio ∧ t ≤ u)) ∧
  (∀ (x : Bool) (s : State), let d := s.dev
    (d.switchReady = false → NoEffect (.tenancySwitch x) s) ∧
    (∀ t, d.switchReady = true → d.winner = some t → (∀ a ∈ d.leaveResident.afterSwitch, a.1 ≠ t) →
      ∃ e : Dev, Stores (.tenancySwitch x) s (d.switchMem s.dram) e ∧ e.resident = some t ∧ t ∉ e.switchReqs ∧
        e.is (Reg.SES_EVENT.SWITCHED t) = true ∧ (∀ b, d.leaveResident.ownsBeacon t b = true → e.beacon b = 0#32) ∧
        ((d.leaveResident.contexts.find? fun c => c.1 == t) = none → e.rt = {}) ∧
        (∀ c, (d.leaveResident.contexts.find? fun c => c.1 == t) = some c →
          (x = true → e.rt = c.2.rt) ∧ (x = false → e.rt = {} ∧ e.is (Reg.SES_EVENT.RESTORE_FAIL t) = true)))) ∧
  (∀ d : Dev, d.running = false → let e := d.leaveResident
    (d.resident = none → e = d) ∧
    (∀ u, d.resident = some u →
      (d.rt.loaded = true → e.contexts = d.contexts.filter (fun c => c.1 ≠ u) ++ [(u, d.saveContext)]) ∧
      (d.rt.loaded = false → e.contexts = d.contexts) ∧
      (∀ w ∈ e.hwaits, w.ten ≠ u) ∧ e.gate = none ∧ e.afterSwitch = d.afterSwitch ∧ (∀ b, d.ownsBeacon u b = true → e.beacon b = 0#32))) ∧
  (∀ (b t : BitVec 4) (c : BitVec 32) (s : State), let d := s.dev; let n := t.toNat
    let e := (d.put (Reg.SES_MSG_CTL.LEN n) (bitsOf c.toNat 24 6)).put (Reg.SES_MSG_CTL.TAG n) (bitsOf c.toNat 0 24)
    let m := e.hostMsg n
    (d.acting b.toNat ≠ some n → NoEffect (.send b t c) s ∧ NoEffect (.ringEnable b t c) s) ∧
    (d.acting b.toNat = some n →
      (bitOf c.toNat 31 = false ∨ d.is (Reg.SES_MSG_CTL.BUSY n) = true → Leaves (.send b t c) s e) ∧
      (bitOf c.toNat 31 = true → d.is (Reg.SES_MSG_CTL.BUSY n) = false →
        (m.receipt = true → d.mayOwe n = false → Leaves (.send b t c) s (e.event (Reg.SES_EVENT.CMD_REFUSED n))) ∧
        (m.receipt = false ∨ d.mayOwe n = true →
          let away := d.resident ≠ some n ∧ bitsOf m.dest 21 3 = 0 ∧ (kget {} d.tens n).enable = true
          let o := if m.receipt then e.owe n else e
          (d.msgToComb m = true ∨ (¬ away ∧ d.msgToCore m = true) →
            Leaves (.send b t c) s ((({ o with hostMsgs := d.hostMsgs ++ [m] } : Dev).put (Reg.SES_MSG_CTL.BUSY n) 1).hostForward)) ∧
          (d.msgToComb m = false → away → Leaves (.send b t c) s
            ((({ e with afterSwitch := d.afterSwitch ++ [(n, .message m)] } : Dev).put (Reg.SES_MSG_CTL.BUSY n) 1).requestSwitch n)) ∧
          (d.msgToComb m = false → ¬ away → d.msgToCore m = false → Leaves (.send b t c) s (e.event (Reg.SES_EVENT.CMD_REFUSED n))))) ∧
      Gives (.ringEnable b t c) s fun e => e.is (Reg.SES_RING_CFG.ENABLE n) = bitOf c.toNat 31 ∧
        (12 ≤ bitsOf c.toNat 0 5 ∧ bitsOf c.toNat 0 5 ≤ 20 → e.get (Reg.SES_RING_CFG.LOG2SIZE n) = bitsOf c.toNat 0 5 % 2 ^ 5) ∧
        (bitOf c.toNat 31 = true → e.get (Reg.SES_RING_PROD.INDEX n) = 0 ∧ e.get (Reg.SES_RING_CONS.INDEX n) = 0)))

/-- Register reads and writes (R10 to R14, R419, R420, R465, R499, R528, R554, R593). A read of any width returns the addressed bytes, in address order, of RTE_EVENT
and SES_EVENT the copy of the tenancy that the host acts for, and zeros in another binding's view in recovery and at another tenancy's own registers, which drop writes too. A write before firmware runs,
by a host that acts for no tenancy, or narrower than 32 bits changes nothing; nor does a misaligned one (the model's choice: log entry 111);
in recovery only binding 0 writes, the SEC block and the staging window. A read-only and a write-only field take nothing; an RW field takes a
defined encoding and keeps its value at any other; 1 clears a set RW1C bit, unless the device set it in the same tick, and releases the record
that it held; anything else leaves it; no other field changes. A register whose write is a command runs it. What another tenancy than 0, or
another binding than 0 that acts for tenancy 0, may not write stays as it is. -/
def Obligations.RegisterWrites : Prop :=
  (∀ (d : Dev) (b off n k : Nat), k < n → (d.hostRead b off n)[k]? = some (d.hostByte b (off + k))) ∧
  (∀ (d : Dev) (b off : Nat), let word (o k : Nat) : Byte := BitVec.ofNat 8 (d.read32 o / 2 ^ (8 * k))
    (d.inRecovery = true → b ≠ 0 → d.hostByte b off = 0#8) ∧
    (d.inRecovery = false → off / 4 * 4 ≠ 0x30014 → off / 4 * 4 ≠ 0x70004 →
      (d.hidden b off = false → d.hostByte b off = word (off / 4 * 4) (off % 4)) ∧ (d.hidden b off = true → d.hostByte b off = 0#8)) ∧
    (d.inRecovery = false → ∀ k < 4,
      (d.acting b = none → d.hostByte b (0x30014 + k) = 0#8 ∧ d.hostByte b (0x70004 + k) = 0#8) ∧
      (∀ u, d.acting b = some u → d.hostByte b (0x30014 + k) = word (0x30014 + 0x4000000 * u) k ∧
        d.hostByte b (0x70004 + k) = word (0x70004 + 0x4000000 * u) k))) ∧
  (∀ (b : BitVec 4) (off : BitVec 24) (w : BitVec 7) (v : BitVec 64) (s : State), let d := s.dev
    (d.mod.fw = false → d.inRecovery = false → NoEffect (.registerWrite b off w v) s) ∧
    (d.inRecovery = true → b ≠ 0#4 → NoEffect (.registerWrite b off w v) s) ∧
    (d.inRecovery = true → off.toNat < 0xA0000 → NoEffect (.registerWrite b off w v) s) ∧
    (d.inRecovery = false → d.acting b.toNat = none → NoEffect (.registerWrite b off w v) s) ∧
    (d.inRecovery = false → d.hidden b.toNat off.toNat = true → d.acting b.toNat ≠ some 0 ∨ ownerWordAt off.toNat = false →
      NoEffect (.registerWrite b off w v) s) ∧
    (d.inRecovery = false → ¬ (w = 32#7 ∧ off.toNat % 4 = 0) → ¬ (w = 64#7 ∧ off.toNat % 8 = 0) → NoEffect (.registerWrite b off w v) s) ∧
    (∀ u, d.acting b.toNat = some u → d.mayWrite b.toNat u off.toNat = false → off.toNat % 4 = 0 → w = 32#7 → NoEffect (.registerWrite b off w v) s) ∧
    (d.mod.fw = true → off.toNat % 4 = 0 → w = 32#7 → b = 0#4 →
      (off.toNat = 0x3000C → Leaves (.registerWrite b off w v) s (d.rteCmd 0 (v.toNat % 2 ^ 32))) ∧
      (off.toNat = 0x40008 → Leaves (.registerWrite b off w v) s (d.memCmd 0 (v.toNat % 2 ^ 32))) ∧
      (off.toNat = 0x70000 → Leaves (.registerWrite b off w v) s (d.sesCmd 0 (v.toNat % 2 ^ 32))) ∧
      (off.toNat = 0x9000C → Leaves (.registerWrite b off w v) s (d.crnCmd 0 (v.toNat % 2 ^ 32))))) ∧
  (∀ (d : Dev) (b u : Nat), d.acting b = some u → (∀ off < 0x61000, d.hidden b off = false) ∧
    (∀ t < 16, (d.hidden b (0x61000 + 0x100 * t) = true ↔ u ≠ t) ∧ (d.hidden b (0x70800 + 0x20 * t) = true ↔ u ≠ t) ∧
      (d.hidden b (0x71000 + 0x100 * t) = true ↔ u ≠ t) ∧ (d.hidden b (0x72000 + 0x80 * t) = true ↔ u ≠ t) ∧
      (d.hidden b (0x70100 + 0x40 * t) = true ↔ u ≠ t ∧ u ≠ 0)) ∧
    (∀ e < 256, d.hidden b (0x62000 + 0x10 * e) = true ↔ u ≠ d.get (Reg.BCN_COMB_A.OWNER e)) ∧
    (∀ c < 512, d.hidden b (0x88000 + 0x40 * c) = true ↔ u ≠ d.get (Reg.WMK_CV0.TENANCY c) ∧ u ≠ 0)) ∧
  (∀ (f0 f : Fld) (v : Nat) (d : Dev), let e := d.writeField f0 f v
    (f.acc = .ro ∨ f.acc = .wo → e = d) ∧
    (f.acc = .rw → (encodingOk f0 v = true → e.get f = v % 2 ^ f.width ∧ RegsKept e d [f]) ∧ (encodingOk f0 v = false → e = d)) ∧
    (f.acc = .rw1c → (v ≠ 1 ∨ d.is f = false → e = d) ∧
      (v = 1 → d.is f = true →
        ((∀ g ∈ [Reg.RTE_FAULT_CODE.VALID, Reg.BCN_WD_REC.VALID 0, Reg.BCN_WD_REC.VALID 1], f.key ≠ g.key) →
          (f.key ∉ d.justSet → e.get f = 0) ∧ (f.key ∈ d.justSet → e.get f = d.get f)) ∧
        RegsKept e d [f, Reg.RTE_FAULT_CODE.VALID, Reg.BCN_WD_REC.VALID 0, Reg.BCN_WD_REC.VALID 1] ∧
        e.rest = ({ d with memHeld := e.memHeld } : Dev).rest ∧
        (f = Reg.MEM_EVENT.PERSISTENT ∨ f = Reg.MEM_EVENT.CH_LOST → e.memHeld = false) ∧
        (f = Reg.RTE_EVENT.FAULT d.recTen → d.get Reg.RTE_FAULT_CODE.CODE / 256 ≠ 1 → e.get Reg.RTE_FAULT_CODE.VALID = 0) ∧
        (f = Reg.RTE_EVENT.LOAD_FAIL d.recTen → d.get Reg.RTE_FAULT_CODE.CODE / 256 = 1 → e.get Reg.RTE_FAULT_CODE.VALID = 0) ∧
        (f = Reg.BCN_EVENT.WD_TIMEOUT → e.get (Reg.BCN_WD_REC.VALID 0) = 0 ∧ e.get (Reg.BCN_WD_REC.VALID 1) = 0)))) ∧
  (∀ (d : Dev) (b v : Nat), d.acting b = some 0 →
    (bitsOf v 0 4 = 1 → d.crnCmd b v = d.restoreCmd) ∧ (bitsOf v 0 4 = 7 → d.crnCmd b v = d.cancelQueued)) ∧
  (∀ (d : Dev) (b u : Nat), u ≠ 0 → u < 16 → d.mayWrite b u 0x40008 = false ∧ d.mayWrite b u 0x9000C = false ∧ d.mayWrite b u 0x80100 = false ∧
    d.mayWrite b u 0x2000040 = false ∧ d.mayWrite b u 0x3000C = true ∧ d.mayWrite b u 0x10004 = true ∧
    (d.mayWrite b u 0xD0008 = true ↔ d.resident = some u) ∧ (∀ t < 16, d.mayWrite b u (0x10100 + 4 * t) = true ↔ t = u)) ∧
  (∀ (d : Dev) (b off : Nat), d.mayWrite 0 0 off = true ∧
    (b ≠ 0 → (d.mayWrite b 0 0x30030 = false ∧ d.mayWrite b 0 0x2000040 = false ∧ (0xA0000 ≤ off → off < 0xC0000 → d.mayWrite b 0 off = false)) ∧
      d.mayWrite b 0 0x40008 = true))

/-- The memory window (R283, R290, R493 to R505, R528). Configuration is retried until the firmware runs. A request that no binding serves is
counted. A read before CXL is negotiated, or before the decoder is committed, answers all ones; one while the device is held for its DRAM's
temperature waits; a read that meets a failing block is reported and answers all ones; a view reads 0xFF outside its regions. A view's write
leaves every byte that it does not reach, every shadow slot, and every byte outside the request; a byte it reaches takes the value written,
unless its block fails, which a write of part of it leaves alone; a write to a block that a step is to copy waits. The decoder commits only
R503's programming. -/
def Obligations.HostMemory : Prop :=
  (∀ (b : BitVec 4) (off : BitVec 12) (op : CfgOp) (s : State), let d := s.dev
    (d.mod.ready = false → Leaves (.configRequest b off op) s (d.emit (.config b.toNat true 0))) ∧
    (d.inRecovery = true → b ≠ 0#4 → d.mod.ready = true → NoEffect (.configRequest b off op) s) ∧
    (d.mod.ready = true → d.inRecovery = false → off = 0#12 →
      Leaves (.configRequest b off .read) s (d.emit (.config b.toNat false (0x4707 * 2 ^ 16 + 0x1F3D)))) ∧
    (∀ v, d.mod.ready = true → d.inRecovery = false → Gives (.configRequest b off (.write v)) s fun e => e.out.getLast? = some (.config b.toNat false 0))) ∧
  (∀ (p : Option (BitVec 12)) (io : Bool) (a : BitVec 40) (n : BitVec 9) (s : State), let d := s.dev; let k := n.toNat
    let ff := Output.reply (List.replicate k 0xFF#8)
    (d.bindingOf p = none → io = false → Leaves (.cxlMemRead p io a n) s ((d.count (Reg.HP_UNBOUND.COUNT 0) 1).emit ff)) ∧
    (∀ b, d.bindingOf p = some b →
      (d.mod.fw = false → io = false → Leaves (.cxlMemRead p io a n) s (d.emit ff)) ∧
      (d.mod.fw = false → io = true → Leaves (.cxlMemRead p io a n) s (d.emit (.cxl b cxlUnsupported a.toNat))) ∧
      (d.mod.fw = true → io = false → d.is (Reg.HP_LINK.CXL b) = false → Leaves (.cxlMemRead p io a n) s (d.emit ff)) ∧
      (d.mod.fw = true → io = false → d.is (Reg.HP_LINK.CXL b) = true → d.is Reg.PWR_STATE.THERMAL_HOLD = false ∨ d.pwr.mr4Over = [] → let w := d.wakeUp .cxlMem
        (kget false d.hdm b = false → Leaves (.cxlMemRead p io a n) s ((w.event Reg.MEM_EVENT.UNMAPPED).emit ff)) ∧
        (kget false d.hdm b = true → Leaves (.cxlMemRead p io a n) s (w.serveRead b false a.toNat k s.dram))) ∧
      (d.mod.fw = true → io = false → d.is (Reg.HP_LINK.CXL b) = true → d.is Reg.PWR_STATE.THERMAL_HOLD = true → d.pwr.mr4Over ≠ [] →
        Leaves (.cxlMemRead p io a n) s { d with parked := d.parked ++ [.cxlMemRead p io a n] }) ∧
      (d.mod.fw = true → io = true → kget false d.hdm b = true → Leaves (.cxlMemRead p io a n) s (d.emit (.cxl b cxlUnsupported a.toNat))) ∧
      (d.mod.fw = true → io = true → kget false d.hdm b = false → Leaves (.cxlMemRead p io a n) s ((d.wakeUp .cxlMem).serveRead b true a.toNat k s.dram)))) ∧
  (∀ (d : Dev) (b a n : Nat) (m : Memory), ((List.range n).all fun i => d.reaches b (a + i)) = true →
    (d.firstBad m a n = none →
      d.serveRead b true a n m = (d.useChecks a n).emit (.reply ((List.range n).map fun i => d.readByte m (a + i))) ∧
      d.serveRead b false a n m = ((d.holdLine b (a / 64 * 64)).useChecks a n).emit (.reply ((List.range n).map fun i => d.readByte m (a + i)))) ∧
    (∀ x io, d.firstBad m a n = some x → d.serveRead b io a n m = (d.meetBad (some x) .cxlMem).emit (.reply (List.replicate n 0xFF#8)))) ∧
  (∀ (d : Dev) (b a n : Nat) (m : Memory), ((List.range n).any fun i => d.reaches b (a + i)) = false →
    d.hostBytes m b a n = List.replicate n 0xFF#8) ∧
  (∀ (d : Dev) (b a : Nat), d.reaches b a = true → a < 567 * 2 ^ 30 ∧ (d.dramAt a).isSome = true ∧
    (b ≠ 0 → ∃ t, d.acting b = some t ∧ d.inRegions t a 1 = true)) ∧
  (∀ (p : Option (BitVec 12)) (io : Bool) (a : BitVec 40) (bs : List Byte) (s : State), let d := s.dev
    (d.writeView p io = none → ∃ e, exec (.cxlMemWrite p io a bs) s = .next { s with dev := e }) ∧
    (∀ b, d.writeView p io = some b → let w := d.wakeUp .cxlMem
      d.writeWaits a.toNat bs.length = true → w.writeWaits a.toNat bs.length = true →
        Leaves (.cxlMemWrite p io a bs) s { w with heldWrites := w.heldWrites ++ [.cxlMemWrite p io a bs] }) ∧
    (d.crn.step = none → ∃ m e, Stores (.cxlMemWrite p io a bs) s m e ∧
      BytesKept s.dram m fun k => ∃ b x, d.writeView p io = some b ∧ a.toNat ≤ x ∧ x < a.toNat + bs.length ∧ d.hostLands b x = true ∧
        d.dramAt x = some k) ∧
    (∀ b v, d.crn.step = none → d.writeView p io = some b → bs = [v] → d.hostLands b a.toNat = true →
      (d.isBad s.dram (a.toNat / 256 * 256) = false → ∃ e, Stores (.cxlMemWrite p io a bs) s (d.writeByte s.dram a.toNat v) e) ∧
      (d.isBad s.dram (a.toNat / 256 * 256) = true → ∃ e, exec (.cxlMemWrite p io a bs) s = .next { s with dev := e }))) ∧
  (∀ (b : BitVec 4) (base size skip : BitVec 64) (ways : BitVec 8) (s : State), let d := s.dev
    let ok := base.toNat = d.bar4 b.toNat ∧ size.toNat = 567 * 2 ^ 30 ∧ skip = 0#64 ∧ ways = 1#8
    (d.mod.fw = false → NoEffect (.hdmDecoderCommit b base size skip ways) s) ∧
    (d.mod.fw = true → Gives (.hdmDecoderCommit b base size skip ways) s fun e =>
      (kget false e.hdm b.toNat = true ↔ ok) ∧ (kget false e.hdmErr b.toNat = true ↔ ¬ ok)))

/-- Coherence, translations, the link and vectors (R506, R509, R515 to R518, R553, R555). A line that is not held is not invalidated; a snoop is
answered RspIHitI. An answer counts only for a translation that is asked for; a grant is cached; an ATS time-out is an answer with an error. An
invalidation removes the entries of its range at once. The link's loss empties the ATS caches, stops a Route that uses host memory with 0x0801,
and ends a fill from the host and a serve over it; its return sends what waited, in order.
Unmasking sends a pending vector. -/
def Obligations.TranslationAndLink : Prop :=
  (∀ (b : BitVec 4) (line : BitVec 40) (s : State), let x := (b.toNat, line.toNat)
    (x ∉ s.dev.snoop → NoEffect (.backInvalidate b line) s) ∧
    (x ∈ s.dev.snoop → Gives (.backInvalidate b line) s fun e => x ∉ e.snoop ∧ e.out = s.dev.out ++ [.cxl b.toNat cxlBISnpInv line.toNat])) ∧
  (∀ (b : BitVec 4) (line : BitVec 64) (s : State), Leaves (.h2dSnoop b line) s (s.dev.emit (.cxl b.toNat cxlRspIHitI line.toNat))) ∧
  (∀ (b : BitVec 4) (pg : BitVec 52) (w : Bool) (s : State), let d := s.dev; let x := (b.toNat, pg.toNat, w)
    (x ∉ d.xlatPend → (∀ g e, NoEffect (.translationCompletion b pg w g e) s) ∧ NoEffect (.atsTimeout b pg w) s) ∧
    (x ∈ d.xlatPend → let d1 : Dev := { d with xlatPend := eraseFirst x d.xlatPend }
      Leaves (.translationCompletion b pg w true false) s (((d1.cachePage b.toNat pg.toNat).releaseLines b.toNat pg.toNat).retrySettle b.toNat pg.toNat) ∧
      (∀ g, Leaves (.translationCompletion b pg w g true) s ((d1.xlatFails b.toNat pg.toNat w true).retrySettle b.toNat pg.toNat)) ∧
      Leaves (.translationCompletion b pg w false false) s ((d1.xlatFails b.toNat pg.toNat w false).retrySettle b.toNat pg.toNat) ∧
      Leaves (.atsTimeout b pg w) s ((d1.xlatFails b.toNat pg.toNat w true).retrySettle b.toNat pg.toNat))) ∧
  (∀ (d : Dev) (v pg : Nat), (∀ e ∈ d.ats, e.1 ≠ v) → (v, pg) ∈ (d.cachePage v pg).ats) ∧
  (∀ (b : BitVec 4) (pg : BitVec 52) (n : Nat) (s : State), Gives (.invalidateRequest b pg n) s fun e =>
    ∀ x ∈ e.ats, x ∈ s.dev.ats ∧ ¬ (x.1 = b.toNat ∧ pg.toNat ≤ x.2 ∧ x.2 < pg.toNat + n)) ∧
  (∀ (b : BitVec 4) (s : State), let d := s.dev
    (d.mod.fw = false ∨ d.is (Reg.HP_XLAT_CTL.SUSPENDED b.toNat) = false → NoEffect (.retry b) s) ∧
    (d.mod.fw = true → d.is (Reg.HP_XLAT_CTL.SUSPENDED b.toNat) = true → Gives (.retry b) s fun e =>
      (∀ f ∈ e.xlatFail, f ∈ d.xlatFail ∧ f.1 ≠ b.toNat) ∧ (∀ f ∈ d.xlatFail, f.1 = b.toNat → (f.1, f.2.1, f.2.2.1) ∈ e.xlatPend ∧ (f.1, f.2.1, f.2.2.1) ∈ e.xlatRetry))) ∧
  (∀ s : State, let d := s.dev
    (d.linkUp = false → NoEffect .hostLinkDown s) ∧
    (d.linkUp = true → d.usesHost = false → d.fillFromHost = false → d.serveOnHost = false → Leaves .hostLinkDown s { d with linkUp := false, ats := [] }) ∧
    (d.linkUp = true → d.usesHost = true → d.fillFromHost = false → d.serveOnHost = false → d.running = false →
      Leaves .hostLinkDown s (({ d with linkUp := false, ats := [] } : Dev).blockFault noOwner 0x0801 true)) ∧
    (d.linkUp = true →
      let e := if d.usesHost then ({ d with linkUp := false, ats := [] } : Dev).raiseArrival noOwner 0x0801 else { d with linkUp := false, ats := [] }
      let f := if e.fillFromHost then e.fillFail else e
      Leaves .hostLinkDown s (if f.serveOnHost then f.serveEnd true s.dram else f))) ∧
  (∀ (x g l c : Bool) (s : State), (s.dev.mod.perst = true → NoEffect (.hostLinkUp x g l c) s) ∧
    (s.dev.mod.perst = false → Gives (.hostLinkUp x g l c) s fun e => e.linkUp = true ∧ e.linkWait = [] ∧ e.out = s.dev.out ++ s.dev.linkWait)) ∧
  (∀ (b : BitVec 4) (n : BitVec 6) (s : State), let d := s.dev; let k := b.toNat * 64 + n.toNat
    Gives (.msixUnmask b n) s fun e => kget true e.msixMask k = false ∧ kget false e.msixPend k = false ∧
      (kget false d.msixPend k = false → e.out = d.out ∧ e.linkWait = d.linkWait) ∧
      (kget false d.msixPend k = true → d.linkUp = true → e.out = d.out ++ [.msix b.toNat n.toNat]) ∧
      (kget false d.msixPend k = true → d.linkUp = false → e.linkWait = d.linkWait ++ [.msix b.toNat n.toNat]))

/-- DOE objects, attestation and Lantern's ring (R519, R528, R542, R543, R559 to R563). A mailbox is served when the device is ready, in recovery
binding 0's alone. Recovery answers attestation with error 3; else GET_CERT answers the identity or the alias certificate, and an error for
another number, and GET_MEASUREMENTS its body with a signature by the alias key, whose nonce is a free value. A table's bytes sum to 0. A request of another type gets the DOE error response, an
attestation request that is not served its error byte. The ring is tenancy 0's hosts' alone: enabled, it starts from index 0. Its oldest record goes out with
the link up and room, PROD after it; without room it is lost. -/
def Obligations.DoeAndLantern : Prop :=
  (∀ (b : BitVec 4) (s : State), let d := s.dev; let k := b.toNat
    (d.doeServed k = false → NoEffect (.doeDiscovery b) s ∧ NoEffect (.tableAccess b) s ∧ (∀ w, NoEffect (.getCert b w) s) ∧
      (∀ x, NoEffect (.getMeasurements b x) s) ∧ (∀ r, NoEffect (.doeErrorResponse b r) s)) ∧
    (d.doeServed k = true →
      Leaves (.doeDiscovery b) s (d.emit (.doe k doeObjects)) ∧ Leaves (.tableAccess b) s (d.emit (.doe k cdat)) ∧
      (d.inRecovery = true → (∀ w, Leaves (.getCert b w) s (d.emit (.doe k [0xFF, 1, 3, 0]))) ∧
        ∀ x, Leaves (.getMeasurements b x) s (d.emit (.doe k [0xFF, 1, 3, 0]))) ∧
      (d.inRecovery = false →
        (∀ w, 1 < w.toNat → ∃ c : Nat, (c = 1 ∨ c = 2) ∧ Gives (.getCert b w) s fun e => e.out = d.out ++ [.doe k [0xFF, 1, BitVec.ofNat 8 c, 0]]) ∧
        (∀ w, w.toNat ≤ 1 → let der := (if w = 0#8 then d.sec.idCert else d.sec.aliasCert.getD {}).der
          Leaves (.getCert b w) s (d.emit (.doe k ([0x81, 1, 0, 0] ++ leBytes 4 der.length ++ der)))) ∧
        ∀ x, let body := d.measureBody s.fuses.toNat k x.toNat
          Leaves (.getMeasurements b x) s (({ d with fresh := d.fresh + 1 } : Dev).emit
            (.doe k (body ++ ecdsaSign d.aliasPriv (sigNonce d.fresh) (sha384 body))))) ∧
      (∀ r, ofLeBytes (r.take 2) = 0x1F3D → (r.getD 2 0).toNat = 1 → d.attestError (r.drop 8) ≠ 0 →
        Leaves (.doeErrorResponse b r) s (d.emit (.doe k [0xFF, 1, BitVec.ofNat 8 (d.attestError (r.drop 8)), 0]))) ∧
      (∀ r, ofLeBytes (r.take 2) ≠ 1 → ofLeBytes (r.take 2) ≠ 0x1E98 → ofLeBytes (r.take 2) ≠ 0x1F3D →
        Leaves (.doeErrorResponse b r) s (d.emit (.doe k []))))) ∧
  (cdat.map BitVec.toNat).sum % 256 = 0 ∧
  (∀ d : Dev, (d.mod.ready = false → ∀ b, d.doeServed b = false) ∧ (d.mod.fw = false → ∀ b, b ≠ 0 → d.doeServed b = false)) ∧
  (∀ (b : BitVec 4) (c : BitVec 32) (s : State), (s.dev.acting b.toNat ≠ some 0 → NoEffect (.lanternRingEnable b c) s) ∧
    (s.dev.acting b.toNat = some 0 → Gives (.lanternRingEnable b c) s fun e => e.is Reg.DBG_LTN_CTL.ENABLE = bitOf c.toNat 0 ∧
      e.is Reg.DBG_LTN_CTL.RING_EN = bitOf c.toNat 1 ∧ (bitOf c.toNat 1 = true → e.get Reg.DBG_LTN_PROD.INDEX = 0 ∧ e.get Reg.DBG_LTN_CONS.INDEX = 0))) ∧
  (∀ s : State, let d := s.dev; let prod := d.get Reg.DBG_LTN_PROD.INDEX; let used := (prod + 2 ^ 32 - d.get Reg.DBG_LTN_CONS.INDEX) % 2 ^ 32
    (d.ltn = [] ∨ d.is Reg.DBG_LTN_CTL.RING_EN = false ∨ d.linkUp = false → NoEffect .lanternRecord s) ∧
    (∀ r rest, d.ltn = r :: rest → d.is Reg.DBG_LTN_CTL.RING_EN = true → d.linkUp = true →
      (used + r.size ≤ d.ltnSize → Gives .lanternRecord s fun e => e.ltn = rest ∧ e.get Reg.DBG_LTN_PROD.INDEX = (prod + r.size) % 2 ^ 32 ∧
        (prod % d.ltnSize + r.size ≤ d.ltnSize → e.out = d.out ++ [.hostWrite 0 (d.get Reg.DBG_LTN_BASE.ADDR * 2 ^ 12 + prod % d.ltnSize) (r.image.take r.size)])) ∧
      (d.ltnSize < used + r.size → Gives .lanternRecord s fun e => e.out = d.out ∧
        e.get Reg.DBG_LTN_LOST.COUNT = min (d.get Reg.DBG_LTN_LOST.COUNT + 1) (2 ^ 32 - 1) ∧ e.get Reg.DBG_LTN_PROD.INDEX = prod)))

/-- Firmware images (R525 to R531, R546). RECOVER is taken from binding 0 in recovery, UPDATE from it outside recovery; each only while nothing is
programmed. An image that lies outside tenancy 0's memory or fails a check of R526 is a security fault, a good one is programmed. The end of programming leaves the flash holding the
image; equal bytes read back complete the command, others are a fault. A good image has the mark, the version, a length that fits, a key that is
not revoked and whose hash is the fuses', a version not below the floor, and a signature that verifies. -/
def Obligations.FirmwareImages : Prop :=
  (∀ (b : BitVec 4) (s : State), let d := s.dev; let n := d.get Reg.SEC_IMG_LEN.VALUE
    let bs := (List.range (min 8388608 n)).map fun i => kget 0#8 d.sec.staging i
    let may := b = 0#4 ∧ d.inRecovery = true ∧ d.get Reg.SEC_STATUS.STAGE = 2 ∧ d.is Reg.SEC_STATUS.BUSY = false
    let good := n ≤ 8388608 ∧ imageOk d.sec.sensed.toNat bs = true
    (¬ may → NoEffect (.recover b) s) ∧ (may → ¬ good → Leaves (.recover b) s (d.secFault 0x0902)) ∧
    (may → good → Gives (.recover b) s fun e => e.sec.flashJob = some (bs, true) ∧ e.get Reg.SEC_STATUS.STAGE = 3 ∧ e.is Reg.SEC_STATUS.BUSY = true)) ∧
  (∀ (b : BitVec 4) (s : State), let d := s.dev; let a := d.get Reg.SEC_IMG_ADDR.VALUE; let n := d.get Reg.SEC_IMG_LEN.VALUE
    let may := b = 0#4 ∧ d.acting b.toNat = some 0 ∧ d.is Reg.SEC_STATUS.BUSY = false
    let good := a % 4096 = 0 ∧ d.inSpace 0 a n = true ∧ imageOk d.sec.sensed.toNat (d.memBytes s.dram a n) = true
    (¬ may → NoEffect (.update b) s) ∧ (may → ¬ good → Leaves (.update b) s (d.secFault 0x0902)) ∧
    (may → good → Gives (.update b) s fun e => e.sec.flashJob = some (d.memBytes s.dram a n, false) ∧ e.is Reg.SEC_STATUS.BUSY = true ∧
      e.get Reg.SEC_STATUS.STAGE = d.get Reg.SEC_STATUS.STAGE)) ∧
  (∀ (eq : Bool) (s : State), let d := s.dev
    (d.sec.flashJob = none → NoEffect (.flashProgramDone eq) s) ∧
    (∀ j, d.sec.flashJob = some j → Gives (.flashProgramDone eq) s fun e => e.sec.flashJob = none ∧ e.sec.flash = flashOf j.1 ∧
      e.sec.flashBroken = (!eq) ∧ e.is Reg.SEC_STATUS.BUSY = false ∧ (eq = true → e.is Reg.SEC_EVENT.DONE = true) ∧
      (eq = false → e.is Reg.SEC_EVENT.ERROR = true) ∧ (j.2 = true → e.get Reg.SEC_STATUS.STAGE = if eq then 4 else 2))) ∧
  (∀ (f : Nat) (bs : List Byte), imageOk f bs = true → imgNat bs 0 4 = 0x57464B52 ∧ imgNat bs 4 2 = 1 ∧ bs.length = 4096 + imgNat bs 0x00C 4 ∧
    bs.length ≤ 8388608 ∧ imgNat bs 0x006 1 ≤ 1 ∧ f.testBit (832 + imgNat bs 0x006 1) = false ∧ svnFloor f ≤ imgNat bs 0x008 4 ∧
    ofLeBytes (sha384 ((bs.drop 0x040).take 97)) = bitsOf f (384 * imgNat bs 0x006 1) 384 ∧
    ecdsaVerify ((bs.drop 0x040).take 97) (imgDigest bs) ((bs.drop 0x100).take 96) = true) ∧
  (∀ (d : Dev) (c : Nat), let e := d.secFault c
    e.is Reg.SEC_EVENT.ERROR = true ∧ e.get Reg.SEC_ERR.CODE = (if d.is Reg.SEC_EVENT.ERROR then d.get Reg.SEC_ERR.CODE else c % 2 ^ 16))

/-- Fuse commands and debug authorisation (R533 to R537, R545). Each is the host's of binding 0. While a run, a load or programming is in progress,
or where R533 does not allow it, a fuse command is a fault; else its bits are blown when it ends, and none is ever cleared. A challenge carries
random bits, the serial number, the mask and the key, and takes an earlier one's place. A response passes within 60 s of its challenge, with
a key whose hash the fuses hold and a signature that it verifies; it enables features only under a policy that allows it; one that fails is
counted, up to three, and after three no challenge is given. -/
def Obligations.FusesAndDebug : Prop :=
  (∀ (b : BitVec 4) (k p : BitVec 8) (s : State), let d := s.dev; let f := s.fuses.toNat
    let c := fun ok bits => d.fuseCmd b.toNat ok bits
    Leaves (.svnCommit b) s (c (decide (svnFloor f < min 64 (d.get Reg.SEC_SVN.RUNNING))) (floorBits f (min 64 (d.get Reg.SEC_SVN.RUNNING)))) ∧
    Leaves (.revoke b k) s (c (decide (k.toNat ≤ 1) && k.toNat != d.sec.slot && !f.testBit (832 + (1 - k.toNat)) && !d.evalInForce) (2 ^ (832 + k.toNat))) ∧
    Leaves (.policy b p) s (c (decide (p.toNat ≤ 3) && decide (policyRank (policyOf f) ≤ policyRank p.toNat)) (p.toNat * 2 ^ 834)) ∧
    Leaves (.ownerKey b) s (c (ownerHash f == 0 && (pubKey (d.respBytes.take 97)).isSome) (ofLeBytes (sha384 (d.respBytes.take 97)) * 2 ^ 1224)) ∧
    Leaves (.evalCommit b) s (c (policyOf f != 0 && ownerHash f != 0) (2 ^ 836))) ∧
  (∀ (d : Dev) (b : Nat) (ok : Bool) (bits : Nat), let e := d.fuseCmd b ok bits
    let busy := d.running = true ∨ d.load.isSome = true ∨ d.sec.fuseJob.isSome = true ∨ d.sec.flashJob.isSome = true
    (d.acting b ≠ some 0 ∨ b ≠ 0 → e = d) ∧ (d.acting b = some 0 → b = 0 → busy ∨ ok = false → e = d.secFault 0x0904) ∧
    (d.acting b = some 0 → b = 0 → ¬ busy → ok = true → e.sec.fuseJob = some (BitVec.ofNat 4096 bits) ∧ e.is Reg.SEC_STATUS.BUSY = true)) ∧
  (∀ s : State, (s.dev.sec.fuseJob = none → NoEffect .fuseProgramDone s) ∧
    (∀ bits, s.dev.sec.fuseJob = some bits → ∃ e : Dev, exec .fuseProgramDone s = .next { s with dev := e, fuses := s.fuses ||| bits } ∧
      e.sec.fuseJob = none ∧ e.is Reg.SEC_STATUS.BUSY = false ∧ e.is Reg.SEC_STATUS.FUSE_PENDING = true ∧ e.is Reg.SEC_EVENT.DONE = true)) ∧
  (∀ (d : Dev) (f : BitVec 4096) (i : Nat), f.getLsbD i = true → (d.fusesAfter f).getLsbD i = true) ∧
  (∀ (b : BitVec 4) (m : BitVec 8) (o : Bool) (s : State), let d := s.dev
    let barred := d.get Reg.SEC_STATUS.FAILS = 3 ∨ (d.evalInForce = true ∧ o = false)
    (d.acting b.toNat ≠ some 0 ∨ b ≠ 0#4 ∨ d.is Reg.SEC_STATUS.BUSY = true → NoEffect (.challenge b m o) s) ∧
    (d.acting b.toNat = some 0 → b = 0#4 → d.is Reg.SEC_STATUS.BUSY = false →
      (barred → Leaves (.challenge b m o) s (d.secFault 0x0903)) ∧
      (¬ barred → Gives (.challenge b m o) s fun e => e.sec.chal = some (m.toNat, if o then 1 else 0, d.now) ∧ e.is Reg.SEC_EVENT.CHAL_READY = true ∧
        e.is Reg.SEC_EVENT.DONE = true ∧ e.get (Reg.SEC_CHAL.BYTES 4) = d.get Reg.GLB_SERIAL.SERIAL % 2 ^ 64 ∧
        e.get (Reg.SEC_CHAL.BYTES 5) = m.toNat + (if o then 256 else 0) ∧ ∀ i < 4, e.get (Reg.SEC_CHAL.BYTES i) = (Config.randomBits (d.fresh + i)).toNat))) ∧
  (∀ (b : BitVec 4) (s : State), let d := s.dev
    (d.acting b.toNat ≠ some 0 ∨ b ≠ 0#4 ∨ d.is Reg.SEC_STATUS.BUSY = true → NoEffect (.respond b) s) ∧
    (d.acting b.toNat = some 0 → b = 0#4 → d.is Reg.SEC_STATUS.BUSY = false →
      (d.responseOk = false → Leaves (.respond b) s ((d.put Reg.SEC_STATUS.FAILS (min 3 (d.get Reg.SEC_STATUS.FAILS + 1))).secFault 0x0903)) ∧
      (d.responseOk = true → ∃ c, d.sec.chal = some c ∧ Gives (.respond b) s fun e => e.sec.chal = none ∧ e.sec.lastKey = c.2.1 + 1 ∧
        e.is Reg.SEC_EVENT.DONE = true ∧
        e.get Reg.SEC_STATUS.FEATURES = if d.mayEnable then (d.get Reg.SEC_STATUS.FEATURES ||| c.1 % 64) % 2 ^ Reg.SEC_STATUS.FEATURES.width
          else d.get Reg.SEC_STATUS.FEATURES))) ∧
  (∀ d : Dev, let key := d.respBytes.take 97
    (d.responseOk = true ↔ ∃ c, d.sec.chal = some c ∧ d.now ≤ c.2.2 + 60000000000 ∧ let want := d.fuse (if c.2.1 = 0 then 840 else 1224) 384
      want ≠ 0 ∧ ofLeBytes (sha384 key) = want ∧ ecdsaVerify key (sha384 d.chalBytes) ((d.respBytes.drop 97).take 96) = true) ∧
    (d.mayEnable = true ↔ d.fuse 834 2 = 1 ∨ (d.fuse 834 2 = 0 ∧ d.evalInForce = true)))

/-- Power and PERST# (R15, R577, R579, R580, R582 to R584). When the input turns off, or a rail leaves regulation, MOD_PWRGD deasserts, device memory
is lost and every register takes its power-on value; flash and the identity certificate in it stay, and fuses only gain bits (that every rail
comes down together is the model's choice, log entry 35). An assertion of PERST# shorter than 1 µs does nothing; a longer one stops everything at
once, keeps device memory and its checks, the check buffers written back, completes a fuse command, abandons a flash programming, ends the alias
certificate, and resets every field but the sticky ones (the Milestone count among those reset: log entry 34). -/
def Obligations.PowerSupply : Prop :=
  (∀ s : State, let d := s.dev
    (d.mod.input = true → NoEffect .powerOn s) ∧
    (d.mod.input = false → Gives .powerOn s fun e => e.mod = { d.mod with input := true, rails := [0, 1, 2, 3, 4, 5] } ∧
      e.pwrgd = true ∧ e.out = d.out ++ [.pin 0 true])) ∧
  (∀ (r : BitVec 3) (s : State), let d := s.dev
    let lost := fun (c : Instr) (input : Bool) => ∃ e : Dev, exec c s = .next { s with dev := e, dram := [], fuses := d.fusesOnLoss s.fuses } ∧
      e.mod = { input := input, rails := [], dramRails := false, perst := d.mod.perst } ∧ e.pwrgd = false ∧ (∀ F, e.get F = F.rst) ∧
      e.out = d.out ++ (if d.pwrgd then [.pin 0 false] else []) ∧
      e.sec.flash = d.sec.flash ∧ e.sec.flashBroken = d.sec.flashBroken ∧ e.sec.flashJob = none ∧ e.sec.fuseJob = none ∧
      e.flashCores = d.flashCores ∧ e.flashChans = d.flashChans ∧ e.flashRemaps = d.flashRemaps ∧
      e.sec.idCert = d.sec.idCert ∧ e.sec.aliasCert = none ∧ e.checks = [] ∧ e.badBlk = [] ∧
      e.cores = [] ∧ e.run = {} ∧ e.load = none ∧ e.beacons = [] ∧ e.slots = [] ∧ e.tens = [] ∧ e.linkUp = false ∧ e.crn = {} ∧
      e.imap = State.reset.dev.imap
    (d.mod.input = false → NoEffect .powerLoss s) ∧ (d.mod.input = true → lost .powerLoss false) ∧
    (r.toNat ∉ d.mod.rails → NoEffect (.railLeavesRegulation r) s) ∧ (r.toNat ∈ d.mod.rails → lost (.railLeavesRegulation r) d.mod.input)) ∧
  (∀ (d : Dev) (f : BitVec 4096), (d.sec.fuseJob = none → d.fusesOnLoss f = f) ∧
    (∀ bits i, d.sec.fuseJob = some bits → (d.fusesOnLoss f).getLsbD i = true → f.getLsbD i = true ∨ bits.getLsbD i = true) ∧
    (∀ i, f.getLsbD i = true → (d.fusesOnLoss f).getLsbD i = true)) ∧
  (∀ a : Nat, Memory.read [] a = Memory.dflt) ∧
  (∀ (ns : Nat) (s : State), let d := s.dev
    (ns < 1000 ∨ d.mod.input = false → NoEffect (.perstAssert ns) s) ∧
    (1000 ≤ ns → d.mod.input = true → ∃ e : Dev, exec (.perstAssert ns) s = .next { s with dev := e, fuses := d.fusesAfter s.fuses } ∧
      e.mod = { d.mod with perst := true, fw := false, ready := false, trained := false, alert := false, baud := 115200 } ∧
      (∀ F, F.key ∈ stickyKeys → e.get F = d.get F) ∧ (∀ F, F.key ∉ stickyKeys → e.get F = F.rst) ∧
      e.sec.flash = d.sec.flash ∧ e.sec.flashBroken = d.sec.flashBroken ∧ e.sec.flashJob = none ∧ e.sec.fuseJob = none ∧
      e.flashCores = d.flashCores ∧ e.flashChans = d.flashChans ∧ e.flashRemaps = d.flashRemaps ∧ e.badBlk = d.badBlk ∧ e.out = d.out ∧
      e.sec.idCert = d.sec.idCert ∧ e.sec.aliasCert = none ∧ e.checks = d.flushChecks.checks ∧ e.ckBuf = d.flushChecks.ckBuf ∧
      e.cores = [] ∧ e.run = {} ∧ e.load = none ∧ e.beacons = [] ∧ e.slots = [] ∧ e.tens = [] ∧ e.linkUp = false ∧ e.running = false ∧
      e.crn = {} ∧ e.imap = State.reset.dev.imap))

/-- Boot (R284, R498, R526 to R528, R532, R535, R540, R545, R590). A release of PERST# on a powered module senses the fuses. A self-test that fails is a
security fault and boot ends there; an image that passes boots: STAGE reads 1, the running SVN is the image's, every view is its own binding, and
an alias certificate with M0, M1, the SVN, DEBUG_POLICY and EVAL is signed with the DIK (the bytes it signs are open: Config.certBody); an image that
fails ends in recovery. Where EVAL is blown, the boot raises the SVN floor. Training then ends self refresh, once. -/
def Obligations.Boot : Prop :=
  (∀ (ok : Bool) (s : State), let d := s.dev
    let away : Dev := { d with mod := { d.mod with perst := false } }
    let sensed := (away.emit (.bootLine 1 0)).senseFuses s.fuses
    let next := fun e => exec (.perstRelease ok) s = .next { s with dev := e, fuses := d.bootFuses ok s.fuses }
    (d.mod.perst = false → next d) ∧
    (d.mod.perst = true → d.pwrgd = false → next away) ∧
    (d.mod.perst = true → d.pwrgd = true →
      (ok = false → next (sensed.secFault 0x0901)) ∧
      (ok = true → sensed.flashOk = true → next ((sensed.emit (.bootLine 3 0)).bootImage)) ∧
      (ok = true → sensed.flashOk = false → next ((sensed.emit (.bootLine 3 1)).enterRecovery)))) ∧
  (∀ (d : Dev) (f : BitVec 4096) (i : Nat) (ok : Bool), (f.getLsbD i = true → (d.bootFuses ok f).getLsbD i = true) ∧
    (bitOf f.toNat 836 = false ∨ ok = false ∨ d.mod.perst = false → d.bootFuses ok f = f)) ∧
  (∀ d : Dev, let e := d.bootImage
    e.mod.fw = true ∧ e.mod.ready = true ∧ e.mod.dramRails = true ∧ e.mod.trained = d.mod.trained ∧ e.get Reg.SEC_STATUS.STAGE = 1 ∧
    e.get Reg.SEC_SVN.RUNNING = imgNat d.flashImage 0x008 4 % 256 ∧ e.sec.slot = imgNat d.flashImage 0x006 1 ∧
    e.sec.m1.toNat = ofLeBytes (imgDigest d.flashImage) % 2 ^ 384 ∧
    e.get Reg.SEC_STATUS.FEATURES = (if d.fuse 834 2 = 0 ∧ d.evalInForce = false then 0x3F else 0) ∧
    (∀ v : Fin 16, e.get (Reg.HP_VIEW.BINDING v) = v) ∧
    ∃ c : Cert, e.sec.aliasCert = some c ∧ c.key = publicOf e.aliasPriv ∧ c.serial = d.fuse 1864 64 ∧
      c.ext = leBytes 48 Config.bootRomDigest.toNat ++ leBytes 48 e.sec.m1.toNat ++ leBytes 4 (e.get Reg.SEC_SVN.RUNNING) ++
        [BitVec.ofNat 8 (d.fuse 834 2), BitVec.ofNat 8 (d.fuse 836 1)] ∧
      ∃ n, c.sig = ecdsaSign (dikOf (secretOf d.sec.sensed.toNat)) n (sha384 (Config.certBody c.key c.serial c.ext))) ∧
  (∀ d : Dev, let e := d.enterRecovery
    e.mod.ready = true ∧ e.mod.fw = d.mod.fw ∧ e.get Reg.SEC_STATUS.STAGE = 2 ∧ ∀ F, F.key ≠ Reg.SEC_STATUS.STAGE.key → e.get F = d.get F) ∧
  (∀ s : State, let d := s.dev
    (d.mod.fw = false ∨ d.mod.trained = true → NoEffect .dramTrainingDone s) ∧
    (d.mod.fw = true → d.mod.trained = false → Leaves .dramTrainingDone s
      { d with mod := { d.mod with trained := true }, pwr := { d.pwr with selfRefresh := false, idleSince := some d.now } }))

/-- Phimon (R122, R226, R229, R381, R384, R489, R566 to R571). Without the firmware no command is carried out. Each command is answered once. One of
level 2 at level 1 is err 3; a misaligned address, or a row that is not there, err 5; a count or a rate out of range, err 2; what the state does not
allow, err 4 (that a freeze outside a segment is one such is the model's choice, notes/assumptions/36.md). -/
def Obligations.PhimonCommands : Prop :=
  (∀ (d : Dev) (err : Nat) (vals : List Nat), d.say err vals = { d with out := d.out ++ [.phimon err vals] }) ∧
  (∀ (a : BitVec 24) (w : Bool) (b : BitVec 14) (n : BitVec 8) (k rate : Nat) (line : List Byte) (s : State), let d := s.dev
    let does := fun (c : Instr) (e : Dev) => (d.mod.fw = false → NoEffect c s) ∧ (d.mod.fw = true → Leaves c s e)
    does .phimonStatus (d.say 0 [d.readReg 0x30010, d.get Reg.RTE_STATUS.SEGMENT, d.readReg (0x100008 + 0x1000 * d.lowestPlaced),
      d.readReg 0x10000, d.readReg 0x20000, d.readReg 0xC0000, d.resident.getD 16]) ∧
    does .phimonFaults (d.say 0 d.heldRecords) ∧
    does (.phimonRd a w) (if a.toNat % (if w then 8 else 4) = 0 then d.say 0 [d.readBar0 a.toNat w] else d.say 5 []) ∧
    does (.phimonBcn b) (d.say 0 [d.beaconView b.toNat]) ∧
    does (.phimonCore n) (d.phCore n.toNat) ∧
    does (.phimonLantern k) (if 1 ≤ k ∧ k ≤ 64 then d.say 0 ((d.ltn.drop (d.ltn.length - k)).map fun r => ofLeBytes r.image) else d.say 2 []) ∧
    does .phimonLevel (d.say 0 [if bitOf (d.get Reg.SEC_STATUS.FEATURES) 3 then 2 else 1]) ∧
    does (.phimonBaud rate) (if rate ∈ [115200, 230400, 460800, 921600, 1000000, 2000000, 3000000] then
      { d.say 0 [] with mod := { d.mod with baud := rate } } else d.say 2 []) ∧
    ∃ err ∈ [1, 2], does (.phimonUnknownCommand line) (d.say err [])) ∧
  (∀ (a : BitVec 24) (w : Bool) (v : BitVec 64) (b : BitVec 14) (x n : BitVec 32) (ix : BitVec 21) (f : Freeze) (s : State), let d := s.dev
    let does := fun (c : Instr) (e : Dev) => (d.mod.fw = false → NoEffect c s) ∧
      (d.mod.fw = true → bitOf (d.get Reg.SEC_STATUS.FEATURES) 3 = false → Leaves c s (d.say 3 [])) ∧
      (d.mod.fw = true → bitOf (d.get Reg.SEC_STATUS.FEATURES) 3 = true → Leaves c s e)
    does (.phimonWr a w v) (if a.toNat % (if w then 8 else 4) = 0 then (d.mgmtWrite s.fuses.toNat s.dram a.toNat w v.toNat).say 0 []
      else d.say 5 []) ∧
    does (.phimonBcnSet b x) ((d.signalNow sigMgmt 0 b.toNat true x).say 0 []) ∧
    does (.phimonBcnAdd b x) ((d.signalNow sigMgmt 0 b.toNat false x).say 0 []) ∧
    does (.phimonRow ix) (if d.rowThere ix.toNat = false then d.say 5 [] else if d.phRow.isSome then d.say 4 [] else { d with phRow := some ix.toNat }) ∧
    does (.phimonFreeze f) (d.phFreeze f) ∧
    does (.phimonTick n) (if n = 0#32 then d.say 2 [] else if d.run.frozen then (d.unfreeze (some n.toNat)).say 0 [] else d.say 4 []) ∧
    does .phimonRun (if d.run.frozen then (d.unfreeze none).say 0 [] else d.say 4 []) ∧
    does .phimonStop (d.stopCmd.say 0 [])) ∧
  (∀ d : Dev, let ready := d.inSegment = true ∧ d.run.frozen = false
    (∀ x : BitVec 32, (d.phFreeze (.mark x)) = ({ d with run := { d.run with freezeMark := some x } } : Dev).say 0 []) ∧
    (¬ ready → d.phFreeze .now = d.say 4 [] ∧ ∀ x : BitVec 40, d.phFreeze (.at x) = d.say 4 []) ∧
    (ready → d.phFreeze .now = ({ d with run := { d.run with freezeAt := some (d.run.tick + 24) } } : Dev).say 0 []) ∧
    (ready → ∀ x : BitVec 40, (x.toNat < d.run.tick + 24 → d.phFreeze (.at x) = d.say 4 []) ∧
      (d.run.tick + 24 ≤ x.toNat → d.phFreeze (.at x) = ({ d with run := { d.run with freezeAt := some x.toNat } } : Dev).say 0 []))) ∧
  (∀ (d : Dev) (n : Option Nat), (d.unfreeze n).run.frozen = false ∧ (d.unfreeze n).run.freezeAt = n.map (d.run.tick + 1 + ·))

/-- The board-management SMBus and boundary scan (R534, R587, R588). The sequencer answers while V3P3 is in regulation: identity from the registers
after boot and from its inventory copy before, temperatures as 0xFF before a sample, STATUS bit by bit; no write is acknowledged. TRST# resets the
TAP. IDCODE follows the stepping and is selected after a reset; BYPASS shifts one bit; an instruction outside the standard selects BYPASS, and
where debug feature 5 enables private instructions, which the spec does not describe, the model refuses it. -/
def Obligations.SmbusAndScan : Prop :=
  (∀ (mv : BitVec 16) (c : BitVec 8) (s : State), let d := s.dev; let f := s.fuses.toNat
    let up := 0 ∈ d.mod.rails
    let answers := fun (i : Instr) (bs : List Byte) => (up → Leaves i s { d with out := d.out ++ [.smbus bs] }) ∧ (¬ up → NoEffect i s)
    let w := d.idWords f
    let b := fun (i : Nat) (x : Bool) => if x then 2 ^ i else 0
    answers .smbusModel (leBytes 4 w.1 ++ leBytes 4 w.2) ∧
    answers .smbusSerial (leBytes 8 (if d.booted then d.get Reg.GLB_SERIAL.SERIAL else bitsOf f 1864 64)) ∧
    (d.booted = true → answers .smbusCores ((List.range 4).flatMap fun k => leBytes 8 (d.get (Reg.GLB_CORE_MAP.IN_SERVICE k)))) ∧
    (d.booted = false → answers .smbusCores (leBytes 32 (liveBits (bitsOf f 1928 256) d.flashCores 256))) ∧
    answers (.smbusVin mv) (leBytes 2 mv.toNat) ∧
    (d.mod.fw = true → answers .smbusPin (leBytes 2 (d.get Reg.PWR_MODULE_W.WATTS))) ∧
    (d.mod.fw = false → Gives .smbusPin s fun e => e.regs = d.regs ∧ e.mod = d.mod ∧ (¬ up → e.out = d.out) ∧
      (up → e.out = d.out ++ [.smbus (leBytes 2 (Config.freeNat d.fresh % 2 ^ 16))])) ∧
    answers .smbusTdie [if d.mod.sampled && d.pwrgd then BitVec.ofInt 8 d.hottest.1 else 0xFF#8] ∧
    answers .smbusTdram [if d.mod.trained && d.mod.dramRails then BitVec.ofNat 8 (d.get Reg.PWR_TEMP.DRAM) else 0xFF#8] ∧
    answers .smbusStatus [BitVec.ofNat 8 (b 0 d.pwrgd + b 1 d.mod.fw + b 2 d.inRecovery + b 3 d.mod.tripped + b 4 d.mod.limited +
      b 5 (d.is Reg.PWR_STATE.THERMAL_HOLD) + b 6 d.mod.perst)] ∧
    answers .smbusPstate [if d.mod.ready then BitVec.ofNat 8 (d.get Reg.PWR_STATE.STATE) else 0xFF#8] ∧
    (up → Leaves (.smbusWrite c) s { d with out := d.out ++ [.nack] }) ∧ (¬ up → NoEffect (.smbusWrite c) s)) ∧
  (∀ s : State, Leaves .trst s { s.dev with mod := { s.dev.mod with tap := {} } }) ∧
  (∀ (c : BitVec 8) (bits : List Bool) (s : State), let d := s.dev; let t := d.mod.tap; let f := s.fuses.toNat
    let ir := Instr.boundaryScanAccess (.shiftIR c)
    let dr := Instr.boundaryScanAccess (.shiftDR bits)
    let reads := fun (o : List Bool) => Leaves dr s { d with out := d.out ++ [.tap o] }
    let known := c = 0xFF#8 ∨ ∃ n < 4, Config.tapCode n = c
    (1 ∉ d.mod.rails → NoEffect ir s ∧ NoEffect dr s) ∧
    (1 ∈ d.mod.rails →
      (¬ known → bitOf (d.get Reg.SEC_STATUS.FEATURES) 5 = true → exec ir s = .refused .privateTapInstruction) ∧
      (known ∨ bitOf (d.get Reg.SEC_STATUS.FEATURES) 5 = false →
        Gives ir s fun e => e.mod.tap.ir = c ∧ e.mod.tap.fresh = false ∧ e.mod.tap.cells = t.cells ∧ e.regs = d.regs ∧
          ∃ o, e.out = d.out ++ [.tap o] ∧ o.take 2 = [true, false] ∧ o.length = 8) ∧
      (t.fresh = true ∨ t.ir = Config.tapCode 0 → reads (shiftOut ((List.range 32).map fun i => bitOf (d.idcode f) i) bits)) ∧
      (t.fresh = false → t.ir ≠ Config.tapCode 0 → t.boundary = false → reads (shiftOut [false] bits)) ∧
      (t.fresh = false → t.ir ≠ Config.tapCode 0 → t.boundary = true → Gives dr s fun e => e.mod.tap.cells = bits ∧ e.regs = d.regs)))

/-- A step takes the command at the front of the queue and runs it on the state with the queue's rest. On an empty queue the block does what its
own state has due, and the command slots that a step in which only time passes leaves free serve the copy engine and the digest engines (the
model's choice, notes/assumptions/1.md and 12.md): unpowered it keeps still, before the firmware runs only time passes, then commands that waited go
first, and limits and outputs that are due before what the phase of the run does. No row of the table gives bits, so no word spells a command. -/
def Obligations.StepAtFront : Prop :=
  (∀ (c : Instr) (rest : List Instr) (s : State), s.pending = c :: rest → step s = exec c { s with pending := rest }) ∧
  (∀ s : State, s.pending = [] → let x := s.dev.idleStep
    let m := x.1.freeSlotsMem s.dram
    (x.2 ≠ [] ∨ (s.dev.copyNext = none ∧ s.dev.digestNext = none) → step s = .next { s with dev := x.1, pending := x.2 }) ∧
    (x.2 = [] → s.dev.copyNext ≠ none ∨ s.dev.digestNext ≠ none →
      step s = .next { s with dev := (x.1.freeSlots s.dram).striped s.dram m, dram := m })) ∧
  (∀ d : Dev, let e := d.settle
    (d.pwrgd = false → d.idleStep = (d, [])) ∧ (d.pwrgd = true → d.mod.fw = false → d.idleStep = (d.timePasses, [])) ∧
    (d.pwrgd = true → d.mod.fw = true →
      (e.parked ≠ [] → e.pwr.mr4Over = [] → d.idleStep = ({ e with parked := [] }, e.parked)) ∧
      (e.parked = [] → (e.heldWrites ≠ [] → e.crn.waitCopy = false → d.idleStep = ({ e with heldWrites := [] }, e.heldWrites)) ∧
        (e.heldWrites = [] → (e.dueAny ≠ [] → d.idleStep = (e, e.dueAny)) ∧ (e.dueAny = [] → e.dueWaits ≠ [] → d.idleStep = (e, e.dueWaits)) ∧
          (e.dueAny = [] → e.dueWaits = [] → d.idleStep = e.phaseStep))))) ∧
  (∀ (nbits w : Nat) (s : State), decodeTableWord nbits w = none ∧ s.withFetchWord nbits w = s)

/-- The state after power-on (R15, R284, R379, R404, R579, R581). Every register field reads its reset value, by the tables: MEM_IMAP0 is the one
valid map entry, every Beacon and every word of every session slot reads 0; the rails are in regulation, PERST# is asserted, no firmware and no
segment runs, and no command waits. That an unlisted byte of device memory reads 0 is the model's choice (notes/assumptions/3.md). -/
def Obligations.ResetState : Prop :=
  let s := State.reset
  let d := s.dev
  (∀ F : Fld, d.get F = F.rst) ∧ Reg.GLB_ID.DEVICE.rst = 0x4707 ∧
  (∀ k : Nat, d.is (Reg.MEM_IMAP_A.VALID k) = decide (k = 0)) ∧ d.get (Reg.MEM_IMAP_A.SIZE 0) = 290304 ∧ d.get (Reg.MEM_IMAP_A.GRAN 0) = 1 ∧
  d.get (Reg.MEM_IMAP_B.COUNT 0) = 7 ∧ (∀ b : Nat, d.is (Reg.HP_BIND.VALID b) = decide (b = 0)) ∧
  d.get Reg.CLK_OPP.CURRENT = 4 ∧ d.get Reg.PWR_STATE.ALLOWED = 5 ∧ d.get Reg.WMK_IPCFG.UDP_PORT = 0xB8A6 ∧ d.get Reg.BCN_WD_LIMIT.NS = 1000000000 ∧
  d.get Reg.RTE_ECLIPSE_LIMIT.LIMIT_NS = 10000000 ∧ d.is Reg.CRN_CFG.AUTO = true ∧ d.get Reg.DBG_LTN_MASK.TYPES = 0x3FF ∧
  (∀ b : Nat, d.beacon b = 0#32) ∧ (∀ n w : Nat, d.slotWord n w = 0#32) ∧
  d.pwrgd = true ∧ d.mod.perst = true ∧ d.mod.fw = false ∧ d.running = false ∧ d.load = none ∧ d.linkUp = false ∧
  s.pending = [] ∧ (∀ a : Nat, Memory.read s.dram a = Memory.dflt) ∧ Memory.wf s.dram = true

/-- What a command may change (R290, R533, R577, R583). Every command answers a next state and leaves the queue alone, but for a private
boundary-scan instruction (R534), which is refused. Only the commands that `writesMemory` lists change device memory, and only those that
`writesFuses` lists change fuses. -/
def Obligations.WhatEachChanges : Prop :=
  ∀ (c : Instr) (s : State),
    (∃ t, exec c s = .next t ∧ t.pending = s.pending ∧ (writesMemory c = false → t.dram = s.dram) ∧ (writesFuses c = false → t.fuses = s.fuses)) ∨
    (∃ op, c = .boundaryScanAccess op ∧ s.dev.tapPrivate op = true ∧ exec c s = .refused .privateTapInstruction)

/-- Every step, whatever it runs, keeps device memory in its canonical form, and clears no fuse (R533): from every state, not only from one that
reset reaches. -/
def Obligations.StepKeeps : Prop :=
  ∀ s t : State, step s = .next t →
    (Memory.wf s.dram = true → Memory.wf t.dram = true) ∧ (∀ i, s.fuses.getLsbD i = true → t.fuses.getLsbD i = true)

/-- One occurrence per unit and lane in a tick (R36). An occurrence that meets its unit busy in its lane in this tick raises ISSUE_COLLISION, which
stops the segment; else it takes the unit, in this lane alone. One in both lanes is an instance in each: the collision of one leaves the other to
go on (R82). (The fault of a speculative occurrence waits at its
fork, R68.) -/
def Obligations.UnitCollisions : Prop :=
  (∀ (d : Dev) (o : Owner) (lane step count : Nat),
    (d.unitFree o.core o.unit lane = false → d.takeUnit o lane step count = (false, d.raise o 0x0202)) ∧
    (d.unitFree o.core o.unit lane = true → d.takeUnit o lane step count = (true, d.took o lane step count)) ∧
    (∀ c u l, ¬ (c = o.core ∧ u = o.unit ∧ l = lane) → (d.took o lane step count).unitFree c u l = d.unitFree c u l) ∧
    (0 < count → (d.took o lane step count).unitFree o.core o.unit lane = false)) ∧
  (∀ (d : Dev) (o : Owner), let e := d.raise o 0x0202
    (o.spec = true → (d.core o.core).fork.isSome = true → e.run.stopping = d.run.stopping) ∧
    (o.spec = false → d.running = true → d.run.stopping = none → ∃ x : Stopping,
      e.run.stopping = some x ∧ x.t = d.faultTick ∧ x.fault = true ∧ x.code = 0x0202)) ∧
  (∀ (i : Inst) (s : State), s.dev.canIssue i.core = true → (∃ l, laneList i.lane.toNat = [l] ∧ s.dev.unitFree i.coreN 0 l = false) →
    ∃ l, laneList i.lane.toNat = [l] ∧ Leaves (.fetchRow i) s (s.dev.raise (s.dev.owner i 0 (l + 1)) 0x0202)) ∧
  (∀ (i : Inst) (s : State), s.dev.canIssue i.core = true → laneList i.lane.toNat = [0, 1] → s.dev.unitFree i.coreN 0 0 = false →
    let e := s.dev.raise (s.dev.owner i 0 1) 0x0202
    (e.unitFree i.coreN 0 1 = false → Leaves (.fetchRow i) s (e.raise (s.dev.owner i 0 2) 0x0202)) ∧
    (e.unitFree i.coreN 0 1 = true →
      Leaves (.fetchRow i) s ((e.took (s.dev.owner i 0 2) 1 i.interval i.cnt).fetchRowTick (inLanes i [1]) (s.dev.owner (inLanes i [1]) 0 2) 0)))

/-- Watchpost's reports (R367). It reports only while enabled, as of the last START or boundary (R368), and only the kinds that the mask has. A hazard is
counted; while HAZARD is clear it is recorded, and sets HAZARD. Nothing else changes. With STOP it is also a fault of the occurrence recorded, at
this tick, and the occurrence does not go on; without, it goes on. (The fault of a speculative occurrence waits at its fork, R68.) A read without
dependences, or of a row whose last writer a dependence names, is no hazard (R366); another operation in flight on a register written is one. -/
def Obligations.HazardReports : Prop :=
  (∀ (d : Dev) (k : Nat) (o : Owner) (other space index : Nat), 1 ≤ k → k ≤ 4 →
    (d.wptOn = false ∨ bitOf d.wptMask (k - 1) = false → d.hazard k o other space index = (true, d)) ∧
    (d.wptOn = true → bitOf d.wptMask (k - 1) = true → ∃ e : Dev,
      d.hazard k o other space index = (if d.wptStop then (false, e.raise o 0x0209) else (true, e)) ∧ e.rest = d.rest ∧
      e.get (Reg.WPT_COUNT.COUNT (k - 1)) = min (d.get (Reg.WPT_COUNT.COUNT (k - 1)) + 1) (2 ^ 32 - 1) ∧ e.is Reg.WPT_EVENT.HAZARD = true ∧
      (d.is Reg.WPT_EVENT.HAZARD = true → RegsKept e d [Reg.WPT_COUNT.COUNT (k - 1)]) ∧
      (d.is Reg.WPT_EVENT.HAZARD = false → e.get Reg.WPT_REC.KIND = k ∧ e.get Reg.WPT_REC.CORE = o.core % 2 ^ 8 ∧ e.get Reg.WPT_REC.LANE = o.lane % 2 ^ 2 ∧
        e.get Reg.WPT_REC.TICK = d.run.tick % 2 ^ 40 ∧ e.get Reg.WPT_TAGS.TAG = o.tag % 2 ^ 24 ∧ e.get Reg.WPT_TAGS.OTHER = other % 2 ^ 24 ∧
        e.get Reg.WPT_LOC.SPACE = space % 2 ^ 2 ∧ e.get Reg.WPT_LOC.INDEX = index % 2 ^ 13 ∧
        RegsKept e d [Reg.WPT_COUNT.COUNT (k - 1), Reg.WPT_REC.KIND, Reg.WPT_REC.CORE, Reg.WPT_REC.LANE, Reg.WPT_REC.TICK, Reg.WPT_TAGS.TAG,
          Reg.WPT_TAGS.OTHER, Reg.WPT_LOC.SPACE, Reg.WPT_LOC.INDEX, Reg.WPT_EVENT.HAZARD]))) ∧
  (∀ (d : Dev) (o : Owner) (other space index : Nat),
    (o.dep0 = 0 ∧ o.dep1 = 0 → d.checkRead o other space index = (true, d)) ∧
    ((o.dep0 ≠ 0 ∧ other + o.dep0 = o.tag) ∨ (o.dep1 ≠ 0 ∧ other + o.dep1 = o.tag) → d.checkRead o other space index = (true, d)) ∧
    (¬ (o.dep0 = 0 ∧ o.dep1 = 0) → ¬ ((o.dep0 ≠ 0 ∧ other + o.dep0 = o.tag) ∨ (o.dep1 ≠ 0 ∧ other + o.dep1 = o.tag)) →
      d.checkRead o other space index = d.hazard 1 o other space index)) ∧
  (∀ (d : Dev) (o : Owner) (core lane reg : Nat),
    (d.inFlightOn core lane reg = none ∨ d.inFlightOn core lane reg = some o.tag → d.checkReuse o core lane reg = (true, d)) ∧
    (∀ tag : Nat, d.inFlightOn core lane reg = some tag → tag ≠ o.tag → d.checkReuse o core lane reg = d.hazard 3 o tag 1 reg))
end

