-- ==== Sys2Proof/Laws/KMap.lean ====
section
/-! SUPPORT. The laws of the sparse tables: a read after a write, and the canonical form, kept by every operation. -/

namespace Sys2Proof.Machine

variable {α : Type}

/-! ### Reading after writing -/

theorem kget_kdel_self (d : α) (m : KMap α) (k : Nat) : kget d (kdel m k) k = d := by
  induction m with
  | nil => rfl
  | cons p m ih =>
    obtain ⟨k', v⟩ := p
    by_cases h : k = k'
    · simp [kdel, h]; simpa [h] using ih
    · simp [kdel, h, kget, ih]

theorem kget_kdel_ne (d : α) (m : KMap α) {k j : Nat} (h : j ≠ k) : kget d (kdel m k) j = kget d m j := by
  induction m with
  | nil => rfl
  | cons p m ih =>
    obtain ⟨k', v⟩ := p
    by_cases hk : k = k'
    · subst hk; simp [kdel, kget, h, ih]
    · by_cases hj : j = k'
      · simp [kdel, hk, kget, hj]
      · simp [kdel, hk, kget, hj, ih]

theorem kget_kput_self (d : α) (m : KMap α) (k : Nat) (v : α) : kget d (kput m k v) k = v := by
  induction m with
  | nil => simp [kput, kget]
  | cons p m ih =>
    obtain ⟨k', w⟩ := p
    by_cases hk : k = k'
    · simp [kput, hk, kget]
    · by_cases hl : k < k'
      · simp [kput, hk, hl, kget]
      · simp [kput, hk, hl, kget, ih]

theorem kget_kput_ne (d : α) (m : KMap α) {k j : Nat} (v : α) (h : j ≠ k) : kget d (kput m k v) j = kget d m j := by
  induction m with
  | nil => simp [kput, kget, h]
  | cons p m ih =>
    obtain ⟨k', w⟩ := p
    by_cases hk : k = k'
    · subst hk; simp [kput, kget, h]
    · by_cases hl : k < k'
      · simp [kput, hk, hl, kget, h]
      · by_cases hj : j = k'
        · simp [kput, hk, hl, kget, hj]
        · simp [kput, hk, hl, kget, hj, ih]

variable [DecidableEq α]

/-- A read after a write to the same key gives the value written. -/
@[simp] theorem kget_kset_self (d : α) (m : KMap α) (k : Nat) (v : α) : kget d (kset d m k v) k = v := by
  by_cases h : v = d
  · simp [kset, h, kget_kdel_self]
  · simp [kset, h, kget_kput_self]

/-- A write leaves every other key alone. -/
theorem kget_kset_ne (d : α) (m : KMap α) {k j : Nat} (v : α) (h : j ≠ k) : kget d (kset d m k v) j = kget d m j := by
  by_cases hv : v = d
  · simp [kset, hv, kget_kdel_ne d m h]
  · simp [kset, hv, kget_kput_ne d m v h]

/-- The same whatever value an unlisted key reads as in the write. -/
theorem kget_kset_ne' (d e : α) (m : KMap α) {k j : Nat} (v : α) (h : j ≠ k) : kget e (kset d m k v) j = kget e m j := by
  by_cases hv : v = d
  · simp [kset, hv, kget_kdel_ne e m h]
  · simp [kset, hv, kget_kput_ne e m v h]

/-! ### The canonical form -/

omit [DecidableEq α] in
theorem ksorted_mono {lo lo' : Nat} (h : lo' ≤ lo) {m : KMap α} (hm : ksorted lo m = true) : ksorted lo' m = true := by
  cases m with
  | nil => rfl
  | cons p m =>
    obtain ⟨k, v⟩ := p
    simp [ksorted] at *
    exact ⟨by omega, hm.2⟩

omit [DecidableEq α] in
theorem ksorted_kdel {lo : Nat} {m : KMap α} (k : Nat) (hm : ksorted lo m = true) : ksorted lo (kdel m k) = true := by
  induction m generalizing lo with
  | nil => rfl
  | cons p m ih =>
    obtain ⟨k', v⟩ := p
    simp [ksorted] at hm
    by_cases hk : k = k'
    · simp [kdel, hk]
      exact ksorted_mono (lo := k' + 1) (by omega) (by simpa [hk] using ih hm.2)
    · simp [kdel, hk, ksorted, hm.1, ih hm.2]

omit [DecidableEq α] in
theorem ksorted_kput {lo k : Nat} {m : KMap α} (v : α) (hl : lo ≤ k) (hm : ksorted lo m = true) : ksorted lo (kput m k v) = true := by
  induction m generalizing lo with
  | nil => simp [kput, ksorted, hl]
  | cons p m ih =>
    obtain ⟨k', w⟩ := p
    simp [ksorted] at hm
    by_cases hk : k = k'
    · subst hk; simp [kput, ksorted, hm]
    · by_cases hlt : k < k'
      · simp [kput, hk, hlt, ksorted, hl, hm.2] <;> omega
      · simp [kput, hk, hlt, ksorted, hm.1]
        exact ih (by omega) hm.2

omit [DecidableEq α] in
theorem all_kdel {m : KMap α} {p : Nat × α → Bool} (k : Nat) (h : m.all p = true) : (kdel m k).all p = true := by
  induction m with
  | nil => rfl
  | cons q m ih =>
    obtain ⟨k', v⟩ := q
    simp only [List.all_cons, Bool.and_eq_true] at h
    by_cases hk : k = k'
    · simp [kdel, hk]; simpa [hk] using ih h.2
    · simp only [kdel, hk, if_false, List.all_cons, Bool.and_eq_true]
      exact ⟨h.1, ih h.2⟩

omit [DecidableEq α] in
theorem all_kput {m : KMap α} {p : Nat × α → Bool} {k : Nat} {v : α} (hp : p (k, v) = true) (h : m.all p = true) :
    (kput m k v).all p = true := by
  induction m with
  | nil => simp [kput, hp]
  | cons q m ih =>
    obtain ⟨k', w⟩ := q
    have h' := h
    simp only [List.all_cons, Bool.and_eq_true] at h'
    by_cases hk : k = k'
    · simp only [kput, hk, if_true, List.all_cons, Bool.and_eq_true]
      exact ⟨by simpa [hk] using hp, h'.2⟩
    · by_cases hlt : k < k'
      · simp only [kput, hk, hlt, if_true, if_false, List.all_cons, Bool.and_eq_true]
        exact ⟨hp, h'⟩
      · simp only [kput, hk, hlt, if_false, List.all_cons, Bool.and_eq_true]
        exact ⟨h'.1, ih h'.2⟩

/-- A write keeps the canonical form. -/
theorem kwf_kset {d : α} {m : KMap α} (k : Nat) (v : α) (h : kwf d m = true) : kwf d (kset d m k v) = true := by
  simp only [kwf, Bool.and_eq_true] at *
  by_cases hv : v = d
  · simp only [kset, hv, if_true]
    exact ⟨ksorted_kdel k h.1, all_kdel k h.2⟩
  · simp only [kset, hv, if_false]
    exact ⟨ksorted_kput v (by omega) h.1, all_kput (by simp [hv]) h.2⟩

omit [DecidableEq α] in
/-- Removing keys keeps their order. -/
theorem ksorted_kfilter {lo : Nat} {m : KMap α} (p : Nat → Bool) (h : ksorted lo m = true) : ksorted lo (kfilter p m) = true := by
  induction m generalizing lo with
  | nil => rfl
  | cons q m ih =>
    obtain ⟨k, v⟩ := q
    simp only [ksorted, Bool.and_eq_true, decide_eq_true_eq] at h
    simp only [kfilter, List.filter_cons]
    split
    · simp only [ksorted, Bool.and_eq_true, decide_eq_true_eq]
      exact ⟨h.1, ih h.2⟩
    · exact ksorted_mono (by omega) (ih h.2)

/-- Removing keys keeps the canonical form. -/
theorem kwf_kfilter {d : α} {m : KMap α} (p : Nat → Bool) (h : kwf d m = true) : kwf d (kfilter p m) = true := by
  simp only [kwf, Bool.and_eq_true, List.all_eq_true] at *
  exact ⟨ksorted_kfilter p h.1, fun x hx => h.2 x (List.mem_filter.mp hx).1⟩

/-! ### Memory -/

/-- A byte reads as it was written last. -/
@[simp] theorem Memory.read_write_self (m : Memory) (a : Nat) (v : Byte) : Memory.read (Memory.write m a v) a = v :=
  kget_kset_self _ m a v

/-- Writing a byte leaves every other byte alone. -/
theorem Memory.read_write_ne (m : Memory) {a b : Nat} (v : Byte) (h : b ≠ a) :
    Memory.read (Memory.write m a v) b = Memory.read m b :=
  kget_kset_ne _ m v h

/-- Writing a byte keeps the canonical form. -/
theorem Memory.wf_write {m : Memory} (a : Nat) (v : Byte) (h : Memory.wf m = true) : Memory.wf (Memory.write m a v) = true :=
  kwf_kset a v h

/-- Removing bytes keeps the canonical form. -/
theorem Memory.wf_kfilter {m : Memory} (p : Nat → Bool) (h : Memory.wf m = true) : Memory.wf (kfilter p m) = true :=
  kwf_kfilter p h

/-- A sequence of operations that each keep the canonical form keeps it. -/
theorem Memory.wf_foldl {β : Type} (f : Memory → β → Memory) (hf : ∀ m x, Memory.wf m = true → Memory.wf (f m x) = true) (l : List β) {m : Memory}
    (h : Memory.wf m = true) : Memory.wf (l.foldl f m) = true := by
  induction l generalizing m with
  | nil => exact h
  | cons x l ih => exact ih (hf m x h)

end Sys2Proof.Machine
end

