-- ==== Sys2Proof/Laws/Memory.lean ====
section
/-! SUPPORT. Device memory: every write keeps the canonical form and leaves the bytes outside its range alone. -/

namespace Sys2Proof.Machine

/-! ### The check stripe (R288) -/

theorem changedBlocks_self (n : Nat) (m : Memory) : changedBlocks n m m = [] := by
  induction n generalizing m with
  | zero => rfl
  | succ n ih =>
    cases m with
    | nil => rfl
    | cons x l => simp [changedBlocks, ih]

/-- Device memory that stays leaves the check stripe as it was. -/
@[simp] theorem Dev.striped_self (d : Dev) (m : Memory) : d.striped m m = d := by simp [Dev.striped, changedBlocks_self, Dev.onStripe]

/-- A write of device memory changes no more of the device than the check buffers and check blocks. -/
theorem Dev.striped_eq (d : Dev) (m m' : Memory) : ∃ b c, d.striped m m' = { d with ckBuf := b, checks := c } := ⟨_, _, rfl⟩

/-- So does a read. -/
theorem Dev.useChecks_eq (d : Dev) (a n : Nat) : ∃ b c, d.useChecks a n = { d with ckBuf := b, checks := c } := ⟨_, _, rfl⟩

@[simp] theorem Dev.get_striped (d : Dev) (m m' : Memory) (F : Fld) : (d.striped m m').get F = d.get F := rfl

@[simp] theorem Dev.get_useChecks (d : Dev) (a n : Nat) (F : Fld) : (d.useChecks a n).get F = d.get F := rfl

/-! ### One byte -/

theorem Dev.wf_writeByte {d : Dev} {m : Memory} (a : Nat) (v : Byte) (h : Memory.wf m = true) : Memory.wf (d.writeByte m a v) = true := by
  unfold Dev.writeByte
  split
  · exact Memory.wf_write _ _ h
  · exact h

/-- A byte written at an address that is served is read back. -/
theorem Dev.readByte_writeByte {d : Dev} (m : Memory) {a k : Nat} (v : Byte) (h : d.dramAt a = some k) :
    d.readByte (d.writeByte m a v) a = v := by
  simp [Dev.readByte, Dev.writeByte, h]

theorem Dev.read_writeByte {d : Dev} (m : Memory) {a k : Nat} (v : Byte) (h : d.dramAt a ≠ some k) :
    Memory.read (d.writeByte m a v) k = Memory.read m k := by
  unfold Dev.writeByte
  split
  · next k' hk => exact Memory.read_write_ne m v (by intro e; subst e; exact h hk)
  · rfl

/-! ### Ranges -/

theorem Dev.wf_writeMem {d : Dev} {m : Memory} (a v n : Nat) (h : Memory.wf m = true) : Memory.wf (d.writeMem m a v n) = true := by
  induction n generalizing m a v with
  | zero => exact h
  | succ n ih => exact ih _ _ (Dev.wf_writeByte _ _ h)

/-- A write of `n` bytes leaves every byte outside them alone. -/
theorem Dev.read_writeMem {d : Dev} (m : Memory) (a v n : Nat) {k : Nat} (h : ∀ j, j < n → d.dramAt (a + j) ≠ some k) :
    Memory.read (d.writeMem m a v n) k = Memory.read m k := by
  induction n generalizing m a v with
  | zero => rfl
  | succ n ih =>
    unfold Dev.writeMem
    rw [ih]
    · exact Dev.read_writeByte _ _ (h 0 (by omega))
    · intro j hj
      have := h (j + 1) (by omega)
      rwa [show a + (j + 1) = a + 1 + j by omega] at this

theorem Dev.wf_copyMem {d : Dev} {m : Memory} (src dst n : Nat) (h : Memory.wf m = true) : Memory.wf (d.copyMem m src dst n) = true := by
  induction n with
  | zero => exact h
  | succ n ih => exact Dev.wf_writeByte _ _ ih

theorem Dev.read_copyMem {d : Dev} (m : Memory) (src dst n : Nat) {k : Nat} (h : ∀ j, j < n → d.dramAt (dst + j) ≠ some k) :
    Memory.read (d.copyMem m src dst n) k = Memory.read m k := by
  induction n with
  | zero => rfl
  | succ n ih =>
    unfold Dev.copyMem
    rw [Dev.read_writeByte _ _ (h n (by omega)), ih fun j hj => h j (by omega)]

theorem Dev.wf_writeBytes {d : Dev} {m : Memory} (a : Nat) (bs : List Byte) (h : Memory.wf m = true) :
    Memory.wf (d.writeBytes m a bs) = true := by
  induction bs generalizing m a with
  | nil => exact h
  | cons b bs ih => exact ih _ (Dev.wf_writeByte _ _ h)

theorem Dev.read_writeBytes {d : Dev} (m : Memory) (a : Nat) (bs : List Byte) {k : Nat}
    (h : ∀ j, j < bs.length → d.dramAt (a + j) ≠ some k) : Memory.read (d.writeBytes m a bs) k = Memory.read m k := by
  induction bs generalizing m a with
  | nil => rfl
  | cons b bs ih =>
    unfold Dev.writeBytes
    rw [ih]
    · exact Dev.read_writeByte _ _ (h 0 (by simp))
    · intro j hj
      have := h (j + 1) (by simpa using hj)
      rwa [show a + (j + 1) = a + 1 + j by omega] at this

end Sys2Proof.Machine
end

