-- ==== Sys2Proof/Laws/State.lean ====
section
/-! SUPPORT. What each update of the state leaves alone: one lemma per field per update. -/

namespace Sys2Proof.Machine

/-! ### Dev.put -/

@[simp] theorem Dev.put_justSet (d : Dev) (F : Fld) (v : Nat) : (d.put F v).justSet = d.justSet := rfl
@[simp] theorem Dev.put_cores (d : Dev) (F : Fld) (v : Nat) : (d.put F v).cores = d.cores := rfl
@[simp] theorem Dev.put_slip (d : Dev) (F : Fld) (v : Nat) : (d.put F v).slip = d.slip := rfl
@[simp] theorem Dev.put_fillq (d : Dev) (F : Fld) (v : Nat) : (d.put F v).fillq = d.fillq := rfl
@[simp] theorem Dev.put_fillUsed (d : Dev) (F : Fld) (v : Nat) : (d.put F v).fillUsed = d.fillUsed := rfl
@[simp] theorem Dev.put_rt (d : Dev) (F : Fld) (v : Nat) : (d.put F v).rt = d.rt := rfl
@[simp] theorem Dev.put_load (d : Dev) (F : Fld) (v : Nat) : (d.put F v).load = d.load := rfl
@[simp] theorem Dev.put_recTen (d : Dev) (F : Fld) (v : Nat) : (d.put F v).recTen = d.recTen := rfl
@[simp] theorem Dev.put_lastPlace (d : Dev) (F : Fld) (v : Nat) : (d.put F v).lastPlace = d.lastPlace := rfl
@[simp] theorem Dev.put_run (d : Dev) (F : Fld) (v : Nat) : (d.put F v).run = d.run := rfl
@[simp] theorem Dev.put_beacons (d : Dev) (F : Fld) (v : Nat) : (d.put F v).beacons = d.beacons := rfl
@[simp] theorem Dev.put_bcnSig (d : Dev) (F : Fld) (v : Nat) : (d.put F v).bcnSig = d.bcnSig := rfl
@[simp] theorem Dev.put_hwaits (d : Dev) (F : Fld) (v : Nat) : (d.put F v).hwaits = d.hwaits := rfl
@[simp] theorem Dev.put_gate (d : Dev) (F : Fld) (v : Nat) : (d.put F v).gate = d.gate := rfl
@[simp] theorem Dev.put_slots (d : Dev) (F : Fld) (v : Nat) : (d.put F v).slots = d.slots := rfl
@[simp] theorem Dev.put_slotOps (d : Dev) (F : Fld) (v : Nat) : (d.put F v).slotOps = d.slotOps := rfl
@[simp] theorem Dev.put_tens (d : Dev) (F : Fld) (v : Nat) : (d.put F v).tens = d.tens := rfl
@[simp] theorem Dev.put_resident (d : Dev) (F : Fld) (v : Nat) : (d.put F v).resident = d.resident := rfl
@[simp] theorem Dev.put_switchReqs (d : Dev) (F : Fld) (v : Nat) : (d.put F v).switchReqs = d.switchReqs := rfl
@[simp] theorem Dev.put_afterSwitch (d : Dev) (F : Fld) (v : Nat) : (d.put F v).afterSwitch = d.afterSwitch := rfl
@[simp] theorem Dev.put_switchOwed (d : Dev) (F : Fld) (v : Nat) : (d.put F v).switchOwed = d.switchOwed := rfl
@[simp] theorem Dev.put_contexts (d : Dev) (F : Fld) (v : Nat) : (d.put F v).contexts = d.contexts := rfl
@[simp] theorem Dev.put_comb (d : Dev) (F : Fld) (v : Nat) : (d.put F v).comb = d.comb := rfl
@[simp] theorem Dev.put_mgmtQueue (d : Dev) (F : Fld) (v : Nat) : (d.put F v).mgmtQueue = d.mgmtQueue := rfl
@[simp] theorem Dev.put_hostMsgs (d : Dev) (F : Fld) (v : Nat) : (d.put F v).hostMsgs = d.hostMsgs := rfl
@[simp] theorem Dev.put_ringQueue (d : Dev) (F : Fld) (v : Nat) : (d.put F v).ringQueue = d.ringQueue := rfl
@[simp] theorem Dev.put_credits (d : Dev) (F : Fld) (v : Nat) : (d.put F v).credits = d.credits := rfl
@[simp] theorem Dev.put_repliesOwed (d : Dev) (F : Fld) (v : Nat) : (d.put F v).repliesOwed = d.repliesOwed := rfl
@[simp] theorem Dev.put_ltn (d : Dev) (F : Fld) (v : Nat) : (d.put F v).ltn = d.ltn := rfl
@[simp] theorem Dev.put_ltnLost (d : Dev) (F : Fld) (v : Nat) : (d.put F v).ltnLost = d.ltnLost := rfl
@[simp] theorem Dev.put_out (d : Dev) (F : Fld) (v : Nat) : (d.put F v).out = d.out := rfl
@[simp] theorem Dev.put_fresh (d : Dev) (F : Fld) (v : Nat) : (d.put F v).fresh = d.fresh := rfl
@[simp] theorem Dev.put_msixMask (d : Dev) (F : Fld) (v : Nat) : (d.put F v).msixMask = d.msixMask := rfl
@[simp] theorem Dev.put_msixPend (d : Dev) (F : Fld) (v : Nat) : (d.put F v).msixPend = d.msixPend := rfl
@[simp] theorem Dev.put_linkUp (d : Dev) (F : Fld) (v : Nat) : (d.put F v).linkUp = d.linkUp := rfl
@[simp] theorem Dev.put_linkWait (d : Dev) (F : Fld) (v : Nat) : (d.put F v).linkWait = d.linkWait := rfl
@[simp] theorem Dev.put_wptOn (d : Dev) (F : Fld) (v : Nat) : (d.put F v).wptOn = d.wptOn := rfl
@[simp] theorem Dev.put_wptStop (d : Dev) (F : Fld) (v : Nat) : (d.put F v).wptStop = d.wptStop := rfl
@[simp] theorem Dev.put_wptMask (d : Dev) (F : Fld) (v : Nat) : (d.put F v).wptMask = d.wptMask := rfl
@[simp] theorem Dev.put_imap (d : Dev) (F : Fld) (v : Nat) : (d.put F v).imap = d.imap := rfl
@[simp] theorem Dev.put_chRetire (d : Dev) (F : Fld) (v : Nat) : (d.put F v).chRetire = d.chRetire := rfl
@[simp] theorem Dev.put_chRejoin (d : Dev) (F : Fld) (v : Nat) : (d.put F v).chRejoin = d.chRejoin := rfl
@[simp] theorem Dev.put_badBlk (d : Dev) (F : Fld) (v : Nat) : (d.put F v).badBlk = d.badBlk := rfl
@[simp] theorem Dev.put_checks (d : Dev) (F : Fld) (v : Nat) : (d.put F v).checks = d.checks := rfl
@[simp] theorem Dev.put_ckBuf (d : Dev) (F : Fld) (v : Nat) : (d.put F v).ckBuf = d.ckBuf := rfl
@[simp] theorem Dev.put_memHeld (d : Dev) (F : Fld) (v : Nat) : (d.put F v).memHeld = d.memHeld := rfl
@[simp] theorem Dev.put_refresh (d : Dev) (F : Fld) (v : Nat) : (d.put F v).refresh = d.refresh := rfl
@[simp] theorem Dev.put_failMet (d : Dev) (F : Fld) (v : Nat) : (d.put F v).failMet = d.failMet := rfl
@[simp] theorem Dev.put_digestJob (d : Dev) (F : Fld) (v : Nat) : (d.put F v).digestJob = d.digestJob := rfl
@[simp] theorem Dev.put_digestAt (d : Dev) (F : Fld) (v : Nat) : (d.put F v).digestAt = d.digestAt := rfl
@[simp] theorem Dev.put_flashCores (d : Dev) (F : Fld) (v : Nat) : (d.put F v).flashCores = d.flashCores := rfl
@[simp] theorem Dev.put_flashChans (d : Dev) (F : Fld) (v : Nat) : (d.put F v).flashChans = d.flashChans := rfl
@[simp] theorem Dev.put_flashRemaps (d : Dev) (F : Fld) (v : Nat) : (d.put F v).flashRemaps = d.flashRemaps := rfl
@[simp] theorem Dev.put_mr4Missed (d : Dev) (F : Fld) (v : Nat) : (d.put F v).mr4Missed = d.mr4Missed := rfl
@[simp] theorem Dev.put_wmkIssued (d : Dev) (F : Fld) (v : Nat) : (d.put F v).wmkIssued = d.wmkIssued := rfl
@[simp] theorem Dev.put_txRows (d : Dev) (F : Fld) (v : Nat) : (d.put F v).txRows = d.txRows := rfl
@[simp] theorem Dev.put_txBlks (d : Dev) (F : Fld) (v : Nat) : (d.put F v).txBlks = d.txBlks := rfl
@[simp] theorem Dev.put_txInsts (d : Dev) (F : Fld) (v : Nat) : (d.put F v).txInsts = d.txInsts := rfl
@[simp] theorem Dev.put_rxBlks (d : Dev) (F : Fld) (v : Nat) : (d.put F v).rxBlks = d.rxBlks := rfl
@[simp] theorem Dev.put_rxInsts (d : Dev) (F : Fld) (v : Nat) : (d.put F v).rxInsts = d.rxInsts := rfl
@[simp] theorem Dev.put_joining (d : Dev) (F : Fld) (v : Nat) : (d.put F v).joining = d.joining := rfl
@[simp] theorem Dev.put_heard (d : Dev) (F : Fld) (v : Nat) : (d.put F v).heard = d.heard := rfl
@[simp] theorem Dev.put_said (d : Dev) (F : Fld) (v : Nat) : (d.put F v).said = d.said := rfl
@[simp] theorem Dev.put_ats (d : Dev) (F : Fld) (v : Nat) : (d.put F v).ats = d.ats := rfl
@[simp] theorem Dev.put_xlatPend (d : Dev) (F : Fld) (v : Nat) : (d.put F v).xlatPend = d.xlatPend := rfl
@[simp] theorem Dev.put_xlatFail (d : Dev) (F : Fld) (v : Nat) : (d.put F v).xlatFail = d.xlatFail := rfl
@[simp] theorem Dev.put_hdm (d : Dev) (F : Fld) (v : Nat) : (d.put F v).hdm = d.hdm := rfl
@[simp] theorem Dev.put_snoop (d : Dev) (F : Fld) (v : Nat) : (d.put F v).snoop = d.snoop := rfl
@[simp] theorem Dev.put_rxLow (d : Dev) (F : Fld) (v : Nat) : (d.put F v).rxLow = d.rxLow := rfl
@[simp] theorem Dev.put_wmkSignalled (d : Dev) (F : Fld) (v : Nat) : (d.put F v).wmkSignalled = d.wmkSignalled := rfl
@[simp] theorem Dev.put_peerJoin (d : Dev) (F : Fld) (v : Nat) : (d.put F v).peerJoin = d.peerJoin := rfl
@[simp] theorem Dev.put_joinSent (d : Dev) (F : Fld) (v : Nat) : (d.put F v).joinSent = d.joinSent := rfl
@[simp] theorem Dev.put_netClk (d : Dev) (F : Fld) (v : Nat) : (d.put F v).netClk = d.netClk := rfl
@[simp] theorem Dev.put_seen (d : Dev) (F : Fld) (v : Nat) : (d.put F v).seen = d.seen := rfl
@[simp] theorem Dev.put_mir (d : Dev) (F : Fld) (v : Nat) : (d.put F v).mir = d.mir := rfl
@[simp] theorem Dev.put_crn (d : Dev) (F : Fld) (v : Nat) : (d.put F v).crn = d.crn := rfl
@[simp] theorem Dev.put_dieTemp (d : Dev) (F : Fld) (v : Nat) : (d.put F v).dieTemp = d.dieTemp := rfl
@[simp] theorem Dev.put_dieBad (d : Dev) (F : Fld) (v : Nat) : (d.put F v).dieBad = d.dieBad := rfl
@[simp] theorem Dev.put_pwr (d : Dev) (F : Fld) (v : Nat) : (d.put F v).pwr = d.pwr := rfl
@[simp] theorem Dev.put_events (d : Dev) (F : Fld) (v : Nat) : (d.put F v).events = d.events := rfl
@[simp] theorem Dev.put_mod (d : Dev) (F : Fld) (v : Nat) : (d.put F v).mod = d.mod := rfl
@[simp] theorem Dev.put_sec (d : Dev) (F : Fld) (v : Nat) : (d.put F v).sec = d.sec := rfl
@[simp] theorem Dev.put_tim (d : Dev) (F : Fld) (v : Nat) : (d.put F v).tim = d.tim := rfl
@[simp] theorem Dev.put_bars (d : Dev) (F : Fld) (v : Nat) : (d.put F v).bars = d.bars := rfl
@[simp] theorem Dev.put_hdmErr (d : Dev) (F : Fld) (v : Nat) : (d.put F v).hdmErr = d.hdmErr := rfl
@[simp] theorem Dev.put_inval (d : Dev) (F : Fld) (v : Nat) : (d.put F v).inval = d.inval := rfl
@[simp] theorem Dev.put_xlatRetry (d : Dev) (F : Fld) (v : Nat) : (d.put F v).xlatRetry = d.xlatRetry := rfl
@[simp] theorem Dev.put_hdw (d : Dev) (F : Fld) (v : Nat) : (d.put F v).hdw = d.hdw := rfl
@[simp] theorem Dev.put_phRow (d : Dev) (F : Fld) (v : Nat) : (d.put F v).phRow = d.phRow := rfl
@[simp] theorem Dev.put_parked (d : Dev) (F : Fld) (v : Nat) : (d.put F v).parked = d.parked := rfl
@[simp] theorem Dev.put_heldWrites (d : Dev) (F : Fld) (v : Nat) : (d.put F v).heldWrites = d.heldWrites := rfl

/-! ### Dev.putB -/

@[simp] theorem Dev.putB_justSet (d : Dev) (F : Fld) (b : Bool) : (d.putB F b).justSet = d.justSet := rfl
@[simp] theorem Dev.putB_cores (d : Dev) (F : Fld) (b : Bool) : (d.putB F b).cores = d.cores := rfl
@[simp] theorem Dev.putB_slip (d : Dev) (F : Fld) (b : Bool) : (d.putB F b).slip = d.slip := rfl
@[simp] theorem Dev.putB_fillq (d : Dev) (F : Fld) (b : Bool) : (d.putB F b).fillq = d.fillq := rfl
@[simp] theorem Dev.putB_fillUsed (d : Dev) (F : Fld) (b : Bool) : (d.putB F b).fillUsed = d.fillUsed := rfl
@[simp] theorem Dev.putB_rt (d : Dev) (F : Fld) (b : Bool) : (d.putB F b).rt = d.rt := rfl
@[simp] theorem Dev.putB_load (d : Dev) (F : Fld) (b : Bool) : (d.putB F b).load = d.load := rfl
@[simp] theorem Dev.putB_recTen (d : Dev) (F : Fld) (b : Bool) : (d.putB F b).recTen = d.recTen := rfl
@[simp] theorem Dev.putB_lastPlace (d : Dev) (F : Fld) (b : Bool) : (d.putB F b).lastPlace = d.lastPlace := rfl
@[simp] theorem Dev.putB_run (d : Dev) (F : Fld) (b : Bool) : (d.putB F b).run = d.run := rfl
@[simp] theorem Dev.putB_beacons (d : Dev) (F : Fld) (b : Bool) : (d.putB F b).beacons = d.beacons := rfl
@[simp] theorem Dev.putB_bcnSig (d : Dev) (F : Fld) (b : Bool) : (d.putB F b).bcnSig = d.bcnSig := rfl
@[simp] theorem Dev.putB_hwaits (d : Dev) (F : Fld) (b : Bool) : (d.putB F b).hwaits = d.hwaits := rfl
@[simp] theorem Dev.putB_gate (d : Dev) (F : Fld) (b : Bool) : (d.putB F b).gate = d.gate := rfl
@[simp] theorem Dev.putB_slots (d : Dev) (F : Fld) (b : Bool) : (d.putB F b).slots = d.slots := rfl
@[simp] theorem Dev.putB_slotOps (d : Dev) (F : Fld) (b : Bool) : (d.putB F b).slotOps = d.slotOps := rfl
@[simp] theorem Dev.putB_tens (d : Dev) (F : Fld) (b : Bool) : (d.putB F b).tens = d.tens := rfl
@[simp] theorem Dev.putB_resident (d : Dev) (F : Fld) (b : Bool) : (d.putB F b).resident = d.resident := rfl
@[simp] theorem Dev.putB_switchReqs (d : Dev) (F : Fld) (b : Bool) : (d.putB F b).switchReqs = d.switchReqs := rfl
@[simp] theorem Dev.putB_afterSwitch (d : Dev) (F : Fld) (b : Bool) : (d.putB F b).afterSwitch = d.afterSwitch := rfl
@[simp] theorem Dev.putB_switchOwed (d : Dev) (F : Fld) (b : Bool) : (d.putB F b).switchOwed = d.switchOwed := rfl
@[simp] theorem Dev.putB_contexts (d : Dev) (F : Fld) (b : Bool) : (d.putB F b).contexts = d.contexts := rfl
@[simp] theorem Dev.putB_comb (d : Dev) (F : Fld) (b : Bool) : (d.putB F b).comb = d.comb := rfl
@[simp] theorem Dev.putB_mgmtQueue (d : Dev) (F : Fld) (b : Bool) : (d.putB F b).mgmtQueue = d.mgmtQueue := rfl
@[simp] theorem Dev.putB_hostMsgs (d : Dev) (F : Fld) (b : Bool) : (d.putB F b).hostMsgs = d.hostMsgs := rfl
@[simp] theorem Dev.putB_ringQueue (d : Dev) (F : Fld) (b : Bool) : (d.putB F b).ringQueue = d.ringQueue := rfl
@[simp] theorem Dev.putB_credits (d : Dev) (F : Fld) (b : Bool) : (d.putB F b).credits = d.credits := rfl
@[simp] theorem Dev.putB_repliesOwed (d : Dev) (F : Fld) (b : Bool) : (d.putB F b).repliesOwed = d.repliesOwed := rfl
@[simp] theorem Dev.putB_ltn (d : Dev) (F : Fld) (b : Bool) : (d.putB F b).ltn = d.ltn := rfl
@[simp] theorem Dev.putB_ltnLost (d : Dev) (F : Fld) (b : Bool) : (d.putB F b).ltnLost = d.ltnLost := rfl
@[simp] theorem Dev.putB_out (d : Dev) (F : Fld) (b : Bool) : (d.putB F b).out = d.out := rfl
@[simp] theorem Dev.putB_fresh (d : Dev) (F : Fld) (b : Bool) : (d.putB F b).fresh = d.fresh := rfl
@[simp] theorem Dev.putB_msixMask (d : Dev) (F : Fld) (b : Bool) : (d.putB F b).msixMask = d.msixMask := rfl
@[simp] theorem Dev.putB_msixPend (d : Dev) (F : Fld) (b : Bool) : (d.putB F b).msixPend = d.msixPend := rfl
@[simp] theorem Dev.putB_linkUp (d : Dev) (F : Fld) (b : Bool) : (d.putB F b).linkUp = d.linkUp := rfl
@[simp] theorem Dev.putB_linkWait (d : Dev) (F : Fld) (b : Bool) : (d.putB F b).linkWait = d.linkWait := rfl
@[simp] theorem Dev.putB_wptOn (d : Dev) (F : Fld) (b : Bool) : (d.putB F b).wptOn = d.wptOn := rfl
@[simp] theorem Dev.putB_wptStop (d : Dev) (F : Fld) (b : Bool) : (d.putB F b).wptStop = d.wptStop := rfl
@[simp] theorem Dev.putB_wptMask (d : Dev) (F : Fld) (b : Bool) : (d.putB F b).wptMask = d.wptMask := rfl
@[simp] theorem Dev.putB_imap (d : Dev) (F : Fld) (b : Bool) : (d.putB F b).imap = d.imap := rfl
@[simp] theorem Dev.putB_chRetire (d : Dev) (F : Fld) (b : Bool) : (d.putB F b).chRetire = d.chRetire := rfl
@[simp] theorem Dev.putB_chRejoin (d : Dev) (F : Fld) (b : Bool) : (d.putB F b).chRejoin = d.chRejoin := rfl
@[simp] theorem Dev.putB_badBlk (d : Dev) (F : Fld) (b : Bool) : (d.putB F b).badBlk = d.badBlk := rfl
@[simp] theorem Dev.putB_checks (d : Dev) (F : Fld) (b : Bool) : (d.putB F b).checks = d.checks := rfl
@[simp] theorem Dev.putB_ckBuf (d : Dev) (F : Fld) (b : Bool) : (d.putB F b).ckBuf = d.ckBuf := rfl
@[simp] theorem Dev.putB_memHeld (d : Dev) (F : Fld) (b : Bool) : (d.putB F b).memHeld = d.memHeld := rfl
@[simp] theorem Dev.putB_refresh (d : Dev) (F : Fld) (b : Bool) : (d.putB F b).refresh = d.refresh := rfl
@[simp] theorem Dev.putB_failMet (d : Dev) (F : Fld) (b : Bool) : (d.putB F b).failMet = d.failMet := rfl
@[simp] theorem Dev.putB_digestJob (d : Dev) (F : Fld) (b : Bool) : (d.putB F b).digestJob = d.digestJob := rfl
@[simp] theorem Dev.putB_digestAt (d : Dev) (F : Fld) (b : Bool) : (d.putB F b).digestAt = d.digestAt := rfl
@[simp] theorem Dev.putB_flashCores (d : Dev) (F : Fld) (b : Bool) : (d.putB F b).flashCores = d.flashCores := rfl
@[simp] theorem Dev.putB_flashChans (d : Dev) (F : Fld) (b : Bool) : (d.putB F b).flashChans = d.flashChans := rfl
@[simp] theorem Dev.putB_flashRemaps (d : Dev) (F : Fld) (b : Bool) : (d.putB F b).flashRemaps = d.flashRemaps := rfl
@[simp] theorem Dev.putB_mr4Missed (d : Dev) (F : Fld) (b : Bool) : (d.putB F b).mr4Missed = d.mr4Missed := rfl
@[simp] theorem Dev.putB_wmkIssued (d : Dev) (F : Fld) (b : Bool) : (d.putB F b).wmkIssued = d.wmkIssued := rfl
@[simp] theorem Dev.putB_txRows (d : Dev) (F : Fld) (b : Bool) : (d.putB F b).txRows = d.txRows := rfl
@[simp] theorem Dev.putB_txBlks (d : Dev) (F : Fld) (b : Bool) : (d.putB F b).txBlks = d.txBlks := rfl
@[simp] theorem Dev.putB_txInsts (d : Dev) (F : Fld) (b : Bool) : (d.putB F b).txInsts = d.txInsts := rfl
@[simp] theorem Dev.putB_rxBlks (d : Dev) (F : Fld) (b : Bool) : (d.putB F b).rxBlks = d.rxBlks := rfl
@[simp] theorem Dev.putB_rxInsts (d : Dev) (F : Fld) (b : Bool) : (d.putB F b).rxInsts = d.rxInsts := rfl
@[simp] theorem Dev.putB_joining (d : Dev) (F : Fld) (b : Bool) : (d.putB F b).joining = d.joining := rfl
@[simp] theorem Dev.putB_heard (d : Dev) (F : Fld) (b : Bool) : (d.putB F b).heard = d.heard := rfl
@[simp] theorem Dev.putB_said (d : Dev) (F : Fld) (b : Bool) : (d.putB F b).said = d.said := rfl
@[simp] theorem Dev.putB_ats (d : Dev) (F : Fld) (b : Bool) : (d.putB F b).ats = d.ats := rfl
@[simp] theorem Dev.putB_xlatPend (d : Dev) (F : Fld) (b : Bool) : (d.putB F b).xlatPend = d.xlatPend := rfl
@[simp] theorem Dev.putB_xlatFail (d : Dev) (F : Fld) (b : Bool) : (d.putB F b).xlatFail = d.xlatFail := rfl
@[simp] theorem Dev.putB_hdm (d : Dev) (F : Fld) (b : Bool) : (d.putB F b).hdm = d.hdm := rfl
@[simp] theorem Dev.putB_snoop (d : Dev) (F : Fld) (b : Bool) : (d.putB F b).snoop = d.snoop := rfl
@[simp] theorem Dev.putB_rxLow (d : Dev) (F : Fld) (b : Bool) : (d.putB F b).rxLow = d.rxLow := rfl
@[simp] theorem Dev.putB_wmkSignalled (d : Dev) (F : Fld) (b : Bool) : (d.putB F b).wmkSignalled = d.wmkSignalled := rfl
@[simp] theorem Dev.putB_peerJoin (d : Dev) (F : Fld) (b : Bool) : (d.putB F b).peerJoin = d.peerJoin := rfl
@[simp] theorem Dev.putB_joinSent (d : Dev) (F : Fld) (b : Bool) : (d.putB F b).joinSent = d.joinSent := rfl
@[simp] theorem Dev.putB_netClk (d : Dev) (F : Fld) (b : Bool) : (d.putB F b).netClk = d.netClk := rfl
@[simp] theorem Dev.putB_seen (d : Dev) (F : Fld) (b : Bool) : (d.putB F b).seen = d.seen := rfl
@[simp] theorem Dev.putB_mir (d : Dev) (F : Fld) (b : Bool) : (d.putB F b).mir = d.mir := rfl
@[simp] theorem Dev.putB_crn (d : Dev) (F : Fld) (b : Bool) : (d.putB F b).crn = d.crn := rfl
@[simp] theorem Dev.putB_dieTemp (d : Dev) (F : Fld) (b : Bool) : (d.putB F b).dieTemp = d.dieTemp := rfl
@[simp] theorem Dev.putB_dieBad (d : Dev) (F : Fld) (b : Bool) : (d.putB F b).dieBad = d.dieBad := rfl
@[simp] theorem Dev.putB_pwr (d : Dev) (F : Fld) (b : Bool) : (d.putB F b).pwr = d.pwr := rfl
@[simp] theorem Dev.putB_events (d : Dev) (F : Fld) (b : Bool) : (d.putB F b).events = d.events := rfl
@[simp] theorem Dev.putB_mod (d : Dev) (F : Fld) (b : Bool) : (d.putB F b).mod = d.mod := rfl
@[simp] theorem Dev.putB_sec (d : Dev) (F : Fld) (b : Bool) : (d.putB F b).sec = d.sec := rfl
@[simp] theorem Dev.putB_tim (d : Dev) (F : Fld) (b : Bool) : (d.putB F b).tim = d.tim := rfl
@[simp] theorem Dev.putB_bars (d : Dev) (F : Fld) (b : Bool) : (d.putB F b).bars = d.bars := rfl
@[simp] theorem Dev.putB_hdmErr (d : Dev) (F : Fld) (b : Bool) : (d.putB F b).hdmErr = d.hdmErr := rfl
@[simp] theorem Dev.putB_inval (d : Dev) (F : Fld) (b : Bool) : (d.putB F b).inval = d.inval := rfl
@[simp] theorem Dev.putB_xlatRetry (d : Dev) (F : Fld) (b : Bool) : (d.putB F b).xlatRetry = d.xlatRetry := rfl
@[simp] theorem Dev.putB_hdw (d : Dev) (F : Fld) (b : Bool) : (d.putB F b).hdw = d.hdw := rfl
@[simp] theorem Dev.putB_phRow (d : Dev) (F : Fld) (b : Bool) : (d.putB F b).phRow = d.phRow := rfl
@[simp] theorem Dev.putB_parked (d : Dev) (F : Fld) (b : Bool) : (d.putB F b).parked = d.parked := rfl
@[simp] theorem Dev.putB_heldWrites (d : Dev) (F : Fld) (b : Bool) : (d.putB F b).heldWrites = d.heldWrites := rfl

/-! ### Dev.count -/

@[simp] theorem Dev.count_justSet (d : Dev) (F : Fld) (n : Nat) : (d.count F n).justSet = d.justSet := rfl
@[simp] theorem Dev.count_cores (d : Dev) (F : Fld) (n : Nat) : (d.count F n).cores = d.cores := rfl
@[simp] theorem Dev.count_slip (d : Dev) (F : Fld) (n : Nat) : (d.count F n).slip = d.slip := rfl
@[simp] theorem Dev.count_fillq (d : Dev) (F : Fld) (n : Nat) : (d.count F n).fillq = d.fillq := rfl
@[simp] theorem Dev.count_fillUsed (d : Dev) (F : Fld) (n : Nat) : (d.count F n).fillUsed = d.fillUsed := rfl
@[simp] theorem Dev.count_rt (d : Dev) (F : Fld) (n : Nat) : (d.count F n).rt = d.rt := rfl
@[simp] theorem Dev.count_load (d : Dev) (F : Fld) (n : Nat) : (d.count F n).load = d.load := rfl
@[simp] theorem Dev.count_recTen (d : Dev) (F : Fld) (n : Nat) : (d.count F n).recTen = d.recTen := rfl
@[simp] theorem Dev.count_lastPlace (d : Dev) (F : Fld) (n : Nat) : (d.count F n).lastPlace = d.lastPlace := rfl
@[simp] theorem Dev.count_run (d : Dev) (F : Fld) (n : Nat) : (d.count F n).run = d.run := rfl
@[simp] theorem Dev.count_beacons (d : Dev) (F : Fld) (n : Nat) : (d.count F n).beacons = d.beacons := rfl
@[simp] theorem Dev.count_bcnSig (d : Dev) (F : Fld) (n : Nat) : (d.count F n).bcnSig = d.bcnSig := rfl
@[simp] theorem Dev.count_hwaits (d : Dev) (F : Fld) (n : Nat) : (d.count F n).hwaits = d.hwaits := rfl
@[simp] theorem Dev.count_gate (d : Dev) (F : Fld) (n : Nat) : (d.count F n).gate = d.gate := rfl
@[simp] theorem Dev.count_slots (d : Dev) (F : Fld) (n : Nat) : (d.count F n).slots = d.slots := rfl
@[simp] theorem Dev.count_slotOps (d : Dev) (F : Fld) (n : Nat) : (d.count F n).slotOps = d.slotOps := rfl
@[simp] theorem Dev.count_tens (d : Dev) (F : Fld) (n : Nat) : (d.count F n).tens = d.tens := rfl
@[simp] theorem Dev.count_resident (d : Dev) (F : Fld) (n : Nat) : (d.count F n).resident = d.resident := rfl
@[simp] theorem Dev.count_switchReqs (d : Dev) (F : Fld) (n : Nat) : (d.count F n).switchReqs = d.switchReqs := rfl
@[simp] theorem Dev.count_afterSwitch (d : Dev) (F : Fld) (n : Nat) : (d.count F n).afterSwitch = d.afterSwitch := rfl
@[simp] theorem Dev.count_switchOwed (d : Dev) (F : Fld) (n : Nat) : (d.count F n).switchOwed = d.switchOwed := rfl
@[simp] theorem Dev.count_contexts (d : Dev) (F : Fld) (n : Nat) : (d.count F n).contexts = d.contexts := rfl
@[simp] theorem Dev.count_comb (d : Dev) (F : Fld) (n : Nat) : (d.count F n).comb = d.comb := rfl
@[simp] theorem Dev.count_mgmtQueue (d : Dev) (F : Fld) (n : Nat) : (d.count F n).mgmtQueue = d.mgmtQueue := rfl
@[simp] theorem Dev.count_hostMsgs (d : Dev) (F : Fld) (n : Nat) : (d.count F n).hostMsgs = d.hostMsgs := rfl
@[simp] theorem Dev.count_ringQueue (d : Dev) (F : Fld) (n : Nat) : (d.count F n).ringQueue = d.ringQueue := rfl
@[simp] theorem Dev.count_credits (d : Dev) (F : Fld) (n : Nat) : (d.count F n).credits = d.credits := rfl
@[simp] theorem Dev.count_repliesOwed (d : Dev) (F : Fld) (n : Nat) : (d.count F n).repliesOwed = d.repliesOwed := rfl
@[simp] theorem Dev.count_ltn (d : Dev) (F : Fld) (n : Nat) : (d.count F n).ltn = d.ltn := rfl
@[simp] theorem Dev.count_ltnLost (d : Dev) (F : Fld) (n : Nat) : (d.count F n).ltnLost = d.ltnLost := rfl
@[simp] theorem Dev.count_out (d : Dev) (F : Fld) (n : Nat) : (d.count F n).out = d.out := rfl
@[simp] theorem Dev.count_fresh (d : Dev) (F : Fld) (n : Nat) : (d.count F n).fresh = d.fresh := rfl
@[simp] theorem Dev.count_msixMask (d : Dev) (F : Fld) (n : Nat) : (d.count F n).msixMask = d.msixMask := rfl
@[simp] theorem Dev.count_msixPend (d : Dev) (F : Fld) (n : Nat) : (d.count F n).msixPend = d.msixPend := rfl
@[simp] theorem Dev.count_linkUp (d : Dev) (F : Fld) (n : Nat) : (d.count F n).linkUp = d.linkUp := rfl
@[simp] theorem Dev.count_linkWait (d : Dev) (F : Fld) (n : Nat) : (d.count F n).linkWait = d.linkWait := rfl
@[simp] theorem Dev.count_wptOn (d : Dev) (F : Fld) (n : Nat) : (d.count F n).wptOn = d.wptOn := rfl
@[simp] theorem Dev.count_wptStop (d : Dev) (F : Fld) (n : Nat) : (d.count F n).wptStop = d.wptStop := rfl
@[simp] theorem Dev.count_wptMask (d : Dev) (F : Fld) (n : Nat) : (d.count F n).wptMask = d.wptMask := rfl
@[simp] theorem Dev.count_imap (d : Dev) (F : Fld) (n : Nat) : (d.count F n).imap = d.imap := rfl
@[simp] theorem Dev.count_chRetire (d : Dev) (F : Fld) (n : Nat) : (d.count F n).chRetire = d.chRetire := rfl
@[simp] theorem Dev.count_chRejoin (d : Dev) (F : Fld) (n : Nat) : (d.count F n).chRejoin = d.chRejoin := rfl
@[simp] theorem Dev.count_badBlk (d : Dev) (F : Fld) (n : Nat) : (d.count F n).badBlk = d.badBlk := rfl
@[simp] theorem Dev.count_checks (d : Dev) (F : Fld) (n : Nat) : (d.count F n).checks = d.checks := rfl
@[simp] theorem Dev.count_ckBuf (d : Dev) (F : Fld) (n : Nat) : (d.count F n).ckBuf = d.ckBuf := rfl
@[simp] theorem Dev.count_memHeld (d : Dev) (F : Fld) (n : Nat) : (d.count F n).memHeld = d.memHeld := rfl
@[simp] theorem Dev.count_refresh (d : Dev) (F : Fld) (n : Nat) : (d.count F n).refresh = d.refresh := rfl
@[simp] theorem Dev.count_failMet (d : Dev) (F : Fld) (n : Nat) : (d.count F n).failMet = d.failMet := rfl
@[simp] theorem Dev.count_digestJob (d : Dev) (F : Fld) (n : Nat) : (d.count F n).digestJob = d.digestJob := rfl
@[simp] theorem Dev.count_digestAt (d : Dev) (F : Fld) (n : Nat) : (d.count F n).digestAt = d.digestAt := rfl
@[simp] theorem Dev.count_flashCores (d : Dev) (F : Fld) (n : Nat) : (d.count F n).flashCores = d.flashCores := rfl
@[simp] theorem Dev.count_flashChans (d : Dev) (F : Fld) (n : Nat) : (d.count F n).flashChans = d.flashChans := rfl
@[simp] theorem Dev.count_flashRemaps (d : Dev) (F : Fld) (n : Nat) : (d.count F n).flashRemaps = d.flashRemaps := rfl
@[simp] theorem Dev.count_mr4Missed (d : Dev) (F : Fld) (n : Nat) : (d.count F n).mr4Missed = d.mr4Missed := rfl
@[simp] theorem Dev.count_wmkIssued (d : Dev) (F : Fld) (n : Nat) : (d.count F n).wmkIssued = d.wmkIssued := rfl
@[simp] theorem Dev.count_txRows (d : Dev) (F : Fld) (n : Nat) : (d.count F n).txRows = d.txRows := rfl
@[simp] theorem Dev.count_txBlks (d : Dev) (F : Fld) (n : Nat) : (d.count F n).txBlks = d.txBlks := rfl
@[simp] theorem Dev.count_txInsts (d : Dev) (F : Fld) (n : Nat) : (d.count F n).txInsts = d.txInsts := rfl
@[simp] theorem Dev.count_rxBlks (d : Dev) (F : Fld) (n : Nat) : (d.count F n).rxBlks = d.rxBlks := rfl
@[simp] theorem Dev.count_rxInsts (d : Dev) (F : Fld) (n : Nat) : (d.count F n).rxInsts = d.rxInsts := rfl
@[simp] theorem Dev.count_joining (d : Dev) (F : Fld) (n : Nat) : (d.count F n).joining = d.joining := rfl
@[simp] theorem Dev.count_heard (d : Dev) (F : Fld) (n : Nat) : (d.count F n).heard = d.heard := rfl
@[simp] theorem Dev.count_said (d : Dev) (F : Fld) (n : Nat) : (d.count F n).said = d.said := rfl
@[simp] theorem Dev.count_ats (d : Dev) (F : Fld) (n : Nat) : (d.count F n).ats = d.ats := rfl
@[simp] theorem Dev.count_xlatPend (d : Dev) (F : Fld) (n : Nat) : (d.count F n).xlatPend = d.xlatPend := rfl
@[simp] theorem Dev.count_xlatFail (d : Dev) (F : Fld) (n : Nat) : (d.count F n).xlatFail = d.xlatFail := rfl
@[simp] theorem Dev.count_hdm (d : Dev) (F : Fld) (n : Nat) : (d.count F n).hdm = d.hdm := rfl
@[simp] theorem Dev.count_snoop (d : Dev) (F : Fld) (n : Nat) : (d.count F n).snoop = d.snoop := rfl
@[simp] theorem Dev.count_rxLow (d : Dev) (F : Fld) (n : Nat) : (d.count F n).rxLow = d.rxLow := rfl
@[simp] theorem Dev.count_wmkSignalled (d : Dev) (F : Fld) (n : Nat) : (d.count F n).wmkSignalled = d.wmkSignalled := rfl
@[simp] theorem Dev.count_peerJoin (d : Dev) (F : Fld) (n : Nat) : (d.count F n).peerJoin = d.peerJoin := rfl
@[simp] theorem Dev.count_joinSent (d : Dev) (F : Fld) (n : Nat) : (d.count F n).joinSent = d.joinSent := rfl
@[simp] theorem Dev.count_netClk (d : Dev) (F : Fld) (n : Nat) : (d.count F n).netClk = d.netClk := rfl
@[simp] theorem Dev.count_seen (d : Dev) (F : Fld) (n : Nat) : (d.count F n).seen = d.seen := rfl
@[simp] theorem Dev.count_mir (d : Dev) (F : Fld) (n : Nat) : (d.count F n).mir = d.mir := rfl
@[simp] theorem Dev.count_crn (d : Dev) (F : Fld) (n : Nat) : (d.count F n).crn = d.crn := rfl
@[simp] theorem Dev.count_dieTemp (d : Dev) (F : Fld) (n : Nat) : (d.count F n).dieTemp = d.dieTemp := rfl
@[simp] theorem Dev.count_dieBad (d : Dev) (F : Fld) (n : Nat) : (d.count F n).dieBad = d.dieBad := rfl
@[simp] theorem Dev.count_pwr (d : Dev) (F : Fld) (n : Nat) : (d.count F n).pwr = d.pwr := rfl
@[simp] theorem Dev.count_events (d : Dev) (F : Fld) (n : Nat) : (d.count F n).events = d.events := rfl
@[simp] theorem Dev.count_mod (d : Dev) (F : Fld) (n : Nat) : (d.count F n).mod = d.mod := rfl
@[simp] theorem Dev.count_sec (d : Dev) (F : Fld) (n : Nat) : (d.count F n).sec = d.sec := rfl
@[simp] theorem Dev.count_tim (d : Dev) (F : Fld) (n : Nat) : (d.count F n).tim = d.tim := rfl
@[simp] theorem Dev.count_bars (d : Dev) (F : Fld) (n : Nat) : (d.count F n).bars = d.bars := rfl
@[simp] theorem Dev.count_hdmErr (d : Dev) (F : Fld) (n : Nat) : (d.count F n).hdmErr = d.hdmErr := rfl
@[simp] theorem Dev.count_inval (d : Dev) (F : Fld) (n : Nat) : (d.count F n).inval = d.inval := rfl
@[simp] theorem Dev.count_xlatRetry (d : Dev) (F : Fld) (n : Nat) : (d.count F n).xlatRetry = d.xlatRetry := rfl
@[simp] theorem Dev.count_hdw (d : Dev) (F : Fld) (n : Nat) : (d.count F n).hdw = d.hdw := rfl
@[simp] theorem Dev.count_phRow (d : Dev) (F : Fld) (n : Nat) : (d.count F n).phRow = d.phRow := rfl
@[simp] theorem Dev.count_parked (d : Dev) (F : Fld) (n : Nat) : (d.count F n).parked = d.parked := rfl
@[simp] theorem Dev.count_heldWrites (d : Dev) (F : Fld) (n : Nat) : (d.count F n).heldWrites = d.heldWrites := rfl

/-! ### Dev.emit -/

@[simp] theorem Dev.emit_regs (d : Dev) (o : Output) : (d.emit o).regs = d.regs := rfl
@[simp] theorem Dev.emit_justSet (d : Dev) (o : Output) : (d.emit o).justSet = d.justSet := rfl
@[simp] theorem Dev.emit_cores (d : Dev) (o : Output) : (d.emit o).cores = d.cores := rfl
@[simp] theorem Dev.emit_slip (d : Dev) (o : Output) : (d.emit o).slip = d.slip := rfl
@[simp] theorem Dev.emit_fillq (d : Dev) (o : Output) : (d.emit o).fillq = d.fillq := rfl
@[simp] theorem Dev.emit_fillUsed (d : Dev) (o : Output) : (d.emit o).fillUsed = d.fillUsed := rfl
@[simp] theorem Dev.emit_rt (d : Dev) (o : Output) : (d.emit o).rt = d.rt := rfl
@[simp] theorem Dev.emit_load (d : Dev) (o : Output) : (d.emit o).load = d.load := rfl
@[simp] theorem Dev.emit_recTen (d : Dev) (o : Output) : (d.emit o).recTen = d.recTen := rfl
@[simp] theorem Dev.emit_lastPlace (d : Dev) (o : Output) : (d.emit o).lastPlace = d.lastPlace := rfl
@[simp] theorem Dev.emit_run (d : Dev) (o : Output) : (d.emit o).run = d.run := rfl
@[simp] theorem Dev.emit_beacons (d : Dev) (o : Output) : (d.emit o).beacons = d.beacons := rfl
@[simp] theorem Dev.emit_bcnSig (d : Dev) (o : Output) : (d.emit o).bcnSig = d.bcnSig := rfl
@[simp] theorem Dev.emit_hwaits (d : Dev) (o : Output) : (d.emit o).hwaits = d.hwaits := rfl
@[simp] theorem Dev.emit_gate (d : Dev) (o : Output) : (d.emit o).gate = d.gate := rfl
@[simp] theorem Dev.emit_slots (d : Dev) (o : Output) : (d.emit o).slots = d.slots := rfl
@[simp] theorem Dev.emit_slotOps (d : Dev) (o : Output) : (d.emit o).slotOps = d.slotOps := rfl
@[simp] theorem Dev.emit_tens (d : Dev) (o : Output) : (d.emit o).tens = d.tens := rfl
@[simp] theorem Dev.emit_resident (d : Dev) (o : Output) : (d.emit o).resident = d.resident := rfl
@[simp] theorem Dev.emit_switchReqs (d : Dev) (o : Output) : (d.emit o).switchReqs = d.switchReqs := rfl
@[simp] theorem Dev.emit_afterSwitch (d : Dev) (o : Output) : (d.emit o).afterSwitch = d.afterSwitch := rfl
@[simp] theorem Dev.emit_switchOwed (d : Dev) (o : Output) : (d.emit o).switchOwed = d.switchOwed := rfl
@[simp] theorem Dev.emit_contexts (d : Dev) (o : Output) : (d.emit o).contexts = d.contexts := rfl
@[simp] theorem Dev.emit_comb (d : Dev) (o : Output) : (d.emit o).comb = d.comb := rfl
@[simp] theorem Dev.emit_mgmtQueue (d : Dev) (o : Output) : (d.emit o).mgmtQueue = d.mgmtQueue := rfl
@[simp] theorem Dev.emit_hostMsgs (d : Dev) (o : Output) : (d.emit o).hostMsgs = d.hostMsgs := rfl
@[simp] theorem Dev.emit_ringQueue (d : Dev) (o : Output) : (d.emit o).ringQueue = d.ringQueue := rfl
@[simp] theorem Dev.emit_credits (d : Dev) (o : Output) : (d.emit o).credits = d.credits := rfl
@[simp] theorem Dev.emit_repliesOwed (d : Dev) (o : Output) : (d.emit o).repliesOwed = d.repliesOwed := rfl
@[simp] theorem Dev.emit_ltn (d : Dev) (o : Output) : (d.emit o).ltn = d.ltn := rfl
@[simp] theorem Dev.emit_ltnLost (d : Dev) (o : Output) : (d.emit o).ltnLost = d.ltnLost := rfl
@[simp] theorem Dev.emit_fresh (d : Dev) (o : Output) : (d.emit o).fresh = d.fresh := rfl
@[simp] theorem Dev.emit_msixMask (d : Dev) (o : Output) : (d.emit o).msixMask = d.msixMask := rfl
@[simp] theorem Dev.emit_msixPend (d : Dev) (o : Output) : (d.emit o).msixPend = d.msixPend := rfl
@[simp] theorem Dev.emit_linkUp (d : Dev) (o : Output) : (d.emit o).linkUp = d.linkUp := rfl
@[simp] theorem Dev.emit_linkWait (d : Dev) (o : Output) : (d.emit o).linkWait = d.linkWait := rfl
@[simp] theorem Dev.emit_wptOn (d : Dev) (o : Output) : (d.emit o).wptOn = d.wptOn := rfl
@[simp] theorem Dev.emit_wptStop (d : Dev) (o : Output) : (d.emit o).wptStop = d.wptStop := rfl
@[simp] theorem Dev.emit_wptMask (d : Dev) (o : Output) : (d.emit o).wptMask = d.wptMask := rfl
@[simp] theorem Dev.emit_imap (d : Dev) (o : Output) : (d.emit o).imap = d.imap := rfl
@[simp] theorem Dev.emit_chRetire (d : Dev) (o : Output) : (d.emit o).chRetire = d.chRetire := rfl
@[simp] theorem Dev.emit_chRejoin (d : Dev) (o : Output) : (d.emit o).chRejoin = d.chRejoin := rfl
@[simp] theorem Dev.emit_badBlk (d : Dev) (o : Output) : (d.emit o).badBlk = d.badBlk := rfl
@[simp] theorem Dev.emit_checks (d : Dev) (o : Output) : (d.emit o).checks = d.checks := rfl
@[simp] theorem Dev.emit_ckBuf (d : Dev) (o : Output) : (d.emit o).ckBuf = d.ckBuf := rfl
@[simp] theorem Dev.emit_memHeld (d : Dev) (o : Output) : (d.emit o).memHeld = d.memHeld := rfl
@[simp] theorem Dev.emit_refresh (d : Dev) (o : Output) : (d.emit o).refresh = d.refresh := rfl
@[simp] theorem Dev.emit_failMet (d : Dev) (o : Output) : (d.emit o).failMet = d.failMet := rfl
@[simp] theorem Dev.emit_digestJob (d : Dev) (o : Output) : (d.emit o).digestJob = d.digestJob := rfl
@[simp] theorem Dev.emit_digestAt (d : Dev) (o : Output) : (d.emit o).digestAt = d.digestAt := rfl
@[simp] theorem Dev.emit_flashCores (d : Dev) (o : Output) : (d.emit o).flashCores = d.flashCores := rfl
@[simp] theorem Dev.emit_flashChans (d : Dev) (o : Output) : (d.emit o).flashChans = d.flashChans := rfl
@[simp] theorem Dev.emit_flashRemaps (d : Dev) (o : Output) : (d.emit o).flashRemaps = d.flashRemaps := rfl
@[simp] theorem Dev.emit_mr4Missed (d : Dev) (o : Output) : (d.emit o).mr4Missed = d.mr4Missed := rfl
@[simp] theorem Dev.emit_wmkIssued (d : Dev) (o : Output) : (d.emit o).wmkIssued = d.wmkIssued := rfl
@[simp] theorem Dev.emit_txRows (d : Dev) (o : Output) : (d.emit o).txRows = d.txRows := rfl
@[simp] theorem Dev.emit_txBlks (d : Dev) (o : Output) : (d.emit o).txBlks = d.txBlks := rfl
@[simp] theorem Dev.emit_txInsts (d : Dev) (o : Output) : (d.emit o).txInsts = d.txInsts := rfl
@[simp] theorem Dev.emit_rxBlks (d : Dev) (o : Output) : (d.emit o).rxBlks = d.rxBlks := rfl
@[simp] theorem Dev.emit_rxInsts (d : Dev) (o : Output) : (d.emit o).rxInsts = d.rxInsts := rfl
@[simp] theorem Dev.emit_joining (d : Dev) (o : Output) : (d.emit o).joining = d.joining := rfl
@[simp] theorem Dev.emit_heard (d : Dev) (o : Output) : (d.emit o).heard = d.heard := rfl
@[simp] theorem Dev.emit_said (d : Dev) (o : Output) : (d.emit o).said = d.said := rfl
@[simp] theorem Dev.emit_ats (d : Dev) (o : Output) : (d.emit o).ats = d.ats := rfl
@[simp] theorem Dev.emit_xlatPend (d : Dev) (o : Output) : (d.emit o).xlatPend = d.xlatPend := rfl
@[simp] theorem Dev.emit_xlatFail (d : Dev) (o : Output) : (d.emit o).xlatFail = d.xlatFail := rfl
@[simp] theorem Dev.emit_hdm (d : Dev) (o : Output) : (d.emit o).hdm = d.hdm := rfl
@[simp] theorem Dev.emit_snoop (d : Dev) (o : Output) : (d.emit o).snoop = d.snoop := rfl
@[simp] theorem Dev.emit_rxLow (d : Dev) (o : Output) : (d.emit o).rxLow = d.rxLow := rfl
@[simp] theorem Dev.emit_wmkSignalled (d : Dev) (o : Output) : (d.emit o).wmkSignalled = d.wmkSignalled := rfl
@[simp] theorem Dev.emit_peerJoin (d : Dev) (o : Output) : (d.emit o).peerJoin = d.peerJoin := rfl
@[simp] theorem Dev.emit_joinSent (d : Dev) (o : Output) : (d.emit o).joinSent = d.joinSent := rfl
@[simp] theorem Dev.emit_netClk (d : Dev) (o : Output) : (d.emit o).netClk = d.netClk := rfl
@[simp] theorem Dev.emit_seen (d : Dev) (o : Output) : (d.emit o).seen = d.seen := rfl
@[simp] theorem Dev.emit_mir (d : Dev) (o : Output) : (d.emit o).mir = d.mir := rfl
@[simp] theorem Dev.emit_crn (d : Dev) (o : Output) : (d.emit o).crn = d.crn := rfl
@[simp] theorem Dev.emit_dieTemp (d : Dev) (o : Output) : (d.emit o).dieTemp = d.dieTemp := rfl
@[simp] theorem Dev.emit_dieBad (d : Dev) (o : Output) : (d.emit o).dieBad = d.dieBad := rfl
@[simp] theorem Dev.emit_pwr (d : Dev) (o : Output) : (d.emit o).pwr = d.pwr := rfl
@[simp] theorem Dev.emit_events (d : Dev) (o : Output) : (d.emit o).events = d.events := rfl
@[simp] theorem Dev.emit_mod (d : Dev) (o : Output) : (d.emit o).mod = d.mod := rfl
@[simp] theorem Dev.emit_sec (d : Dev) (o : Output) : (d.emit o).sec = d.sec := rfl
@[simp] theorem Dev.emit_tim (d : Dev) (o : Output) : (d.emit o).tim = d.tim := rfl
@[simp] theorem Dev.emit_bars (d : Dev) (o : Output) : (d.emit o).bars = d.bars := rfl
@[simp] theorem Dev.emit_hdmErr (d : Dev) (o : Output) : (d.emit o).hdmErr = d.hdmErr := rfl
@[simp] theorem Dev.emit_inval (d : Dev) (o : Output) : (d.emit o).inval = d.inval := rfl
@[simp] theorem Dev.emit_xlatRetry (d : Dev) (o : Output) : (d.emit o).xlatRetry = d.xlatRetry := rfl
@[simp] theorem Dev.emit_hdw (d : Dev) (o : Output) : (d.emit o).hdw = d.hdw := rfl
@[simp] theorem Dev.emit_phRow (d : Dev) (o : Output) : (d.emit o).phRow = d.phRow := rfl
@[simp] theorem Dev.emit_parked (d : Dev) (o : Output) : (d.emit o).parked = d.parked := rfl
@[simp] theorem Dev.emit_heldWrites (d : Dev) (o : Output) : (d.emit o).heldWrites = d.heldWrites := rfl

/-! ### Dev.onRun -/

@[simp] theorem Dev.onRun_regs (d : Dev) (f : RunSt → RunSt) : (d.onRun f).regs = d.regs := rfl
@[simp] theorem Dev.onRun_justSet (d : Dev) (f : RunSt → RunSt) : (d.onRun f).justSet = d.justSet := rfl
@[simp] theorem Dev.onRun_cores (d : Dev) (f : RunSt → RunSt) : (d.onRun f).cores = d.cores := rfl
@[simp] theorem Dev.onRun_slip (d : Dev) (f : RunSt → RunSt) : (d.onRun f).slip = d.slip := rfl
@[simp] theorem Dev.onRun_fillq (d : Dev) (f : RunSt → RunSt) : (d.onRun f).fillq = d.fillq := rfl
@[simp] theorem Dev.onRun_fillUsed (d : Dev) (f : RunSt → RunSt) : (d.onRun f).fillUsed = d.fillUsed := rfl
@[simp] theorem Dev.onRun_rt (d : Dev) (f : RunSt → RunSt) : (d.onRun f).rt = d.rt := rfl
@[simp] theorem Dev.onRun_load (d : Dev) (f : RunSt → RunSt) : (d.onRun f).load = d.load := rfl
@[simp] theorem Dev.onRun_recTen (d : Dev) (f : RunSt → RunSt) : (d.onRun f).recTen = d.recTen := rfl
@[simp] theorem Dev.onRun_lastPlace (d : Dev) (f : RunSt → RunSt) : (d.onRun f).lastPlace = d.lastPlace := rfl
@[simp] theorem Dev.onRun_beacons (d : Dev) (f : RunSt → RunSt) : (d.onRun f).beacons = d.beacons := rfl
@[simp] theorem Dev.onRun_bcnSig (d : Dev) (f : RunSt → RunSt) : (d.onRun f).bcnSig = d.bcnSig := rfl
@[simp] theorem Dev.onRun_hwaits (d : Dev) (f : RunSt → RunSt) : (d.onRun f).hwaits = d.hwaits := rfl
@[simp] theorem Dev.onRun_gate (d : Dev) (f : RunSt → RunSt) : (d.onRun f).gate = d.gate := rfl
@[simp] theorem Dev.onRun_slots (d : Dev) (f : RunSt → RunSt) : (d.onRun f).slots = d.slots := rfl
@[simp] theorem Dev.onRun_slotOps (d : Dev) (f : RunSt → RunSt) : (d.onRun f).slotOps = d.slotOps := rfl
@[simp] theorem Dev.onRun_tens (d : Dev) (f : RunSt → RunSt) : (d.onRun f).tens = d.tens := rfl
@[simp] theorem Dev.onRun_resident (d : Dev) (f : RunSt → RunSt) : (d.onRun f).resident = d.resident := rfl
@[simp] theorem Dev.onRun_switchReqs (d : Dev) (f : RunSt → RunSt) : (d.onRun f).switchReqs = d.switchReqs := rfl
@[simp] theorem Dev.onRun_afterSwitch (d : Dev) (f : RunSt → RunSt) : (d.onRun f).afterSwitch = d.afterSwitch := rfl
@[simp] theorem Dev.onRun_switchOwed (d : Dev) (f : RunSt → RunSt) : (d.onRun f).switchOwed = d.switchOwed := rfl
@[simp] theorem Dev.onRun_contexts (d : Dev) (f : RunSt → RunSt) : (d.onRun f).contexts = d.contexts := rfl
@[simp] theorem Dev.onRun_comb (d : Dev) (f : RunSt → RunSt) : (d.onRun f).comb = d.comb := rfl
@[simp] theorem Dev.onRun_mgmtQueue (d : Dev) (f : RunSt → RunSt) : (d.onRun f).mgmtQueue = d.mgmtQueue := rfl
@[simp] theorem Dev.onRun_hostMsgs (d : Dev) (f : RunSt → RunSt) : (d.onRun f).hostMsgs = d.hostMsgs := rfl
@[simp] theorem Dev.onRun_ringQueue (d : Dev) (f : RunSt → RunSt) : (d.onRun f).ringQueue = d.ringQueue := rfl
@[simp] theorem Dev.onRun_credits (d : Dev) (f : RunSt → RunSt) : (d.onRun f).credits = d.credits := rfl
@[simp] theorem Dev.onRun_repliesOwed (d : Dev) (f : RunSt → RunSt) : (d.onRun f).repliesOwed = d.repliesOwed := rfl
@[simp] theorem Dev.onRun_ltn (d : Dev) (f : RunSt → RunSt) : (d.onRun f).ltn = d.ltn := rfl
@[simp] theorem Dev.onRun_ltnLost (d : Dev) (f : RunSt → RunSt) : (d.onRun f).ltnLost = d.ltnLost := rfl
@[simp] theorem Dev.onRun_out (d : Dev) (f : RunSt → RunSt) : (d.onRun f).out = d.out := rfl
@[simp] theorem Dev.onRun_fresh (d : Dev) (f : RunSt → RunSt) : (d.onRun f).fresh = d.fresh := rfl
@[simp] theorem Dev.onRun_msixMask (d : Dev) (f : RunSt → RunSt) : (d.onRun f).msixMask = d.msixMask := rfl
@[simp] theorem Dev.onRun_msixPend (d : Dev) (f : RunSt → RunSt) : (d.onRun f).msixPend = d.msixPend := rfl
@[simp] theorem Dev.onRun_linkUp (d : Dev) (f : RunSt → RunSt) : (d.onRun f).linkUp = d.linkUp := rfl
@[simp] theorem Dev.onRun_linkWait (d : Dev) (f : RunSt → RunSt) : (d.onRun f).linkWait = d.linkWait := rfl
@[simp] theorem Dev.onRun_wptOn (d : Dev) (f : RunSt → RunSt) : (d.onRun f).wptOn = d.wptOn := rfl
@[simp] theorem Dev.onRun_wptStop (d : Dev) (f : RunSt → RunSt) : (d.onRun f).wptStop = d.wptStop := rfl
@[simp] theorem Dev.onRun_wptMask (d : Dev) (f : RunSt → RunSt) : (d.onRun f).wptMask = d.wptMask := rfl
@[simp] theorem Dev.onRun_imap (d : Dev) (f : RunSt → RunSt) : (d.onRun f).imap = d.imap := rfl
@[simp] theorem Dev.onRun_chRetire (d : Dev) (f : RunSt → RunSt) : (d.onRun f).chRetire = d.chRetire := rfl
@[simp] theorem Dev.onRun_chRejoin (d : Dev) (f : RunSt → RunSt) : (d.onRun f).chRejoin = d.chRejoin := rfl
@[simp] theorem Dev.onRun_badBlk (d : Dev) (f : RunSt → RunSt) : (d.onRun f).badBlk = d.badBlk := rfl
@[simp] theorem Dev.onRun_checks (d : Dev) (f : RunSt → RunSt) : (d.onRun f).checks = d.checks := rfl
@[simp] theorem Dev.onRun_ckBuf (d : Dev) (f : RunSt → RunSt) : (d.onRun f).ckBuf = d.ckBuf := rfl
@[simp] theorem Dev.onRun_memHeld (d : Dev) (f : RunSt → RunSt) : (d.onRun f).memHeld = d.memHeld := rfl
@[simp] theorem Dev.onRun_refresh (d : Dev) (f : RunSt → RunSt) : (d.onRun f).refresh = d.refresh := rfl
@[simp] theorem Dev.onRun_failMet (d : Dev) (f : RunSt → RunSt) : (d.onRun f).failMet = d.failMet := rfl
@[simp] theorem Dev.onRun_digestJob (d : Dev) (f : RunSt → RunSt) : (d.onRun f).digestJob = d.digestJob := rfl
@[simp] theorem Dev.onRun_digestAt (d : Dev) (f : RunSt → RunSt) : (d.onRun f).digestAt = d.digestAt := rfl
@[simp] theorem Dev.onRun_flashCores (d : Dev) (f : RunSt → RunSt) : (d.onRun f).flashCores = d.flashCores := rfl
@[simp] theorem Dev.onRun_flashChans (d : Dev) (f : RunSt → RunSt) : (d.onRun f).flashChans = d.flashChans := rfl
@[simp] theorem Dev.onRun_flashRemaps (d : Dev) (f : RunSt → RunSt) : (d.onRun f).flashRemaps = d.flashRemaps := rfl
@[simp] theorem Dev.onRun_mr4Missed (d : Dev) (f : RunSt → RunSt) : (d.onRun f).mr4Missed = d.mr4Missed := rfl
@[simp] theorem Dev.onRun_wmkIssued (d : Dev) (f : RunSt → RunSt) : (d.onRun f).wmkIssued = d.wmkIssued := rfl
@[simp] theorem Dev.onRun_txRows (d : Dev) (f : RunSt → RunSt) : (d.onRun f).txRows = d.txRows := rfl
@[simp] theorem Dev.onRun_txBlks (d : Dev) (f : RunSt → RunSt) : (d.onRun f).txBlks = d.txBlks := rfl
@[simp] theorem Dev.onRun_txInsts (d : Dev) (f : RunSt → RunSt) : (d.onRun f).txInsts = d.txInsts := rfl
@[simp] theorem Dev.onRun_rxBlks (d : Dev) (f : RunSt → RunSt) : (d.onRun f).rxBlks = d.rxBlks := rfl
@[simp] theorem Dev.onRun_rxInsts (d : Dev) (f : RunSt → RunSt) : (d.onRun f).rxInsts = d.rxInsts := rfl
@[simp] theorem Dev.onRun_joining (d : Dev) (f : RunSt → RunSt) : (d.onRun f).joining = d.joining := rfl
@[simp] theorem Dev.onRun_heard (d : Dev) (f : RunSt → RunSt) : (d.onRun f).heard = d.heard := rfl
@[simp] theorem Dev.onRun_said (d : Dev) (f : RunSt → RunSt) : (d.onRun f).said = d.said := rfl
@[simp] theorem Dev.onRun_ats (d : Dev) (f : RunSt → RunSt) : (d.onRun f).ats = d.ats := rfl
@[simp] theorem Dev.onRun_xlatPend (d : Dev) (f : RunSt → RunSt) : (d.onRun f).xlatPend = d.xlatPend := rfl
@[simp] theorem Dev.onRun_xlatFail (d : Dev) (f : RunSt → RunSt) : (d.onRun f).xlatFail = d.xlatFail := rfl
@[simp] theorem Dev.onRun_hdm (d : Dev) (f : RunSt → RunSt) : (d.onRun f).hdm = d.hdm := rfl
@[simp] theorem Dev.onRun_snoop (d : Dev) (f : RunSt → RunSt) : (d.onRun f).snoop = d.snoop := rfl
@[simp] theorem Dev.onRun_rxLow (d : Dev) (f : RunSt → RunSt) : (d.onRun f).rxLow = d.rxLow := rfl
@[simp] theorem Dev.onRun_wmkSignalled (d : Dev) (f : RunSt → RunSt) : (d.onRun f).wmkSignalled = d.wmkSignalled := rfl
@[simp] theorem Dev.onRun_peerJoin (d : Dev) (f : RunSt → RunSt) : (d.onRun f).peerJoin = d.peerJoin := rfl
@[simp] theorem Dev.onRun_joinSent (d : Dev) (f : RunSt → RunSt) : (d.onRun f).joinSent = d.joinSent := rfl
@[simp] theorem Dev.onRun_netClk (d : Dev) (f : RunSt → RunSt) : (d.onRun f).netClk = d.netClk := rfl
@[simp] theorem Dev.onRun_seen (d : Dev) (f : RunSt → RunSt) : (d.onRun f).seen = d.seen := rfl
@[simp] theorem Dev.onRun_mir (d : Dev) (f : RunSt → RunSt) : (d.onRun f).mir = d.mir := rfl
@[simp] theorem Dev.onRun_crn (d : Dev) (f : RunSt → RunSt) : (d.onRun f).crn = d.crn := rfl
@[simp] theorem Dev.onRun_dieTemp (d : Dev) (f : RunSt → RunSt) : (d.onRun f).dieTemp = d.dieTemp := rfl
@[simp] theorem Dev.onRun_dieBad (d : Dev) (f : RunSt → RunSt) : (d.onRun f).dieBad = d.dieBad := rfl
@[simp] theorem Dev.onRun_pwr (d : Dev) (f : RunSt → RunSt) : (d.onRun f).pwr = d.pwr := rfl
@[simp] theorem Dev.onRun_events (d : Dev) (f : RunSt → RunSt) : (d.onRun f).events = d.events := rfl
@[simp] theorem Dev.onRun_mod (d : Dev) (f : RunSt → RunSt) : (d.onRun f).mod = d.mod := rfl
@[simp] theorem Dev.onRun_sec (d : Dev) (f : RunSt → RunSt) : (d.onRun f).sec = d.sec := rfl
@[simp] theorem Dev.onRun_tim (d : Dev) (f : RunSt → RunSt) : (d.onRun f).tim = d.tim := rfl
@[simp] theorem Dev.onRun_bars (d : Dev) (f : RunSt → RunSt) : (d.onRun f).bars = d.bars := rfl
@[simp] theorem Dev.onRun_hdmErr (d : Dev) (f : RunSt → RunSt) : (d.onRun f).hdmErr = d.hdmErr := rfl
@[simp] theorem Dev.onRun_inval (d : Dev) (f : RunSt → RunSt) : (d.onRun f).inval = d.inval := rfl
@[simp] theorem Dev.onRun_xlatRetry (d : Dev) (f : RunSt → RunSt) : (d.onRun f).xlatRetry = d.xlatRetry := rfl
@[simp] theorem Dev.onRun_hdw (d : Dev) (f : RunSt → RunSt) : (d.onRun f).hdw = d.hdw := rfl
@[simp] theorem Dev.onRun_phRow (d : Dev) (f : RunSt → RunSt) : (d.onRun f).phRow = d.phRow := rfl
@[simp] theorem Dev.onRun_parked (d : Dev) (f : RunSt → RunSt) : (d.onRun f).parked = d.parked := rfl
@[simp] theorem Dev.onRun_heldWrites (d : Dev) (f : RunSt → RunSt) : (d.onRun f).heldWrites = d.heldWrites := rfl

/-! ### Dev.sched -/

@[simp] theorem Dev.sched_regs (d : Dev) (t : Nat) (b : Bool) (o : Owner) (a : Act) : (d.sched t b o a).regs = d.regs := rfl
@[simp] theorem Dev.sched_justSet (d : Dev) (t : Nat) (b : Bool) (o : Owner) (a : Act) : (d.sched t b o a).justSet = d.justSet := rfl
@[simp] theorem Dev.sched_cores (d : Dev) (t : Nat) (b : Bool) (o : Owner) (a : Act) : (d.sched t b o a).cores = d.cores := rfl
@[simp] theorem Dev.sched_slip (d : Dev) (t : Nat) (b : Bool) (o : Owner) (a : Act) : (d.sched t b o a).slip = d.slip := rfl
@[simp] theorem Dev.sched_fillq (d : Dev) (t : Nat) (b : Bool) (o : Owner) (a : Act) : (d.sched t b o a).fillq = d.fillq := rfl
@[simp] theorem Dev.sched_fillUsed (d : Dev) (t : Nat) (b : Bool) (o : Owner) (a : Act) : (d.sched t b o a).fillUsed = d.fillUsed := rfl
@[simp] theorem Dev.sched_rt (d : Dev) (t : Nat) (b : Bool) (o : Owner) (a : Act) : (d.sched t b o a).rt = d.rt := rfl
@[simp] theorem Dev.sched_load (d : Dev) (t : Nat) (b : Bool) (o : Owner) (a : Act) : (d.sched t b o a).load = d.load := rfl
@[simp] theorem Dev.sched_recTen (d : Dev) (t : Nat) (b : Bool) (o : Owner) (a : Act) : (d.sched t b o a).recTen = d.recTen := rfl
@[simp] theorem Dev.sched_lastPlace (d : Dev) (t : Nat) (b : Bool) (o : Owner) (a : Act) : (d.sched t b o a).lastPlace = d.lastPlace := rfl
@[simp] theorem Dev.sched_beacons (d : Dev) (t : Nat) (b : Bool) (o : Owner) (a : Act) : (d.sched t b o a).beacons = d.beacons := rfl
@[simp] theorem Dev.sched_bcnSig (d : Dev) (t : Nat) (b : Bool) (o : Owner) (a : Act) : (d.sched t b o a).bcnSig = d.bcnSig := rfl
@[simp] theorem Dev.sched_hwaits (d : Dev) (t : Nat) (b : Bool) (o : Owner) (a : Act) : (d.sched t b o a).hwaits = d.hwaits := rfl
@[simp] theorem Dev.sched_gate (d : Dev) (t : Nat) (b : Bool) (o : Owner) (a : Act) : (d.sched t b o a).gate = d.gate := rfl
@[simp] theorem Dev.sched_slots (d : Dev) (t : Nat) (b : Bool) (o : Owner) (a : Act) : (d.sched t b o a).slots = d.slots := rfl
@[simp] theorem Dev.sched_slotOps (d : Dev) (t : Nat) (b : Bool) (o : Owner) (a : Act) : (d.sched t b o a).slotOps = d.slotOps := rfl
@[simp] theorem Dev.sched_tens (d : Dev) (t : Nat) (b : Bool) (o : Owner) (a : Act) : (d.sched t b o a).tens = d.tens := rfl
@[simp] theorem Dev.sched_resident (d : Dev) (t : Nat) (b : Bool) (o : Owner) (a : Act) : (d.sched t b o a).resident = d.resident := rfl
@[simp] theorem Dev.sched_switchReqs (d : Dev) (t : Nat) (b : Bool) (o : Owner) (a : Act) : (d.sched t b o a).switchReqs = d.switchReqs := rfl
@[simp] theorem Dev.sched_afterSwitch (d : Dev) (t : Nat) (b : Bool) (o : Owner) (a : Act) : (d.sched t b o a).afterSwitch = d.afterSwitch := rfl
@[simp] theorem Dev.sched_switchOwed (d : Dev) (t : Nat) (b : Bool) (o : Owner) (a : Act) : (d.sched t b o a).switchOwed = d.switchOwed := rfl
@[simp] theorem Dev.sched_contexts (d : Dev) (t : Nat) (b : Bool) (o : Owner) (a : Act) : (d.sched t b o a).contexts = d.contexts := rfl
@[simp] theorem Dev.sched_comb (d : Dev) (t : Nat) (b : Bool) (o : Owner) (a : Act) : (d.sched t b o a).comb = d.comb := rfl
@[simp] theorem Dev.sched_mgmtQueue (d : Dev) (t : Nat) (b : Bool) (o : Owner) (a : Act) : (d.sched t b o a).mgmtQueue = d.mgmtQueue := rfl
@[simp] theorem Dev.sched_hostMsgs (d : Dev) (t : Nat) (b : Bool) (o : Owner) (a : Act) : (d.sched t b o a).hostMsgs = d.hostMsgs := rfl
@[simp] theorem Dev.sched_ringQueue (d : Dev) (t : Nat) (b : Bool) (o : Owner) (a : Act) : (d.sched t b o a).ringQueue = d.ringQueue := rfl
@[simp] theorem Dev.sched_credits (d : Dev) (t : Nat) (b : Bool) (o : Owner) (a : Act) : (d.sched t b o a).credits = d.credits := rfl
@[simp] theorem Dev.sched_repliesOwed (d : Dev) (t : Nat) (b : Bool) (o : Owner) (a : Act) : (d.sched t b o a).repliesOwed = d.repliesOwed := rfl
@[simp] theorem Dev.sched_ltn (d : Dev) (t : Nat) (b : Bool) (o : Owner) (a : Act) : (d.sched t b o a).ltn = d.ltn := rfl
@[simp] theorem Dev.sched_ltnLost (d : Dev) (t : Nat) (b : Bool) (o : Owner) (a : Act) : (d.sched t b o a).ltnLost = d.ltnLost := rfl
@[simp] theorem Dev.sched_out (d : Dev) (t : Nat) (b : Bool) (o : Owner) (a : Act) : (d.sched t b o a).out = d.out := rfl
@[simp] theorem Dev.sched_fresh (d : Dev) (t : Nat) (b : Bool) (o : Owner) (a : Act) : (d.sched t b o a).fresh = d.fresh := rfl
@[simp] theorem Dev.sched_msixMask (d : Dev) (t : Nat) (b : Bool) (o : Owner) (a : Act) : (d.sched t b o a).msixMask = d.msixMask := rfl
@[simp] theorem Dev.sched_msixPend (d : Dev) (t : Nat) (b : Bool) (o : Owner) (a : Act) : (d.sched t b o a).msixPend = d.msixPend := rfl
@[simp] theorem Dev.sched_linkUp (d : Dev) (t : Nat) (b : Bool) (o : Owner) (a : Act) : (d.sched t b o a).linkUp = d.linkUp := rfl
@[simp] theorem Dev.sched_linkWait (d : Dev) (t : Nat) (b : Bool) (o : Owner) (a : Act) : (d.sched t b o a).linkWait = d.linkWait := rfl
@[simp] theorem Dev.sched_wptOn (d : Dev) (t : Nat) (b : Bool) (o : Owner) (a : Act) : (d.sched t b o a).wptOn = d.wptOn := rfl
@[simp] theorem Dev.sched_wptStop (d : Dev) (t : Nat) (b : Bool) (o : Owner) (a : Act) : (d.sched t b o a).wptStop = d.wptStop := rfl
@[simp] theorem Dev.sched_wptMask (d : Dev) (t : Nat) (b : Bool) (o : Owner) (a : Act) : (d.sched t b o a).wptMask = d.wptMask := rfl
@[simp] theorem Dev.sched_imap (d : Dev) (t : Nat) (b : Bool) (o : Owner) (a : Act) : (d.sched t b o a).imap = d.imap := rfl
@[simp] theorem Dev.sched_chRetire (d : Dev) (t : Nat) (b : Bool) (o : Owner) (a : Act) : (d.sched t b o a).chRetire = d.chRetire := rfl
@[simp] theorem Dev.sched_chRejoin (d : Dev) (t : Nat) (b : Bool) (o : Owner) (a : Act) : (d.sched t b o a).chRejoin = d.chRejoin := rfl
@[simp] theorem Dev.sched_badBlk (d : Dev) (t : Nat) (b : Bool) (o : Owner) (a : Act) : (d.sched t b o a).badBlk = d.badBlk := rfl
@[simp] theorem Dev.sched_checks (d : Dev) (t : Nat) (b : Bool) (o : Owner) (a : Act) : (d.sched t b o a).checks = d.checks := rfl
@[simp] theorem Dev.sched_ckBuf (d : Dev) (t : Nat) (b : Bool) (o : Owner) (a : Act) : (d.sched t b o a).ckBuf = d.ckBuf := rfl
@[simp] theorem Dev.sched_memHeld (d : Dev) (t : Nat) (b : Bool) (o : Owner) (a : Act) : (d.sched t b o a).memHeld = d.memHeld := rfl
@[simp] theorem Dev.sched_refresh (d : Dev) (t : Nat) (b : Bool) (o : Owner) (a : Act) : (d.sched t b o a).refresh = d.refresh := rfl
@[simp] theorem Dev.sched_failMet (d : Dev) (t : Nat) (b : Bool) (o : Owner) (a : Act) : (d.sched t b o a).failMet = d.failMet := rfl
@[simp] theorem Dev.sched_digestJob (d : Dev) (t : Nat) (b : Bool) (o : Owner) (a : Act) : (d.sched t b o a).digestJob = d.digestJob := rfl
@[simp] theorem Dev.sched_digestAt (d : Dev) (t : Nat) (b : Bool) (o : Owner) (a : Act) : (d.sched t b o a).digestAt = d.digestAt := rfl
@[simp] theorem Dev.sched_flashCores (d : Dev) (t : Nat) (b : Bool) (o : Owner) (a : Act) : (d.sched t b o a).flashCores = d.flashCores := rfl
@[simp] theorem Dev.sched_flashChans (d : Dev) (t : Nat) (b : Bool) (o : Owner) (a : Act) : (d.sched t b o a).flashChans = d.flashChans := rfl
@[simp] theorem Dev.sched_flashRemaps (d : Dev) (t : Nat) (b : Bool) (o : Owner) (a : Act) : (d.sched t b o a).flashRemaps = d.flashRemaps := rfl
@[simp] theorem Dev.sched_mr4Missed (d : Dev) (t : Nat) (b : Bool) (o : Owner) (a : Act) : (d.sched t b o a).mr4Missed = d.mr4Missed := rfl
@[simp] theorem Dev.sched_wmkIssued (d : Dev) (t : Nat) (b : Bool) (o : Owner) (a : Act) : (d.sched t b o a).wmkIssued = d.wmkIssued := rfl
@[simp] theorem Dev.sched_txRows (d : Dev) (t : Nat) (b : Bool) (o : Owner) (a : Act) : (d.sched t b o a).txRows = d.txRows := rfl
@[simp] theorem Dev.sched_txBlks (d : Dev) (t : Nat) (b : Bool) (o : Owner) (a : Act) : (d.sched t b o a).txBlks = d.txBlks := rfl
@[simp] theorem Dev.sched_txInsts (d : Dev) (t : Nat) (b : Bool) (o : Owner) (a : Act) : (d.sched t b o a).txInsts = d.txInsts := rfl
@[simp] theorem Dev.sched_rxBlks (d : Dev) (t : Nat) (b : Bool) (o : Owner) (a : Act) : (d.sched t b o a).rxBlks = d.rxBlks := rfl
@[simp] theorem Dev.sched_rxInsts (d : Dev) (t : Nat) (b : Bool) (o : Owner) (a : Act) : (d.sched t b o a).rxInsts = d.rxInsts := rfl
@[simp] theorem Dev.sched_joining (d : Dev) (t : Nat) (b : Bool) (o : Owner) (a : Act) : (d.sched t b o a).joining = d.joining := rfl
@[simp] theorem Dev.sched_heard (d : Dev) (t : Nat) (b : Bool) (o : Owner) (a : Act) : (d.sched t b o a).heard = d.heard := rfl
@[simp] theorem Dev.sched_said (d : Dev) (t : Nat) (b : Bool) (o : Owner) (a : Act) : (d.sched t b o a).said = d.said := rfl
@[simp] theorem Dev.sched_ats (d : Dev) (t : Nat) (b : Bool) (o : Owner) (a : Act) : (d.sched t b o a).ats = d.ats := rfl
@[simp] theorem Dev.sched_xlatPend (d : Dev) (t : Nat) (b : Bool) (o : Owner) (a : Act) : (d.sched t b o a).xlatPend = d.xlatPend := rfl
@[simp] theorem Dev.sched_xlatFail (d : Dev) (t : Nat) (b : Bool) (o : Owner) (a : Act) : (d.sched t b o a).xlatFail = d.xlatFail := rfl
@[simp] theorem Dev.sched_hdm (d : Dev) (t : Nat) (b : Bool) (o : Owner) (a : Act) : (d.sched t b o a).hdm = d.hdm := rfl
@[simp] theorem Dev.sched_snoop (d : Dev) (t : Nat) (b : Bool) (o : Owner) (a : Act) : (d.sched t b o a).snoop = d.snoop := rfl
@[simp] theorem Dev.sched_rxLow (d : Dev) (t : Nat) (b : Bool) (o : Owner) (a : Act) : (d.sched t b o a).rxLow = d.rxLow := rfl
@[simp] theorem Dev.sched_wmkSignalled (d : Dev) (t : Nat) (b : Bool) (o : Owner) (a : Act) : (d.sched t b o a).wmkSignalled = d.wmkSignalled := rfl
@[simp] theorem Dev.sched_peerJoin (d : Dev) (t : Nat) (b : Bool) (o : Owner) (a : Act) : (d.sched t b o a).peerJoin = d.peerJoin := rfl
@[simp] theorem Dev.sched_joinSent (d : Dev) (t : Nat) (b : Bool) (o : Owner) (a : Act) : (d.sched t b o a).joinSent = d.joinSent := rfl
@[simp] theorem Dev.sched_netClk (d : Dev) (t : Nat) (b : Bool) (o : Owner) (a : Act) : (d.sched t b o a).netClk = d.netClk := rfl
@[simp] theorem Dev.sched_seen (d : Dev) (t : Nat) (b : Bool) (o : Owner) (a : Act) : (d.sched t b o a).seen = d.seen := rfl
@[simp] theorem Dev.sched_mir (d : Dev) (t : Nat) (b : Bool) (o : Owner) (a : Act) : (d.sched t b o a).mir = d.mir := rfl
@[simp] theorem Dev.sched_crn (d : Dev) (t : Nat) (b : Bool) (o : Owner) (a : Act) : (d.sched t b o a).crn = d.crn := rfl
@[simp] theorem Dev.sched_dieTemp (d : Dev) (t : Nat) (b : Bool) (o : Owner) (a : Act) : (d.sched t b o a).dieTemp = d.dieTemp := rfl
@[simp] theorem Dev.sched_dieBad (d : Dev) (t : Nat) (b : Bool) (o : Owner) (a : Act) : (d.sched t b o a).dieBad = d.dieBad := rfl
@[simp] theorem Dev.sched_pwr (d : Dev) (t : Nat) (b : Bool) (o : Owner) (a : Act) : (d.sched t b o a).pwr = d.pwr := rfl
@[simp] theorem Dev.sched_events (d : Dev) (t : Nat) (b : Bool) (o : Owner) (a : Act) : (d.sched t b o a).events = d.events := rfl
@[simp] theorem Dev.sched_mod (d : Dev) (t : Nat) (b : Bool) (o : Owner) (a : Act) : (d.sched t b o a).mod = d.mod := rfl
@[simp] theorem Dev.sched_sec (d : Dev) (t : Nat) (b : Bool) (o : Owner) (a : Act) : (d.sched t b o a).sec = d.sec := rfl
@[simp] theorem Dev.sched_tim (d : Dev) (t : Nat) (b : Bool) (o : Owner) (a : Act) : (d.sched t b o a).tim = d.tim := rfl
@[simp] theorem Dev.sched_bars (d : Dev) (t : Nat) (b : Bool) (o : Owner) (a : Act) : (d.sched t b o a).bars = d.bars := rfl
@[simp] theorem Dev.sched_hdmErr (d : Dev) (t : Nat) (b : Bool) (o : Owner) (a : Act) : (d.sched t b o a).hdmErr = d.hdmErr := rfl
@[simp] theorem Dev.sched_inval (d : Dev) (t : Nat) (b : Bool) (o : Owner) (a : Act) : (d.sched t b o a).inval = d.inval := rfl
@[simp] theorem Dev.sched_xlatRetry (d : Dev) (t : Nat) (b : Bool) (o : Owner) (a : Act) : (d.sched t b o a).xlatRetry = d.xlatRetry := rfl
@[simp] theorem Dev.sched_hdw (d : Dev) (t : Nat) (b : Bool) (o : Owner) (a : Act) : (d.sched t b o a).hdw = d.hdw := rfl
@[simp] theorem Dev.sched_phRow (d : Dev) (t : Nat) (b : Bool) (o : Owner) (a : Act) : (d.sched t b o a).phRow = d.phRow := rfl
@[simp] theorem Dev.sched_parked (d : Dev) (t : Nat) (b : Bool) (o : Owner) (a : Act) : (d.sched t b o a).parked = d.parked := rfl
@[simp] theorem Dev.sched_heldWrites (d : Dev) (t : Nat) (b : Bool) (o : Owner) (a : Act) : (d.sched t b o a).heldWrites = d.heldWrites := rfl

/-! ### Dev.setCore -/

@[simp] theorem Dev.setCore_regs (d : Dev) (c : Nat) (k : CoreSt) : (d.setCore c k).regs = d.regs := rfl
@[simp] theorem Dev.setCore_justSet (d : Dev) (c : Nat) (k : CoreSt) : (d.setCore c k).justSet = d.justSet := rfl
@[simp] theorem Dev.setCore_slip (d : Dev) (c : Nat) (k : CoreSt) : (d.setCore c k).slip = d.slip := rfl
@[simp] theorem Dev.setCore_fillq (d : Dev) (c : Nat) (k : CoreSt) : (d.setCore c k).fillq = d.fillq := rfl
@[simp] theorem Dev.setCore_fillUsed (d : Dev) (c : Nat) (k : CoreSt) : (d.setCore c k).fillUsed = d.fillUsed := rfl
@[simp] theorem Dev.setCore_rt (d : Dev) (c : Nat) (k : CoreSt) : (d.setCore c k).rt = d.rt := rfl
@[simp] theorem Dev.setCore_load (d : Dev) (c : Nat) (k : CoreSt) : (d.setCore c k).load = d.load := rfl
@[simp] theorem Dev.setCore_recTen (d : Dev) (c : Nat) (k : CoreSt) : (d.setCore c k).recTen = d.recTen := rfl
@[simp] theorem Dev.setCore_lastPlace (d : Dev) (c : Nat) (k : CoreSt) : (d.setCore c k).lastPlace = d.lastPlace := rfl
@[simp] theorem Dev.setCore_run (d : Dev) (c : Nat) (k : CoreSt) : (d.setCore c k).run = d.run := rfl
@[simp] theorem Dev.setCore_beacons (d : Dev) (c : Nat) (k : CoreSt) : (d.setCore c k).beacons = d.beacons := rfl
@[simp] theorem Dev.setCore_bcnSig (d : Dev) (c : Nat) (k : CoreSt) : (d.setCore c k).bcnSig = d.bcnSig := rfl
@[simp] theorem Dev.setCore_hwaits (d : Dev) (c : Nat) (k : CoreSt) : (d.setCore c k).hwaits = d.hwaits := rfl
@[simp] theorem Dev.setCore_gate (d : Dev) (c : Nat) (k : CoreSt) : (d.setCore c k).gate = d.gate := rfl
@[simp] theorem Dev.setCore_slots (d : Dev) (c : Nat) (k : CoreSt) : (d.setCore c k).slots = d.slots := rfl
@[simp] theorem Dev.setCore_slotOps (d : Dev) (c : Nat) (k : CoreSt) : (d.setCore c k).slotOps = d.slotOps := rfl
@[simp] theorem Dev.setCore_tens (d : Dev) (c : Nat) (k : CoreSt) : (d.setCore c k).tens = d.tens := rfl
@[simp] theorem Dev.setCore_resident (d : Dev) (c : Nat) (k : CoreSt) : (d.setCore c k).resident = d.resident := rfl
@[simp] theorem Dev.setCore_switchReqs (d : Dev) (c : Nat) (k : CoreSt) : (d.setCore c k).switchReqs = d.switchReqs := rfl
@[simp] theorem Dev.setCore_afterSwitch (d : Dev) (c : Nat) (k : CoreSt) : (d.setCore c k).afterSwitch = d.afterSwitch := rfl
@[simp] theorem Dev.setCore_switchOwed (d : Dev) (c : Nat) (k : CoreSt) : (d.setCore c k).switchOwed = d.switchOwed := rfl
@[simp] theorem Dev.setCore_contexts (d : Dev) (c : Nat) (k : CoreSt) : (d.setCore c k).contexts = d.contexts := rfl
@[simp] theorem Dev.setCore_comb (d : Dev) (c : Nat) (k : CoreSt) : (d.setCore c k).comb = d.comb := rfl
@[simp] theorem Dev.setCore_mgmtQueue (d : Dev) (c : Nat) (k : CoreSt) : (d.setCore c k).mgmtQueue = d.mgmtQueue := rfl
@[simp] theorem Dev.setCore_hostMsgs (d : Dev) (c : Nat) (k : CoreSt) : (d.setCore c k).hostMsgs = d.hostMsgs := rfl
@[simp] theorem Dev.setCore_ringQueue (d : Dev) (c : Nat) (k : CoreSt) : (d.setCore c k).ringQueue = d.ringQueue := rfl
@[simp] theorem Dev.setCore_credits (d : Dev) (c : Nat) (k : CoreSt) : (d.setCore c k).credits = d.credits := rfl
@[simp] theorem Dev.setCore_repliesOwed (d : Dev) (c : Nat) (k : CoreSt) : (d.setCore c k).repliesOwed = d.repliesOwed := rfl
@[simp] theorem Dev.setCore_ltn (d : Dev) (c : Nat) (k : CoreSt) : (d.setCore c k).ltn = d.ltn := rfl
@[simp] theorem Dev.setCore_ltnLost (d : Dev) (c : Nat) (k : CoreSt) : (d.setCore c k).ltnLost = d.ltnLost := rfl
@[simp] theorem Dev.setCore_out (d : Dev) (c : Nat) (k : CoreSt) : (d.setCore c k).out = d.out := rfl
@[simp] theorem Dev.setCore_fresh (d : Dev) (c : Nat) (k : CoreSt) : (d.setCore c k).fresh = d.fresh := rfl
@[simp] theorem Dev.setCore_msixMask (d : Dev) (c : Nat) (k : CoreSt) : (d.setCore c k).msixMask = d.msixMask := rfl
@[simp] theorem Dev.setCore_msixPend (d : Dev) (c : Nat) (k : CoreSt) : (d.setCore c k).msixPend = d.msixPend := rfl
@[simp] theorem Dev.setCore_linkUp (d : Dev) (c : Nat) (k : CoreSt) : (d.setCore c k).linkUp = d.linkUp := rfl
@[simp] theorem Dev.setCore_linkWait (d : Dev) (c : Nat) (k : CoreSt) : (d.setCore c k).linkWait = d.linkWait := rfl
@[simp] theorem Dev.setCore_wptOn (d : Dev) (c : Nat) (k : CoreSt) : (d.setCore c k).wptOn = d.wptOn := rfl
@[simp] theorem Dev.setCore_wptStop (d : Dev) (c : Nat) (k : CoreSt) : (d.setCore c k).wptStop = d.wptStop := rfl
@[simp] theorem Dev.setCore_wptMask (d : Dev) (c : Nat) (k : CoreSt) : (d.setCore c k).wptMask = d.wptMask := rfl
@[simp] theorem Dev.setCore_imap (d : Dev) (c : Nat) (k : CoreSt) : (d.setCore c k).imap = d.imap := rfl
@[simp] theorem Dev.setCore_chRetire (d : Dev) (c : Nat) (k : CoreSt) : (d.setCore c k).chRetire = d.chRetire := rfl
@[simp] theorem Dev.setCore_chRejoin (d : Dev) (c : Nat) (k : CoreSt) : (d.setCore c k).chRejoin = d.chRejoin := rfl
@[simp] theorem Dev.setCore_badBlk (d : Dev) (c : Nat) (k : CoreSt) : (d.setCore c k).badBlk = d.badBlk := rfl
@[simp] theorem Dev.setCore_checks (d : Dev) (c : Nat) (k : CoreSt) : (d.setCore c k).checks = d.checks := rfl
@[simp] theorem Dev.setCore_ckBuf (d : Dev) (c : Nat) (k : CoreSt) : (d.setCore c k).ckBuf = d.ckBuf := rfl
@[simp] theorem Dev.setCore_memHeld (d : Dev) (c : Nat) (k : CoreSt) : (d.setCore c k).memHeld = d.memHeld := rfl
@[simp] theorem Dev.setCore_refresh (d : Dev) (c : Nat) (k : CoreSt) : (d.setCore c k).refresh = d.refresh := rfl
@[simp] theorem Dev.setCore_failMet (d : Dev) (c : Nat) (k : CoreSt) : (d.setCore c k).failMet = d.failMet := rfl
@[simp] theorem Dev.setCore_digestJob (d : Dev) (c : Nat) (k : CoreSt) : (d.setCore c k).digestJob = d.digestJob := rfl
@[simp] theorem Dev.setCore_digestAt (d : Dev) (c : Nat) (k : CoreSt) : (d.setCore c k).digestAt = d.digestAt := rfl
@[simp] theorem Dev.setCore_flashCores (d : Dev) (c : Nat) (k : CoreSt) : (d.setCore c k).flashCores = d.flashCores := rfl
@[simp] theorem Dev.setCore_flashChans (d : Dev) (c : Nat) (k : CoreSt) : (d.setCore c k).flashChans = d.flashChans := rfl
@[simp] theorem Dev.setCore_flashRemaps (d : Dev) (c : Nat) (k : CoreSt) : (d.setCore c k).flashRemaps = d.flashRemaps := rfl
@[simp] theorem Dev.setCore_mr4Missed (d : Dev) (c : Nat) (k : CoreSt) : (d.setCore c k).mr4Missed = d.mr4Missed := rfl
@[simp] theorem Dev.setCore_wmkIssued (d : Dev) (c : Nat) (k : CoreSt) : (d.setCore c k).wmkIssued = d.wmkIssued := rfl
@[simp] theorem Dev.setCore_txRows (d : Dev) (c : Nat) (k : CoreSt) : (d.setCore c k).txRows = d.txRows := rfl
@[simp] theorem Dev.setCore_txBlks (d : Dev) (c : Nat) (k : CoreSt) : (d.setCore c k).txBlks = d.txBlks := rfl
@[simp] theorem Dev.setCore_txInsts (d : Dev) (c : Nat) (k : CoreSt) : (d.setCore c k).txInsts = d.txInsts := rfl
@[simp] theorem Dev.setCore_rxBlks (d : Dev) (c : Nat) (k : CoreSt) : (d.setCore c k).rxBlks = d.rxBlks := rfl
@[simp] theorem Dev.setCore_rxInsts (d : Dev) (c : Nat) (k : CoreSt) : (d.setCore c k).rxInsts = d.rxInsts := rfl
@[simp] theorem Dev.setCore_joining (d : Dev) (c : Nat) (k : CoreSt) : (d.setCore c k).joining = d.joining := rfl
@[simp] theorem Dev.setCore_heard (d : Dev) (c : Nat) (k : CoreSt) : (d.setCore c k).heard = d.heard := rfl
@[simp] theorem Dev.setCore_said (d : Dev) (c : Nat) (k : CoreSt) : (d.setCore c k).said = d.said := rfl
@[simp] theorem Dev.setCore_ats (d : Dev) (c : Nat) (k : CoreSt) : (d.setCore c k).ats = d.ats := rfl
@[simp] theorem Dev.setCore_xlatPend (d : Dev) (c : Nat) (k : CoreSt) : (d.setCore c k).xlatPend = d.xlatPend := rfl
@[simp] theorem Dev.setCore_xlatFail (d : Dev) (c : Nat) (k : CoreSt) : (d.setCore c k).xlatFail = d.xlatFail := rfl
@[simp] theorem Dev.setCore_hdm (d : Dev) (c : Nat) (k : CoreSt) : (d.setCore c k).hdm = d.hdm := rfl
@[simp] theorem Dev.setCore_snoop (d : Dev) (c : Nat) (k : CoreSt) : (d.setCore c k).snoop = d.snoop := rfl
@[simp] theorem Dev.setCore_rxLow (d : Dev) (c : Nat) (k : CoreSt) : (d.setCore c k).rxLow = d.rxLow := rfl
@[simp] theorem Dev.setCore_wmkSignalled (d : Dev) (c : Nat) (k : CoreSt) : (d.setCore c k).wmkSignalled = d.wmkSignalled := rfl
@[simp] theorem Dev.setCore_peerJoin (d : Dev) (c : Nat) (k : CoreSt) : (d.setCore c k).peerJoin = d.peerJoin := rfl
@[simp] theorem Dev.setCore_joinSent (d : Dev) (c : Nat) (k : CoreSt) : (d.setCore c k).joinSent = d.joinSent := rfl
@[simp] theorem Dev.setCore_netClk (d : Dev) (c : Nat) (k : CoreSt) : (d.setCore c k).netClk = d.netClk := rfl
@[simp] theorem Dev.setCore_seen (d : Dev) (c : Nat) (k : CoreSt) : (d.setCore c k).seen = d.seen := rfl
@[simp] theorem Dev.setCore_mir (d : Dev) (c : Nat) (k : CoreSt) : (d.setCore c k).mir = d.mir := rfl
@[simp] theorem Dev.setCore_crn (d : Dev) (c : Nat) (k : CoreSt) : (d.setCore c k).crn = d.crn := rfl
@[simp] theorem Dev.setCore_dieTemp (d : Dev) (c : Nat) (k : CoreSt) : (d.setCore c k).dieTemp = d.dieTemp := rfl
@[simp] theorem Dev.setCore_dieBad (d : Dev) (c : Nat) (k : CoreSt) : (d.setCore c k).dieBad = d.dieBad := rfl
@[simp] theorem Dev.setCore_pwr (d : Dev) (c : Nat) (k : CoreSt) : (d.setCore c k).pwr = d.pwr := rfl
@[simp] theorem Dev.setCore_events (d : Dev) (c : Nat) (k : CoreSt) : (d.setCore c k).events = d.events := rfl
@[simp] theorem Dev.setCore_mod (d : Dev) (c : Nat) (k : CoreSt) : (d.setCore c k).mod = d.mod := rfl
@[simp] theorem Dev.setCore_sec (d : Dev) (c : Nat) (k : CoreSt) : (d.setCore c k).sec = d.sec := rfl
@[simp] theorem Dev.setCore_tim (d : Dev) (c : Nat) (k : CoreSt) : (d.setCore c k).tim = d.tim := rfl
@[simp] theorem Dev.setCore_bars (d : Dev) (c : Nat) (k : CoreSt) : (d.setCore c k).bars = d.bars := rfl
@[simp] theorem Dev.setCore_hdmErr (d : Dev) (c : Nat) (k : CoreSt) : (d.setCore c k).hdmErr = d.hdmErr := rfl
@[simp] theorem Dev.setCore_inval (d : Dev) (c : Nat) (k : CoreSt) : (d.setCore c k).inval = d.inval := rfl
@[simp] theorem Dev.setCore_xlatRetry (d : Dev) (c : Nat) (k : CoreSt) : (d.setCore c k).xlatRetry = d.xlatRetry := rfl
@[simp] theorem Dev.setCore_hdw (d : Dev) (c : Nat) (k : CoreSt) : (d.setCore c k).hdw = d.hdw := rfl
@[simp] theorem Dev.setCore_phRow (d : Dev) (c : Nat) (k : CoreSt) : (d.setCore c k).phRow = d.phRow := rfl
@[simp] theorem Dev.setCore_parked (d : Dev) (c : Nat) (k : CoreSt) : (d.setCore c k).parked = d.parked := rfl
@[simp] theorem Dev.setCore_heldWrites (d : Dev) (c : Nat) (k : CoreSt) : (d.setCore c k).heldWrites = d.heldWrites := rfl

/-! ### Dev.onCore -/

@[simp] theorem Dev.onCore_regs (d : Dev) (c : Nat) (f : CoreSt → CoreSt) : (d.onCore c f).regs = d.regs := rfl
@[simp] theorem Dev.onCore_justSet (d : Dev) (c : Nat) (f : CoreSt → CoreSt) : (d.onCore c f).justSet = d.justSet := rfl
@[simp] theorem Dev.onCore_slip (d : Dev) (c : Nat) (f : CoreSt → CoreSt) : (d.onCore c f).slip = d.slip := rfl
@[simp] theorem Dev.onCore_fillq (d : Dev) (c : Nat) (f : CoreSt → CoreSt) : (d.onCore c f).fillq = d.fillq := rfl
@[simp] theorem Dev.onCore_fillUsed (d : Dev) (c : Nat) (f : CoreSt → CoreSt) : (d.onCore c f).fillUsed = d.fillUsed := rfl
@[simp] theorem Dev.onCore_rt (d : Dev) (c : Nat) (f : CoreSt → CoreSt) : (d.onCore c f).rt = d.rt := rfl
@[simp] theorem Dev.onCore_load (d : Dev) (c : Nat) (f : CoreSt → CoreSt) : (d.onCore c f).load = d.load := rfl
@[simp] theorem Dev.onCore_recTen (d : Dev) (c : Nat) (f : CoreSt → CoreSt) : (d.onCore c f).recTen = d.recTen := rfl
@[simp] theorem Dev.onCore_lastPlace (d : Dev) (c : Nat) (f : CoreSt → CoreSt) : (d.onCore c f).lastPlace = d.lastPlace := rfl
@[simp] theorem Dev.onCore_run (d : Dev) (c : Nat) (f : CoreSt → CoreSt) : (d.onCore c f).run = d.run := rfl
@[simp] theorem Dev.onCore_beacons (d : Dev) (c : Nat) (f : CoreSt → CoreSt) : (d.onCore c f).beacons = d.beacons := rfl
@[simp] theorem Dev.onCore_bcnSig (d : Dev) (c : Nat) (f : CoreSt → CoreSt) : (d.onCore c f).bcnSig = d.bcnSig := rfl
@[simp] theorem Dev.onCore_hwaits (d : Dev) (c : Nat) (f : CoreSt → CoreSt) : (d.onCore c f).hwaits = d.hwaits := rfl
@[simp] theorem Dev.onCore_gate (d : Dev) (c : Nat) (f : CoreSt → CoreSt) : (d.onCore c f).gate = d.gate := rfl
@[simp] theorem Dev.onCore_slots (d : Dev) (c : Nat) (f : CoreSt → CoreSt) : (d.onCore c f).slots = d.slots := rfl
@[simp] theorem Dev.onCore_slotOps (d : Dev) (c : Nat) (f : CoreSt → CoreSt) : (d.onCore c f).slotOps = d.slotOps := rfl
@[simp] theorem Dev.onCore_tens (d : Dev) (c : Nat) (f : CoreSt → CoreSt) : (d.onCore c f).tens = d.tens := rfl
@[simp] theorem Dev.onCore_resident (d : Dev) (c : Nat) (f : CoreSt → CoreSt) : (d.onCore c f).resident = d.resident := rfl
@[simp] theorem Dev.onCore_switchReqs (d : Dev) (c : Nat) (f : CoreSt → CoreSt) : (d.onCore c f).switchReqs = d.switchReqs := rfl
@[simp] theorem Dev.onCore_afterSwitch (d : Dev) (c : Nat) (f : CoreSt → CoreSt) : (d.onCore c f).afterSwitch = d.afterSwitch := rfl
@[simp] theorem Dev.onCore_switchOwed (d : Dev) (c : Nat) (f : CoreSt → CoreSt) : (d.onCore c f).switchOwed = d.switchOwed := rfl
@[simp] theorem Dev.onCore_contexts (d : Dev) (c : Nat) (f : CoreSt → CoreSt) : (d.onCore c f).contexts = d.contexts := rfl
@[simp] theorem Dev.onCore_comb (d : Dev) (c : Nat) (f : CoreSt → CoreSt) : (d.onCore c f).comb = d.comb := rfl
@[simp] theorem Dev.onCore_mgmtQueue (d : Dev) (c : Nat) (f : CoreSt → CoreSt) : (d.onCore c f).mgmtQueue = d.mgmtQueue := rfl
@[simp] theorem Dev.onCore_hostMsgs (d : Dev) (c : Nat) (f : CoreSt → CoreSt) : (d.onCore c f).hostMsgs = d.hostMsgs := rfl
@[simp] theorem Dev.onCore_ringQueue (d : Dev) (c : Nat) (f : CoreSt → CoreSt) : (d.onCore c f).ringQueue = d.ringQueue := rfl
@[simp] theorem Dev.onCore_credits (d : Dev) (c : Nat) (f : CoreSt → CoreSt) : (d.onCore c f).credits = d.credits := rfl
@[simp] theorem Dev.onCore_repliesOwed (d : Dev) (c : Nat) (f : CoreSt → CoreSt) : (d.onCore c f).repliesOwed = d.repliesOwed := rfl
@[simp] theorem Dev.onCore_ltn (d : Dev) (c : Nat) (f : CoreSt → CoreSt) : (d.onCore c f).ltn = d.ltn := rfl
@[simp] theorem Dev.onCore_ltnLost (d : Dev) (c : Nat) (f : CoreSt → CoreSt) : (d.onCore c f).ltnLost = d.ltnLost := rfl
@[simp] theorem Dev.onCore_out (d : Dev) (c : Nat) (f : CoreSt → CoreSt) : (d.onCore c f).out = d.out := rfl
@[simp] theorem Dev.onCore_fresh (d : Dev) (c : Nat) (f : CoreSt → CoreSt) : (d.onCore c f).fresh = d.fresh := rfl
@[simp] theorem Dev.onCore_msixMask (d : Dev) (c : Nat) (f : CoreSt → CoreSt) : (d.onCore c f).msixMask = d.msixMask := rfl
@[simp] theorem Dev.onCore_msixPend (d : Dev) (c : Nat) (f : CoreSt → CoreSt) : (d.onCore c f).msixPend = d.msixPend := rfl
@[simp] theorem Dev.onCore_linkUp (d : Dev) (c : Nat) (f : CoreSt → CoreSt) : (d.onCore c f).linkUp = d.linkUp := rfl
@[simp] theorem Dev.onCore_linkWait (d : Dev) (c : Nat) (f : CoreSt → CoreSt) : (d.onCore c f).linkWait = d.linkWait := rfl
@[simp] theorem Dev.onCore_wptOn (d : Dev) (c : Nat) (f : CoreSt → CoreSt) : (d.onCore c f).wptOn = d.wptOn := rfl
@[simp] theorem Dev.onCore_wptStop (d : Dev) (c : Nat) (f : CoreSt → CoreSt) : (d.onCore c f).wptStop = d.wptStop := rfl
@[simp] theorem Dev.onCore_wptMask (d : Dev) (c : Nat) (f : CoreSt → CoreSt) : (d.onCore c f).wptMask = d.wptMask := rfl
@[simp] theorem Dev.onCore_imap (d : Dev) (c : Nat) (f : CoreSt → CoreSt) : (d.onCore c f).imap = d.imap := rfl
@[simp] theorem Dev.onCore_chRetire (d : Dev) (c : Nat) (f : CoreSt → CoreSt) : (d.onCore c f).chRetire = d.chRetire := rfl
@[simp] theorem Dev.onCore_chRejoin (d : Dev) (c : Nat) (f : CoreSt → CoreSt) : (d.onCore c f).chRejoin = d.chRejoin := rfl
@[simp] theorem Dev.onCore_badBlk (d : Dev) (c : Nat) (f : CoreSt → CoreSt) : (d.onCore c f).badBlk = d.badBlk := rfl
@[simp] theorem Dev.onCore_checks (d : Dev) (c : Nat) (f : CoreSt → CoreSt) : (d.onCore c f).checks = d.checks := rfl
@[simp] theorem Dev.onCore_ckBuf (d : Dev) (c : Nat) (f : CoreSt → CoreSt) : (d.onCore c f).ckBuf = d.ckBuf := rfl
@[simp] theorem Dev.onCore_memHeld (d : Dev) (c : Nat) (f : CoreSt → CoreSt) : (d.onCore c f).memHeld = d.memHeld := rfl
@[simp] theorem Dev.onCore_refresh (d : Dev) (c : Nat) (f : CoreSt → CoreSt) : (d.onCore c f).refresh = d.refresh := rfl
@[simp] theorem Dev.onCore_failMet (d : Dev) (c : Nat) (f : CoreSt → CoreSt) : (d.onCore c f).failMet = d.failMet := rfl
@[simp] theorem Dev.onCore_digestJob (d : Dev) (c : Nat) (f : CoreSt → CoreSt) : (d.onCore c f).digestJob = d.digestJob := rfl
@[simp] theorem Dev.onCore_digestAt (d : Dev) (c : Nat) (f : CoreSt → CoreSt) : (d.onCore c f).digestAt = d.digestAt := rfl
@[simp] theorem Dev.onCore_flashCores (d : Dev) (c : Nat) (f : CoreSt → CoreSt) : (d.onCore c f).flashCores = d.flashCores := rfl
@[simp] theorem Dev.onCore_flashChans (d : Dev) (c : Nat) (f : CoreSt → CoreSt) : (d.onCore c f).flashChans = d.flashChans := rfl
@[simp] theorem Dev.onCore_flashRemaps (d : Dev) (c : Nat) (f : CoreSt → CoreSt) : (d.onCore c f).flashRemaps = d.flashRemaps := rfl
@[simp] theorem Dev.onCore_mr4Missed (d : Dev) (c : Nat) (f : CoreSt → CoreSt) : (d.onCore c f).mr4Missed = d.mr4Missed := rfl
@[simp] theorem Dev.onCore_wmkIssued (d : Dev) (c : Nat) (f : CoreSt → CoreSt) : (d.onCore c f).wmkIssued = d.wmkIssued := rfl
@[simp] theorem Dev.onCore_txRows (d : Dev) (c : Nat) (f : CoreSt → CoreSt) : (d.onCore c f).txRows = d.txRows := rfl
@[simp] theorem Dev.onCore_txBlks (d : Dev) (c : Nat) (f : CoreSt → CoreSt) : (d.onCore c f).txBlks = d.txBlks := rfl
@[simp] theorem Dev.onCore_txInsts (d : Dev) (c : Nat) (f : CoreSt → CoreSt) : (d.onCore c f).txInsts = d.txInsts := rfl
@[simp] theorem Dev.onCore_rxBlks (d : Dev) (c : Nat) (f : CoreSt → CoreSt) : (d.onCore c f).rxBlks = d.rxBlks := rfl
@[simp] theorem Dev.onCore_rxInsts (d : Dev) (c : Nat) (f : CoreSt → CoreSt) : (d.onCore c f).rxInsts = d.rxInsts := rfl
@[simp] theorem Dev.onCore_joining (d : Dev) (c : Nat) (f : CoreSt → CoreSt) : (d.onCore c f).joining = d.joining := rfl
@[simp] theorem Dev.onCore_heard (d : Dev) (c : Nat) (f : CoreSt → CoreSt) : (d.onCore c f).heard = d.heard := rfl
@[simp] theorem Dev.onCore_said (d : Dev) (c : Nat) (f : CoreSt → CoreSt) : (d.onCore c f).said = d.said := rfl
@[simp] theorem Dev.onCore_ats (d : Dev) (c : Nat) (f : CoreSt → CoreSt) : (d.onCore c f).ats = d.ats := rfl
@[simp] theorem Dev.onCore_xlatPend (d : Dev) (c : Nat) (f : CoreSt → CoreSt) : (d.onCore c f).xlatPend = d.xlatPend := rfl
@[simp] theorem Dev.onCore_xlatFail (d : Dev) (c : Nat) (f : CoreSt → CoreSt) : (d.onCore c f).xlatFail = d.xlatFail := rfl
@[simp] theorem Dev.onCore_hdm (d : Dev) (c : Nat) (f : CoreSt → CoreSt) : (d.onCore c f).hdm = d.hdm := rfl
@[simp] theorem Dev.onCore_snoop (d : Dev) (c : Nat) (f : CoreSt → CoreSt) : (d.onCore c f).snoop = d.snoop := rfl
@[simp] theorem Dev.onCore_rxLow (d : Dev) (c : Nat) (f : CoreSt → CoreSt) : (d.onCore c f).rxLow = d.rxLow := rfl
@[simp] theorem Dev.onCore_wmkSignalled (d : Dev) (c : Nat) (f : CoreSt → CoreSt) : (d.onCore c f).wmkSignalled = d.wmkSignalled := rfl
@[simp] theorem Dev.onCore_peerJoin (d : Dev) (c : Nat) (f : CoreSt → CoreSt) : (d.onCore c f).peerJoin = d.peerJoin := rfl
@[simp] theorem Dev.onCore_joinSent (d : Dev) (c : Nat) (f : CoreSt → CoreSt) : (d.onCore c f).joinSent = d.joinSent := rfl
@[simp] theorem Dev.onCore_netClk (d : Dev) (c : Nat) (f : CoreSt → CoreSt) : (d.onCore c f).netClk = d.netClk := rfl
@[simp] theorem Dev.onCore_seen (d : Dev) (c : Nat) (f : CoreSt → CoreSt) : (d.onCore c f).seen = d.seen := rfl
@[simp] theorem Dev.onCore_mir (d : Dev) (c : Nat) (f : CoreSt → CoreSt) : (d.onCore c f).mir = d.mir := rfl
@[simp] theorem Dev.onCore_crn (d : Dev) (c : Nat) (f : CoreSt → CoreSt) : (d.onCore c f).crn = d.crn := rfl
@[simp] theorem Dev.onCore_dieTemp (d : Dev) (c : Nat) (f : CoreSt → CoreSt) : (d.onCore c f).dieTemp = d.dieTemp := rfl
@[simp] theorem Dev.onCore_dieBad (d : Dev) (c : Nat) (f : CoreSt → CoreSt) : (d.onCore c f).dieBad = d.dieBad := rfl
@[simp] theorem Dev.onCore_pwr (d : Dev) (c : Nat) (f : CoreSt → CoreSt) : (d.onCore c f).pwr = d.pwr := rfl
@[simp] theorem Dev.onCore_events (d : Dev) (c : Nat) (f : CoreSt → CoreSt) : (d.onCore c f).events = d.events := rfl
@[simp] theorem Dev.onCore_mod (d : Dev) (c : Nat) (f : CoreSt → CoreSt) : (d.onCore c f).mod = d.mod := rfl
@[simp] theorem Dev.onCore_sec (d : Dev) (c : Nat) (f : CoreSt → CoreSt) : (d.onCore c f).sec = d.sec := rfl
@[simp] theorem Dev.onCore_tim (d : Dev) (c : Nat) (f : CoreSt → CoreSt) : (d.onCore c f).tim = d.tim := rfl
@[simp] theorem Dev.onCore_bars (d : Dev) (c : Nat) (f : CoreSt → CoreSt) : (d.onCore c f).bars = d.bars := rfl
@[simp] theorem Dev.onCore_hdmErr (d : Dev) (c : Nat) (f : CoreSt → CoreSt) : (d.onCore c f).hdmErr = d.hdmErr := rfl
@[simp] theorem Dev.onCore_inval (d : Dev) (c : Nat) (f : CoreSt → CoreSt) : (d.onCore c f).inval = d.inval := rfl
@[simp] theorem Dev.onCore_xlatRetry (d : Dev) (c : Nat) (f : CoreSt → CoreSt) : (d.onCore c f).xlatRetry = d.xlatRetry := rfl
@[simp] theorem Dev.onCore_hdw (d : Dev) (c : Nat) (f : CoreSt → CoreSt) : (d.onCore c f).hdw = d.hdw := rfl
@[simp] theorem Dev.onCore_phRow (d : Dev) (c : Nat) (f : CoreSt → CoreSt) : (d.onCore c f).phRow = d.phRow := rfl
@[simp] theorem Dev.onCore_parked (d : Dev) (c : Nat) (f : CoreSt → CoreSt) : (d.onCore c f).parked = d.parked := rfl
@[simp] theorem Dev.onCore_heldWrites (d : Dev) (c : Nat) (f : CoreSt → CoreSt) : (d.onCore c f).heldWrites = d.heldWrites := rfl

/-! ### Dev.onLane -/

@[simp] theorem Dev.onLane_regs (d : Dev) (c l : Nat) (f : LaneSt → LaneSt) : (d.onLane c l f).regs = d.regs := rfl
@[simp] theorem Dev.onLane_justSet (d : Dev) (c l : Nat) (f : LaneSt → LaneSt) : (d.onLane c l f).justSet = d.justSet := rfl
@[simp] theorem Dev.onLane_slip (d : Dev) (c l : Nat) (f : LaneSt → LaneSt) : (d.onLane c l f).slip = d.slip := rfl
@[simp] theorem Dev.onLane_fillq (d : Dev) (c l : Nat) (f : LaneSt → LaneSt) : (d.onLane c l f).fillq = d.fillq := rfl
@[simp] theorem Dev.onLane_fillUsed (d : Dev) (c l : Nat) (f : LaneSt → LaneSt) : (d.onLane c l f).fillUsed = d.fillUsed := rfl
@[simp] theorem Dev.onLane_rt (d : Dev) (c l : Nat) (f : LaneSt → LaneSt) : (d.onLane c l f).rt = d.rt := rfl
@[simp] theorem Dev.onLane_load (d : Dev) (c l : Nat) (f : LaneSt → LaneSt) : (d.onLane c l f).load = d.load := rfl
@[simp] theorem Dev.onLane_recTen (d : Dev) (c l : Nat) (f : LaneSt → LaneSt) : (d.onLane c l f).recTen = d.recTen := rfl
@[simp] theorem Dev.onLane_lastPlace (d : Dev) (c l : Nat) (f : LaneSt → LaneSt) : (d.onLane c l f).lastPlace = d.lastPlace := rfl
@[simp] theorem Dev.onLane_run (d : Dev) (c l : Nat) (f : LaneSt → LaneSt) : (d.onLane c l f).run = d.run := rfl
@[simp] theorem Dev.onLane_beacons (d : Dev) (c l : Nat) (f : LaneSt → LaneSt) : (d.onLane c l f).beacons = d.beacons := rfl
@[simp] theorem Dev.onLane_bcnSig (d : Dev) (c l : Nat) (f : LaneSt → LaneSt) : (d.onLane c l f).bcnSig = d.bcnSig := rfl
@[simp] theorem Dev.onLane_hwaits (d : Dev) (c l : Nat) (f : LaneSt → LaneSt) : (d.onLane c l f).hwaits = d.hwaits := rfl
@[simp] theorem Dev.onLane_gate (d : Dev) (c l : Nat) (f : LaneSt → LaneSt) : (d.onLane c l f).gate = d.gate := rfl
@[simp] theorem Dev.onLane_slots (d : Dev) (c l : Nat) (f : LaneSt → LaneSt) : (d.onLane c l f).slots = d.slots := rfl
@[simp] theorem Dev.onLane_slotOps (d : Dev) (c l : Nat) (f : LaneSt → LaneSt) : (d.onLane c l f).slotOps = d.slotOps := rfl
@[simp] theorem Dev.onLane_tens (d : Dev) (c l : Nat) (f : LaneSt → LaneSt) : (d.onLane c l f).tens = d.tens := rfl
@[simp] theorem Dev.onLane_resident (d : Dev) (c l : Nat) (f : LaneSt → LaneSt) : (d.onLane c l f).resident = d.resident := rfl
@[simp] theorem Dev.onLane_switchReqs (d : Dev) (c l : Nat) (f : LaneSt → LaneSt) : (d.onLane c l f).switchReqs = d.switchReqs := rfl
@[simp] theorem Dev.onLane_afterSwitch (d : Dev) (c l : Nat) (f : LaneSt → LaneSt) : (d.onLane c l f).afterSwitch = d.afterSwitch := rfl
@[simp] theorem Dev.onLane_switchOwed (d : Dev) (c l : Nat) (f : LaneSt → LaneSt) : (d.onLane c l f).switchOwed = d.switchOwed := rfl
@[simp] theorem Dev.onLane_contexts (d : Dev) (c l : Nat) (f : LaneSt → LaneSt) : (d.onLane c l f).contexts = d.contexts := rfl
@[simp] theorem Dev.onLane_comb (d : Dev) (c l : Nat) (f : LaneSt → LaneSt) : (d.onLane c l f).comb = d.comb := rfl
@[simp] theorem Dev.onLane_mgmtQueue (d : Dev) (c l : Nat) (f : LaneSt → LaneSt) : (d.onLane c l f).mgmtQueue = d.mgmtQueue := rfl
@[simp] theorem Dev.onLane_hostMsgs (d : Dev) (c l : Nat) (f : LaneSt → LaneSt) : (d.onLane c l f).hostMsgs = d.hostMsgs := rfl
@[simp] theorem Dev.onLane_ringQueue (d : Dev) (c l : Nat) (f : LaneSt → LaneSt) : (d.onLane c l f).ringQueue = d.ringQueue := rfl
@[simp] theorem Dev.onLane_credits (d : Dev) (c l : Nat) (f : LaneSt → LaneSt) : (d.onLane c l f).credits = d.credits := rfl
@[simp] theorem Dev.onLane_repliesOwed (d : Dev) (c l : Nat) (f : LaneSt → LaneSt) : (d.onLane c l f).repliesOwed = d.repliesOwed := rfl
@[simp] theorem Dev.onLane_ltn (d : Dev) (c l : Nat) (f : LaneSt → LaneSt) : (d.onLane c l f).ltn = d.ltn := rfl
@[simp] theorem Dev.onLane_ltnLost (d : Dev) (c l : Nat) (f : LaneSt → LaneSt) : (d.onLane c l f).ltnLost = d.ltnLost := rfl
@[simp] theorem Dev.onLane_out (d : Dev) (c l : Nat) (f : LaneSt → LaneSt) : (d.onLane c l f).out = d.out := rfl
@[simp] theorem Dev.onLane_fresh (d : Dev) (c l : Nat) (f : LaneSt → LaneSt) : (d.onLane c l f).fresh = d.fresh := rfl
@[simp] theorem Dev.onLane_msixMask (d : Dev) (c l : Nat) (f : LaneSt → LaneSt) : (d.onLane c l f).msixMask = d.msixMask := rfl
@[simp] theorem Dev.onLane_msixPend (d : Dev) (c l : Nat) (f : LaneSt → LaneSt) : (d.onLane c l f).msixPend = d.msixPend := rfl
@[simp] theorem Dev.onLane_linkUp (d : Dev) (c l : Nat) (f : LaneSt → LaneSt) : (d.onLane c l f).linkUp = d.linkUp := rfl
@[simp] theorem Dev.onLane_linkWait (d : Dev) (c l : Nat) (f : LaneSt → LaneSt) : (d.onLane c l f).linkWait = d.linkWait := rfl
@[simp] theorem Dev.onLane_wptOn (d : Dev) (c l : Nat) (f : LaneSt → LaneSt) : (d.onLane c l f).wptOn = d.wptOn := rfl
@[simp] theorem Dev.onLane_wptStop (d : Dev) (c l : Nat) (f : LaneSt → LaneSt) : (d.onLane c l f).wptStop = d.wptStop := rfl
@[simp] theorem Dev.onLane_wptMask (d : Dev) (c l : Nat) (f : LaneSt → LaneSt) : (d.onLane c l f).wptMask = d.wptMask := rfl
@[simp] theorem Dev.onLane_imap (d : Dev) (c l : Nat) (f : LaneSt → LaneSt) : (d.onLane c l f).imap = d.imap := rfl
@[simp] theorem Dev.onLane_chRetire (d : Dev) (c l : Nat) (f : LaneSt → LaneSt) : (d.onLane c l f).chRetire = d.chRetire := rfl
@[simp] theorem Dev.onLane_chRejoin (d : Dev) (c l : Nat) (f : LaneSt → LaneSt) : (d.onLane c l f).chRejoin = d.chRejoin := rfl
@[simp] theorem Dev.onLane_badBlk (d : Dev) (c l : Nat) (f : LaneSt → LaneSt) : (d.onLane c l f).badBlk = d.badBlk := rfl
@[simp] theorem Dev.onLane_checks (d : Dev) (c l : Nat) (f : LaneSt → LaneSt) : (d.onLane c l f).checks = d.checks := rfl
@[simp] theorem Dev.onLane_ckBuf (d : Dev) (c l : Nat) (f : LaneSt → LaneSt) : (d.onLane c l f).ckBuf = d.ckBuf := rfl
@[simp] theorem Dev.onLane_memHeld (d : Dev) (c l : Nat) (f : LaneSt → LaneSt) : (d.onLane c l f).memHeld = d.memHeld := rfl
@[simp] theorem Dev.onLane_refresh (d : Dev) (c l : Nat) (f : LaneSt → LaneSt) : (d.onLane c l f).refresh = d.refresh := rfl
@[simp] theorem Dev.onLane_failMet (d : Dev) (c l : Nat) (f : LaneSt → LaneSt) : (d.onLane c l f).failMet = d.failMet := rfl
@[simp] theorem Dev.onLane_digestJob (d : Dev) (c l : Nat) (f : LaneSt → LaneSt) : (d.onLane c l f).digestJob = d.digestJob := rfl
@[simp] theorem Dev.onLane_digestAt (d : Dev) (c l : Nat) (f : LaneSt → LaneSt) : (d.onLane c l f).digestAt = d.digestAt := rfl
@[simp] theorem Dev.onLane_flashCores (d : Dev) (c l : Nat) (f : LaneSt → LaneSt) : (d.onLane c l f).flashCores = d.flashCores := rfl
@[simp] theorem Dev.onLane_flashChans (d : Dev) (c l : Nat) (f : LaneSt → LaneSt) : (d.onLane c l f).flashChans = d.flashChans := rfl
@[simp] theorem Dev.onLane_flashRemaps (d : Dev) (c l : Nat) (f : LaneSt → LaneSt) : (d.onLane c l f).flashRemaps = d.flashRemaps := rfl
@[simp] theorem Dev.onLane_mr4Missed (d : Dev) (c l : Nat) (f : LaneSt → LaneSt) : (d.onLane c l f).mr4Missed = d.mr4Missed := rfl
@[simp] theorem Dev.onLane_wmkIssued (d : Dev) (c l : Nat) (f : LaneSt → LaneSt) : (d.onLane c l f).wmkIssued = d.wmkIssued := rfl
@[simp] theorem Dev.onLane_txRows (d : Dev) (c l : Nat) (f : LaneSt → LaneSt) : (d.onLane c l f).txRows = d.txRows := rfl
@[simp] theorem Dev.onLane_txBlks (d : Dev) (c l : Nat) (f : LaneSt → LaneSt) : (d.onLane c l f).txBlks = d.txBlks := rfl
@[simp] theorem Dev.onLane_txInsts (d : Dev) (c l : Nat) (f : LaneSt → LaneSt) : (d.onLane c l f).txInsts = d.txInsts := rfl
@[simp] theorem Dev.onLane_rxBlks (d : Dev) (c l : Nat) (f : LaneSt → LaneSt) : (d.onLane c l f).rxBlks = d.rxBlks := rfl
@[simp] theorem Dev.onLane_rxInsts (d : Dev) (c l : Nat) (f : LaneSt → LaneSt) : (d.onLane c l f).rxInsts = d.rxInsts := rfl
@[simp] theorem Dev.onLane_joining (d : Dev) (c l : Nat) (f : LaneSt → LaneSt) : (d.onLane c l f).joining = d.joining := rfl
@[simp] theorem Dev.onLane_heard (d : Dev) (c l : Nat) (f : LaneSt → LaneSt) : (d.onLane c l f).heard = d.heard := rfl
@[simp] theorem Dev.onLane_said (d : Dev) (c l : Nat) (f : LaneSt → LaneSt) : (d.onLane c l f).said = d.said := rfl
@[simp] theorem Dev.onLane_ats (d : Dev) (c l : Nat) (f : LaneSt → LaneSt) : (d.onLane c l f).ats = d.ats := rfl
@[simp] theorem Dev.onLane_xlatPend (d : Dev) (c l : Nat) (f : LaneSt → LaneSt) : (d.onLane c l f).xlatPend = d.xlatPend := rfl
@[simp] theorem Dev.onLane_xlatFail (d : Dev) (c l : Nat) (f : LaneSt → LaneSt) : (d.onLane c l f).xlatFail = d.xlatFail := rfl
@[simp] theorem Dev.onLane_hdm (d : Dev) (c l : Nat) (f : LaneSt → LaneSt) : (d.onLane c l f).hdm = d.hdm := rfl
@[simp] theorem Dev.onLane_snoop (d : Dev) (c l : Nat) (f : LaneSt → LaneSt) : (d.onLane c l f).snoop = d.snoop := rfl
@[simp] theorem Dev.onLane_rxLow (d : Dev) (c l : Nat) (f : LaneSt → LaneSt) : (d.onLane c l f).rxLow = d.rxLow := rfl
@[simp] theorem Dev.onLane_wmkSignalled (d : Dev) (c l : Nat) (f : LaneSt → LaneSt) : (d.onLane c l f).wmkSignalled = d.wmkSignalled := rfl
@[simp] theorem Dev.onLane_peerJoin (d : Dev) (c l : Nat) (f : LaneSt → LaneSt) : (d.onLane c l f).peerJoin = d.peerJoin := rfl
@[simp] theorem Dev.onLane_joinSent (d : Dev) (c l : Nat) (f : LaneSt → LaneSt) : (d.onLane c l f).joinSent = d.joinSent := rfl
@[simp] theorem Dev.onLane_netClk (d : Dev) (c l : Nat) (f : LaneSt → LaneSt) : (d.onLane c l f).netClk = d.netClk := rfl
@[simp] theorem Dev.onLane_seen (d : Dev) (c l : Nat) (f : LaneSt → LaneSt) : (d.onLane c l f).seen = d.seen := rfl
@[simp] theorem Dev.onLane_mir (d : Dev) (c l : Nat) (f : LaneSt → LaneSt) : (d.onLane c l f).mir = d.mir := rfl
@[simp] theorem Dev.onLane_crn (d : Dev) (c l : Nat) (f : LaneSt → LaneSt) : (d.onLane c l f).crn = d.crn := rfl
@[simp] theorem Dev.onLane_dieTemp (d : Dev) (c l : Nat) (f : LaneSt → LaneSt) : (d.onLane c l f).dieTemp = d.dieTemp := rfl
@[simp] theorem Dev.onLane_dieBad (d : Dev) (c l : Nat) (f : LaneSt → LaneSt) : (d.onLane c l f).dieBad = d.dieBad := rfl
@[simp] theorem Dev.onLane_pwr (d : Dev) (c l : Nat) (f : LaneSt → LaneSt) : (d.onLane c l f).pwr = d.pwr := rfl
@[simp] theorem Dev.onLane_events (d : Dev) (c l : Nat) (f : LaneSt → LaneSt) : (d.onLane c l f).events = d.events := rfl
@[simp] theorem Dev.onLane_mod (d : Dev) (c l : Nat) (f : LaneSt → LaneSt) : (d.onLane c l f).mod = d.mod := rfl
@[simp] theorem Dev.onLane_sec (d : Dev) (c l : Nat) (f : LaneSt → LaneSt) : (d.onLane c l f).sec = d.sec := rfl
@[simp] theorem Dev.onLane_tim (d : Dev) (c l : Nat) (f : LaneSt → LaneSt) : (d.onLane c l f).tim = d.tim := rfl
@[simp] theorem Dev.onLane_bars (d : Dev) (c l : Nat) (f : LaneSt → LaneSt) : (d.onLane c l f).bars = d.bars := rfl
@[simp] theorem Dev.onLane_hdmErr (d : Dev) (c l : Nat) (f : LaneSt → LaneSt) : (d.onLane c l f).hdmErr = d.hdmErr := rfl
@[simp] theorem Dev.onLane_inval (d : Dev) (c l : Nat) (f : LaneSt → LaneSt) : (d.onLane c l f).inval = d.inval := rfl
@[simp] theorem Dev.onLane_xlatRetry (d : Dev) (c l : Nat) (f : LaneSt → LaneSt) : (d.onLane c l f).xlatRetry = d.xlatRetry := rfl
@[simp] theorem Dev.onLane_hdw (d : Dev) (c l : Nat) (f : LaneSt → LaneSt) : (d.onLane c l f).hdw = d.hdw := rfl
@[simp] theorem Dev.onLane_phRow (d : Dev) (c l : Nat) (f : LaneSt → LaneSt) : (d.onLane c l f).phRow = d.phRow := rfl
@[simp] theorem Dev.onLane_parked (d : Dev) (c l : Nat) (f : LaneSt → LaneSt) : (d.onLane c l f).parked = d.parked := rfl
@[simp] theorem Dev.onLane_heldWrites (d : Dev) (c l : Nat) (f : LaneSt → LaneSt) : (d.onLane c l f).heldWrites = d.heldWrites := rfl

end Sys2Proof.Machine
end

