-- ==== Sys2Proof/Laws/Ops.lean ====
section
/-! SUPPORT. What the shared operations do, once for each of them. -/

namespace Sys2Proof.Machine

/-! ### Register fields -/

theorem Dev.get_congr {d e : Dev} (h : d.regs = e.regs) (F : Fld) : d.get F = e.get F := by simp [Dev.get, h]

theorem Dev.is_congr {d e : Dev} (h : d.regs = e.regs) (F : Fld) : d.is F = e.is F := by
  simp only [Dev.is, Dev.get_congr h F]

/-- A field reads as it was set, cut to its width. -/
@[simp] theorem Dev.get_put_self (d : Dev) (F : Fld) (v : Nat) : (d.put F v).get F = v % 2 ^ F.width := by
  simp [Dev.get, Dev.put]

/-- Setting a field leaves every other field alone. -/
theorem Dev.get_put_ne (d : Dev) {F G : Fld} (v : Nat) (h : G.key ≠ F.key) : (d.put F v).get G = d.get G := by
  exact kget_kset_ne' _ _ _ _ h

theorem Dev.is_put_ne (d : Dev) {F G : Fld} (v : Nat) (h : G.key ≠ F.key) : (d.put F v).is G = d.is G := by
  simp only [Dev.is, Dev.get_put_ne d v h]

@[simp] theorem Dev.get_emit (d : Dev) (o : Output) (F : Fld) : (d.emit o).get F = d.get F := rfl
@[simp] theorem Dev.get_onRun (d : Dev) (f : RunSt → RunSt) (F : Fld) : (d.onRun f).get F = d.get F := rfl
@[simp] theorem Dev.get_sched (d : Dev) (t : Nat) (b : Bool) (o : Owner) (a : Act) (F : Fld) : (d.sched t b o a).get F = d.get F := rfl
@[simp] theorem Dev.get_setCore (d : Dev) (c : Nat) (k : CoreSt) (F : Fld) : (d.setCore c k).get F = d.get F := rfl
@[simp] theorem Dev.get_onCore (d : Dev) (c : Nat) (f : CoreSt → CoreSt) (F : Fld) : (d.onCore c f).get F = d.get F := rfl
@[simp] theorem Dev.get_onLane (d : Dev) (c l : Nat) (f : LaneSt → LaneSt) (F : Fld) : (d.onLane c l f).get F = d.get F := rfl
@[simp] theorem Dev.is_emit (d : Dev) (o : Output) (F : Fld) : (d.emit o).is F = d.is F := rfl
@[simp] theorem Dev.is_onRun (d : Dev) (f : RunSt → RunSt) (F : Fld) : (d.onRun f).is F = d.is F := rfl
@[simp] theorem Dev.is_sched (d : Dev) (t : Nat) (b : Bool) (o : Owner) (a : Act) (F : Fld) : (d.sched t b o a).is F = d.is F := rfl
@[simp] theorem Dev.is_setCore (d : Dev) (c : Nat) (k : CoreSt) (F : Fld) : (d.setCore c k).is F = d.is F := rfl
@[simp] theorem Dev.is_onCore (d : Dev) (c : Nat) (f : CoreSt → CoreSt) (F : Fld) : (d.onCore c f).is F = d.is F := rfl
@[simp] theorem Dev.is_onLane (d : Dev) (c l : Nat) (f : LaneSt → LaneSt) (F : Fld) : (d.onLane c l f).is F = d.is F := rfl

/-! ### The run, cores, lanes -/

@[simp] theorem Dev.run_onRun (d : Dev) (f : RunSt → RunSt) : (d.onRun f).run = f d.run := rfl

@[simp] theorem Dev.core_setCore_self (d : Dev) (c : Nat) (k : CoreSt) : (d.setCore c k).core c = k := by
  simp [Dev.core, Dev.setCore]

theorem Dev.core_setCore_ne (d : Dev) {c e : Nat} (k : CoreSt) (h : e ≠ c) : (d.setCore c k).core e = d.core e := by
  simp [Dev.core, Dev.setCore, kget_kset_ne _ _ k h]

@[simp] theorem Dev.core_onCore_self (d : Dev) (c : Nat) (f : CoreSt → CoreSt) : (d.onCore c f).core c = f (d.core c) := by
  simp [Dev.onCore]

theorem Dev.core_onCore_ne (d : Dev) {c e : Nat} (f : CoreSt → CoreSt) (h : e ≠ c) : (d.onCore c f).core e = d.core e := by
  simp [Dev.onCore, Dev.core_setCore_ne d _ h]

@[simp] theorem Dev.core_put (d : Dev) (F : Fld) (v c : Nat) : (d.put F v).core c = d.core c := rfl
@[simp] theorem Dev.core_emit (d : Dev) (o : Output) (c : Nat) : (d.emit o).core c = d.core c := rfl
@[simp] theorem Dev.core_onRun (d : Dev) (f : RunSt → RunSt) (c : Nat) : (d.onRun f).core c = d.core c := rfl
@[simp] theorem Dev.core_sched (d : Dev) (t : Nat) (b : Bool) (o : Owner) (a : Act) (c : Nat) : (d.sched t b o a).core c = d.core c := rfl

@[simp] theorem CoreSt.lane_setLane_self (k : CoreSt) (l : Nat) (x : LaneSt) : (k.setLane l x).lane l = x := by
  by_cases h : l = 0 <;> simp [CoreSt.lane, CoreSt.setLane, h]

theorem CoreSt.lane_setLane_ne (k : CoreSt) {l m : Nat} (x : LaneSt) (h : (m = 0) ≠ (l = 0)) : (k.setLane l x).lane m = k.lane m := by
  by_cases hl : l = 0 <;> by_cases hm : m = 0 <;> simp_all [CoreSt.lane, CoreSt.setLane]

@[simp] theorem Dev.lane_onLane_self (d : Dev) (c l : Nat) (f : LaneSt → LaneSt) : (d.onLane c l f).lane c l = f (d.lane c l) := by
  simp [Dev.lane, Dev.onLane]

/-- The change of one lane leaves every other lane alone. -/
theorem Dev.lane_onLane_ne (d : Dev) {c l e m : Nat} (f : LaneSt → LaneSt) (h : e ≠ c ∨ (m = 0) ≠ (l = 0)) :
    (d.onLane c l f).lane e m = d.lane e m := by
  by_cases hc : e = c
  · subst hc
    simp only [Dev.lane, Dev.onLane, Dev.core_onCore_self]
    exact CoreSt.lane_setLane_ne _ _ (h.resolve_left (by simp))
  · simp [Dev.lane, Dev.onLane, Dev.core_onCore_ne d _ hc]

@[simp] theorem Dev.lane_put (d : Dev) (F : Fld) (v c l : Nat) : (d.put F v).lane c l = d.lane c l := rfl
@[simp] theorem Dev.lane_onRun (d : Dev) (f : RunSt → RunSt) (c l : Nat) : (d.onRun f).lane c l = d.lane c l := rfl
@[simp] theorem Dev.lane_sched (d : Dev) (t : Nat) (b : Bool) (o : Owner) (a : Act) (c l : Nat) : (d.sched t b o a).lane c l = d.lane c l := rfl

/-! ### Watchpost off, units taken, ports used -/

@[simp] theorem Dev.watchOff_onRun (d : Dev) (f : RunSt → RunSt) : (d.onRun f).watchOff = d.watchOff := rfl
@[simp] theorem Dev.watchOff_onLane (d : Dev) (c l : Nat) (f : LaneSt → LaneSt) : (d.onLane c l f).watchOff = d.watchOff := rfl
@[simp] theorem Dev.watchOff_onCore (d : Dev) (c : Nat) (f : CoreSt → CoreSt) : (d.onCore c f).watchOff = d.watchOff := rfl
@[simp] theorem Dev.watchOff_sched (d : Dev) (t : Nat) (b : Bool) (o : Owner) (a : Act) : (d.sched t b o a).watchOff = d.watchOff := rfl
@[simp] theorem Dev.watchOff_put (d : Dev) (F : Fld) (v : Nat) : (d.put F v).watchOff = d.watchOff := rfl
@[simp] theorem Dev.watchOff_emit (d : Dev) (o : Output) : (d.emit o).watchOff = d.watchOff := rfl
@[simp] theorem Dev.watchOff_took (d : Dev) (o : Owner) (l a b : Nat) : (d.took o l a b).watchOff = d.watchOff := rfl
@[simp] theorem Dev.watchOff_ported (d : Dev) (k x : Nat) (o : Owner) : (d.ported k x o).watchOff = d.watchOff := rfl
@[simp] theorem Dev.lane_took (d : Dev) (o : Owner) (l a b : Nat) (c m : Nat) : (d.took o l a b).lane c m = d.lane c m := rfl
@[simp] theorem Dev.core_took (d : Dev) (o : Owner) (l a b : Nat) (c : Nat) : (d.took o l a b).core c = d.core c := rfl
@[simp] theorem Dev.get_took (d : Dev) (o : Owner) (l a b : Nat) (F : Fld) : (d.took o l a b).get F = d.get F := rfl
@[simp] theorem Dev.is_took (d : Dev) (o : Owner) (l a b : Nat) (F : Fld) : (d.took o l a b).is F = d.is F := rfl
@[simp] theorem Dev.lane_ported (d : Dev) (k x : Nat) (o : Owner) (c m : Nat) : (d.ported k x o).lane c m = d.lane c m := rfl
@[simp] theorem Dev.core_ported (d : Dev) (k x : Nat) (o : Owner) (c : Nat) : (d.ported k x o).core c = d.core c := rfl
@[simp] theorem Dev.get_ported (d : Dev) (k x : Nat) (o : Owner) (F : Fld) : (d.ported k x o).get F = d.get F := rfl
@[simp] theorem Dev.is_ported (d : Dev) (k x : Nat) (o : Owner) (F : Fld) : (d.ported k x o).is F = d.is F := rfl

/-! ### Units and ports -/

/-- A unit that is not busy is taken. -/
theorem Dev.takeUnit_free {d : Dev} {o : Owner} {lane : Nat} (step count : Nat) (h : d.unitFree o.core o.unit lane = true) :
    d.takeUnit o lane step count = (true, d.took o lane step count) := by
  simp only [Dev.unitFree, Bool.not_eq_true'] at h
  simp only [Dev.takeUnit, Dev.took, h]
  rfl

/-- A busy unit is not taken: ISSUE_COLLISION, naming the occurrence (R36). -/
theorem Dev.takeUnit_busy {d : Dev} {o : Owner} {lane : Nat} (step count : Nat) (h : d.unitFree o.core o.unit lane = false) :
    d.takeUnit o lane step count = (false, d.raise o 0x0202) := by
  simp only [Dev.unitFree, Bool.not_eq_false'] at h
  simp only [Dev.takeUnit, h]
  rfl

@[simp] theorem Dev.took_tick (d : Dev) (o : Owner) (l a b : Nat) : (d.took o l a b).run.tick = d.run.tick := rfl

/-- Taking a unit of one lane leaves those of the other free. -/
theorem Dev.unitFree_took {d : Dev} {o : Owner} {l a b core unit lane : Nat} (h : lane ≠ l) :
    (d.took o l a b).unitFree core unit lane = d.unitFree core unit lane := by
  simp [Dev.unitFree, Dev.took, h.symm]

/-- A port below its limit serves the access. -/
theorem Dev.usePort_open {d : Dev} {kind idx lim : Nat} (o : Owner) (h : d.portOpen kind idx lim = true) :
    d.usePort kind idx lim o = (true, d.ported kind idx o) := by
  simp only [Dev.portOpen, decide_eq_true_eq] at h
  simp [Dev.usePort, Dev.ported, h]

/-- Watchpost reports nothing while it is off. -/
theorem Dev.hazard_off {d : Dev} (h : d.watchOff = true) (k : Nat) (o : Owner) (a b c : Nat) : d.hazard k o a b c = (true, d) := by
  simp only [Dev.watchOff, Bool.not_eq_true'] at h
  simp [Dev.hazard, h]

theorem Dev.checkRead_off {d : Dev} (h : d.watchOff = true) (o : Owner) (a b c : Nat) : d.checkRead o a b c = (true, d) := by
  unfold Dev.checkRead
  split
  · rfl
  · split
    · rfl
    · exact Dev.hazard_off h ..

theorem Dev.checkReuse_off {d : Dev} (h : d.watchOff = true) (o : Owner) (a b c : Nat) : d.checkReuse o a b c = (true, d) := by
  unfold Dev.checkReuse
  split
  · split
    · rfl
    · exact Dev.hazard_off h ..
  · rfl

/-- A row that may be read is read as it stands. -/
theorem Dev.readRow_ok {d : Dev} {core bank row : Nat} (o : Owner) (h : d.rowReadable core bank row = true)
    (hw : d.watchOff = true) : d.readRow o core bank row = (some ((d.core core).row bank row), d.rowServed core bank row o) := by
  simp only [Dev.rowReadable, Bool.and_eq_true, decide_eq_true_eq, Bool.or_eq_true, Bool.not_eq_true'] at h
  obtain ⟨⟨h1, h2⟩, h3⟩ := h
  have hw' : (d.ported portRead (core * 8 + bank) o).watchOff = true := hw
  have hc : (d.ported portRead (core * 8 + bank) o).core core = d.core core := rfl
  simp only [Dev.readRow, Dev.usePort_open o h2, hc, Dev.checkRead_off hw']
  rw [if_neg (by omega)]
  rcases h3 with h3 | h3 <;> simp [h3, Dev.rowServed]

/-- A vector-buffer row is read as it stands. -/
theorem Dev.readVbuf_ok {d : Dev} {core lane v : Nat} (o : Owner) (h : d.portOpen portBufRead (core * 8 + lane * 4 + v / 32) 2 = true)
    (hw : d.watchOff = true) :
    d.readVbuf o core lane v = (some (kget 0#4096 (d.lane core lane).vbuf v), d.ported portBufRead (core * 8 + lane * 4 + v / 32) o) := by
  have hw' : (d.ported portBufRead (core * 8 + lane * 4 + v / 32) o).watchOff = true := hw
  have hc : (d.ported portBufRead (core * 8 + lane * 4 + v / 32) o).lane core lane = d.lane core lane := rfl
  simp [Dev.readVbuf, Dev.usePort_open o h, hc, Dev.checkRead_off hw']

/-! A row served by its read port: only the port, the run's record of it and the queue of the test engine change. -/

@[simp] theorem Dev.run_rowServed (d : Dev) (c b r : Nat) (o : Owner) : (d.rowServed c b r o).run = (d.ported portRead (c * 8 + b) o).run := rfl
@[simp] theorem Dev.watchOff_rowServed (d : Dev) (c b r : Nat) (o : Owner) : (d.rowServed c b r o).watchOff = d.watchOff := rfl
@[simp] theorem Dev.get_rowServed (d : Dev) (c b r : Nat) (o : Owner) (F : Fld) : (d.rowServed c b r o).get F = d.get F := rfl
@[simp] theorem Dev.is_rowServed (d : Dev) (c b r : Nat) (o : Owner) (F : Fld) : (d.rowServed c b r o).is F = d.is F := rfl

@[simp] theorem CoreSt.lane_noteRead (k : CoreSt) (key l : Nat) : (k.noteRead key).lane l = k.lane l := by
  unfold CoreSt.noteRead CoreSt.queueTest
  split
  · split <;> rfl
  · rfl

@[simp] theorem Dev.lane_rowServed (d : Dev) (c b r : Nat) (o : Owner) (e l : Nat) : (d.rowServed c b r o).lane e l = d.lane e l := by
  by_cases h : e = c
  · subst h
    simp [Dev.lane, Dev.rowServed]
  · simp [Dev.lane, Dev.rowServed, Dev.core_onCore_ne _ _ h]

/-! ### Lanes -/

/-- The lane lists that a LANE field selects. -/
theorem laneList_cases (x : Nat) : laneList x = [] ∨ laneList x = [0] ∨ laneList x = [1] ∨ laneList x = [0, 1] := by
  by_cases h1 : x = 1
  · simp [laneList, h1]
  · by_cases h2 : x = 2
    · simp [laneList, h2]
    · by_cases h3 : x = 3 <;> simp [laneList, h1, h2, h3]

/-- An occurrence in all of its lanes is itself. -/
theorem inLanes_all {i : Inst} (h : laneList i.lane.toNat ≠ []) : inLanes i (laneList i.lane.toNat) = i := by
  have hl : BitVec.ofNat 2 ((laneList i.lane.toNat).map fun l => l + 1).sum = i.lane := by
    revert h
    generalize i.lane = x
    revert x
    decide
  unfold inLanes
  rw [hl]

/-- The unit of every selected lane is taken when it is free in all of them. -/
theorem Dev.takeLanes_free {d : Dev} {i : Inst} {unit : Nat} (step count : Nat) (h : d.lanesFree i unit = true) :
    d.takeLanes i unit step count = (laneList i.lane.toNat, d.forLanes i unit fun o l d => d.took o l step count) := by
  unfold Dev.lanesFree at h
  unfold Dev.takeLanes Dev.forLanes
  rcases laneList_cases i.lane.toNat with e | e | e | e <;> rw [e] at h ⊢
  · rfl
  · simp only [List.all_cons, List.all_nil, Bool.and_true] at h
    simp only [List.foldl]
    rw [Dev.takeUnit_free (o := ownerOf i unit (0 + 1) d) step count h]
    rfl
  · simp only [List.all_cons, List.all_nil, Bool.and_true] at h
    simp only [List.foldl]
    rw [Dev.takeUnit_free (o := ownerOf i unit (1 + 1) d) step count h]
    rfl
  · simp only [List.all_cons, List.all_nil, Bool.and_true, Bool.and_eq_true] at h
    simp only [List.foldl]
    rw [Dev.takeUnit_free (o := ownerOf i unit (0 + 1) d) step count h.1]
    rw [Dev.takeUnit_free (d := d.took (ownerOf i unit (0 + 1) d) 0 step count) (o := ownerOf i unit (1 + 1) d) step count
      (by rw [Dev.unitFree_took (by decide)]; exact h.2)]
    rfl

/-- An occurrence whose units are free runs in every lane with its unit taken, if its work in a lane neither takes nor frees
units nor moves the tick. -/
theorem Dev.forLanes_free {d : Dev} {i : Inst} {unit : Nat} (step count : Nat) (g k : Owner → Nat → Dev → Dev)
    (hg : ∀ o l d, (g o l d).run.busy = d.run.busy ∧ (g o l d).run.tick = d.run.tick) (h : d.lanesFree i unit = true) :
    d.forLanes i unit (fun o l d => if (d.takeUnit o l step count).1 then g o l (d.takeUnit o l step count).2
        else k o l (d.takeUnit o l step count).2) =
      d.forLanes i unit (fun o l d => g o l (d.took o l step count)) := by
  unfold Dev.lanesFree at h
  unfold Dev.forLanes
  rcases laneList_cases i.lane.toNat with e | e | e | e <;> rw [e] at h ⊢
  · rfl
  · simp only [List.all_cons, List.all_nil, Bool.and_true] at h
    simp only [List.foldl]
    rw [Dev.takeUnit_free (o := ownerOf i unit (0 + 1) d) step count h, if_pos rfl]
  · simp only [List.all_cons, List.all_nil, Bool.and_true] at h
    simp only [List.foldl]
    rw [Dev.takeUnit_free (o := ownerOf i unit (1 + 1) d) step count h, if_pos rfl]
  · simp only [List.all_cons, List.all_nil, Bool.and_true, Bool.and_eq_true] at h
    simp only [List.foldl]
    rw [Dev.takeUnit_free (o := ownerOf i unit (0 + 1) d) step count h.1, if_pos rfl]
    rw [Dev.takeUnit_free step count, if_pos rfl]
    have e1 := hg (ownerOf i unit (0 + 1) d) 0 (d.took (ownerOf i unit (0 + 1) d) 0 step count)
    have e2 := h.2
    rw [← Dev.unitFree_took (o := ownerOf i unit (0 + 1) d) (a := step) (b := count) (show 1 ≠ 0 by decide)] at e2
    simp only [Dev.unitFree, e1.1, e1.2] at e2 ⊢
    exact e2

/-- Taking units changes the busy list and nothing else. -/
theorem Dev.forLanes_took (d : Dev) (i : Inst) (unit step count : Nat) :
    ∃ b, (d.forLanes i unit fun o l d => d.took o l step count) = d.onRun fun r => { r with busy := b } := by
  unfold Dev.forLanes
  rcases laneList_cases i.lane.toNat with e | e | e | e <;> rw [e] <;> exact ⟨_, rfl⟩

/-- The use of one port leaves the others open. -/
theorem Dev.portOpen_ported {d : Dev} {kind idx lim idx' : Nat} (o : Owner) (h : idx' ≠ idx) :
    (d.ported kind idx o).portOpen kind idx' lim = d.portOpen kind idx' lim := by
  have : portCode kind idx ≠ portCode kind idx' := by simp [portCode]; omega
  simp [Dev.portOpen, Dev.ported, Dev.portUses, Dev.notePort, this]

/-- Two bodies run alike in the selected lanes if they agree wherever lane `l` satisfies `Q l`, and what one does in a lane keeps
`Q` of the other. -/
theorem Dev.forLanes_each {i : Inst} {unit : Nat} {d : Dev} {f g : Owner → Nat → Dev → Dev} (Q : Nat → Dev → Prop)
    (hd : ∀ l ∈ laneList i.lane.toNat, Q l d) (h : ∀ l d, Q l d → f (ownerOf i unit (l + 1) d) l d = g (ownerOf i unit (l + 1) d) l d)
    (hp : ∀ d, Q 0 d → Q 1 d → Q 1 (g (ownerOf i unit (0 + 1) d) 0 d)) : d.forLanes i unit f = d.forLanes i unit g := by
  unfold Dev.forLanes
  rcases laneList_cases i.lane.toNat with e | e | e | e <;> rw [e] at hd ⊢ <;> simp only [List.foldl] <;>
    simp only [List.mem_cons, List.not_mem_nil, or_false, forall_eq_or_imp, forall_eq] at hd
  · rw [h _ _ hd]
  · rw [h _ _ hd]
  · rw [h _ _ hd.1, h _ _ (hp _ hd.1 hd.2)]

/-! ### Events and records -/

/-- An MSI-X vector goes out, waits for the link, or sets its pending bit (R518, R553). -/
theorem Dev.msix_eq (d : Dev) (v n : Nat) : ∃ o p w, d.msix v n = { d with out := o, msixPend := p, linkWait := w } := by
  unfold Dev.msix
  split
  · exact ⟨_, _, _, rfl⟩
  · split <;> exact ⟨_, _, _, rfl⟩

/-- The note that a bit was set in this tick (R12). -/
theorem Dev.noteSet_eq (d : Dev) (F : Fld) : ∃ j, d.noteSet F = { d with justSet := j } := by
  unfold Dev.noteSet
  split
  · exact ⟨_, rfl⟩
  · exact ⟨_, rfl⟩

@[simp] theorem Dev.get_noteSet (d : Dev) (F G : Fld) : (d.noteSet F).get G = d.get G := by
  obtain ⟨j, h⟩ := Dev.noteSet_eq d F
  rw [h]; rfl

/-- An event sets its bit and sends its vector. -/
theorem Dev.event_eq (d : Dev) (F : Fld) : ∃ r j o p w, d.event F = { d with regs := r, justSet := j, out := o, msixPend := p, linkWait := w } := by
  unfold Dev.event
  split
  · obtain ⟨j, h⟩ := Dev.noteSet_eq d F
    exact ⟨_, j, _, _, _, by rw [h]⟩
  · obtain ⟨j, h0⟩ := Dev.noteSet_eq (d.put F 1) F
    obtain ⟨o, p, w, h⟩ := Dev.msix_eq ((d.put F 1).noteSet F) (d.eventView F) (d.get (Reg.HP_EVT_VEC.EVT (d.eventView F)))
    exact ⟨_, j, o, p, w, by simp only [h]; rw [h0]; rfl⟩

/-- Only the event's own field changes. -/
theorem Dev.get_event_ne (d : Dev) {F G : Fld} (h : G.key ≠ F.key) : (d.event F).get G = d.get G := by
  unfold Dev.event
  split
  · exact Dev.get_noteSet d F G
  · obtain ⟨o, p, w, e⟩ := Dev.msix_eq ((d.put F 1).noteSet F) (d.eventView F) (d.get (Reg.HP_EVT_VEC.EVT (d.eventView F)))
    simp only [e]
    exact (Dev.get_noteSet _ F G).trans (Dev.get_put_ne d 1 h)

/-- The event's bit is set. -/
theorem Dev.is_event_self (d : Dev) (F : Fld) (h : 0 < F.width) : (d.event F).is F = true := by
  unfold Dev.event
  split
  · rename_i hs
    simpa only [Dev.is, Dev.get_noteSet] using hs
  · obtain ⟨o, p, w, e⟩ := Dev.msix_eq ((d.put F 1).noteSet F) (d.eventView F) (d.get (Reg.HP_EVT_VEC.EVT (d.eventView F)))
    simp only [e]
    have h1 : ((d.put F 1).noteSet F).get F = 1 % 2 ^ F.width := (Dev.get_noteSet _ F F).trans (Dev.get_put_self d F 1)
    have h2 : 1 % 2 ^ F.width = 1 := Nat.mod_eq_of_lt (Nat.one_lt_two_pow (by omega))
    have : Dev.get { (d.put F 1).noteSet F with out := o, msixPend := p, linkWait := w } F = 1 :=
      (Dev.get_congr (e := (d.put F 1).noteSet F) rfl F).trans (h1.trans h2)
    exact decide_eq_true fun h0 => absurd (this.symm.trans h0) (by decide)

/-- A status bit is set and noted for the tick. -/
theorem Dev.setBit_eq (d : Dev) (F : Fld) : ∃ j, d.setBit F = { d.put F 1 with justSet := j } := by
  unfold Dev.setBit Dev.noteSet
  split <;> exact ⟨_, rfl⟩

@[simp] theorem Dev.sec_setBit (d : Dev) (F : Fld) : (d.setBit F).sec = d.sec := by
  obtain ⟨j, e⟩ := Dev.setBit_eq d F
  rw [e]; rfl

theorem Dev.get_setBit_ne (d : Dev) {F G : Fld} (h : G.key ≠ F.key) : (d.setBit F).get G = d.get G := by
  obtain ⟨j, e⟩ := Dev.setBit_eq d F
  rw [e]; exact Dev.get_put_ne d 1 h

theorem Dev.is_setBit_ne (d : Dev) {F G : Fld} (h : G.key ≠ F.key) : (d.setBit F).is G = d.is G := by
  rw [Dev.is, Dev.get_setBit_ne d h, Dev.is]

theorem Dev.is_setBit_self (d : Dev) (F : Fld) (h : 0 < F.width) : (d.setBit F).is F = true := by
  obtain ⟨j, e⟩ := Dev.setBit_eq d F
  have h2 : 1 % 2 ^ F.width = 1 := Nat.mod_eq_of_lt (Nat.one_lt_two_pow (by omega))
  have h1 : (d.setBit F).get F = 1 := by rw [e]; exact (Dev.get_put_self d F 1).trans h2
  exact decide_eq_true fun h0 => absurd (h1.symm.trans h0) (by decide)

/-- A Lantern record enters the buffer or is counted as lost. -/
theorem Dev.lantern_eq (d : Dev) (ty c l tg tk dt : Nat) (p : Option Row) :
    ∃ r x b, d.lantern ty c l tg tk dt p = { d with regs := r, ltn := x, ltnLost := b } := by
  unfold Dev.lantern
  split
  · exact ⟨_, _, _, rfl⟩
  · dsimp only
    split <;> exact ⟨_, _, _, rfl⟩

/-- A frame goes out or is left out. -/
theorem Dev.sendOn_eq (d : Dev) (p c ty n k b : Nat) (e a : Bool) (l : List Byte) :
    ∃ f o s, d.sendOn p c ty n k b e a l = { d with fresh := f, out := o, said := s } := by
  unfold Dev.sendOn
  split
  · exact ⟨_, _, _, rfl⟩
  · exact ⟨_, _, _, rfl⟩

/-- A MIRROR frame is numbered, kept, and goes out. -/
theorem Dev.mirFrame_eq (d : Dev) (sub tag : Nat) (l : List Byte) :
    ∃ f o s w u, d.mirFrame sub tag l = { d with fresh := f, out := o, said := s, wmkIssued := w, mir := { d.mir with unacked := u } } := by
  unfold Dev.mirFrame
  dsimp only
  obtain ⟨f, o, s, h⟩ := Dev.sendOn_eq { d with
    wmkIssued := kset 0 d.wmkIssued 511 (kget 0 d.wmkIssued 511 + 1)
    mir := { d.mir with unacked := d.mir.unacked ++ [{ inst := kget 0 d.wmkIssued 511, payload := leBytes 4 sub ++ leBytes 4 tag ++ l, sent := d.now }] } }
    d.mir.port 511 frameMirror (kget 0 d.wmkIssued 511) 0 0 false false (leBytes 4 sub ++ leBytes 4 tag ++ l)
  exact ⟨f, o, s, _, _, h⟩

/-- A Lantern record changes no field but the count of lost records. -/
theorem Dev.get_lantern_ne (d : Dev) (ty c l tg tk dt : Nat) (p : Option Row) {F : Fld} (h : F.key ≠ Reg.DBG_LTN_LOST.COUNT.key) :
    (d.lantern ty c l tg tk dt p).get F = d.get F := by
  unfold Dev.lantern
  split
  · rfl
  · dsimp only
    split
    · exact Dev.get_put_ne d _ h
    · rfl

theorem Dev.get_count_ne (d : Dev) {F G : Fld} (n : Nat) (h : G.key ≠ F.key) : (d.count F n).get G = d.get G := Dev.get_put_ne d _ h

theorem Dev.get_count_self (d : Dev) (F : Fld) (n : Nat) : (d.count F n).get F = min (d.get F + n) (2 ^ F.width - 1) := by
  have : 0 < 2 ^ F.width := Nat.two_pow_pos _
  rw [Dev.count, Dev.get_put_self, Nat.mod_eq_of_lt (by omega)]

theorem Dev.get_peak_ne (d : Dev) {F G : Fld} (n : Nat) (h : G.key ≠ F.key) : (d.peak F n).get G = d.get G := Dev.get_put_ne d _ h

/-- A fault that enters no RTE record writes a Lantern record, and either a line or a count of DBG_LTN_FAULTS. -/
theorem Dev.blockFault_eq (d : Dev) (o : Owner) (code : Nat) (b : Bool) :
    ∃ r x l y, d.blockFault o code b = { d with regs := r, ltn := x, ltnLost := l, out := y } := by
  unfold Dev.blockFault
  cases b
  · obtain ⟨r, x, l, h⟩ := Dev.lantern_eq (d.count Reg.DBG_LTN_FAULTS.COUNT 1) 4 (if o.tag = 0 then 0xFF else o.core) o.lane o.tag
      d.run.tick (code + 0) none
    exact ⟨r, x, l, _, h⟩
  · obtain ⟨r, x, l, h⟩ := Dev.lantern_eq d 4 (if o.tag = 0 then 0xFF else o.core) o.lane o.tag d.run.tick (code + 2 ^ 16) none
    exact ⟨r, x, l, d.out ++ [_], by simp only [if_true, h]; rfl⟩

/-- A fault that a record takes counts nothing. -/
theorem Dev.get_blockFault_recorded (d : Dev) (o : Owner) (code : Nat) {F : Fld} (h : F.key ≠ Reg.DBG_LTN_LOST.COUNT.key) :
    (d.blockFault o code true).get F = d.get F := Dev.get_lantern_ne d _ _ _ _ _ _ _ h

theorem Dev.get_blockFault_ne (d : Dev) (o : Owner) (code : Nat) (b : Bool) {F : Fld} (h : F.key ≠ Reg.DBG_LTN_LOST.COUNT.key)
    (h2 : F.key ≠ Reg.DBG_LTN_FAULTS.COUNT.key) : (d.blockFault o code b).get F = d.get F := by
  unfold Dev.blockFault
  cases b
  · exact (Dev.get_lantern_ne _ _ _ _ _ _ _ _ h).trans (Dev.get_count_ne d 1 h2)
  · exact Dev.get_blockFault_recorded d o code h

/-- A fault that no record holds is counted in DBG_LTN_FAULTS (R551). -/
theorem Dev.get_blockFault_faults (d : Dev) (o : Owner) (code : Nat) (b : Bool) :
    (d.blockFault o code b).get Reg.DBG_LTN_FAULTS.COUNT =
      if b then d.get Reg.DBG_LTN_FAULTS.COUNT else min (d.get Reg.DBG_LTN_FAULTS.COUNT + 1) (2 ^ 32 - 1) := by
  unfold Dev.blockFault
  cases b
  · exact (Dev.get_lantern_ne _ _ _ _ _ _ _ _ (by decide)).trans (Dev.get_count_self d _ 1)
  · exact Dev.get_blockFault_recorded d o code (by decide)

/-- A hold request joins the requests of the run, or those of the Eclipse in progress (R54, R59). -/
theorem Dev.hold_off {d : Dev} (c : Nat) (w : HoldWhy) (h : d.run.eclipse = false) :
    d.hold c w = d.onRun fun r => { r with holds := r.holds ++ [{ d := d.run.tick, h := d.run.tick + 24, cause := c, why := w, ms := d.now }] } := by
  simp [Dev.hold, h]

@[simp] theorem Dev.get_hold (d : Dev) (c : Nat) (w : HoldWhy) (F : Fld) : (d.hold c w).get F = d.get F := by
  unfold Dev.hold
  dsimp only
  split <;> rfl

/-! ### Lines that hosts hold -/

/-- Back-Invalidate Snoops go out and the lines are held no longer; nothing else changes. -/
theorem Dev.snoopOut_eq (d : Dev) (p : Nat → Bool) :
    d.snoopOut p = { d with snoop := d.snoop.filter fun l => !p l.2, out := d.out ++ (d.snoop.filter fun l => p l.2).map fun l => .cxl l.1 cxlBISnpInv l.2 } := by
  have h : ∀ (L : List (Nat × Nat)) (e : Dev), L.foldl (fun d l => d.emit (.cxl l.1 cxlBISnpInv l.2)) e =
      { e with out := e.out ++ L.map fun l => .cxl l.1 cxlBISnpInv l.2 } := by
    intro L
    induction L with
    | nil => intro e; simp
    | cons a l ih => intro e; rw [List.foldl_cons, ih]; simp [Dev.emit]
  exact h _ _

/-- A range written whole by the device: its blocks no longer fail, and hosts hold none of its lines. -/
theorem Dev.rewritten_eq (d : Dev) (a n : Nat) : ∃ b s o, d.rewritten a n = { d with badBlk := b, snoop := s, out := o } := by
  unfold Dev.rewritten
  rw [Dev.snoopOut_eq]
  exact ⟨_, _, _, rfl⟩

@[simp] theorem Dev.get_snoopOut (d : Dev) (p : Nat → Bool) (F : Fld) : (d.snoopOut p).get F = d.get F := by rw [Dev.snoopOut_eq]; rfl
@[simp] theorem Dev.get_rewritten (d : Dev) (a n : Nat) (F : Fld) : (d.rewritten a n).get F = d.get F := Dev.get_snoopOut _ _ F

/-! ### What reports leave alone -/

@[simp] theorem Dev.rest_put (d : Dev) (F : Fld) (v : Nat) : (d.put F v).rest = d.rest := rfl
@[simp] theorem Dev.rest_putB (d : Dev) (F : Fld) (b : Bool) : (d.putB F b).rest = d.rest := rfl
@[simp] theorem Dev.rest_count (d : Dev) (F : Fld) (n : Nat) : (d.count F n).rest = d.rest := rfl
@[simp] theorem Dev.rest_peak (d : Dev) (F : Fld) (n : Nat) : (d.peak F n).rest = d.rest := rfl
@[simp] theorem Dev.rest_emit (d : Dev) (o : Output) : (d.emit o).rest = d.rest := rfl

@[simp] theorem Dev.rest_msix (d : Dev) (v n : Nat) : (d.msix v n).rest = d.rest := by
  obtain ⟨o, p, w, h⟩ := Dev.msix_eq d v n
  rw [h]; rfl

@[simp] theorem Dev.rest_event (d : Dev) (F : Fld) : (d.event F).rest = d.rest := by
  obtain ⟨r, j, o, p, w, h⟩ := Dev.event_eq d F
  rw [h]; rfl

@[simp] theorem Dev.rest_lantern (d : Dev) (ty c l tg tk dt : Nat) (p : Option Row) : (d.lantern ty c l tg tk dt p).rest = d.rest := by
  obtain ⟨r, x, b, h⟩ := Dev.lantern_eq d ty c l tg tk dt p
  rw [h]; rfl

@[simp] theorem Dev.rest_blockFault (d : Dev) (o : Owner) (code : Nat) (b : Bool) : (d.blockFault o code b).rest = d.rest := by
  obtain ⟨r, x, l, y, h⟩ := Dev.blockFault_eq d o code b
  rw [h]; rfl

/-- Equal but for their reports, two devices agree on everything else. -/
theorem Dev.run_rest {d e : Dev} (h : d.rest = e.rest) : d.run = e.run := by
  have h1 : d.rest.run = e.rest.run := by rw [h]
  exact h1

theorem Dev.cores_rest {d e : Dev} (h : d.rest = e.rest) : d.cores = e.cores := by
  have h1 : d.rest.cores = e.rest.cores := by rw [h]
  exact h1

theorem Dev.rest_onRun {d e : Dev} (f : RunSt → RunSt) (h : d.rest = e.rest) : (d.onRun f).rest = (e.onRun f).rest := by
  have h1 : d.rest.onRun f = e.rest.onRun f := by rw [h]
  exact h1

/-! ### Rows -/

@[simp] theorem CoreSt.row_queueTest (k : CoreSt) (key bank row : Nat) : (k.queueTest key).row bank row = k.row bank row := by
  unfold CoreSt.queueTest
  split <;> rfl

@[simp] theorem CoreSt.row_noteRead (k : CoreSt) (key bank row : Nat) : (k.noteRead key).row bank row = k.row bank row := by
  unfold CoreSt.noteRead
  split
  · exact CoreSt.row_queueTest ..
  · rfl

/-- A row whose mark is clear reads as it was stored. -/
theorem CoreSt.row_storeRow_self {k : CoreSt} {bank row : Nat} (v : Row) (h : kget false k.emptyRow (rowKey bank row) = false) :
    (k.storeRow bank row v).row bank row = v := by
  unfold CoreSt.storeRow
  by_cases ht : k.tested bank row = true
  · rw [if_pos ht]
    have h2 : ({ k with saveReg := v } : CoreSt).tested bank row = true := ht
    simp only [CoreSt.row, h, h2, Bool.false_eq_true, if_false, if_true]
  · rw [if_neg ht]
    have h2 : ({ k with scratch := kset 0#4096 k.scratch (k.cells bank row) v } : CoreSt).tested bank row = false := Bool.eq_false_iff.mpr ht
    have h3 : ({ k with scratch := kset 0#4096 k.scratch (k.cells bank row) v } : CoreSt).cells bank row = k.cells bank row := rfl
    simp only [CoreSt.row, h, h2, h3, Bool.false_eq_true, if_false, kget_kset_self]

/-- A row reads as it was last written. -/
@[simp] theorem CoreSt.row_putRow_self (k : CoreSt) (bank row : Nat) (v : Row) (w : Bool) : (k.putRow bank row v w).row bank row = v := by
  have h := CoreSt.row_storeRow_self (k := { k with emptyRow := kset false k.emptyRow (rowKey bank row) false })
    (bank := bank) (row := row) v
    (show kget false (kset false k.emptyRow (rowKey bank row) false) (rowKey bank row) = false by simp)
  unfold CoreSt.putRow
  dsimp only
  split
  · exact h
  · split
    · exact (CoreSt.row_queueTest ..).trans h
    · exact h

/-- A row that shares no key and no cells with the row written reads as before. -/
theorem CoreSt.row_putRow_ne (k : CoreSt) {bank row b r : Nat} (v : Row) (w : Bool) (h : rowKey b r ≠ rowKey bank row)
    (hc : k.cells b r ≠ k.cells bank row) : (k.putRow bank row v w).row b r = k.row b r := by
  have e : ∀ x : CoreSt, x.test = k.test → x.remap = k.remap → kget false x.emptyRow (rowKey b r) = kget false k.emptyRow (rowKey b r) →
      (k.tested b r = true → x.saveReg = k.saveReg) → kget 0#4096 x.scratch (k.cells b r) = kget 0#4096 k.scratch (k.cells b r) →
      x.row b r = k.row b r := by
    intro x h1 h2 h3 h4 h5
    have ht : x.tested b r = k.tested b r := by simp only [CoreSt.tested, h1]
    have hx : x.cells b r = k.cells b r := by simp only [CoreSt.cells, h2]
    simp only [CoreSt.row, ht, hx, h3, h5]
    split
    · rfl
    · split
      · rename_i h6; exact h4 h6
      · rfl
  have s : ({ k with emptyRow := kset false k.emptyRow (rowKey bank row) false }.storeRow bank row v).row b r = k.row b r := by
    unfold CoreSt.storeRow
    have h0 : kget false (kset false k.emptyRow (rowKey bank row) false) (rowKey b r) = kget false k.emptyRow (rowKey b r) :=
      kget_kset_ne _ _ _ h
    split
    · rename_i h6
      refine e _ rfl rfl h0 (fun h7 => absurd ?_ h) rfl
      have h8 : k.tested bank row = true := h6
      revert h7 h8
      unfold CoreSt.tested
      split
      · simp only [decide_eq_true_eq]; rintro ⟨rfl, rfl, _⟩ ⟨rfl, rfl, _⟩; rfl
      · intro h7; exact absurd h7 (by simp)
    · exact e _ rfl rfl h0 (fun _ => rfl) (kget_kset_ne _ _ _ hc)
  unfold CoreSt.putRow
  dsimp only
  split
  · exact s
  · split
    · exact (CoreSt.row_queueTest ..).trans s
    · exact s

theorem testBit_bitsOf (x lo n i : Nat) : (bitsOf x lo n).testBit i = (decide (i < n) && x.testBit (lo + i)) := by
  simp only [bitsOf, Nat.testBit_mod_two_pow, Nat.testBit_div_two_pow, Nat.add_comm]

/-- A bit of a row with `n` bytes placed from byte `i`. -/
theorem testBit_rowSet (r : Row) {i n : Nat} (v k : Nat) (h : i + n ≤ 512) :
    (rowSet r i n v).toNat.testBit k = if k < 8 * i then r.toNat.testBit k else if k < 8 * (i + n) then v.testBit (k - 8 * i)
      else r.toNat.testBit k := by
  have hr := r.isLt
  have hlo : r.toNat % 2 ^ (8 * i) < 2 ^ (8 * i) := Nat.mod_lt _ (Nat.two_pow_pos _)
  have hm : v % 2 ^ (8 * n) < 2 ^ (8 * n) := Nat.mod_lt _ (Nat.two_pow_pos _)
  have e : r.toNat / 2 ^ (8 * (i + n)) * 2 ^ (8 * (i + n)) + (v % 2 ^ (8 * n)) * 2 ^ (8 * i) + r.toNat % 2 ^ (8 * i) =
      2 ^ (8 * i) * (2 ^ (8 * n) * (r.toNat / 2 ^ (8 * (i + n))) + v % 2 ^ (8 * n)) + r.toNat % 2 ^ (8 * i) := by
    have : 8 * (i + n) = 8 * i + 8 * n := by omega
    rw [this, Nat.pow_add, Nat.mul_add]
    have a : ∀ a b q : Nat, q * (a * b) = a * (b * q) := fun a b q => by rw [Nat.mul_comm q, Nat.mul_assoc]
    rw [a, Nat.mul_comm (v % 2 ^ (8 * n))]
  have hlt : 2 ^ (8 * i) * (2 ^ (8 * n) * (r.toNat / 2 ^ (8 * (i + n))) + v % 2 ^ (8 * n)) + r.toNat % 2 ^ (8 * i) < 2 ^ 4096 := by
    have hd : r.toNat / 2 ^ (8 * (i + n)) < 2 ^ (4096 - 8 * (i + n)) := by
      apply Nat.div_lt_of_lt_mul
      rw [← Nat.pow_add]
      have : 8 * (i + n) + (4096 - 8 * (i + n)) = 4096 := by omega
      rw [this]; exact hr
    have h1 : 2 ^ (8 * n) * (r.toNat / 2 ^ (8 * (i + n))) + v % 2 ^ (8 * n) < 2 ^ (8 * n) * 2 ^ (4096 - 8 * (i + n)) := by
      calc _ < 2 ^ (8 * n) * (r.toNat / 2 ^ (8 * (i + n))) + 2 ^ (8 * n) := by omega
        _ = 2 ^ (8 * n) * (r.toNat / 2 ^ (8 * (i + n)) + 1) := (Nat.mul_succ _ _).symm
        _ ≤ _ := Nat.mul_le_mul_left _ hd
    have h2 : 2 ^ (8 * i) * (2 ^ (8 * n) * 2 ^ (4096 - 8 * (i + n))) = 2 ^ 4096 := by
      rw [← Nat.pow_add, ← Nat.pow_add]; congr 1; omega
    rw [← h2]
    calc _ < 2 ^ (8 * i) * (2 ^ (8 * n) * (r.toNat / 2 ^ (8 * (i + n))) + v % 2 ^ (8 * n)) + 2 ^ (8 * i) := by omega
      _ = 2 ^ (8 * i) * (2 ^ (8 * n) * (r.toNat / 2 ^ (8 * (i + n))) + v % 2 ^ (8 * n) + 1) := (Nat.mul_succ _ _).symm
      _ ≤ _ := Nat.mul_le_mul_left _ h1
  unfold rowSet
  dsimp only
  rw [BitVec.toNat_ofNat, e, Nat.mod_eq_of_lt hlt]
  rw [Nat.testBit_two_pow_mul_add _ hlo]
  split
  · rename_i hk; simp [Nat.testBit_mod_two_pow, hk]
  · rename_i hk
    rw [Nat.testBit_two_pow_mul_add _ hm]
    by_cases h2 : k < 8 * (i + n)
    · have : k - 8 * i < 8 * n := by omega
      simp [Nat.testBit_mod_two_pow, this, h2]
    · have h3 : ¬ k - 8 * i < 8 * n := by omega
      have h4 : k - 8 * i - 8 * n + 8 * (i + n) = k := by omega
      rw [if_neg h3, if_neg h2, Nat.testBit_div_two_pow, h4]

theorem bitsOf_rowSet_in (r : Row) {i n lo w : Nat} (v : Nat) (h : i + n ≤ 512) (h1 : 8 * i ≤ lo) (h2 : lo + w ≤ 8 * (i + n)) :
    bitsOf (rowSet r i n v).toNat lo w = bitsOf v (lo - 8 * i) w := by
  apply Nat.eq_of_testBit_eq
  intro k
  rw [testBit_bitsOf, testBit_bitsOf, testBit_rowSet _ _ _ h]
  by_cases hk : k < w
  · have e : lo + k - 8 * i = lo - 8 * i + k := by omega
    rw [if_neg (by omega), if_pos (by omega), e]
  · simp [hk]

theorem bitsOf_rowSet_out (r : Row) {i n lo w : Nat} (v : Nat) (h : i + n ≤ 512) (h1 : lo + w ≤ 8 * i ∨ 8 * (i + n) ≤ lo) :
    bitsOf (rowSet r i n v).toNat lo w = bitsOf r.toNat lo w := by
  apply Nat.eq_of_testBit_eq
  intro k
  rw [testBit_bitsOf, testBit_bitsOf, testBit_rowSet _ _ _ h]
  by_cases hk : k < w
  · rcases h1 with h1 | h1
    · rw [if_pos (by omega)]
    · rw [if_neg (by omega), if_neg (by omega)]
  · simp [hk]

/-! ### Slip buffers and stretches (R270, R327) -/

/-- A slip buffer's entries change, and the peak of the debts with them; nothing else does. -/
theorem Dev.slipBy_eq (key : Nat) (n : Int) (d : Dev) : ∃ s r, d.slipBy key n = { d with slip := s, regs := r } := ⟨_, _, rfl⟩

/-- A stretch changes the stretch counts, the slip buffers and the peak of their debts; nothing else. -/
theorem Dev.stretchIslands_eq (is : List Nat) (d : Dev) : ∃ s r, d.stretchIslands is =
    { d with pwr := { d.pwr with stretches := is.foldl (fun m i => kset 0 m i (kget 0 m i + 1)) d.pwr.stretches }, slip := s, regs := r } := by
  have h : ∀ (l : List (Nat × Nat × Nat)) (g : Nat × Nat × Nat → Int) (d : Dev),
      ∃ s r, l.foldl (fun (d : Dev) x => if g x = 0 then d else d.slipBy x.1 (g x)) d = { d with slip := s, regs := r } := by
    intro l g
    induction l with
    | nil => intro d; exact ⟨_, _, rfl⟩
    | cons a t ih =>
      intro d
      rw [List.foldl_cons]
      obtain ⟨s, r, e⟩ := ih (if g a = 0 then d else d.slipBy a.1 (g a))
      rw [e]
      split <;> exact ⟨_, _, rfl⟩
  unfold Dev.stretchIslands
  obtain ⟨s, r, e⟩ := h crossings _ _
  exact ⟨s, r, e⟩

/-! ### Faults -/

@[simp] theorem Dev.run_takeBack (u : Undo) (d : Dev) : (d.takeBack u).run = d.run := by
  unfold Dev.takeBack; split <;> rfl

@[simp] theorem Dev.run_lantern (d : Dev) (ty c l tg tk dt : Nat) (p : Option Row) : (d.lantern ty c l tg tk dt p).run = d.run := by
  obtain ⟨r, x, b, h⟩ := Dev.lantern_eq d ty c l tg tk dt p
  rw [h]

@[simp] theorem Dev.core_lantern (d : Dev) (ty c l tg tk dt : Nat) (p : Option Row) (e : Nat) :
    (d.lantern ty c l tg tk dt p).core e = d.core e := by
  obtain ⟨r, x, b, h⟩ := Dev.lantern_eq d ty c l tg tk dt p
  rw [h]; rfl

/-- What a kill leaves of the run. -/
theorem Dev.run_kill (o : Owner) (d : Dev) : (d.kill o).run = RunSt.kill o d.run := by
  have h : ∀ (l : List Undo) (d : Dev), (l.foldl (fun d u => d.takeBack u) d).run = d.run := by
    intro l
    induction l with
    | nil => intro d; rfl
    | cons a t ih => intro d; rw [List.foldl_cons, ih, Dev.run_takeBack]
  unfold Dev.kill
  show RunSt.kill o (List.foldl _ d _).run = _
  rw [h]

@[simp] theorem Dev.get_takeBack (u : Undo) (d : Dev) (F : Fld) : (d.takeBack u).get F = d.get F := by
  unfold Dev.takeBack; split <;> rfl

@[simp] theorem Dev.get_kill (o : Owner) (d : Dev) (F : Fld) : (d.kill o).get F = d.get F := by
  have h : ∀ (l : List Undo) (d : Dev), (l.foldl (fun d u => d.takeBack u) d).get F = d.get F := by
    intro l
    induction l with
    | nil => intro d; rfl
    | cons a t ih => intro d; rw [List.foldl_cons, ih, Dev.get_takeBack]
  exact h _ d

/-- An occurrence of which nothing landed in this tick leaves every core as it is. -/
theorem Dev.core_kill (o : Owner) (d : Dev) (h : (d.run.undo.filter fun u => u.owner.same o) = []) (c : Nat) :
    (d.kill o).core c = d.core c := by
  unfold Dev.kill; rw [h]; rfl

@[simp] theorem Dev.get_stopAt (d : Dev) (t why code : Nat) (F : Fld) : (d.stopAt t why code).get F = d.get F := by
  unfold Dev.stopAt
  split
  · rfl
  · dsimp only; split <;> rfl

@[simp] theorem Dev.core_stopAt (d : Dev) (t why code c : Nat) : (d.stopAt t why code).core c = d.core c := by
  unfold Dev.stopAt
  split
  · rfl
  · dsimp only; split <;> rfl

theorem Dev.undo_stopAt (d : Dev) (t why code : Nat) : (d.stopAt t why code).run.undo = d.run.undo := by
  unfold Dev.stopAt
  split
  · rfl
  · dsimp only; split <;> rfl

@[simp] theorem Dev.core_record (d : Dev) (o : Owner) (a b k : Nat) (x : Bool) (c : Nat) : (d.record o a b k x).core c = d.core c := by
  unfold Dev.record
  dsimp only
  rw [Dev.core_lantern]
  split <;> split <;> rfl

/-- A record changes nothing of the run. -/
@[simp] theorem Dev.run_record (d : Dev) (o : Owner) (a b c : Nat) (x : Bool) : (d.record o a b c x).run = d.run := by
  unfold Dev.record
  dsimp only
  rw [Dev.run_lantern]
  split <;> split <;> rfl

/-- A fault of a running device leaves a stop on the hold line, and nothing of the occurrence in flight (R38). -/
theorem Dev.run_faultAt (d : Dev) (o : Owner) (code t : Nat) (h : d.running = true) :
    ∃ x, (d.faultAt o code t).run = RunSt.kill o { d.run with stopping := some x } := by
  unfold Dev.faultAt
  dsimp only
  rw [if_pos h, Dev.run_kill]
  have hr := Dev.run_record d o code t 0 d.run.stopping.isSome
  generalize d.record o code t 0 d.run.stopping.isSome = y at hr
  have hy : y.running = true := by unfold Dev.running at h ⊢; rw [hr]; exact h
  unfold Dev.stopAt
  rw [hy]
  dsimp only
  simp only [Bool.not_true, Bool.false_eq_true, if_false]
  split
  · exact ⟨_, by rw [← hr]; rfl⟩
  · exact ⟨_, by rw [← hr]; rfl⟩

end Sys2Proof.Machine
end

