-- ==== Sys2Proof/WellFormed.lean ====
section
/-! DEFINITION. The commands whose operands lie in the ranges the spec gives their senders. A command outside them has a meaning
all the same (it reaches no such unit, or its interface rejects it); no sender of the spec sends one. -/

namespace Sys2Proof

/-- An occurrence of a unit of a lane selects lane 0, lane 1 or both (R82). -/
def Inst.wfLane (i : Inst) : Bool := i.lane != 0#2

/-- An occurrence of a unit of the core selects no lane (R82). -/
def Inst.wfCore (i : Inst) : Bool := i.lane == 0#2

/-- An island of R22: 0 to 20. -/
def islandWf (i : BitVec 5) : Bool := decide (i.toNat ≤ 20)

/-- A channel of R23: 0 to 95. -/
def channelWf (c : BitVec 7) : Bool := decide (c.toNat < 96)

/-- A scratch row of R217: 0 to 575. -/
def rowWf (r : BitVec 10) : Bool := decide (r.toNat < 576)

/-- A control-space access: 8, 16, 32 or 64 bits at an offset aligned to them (R11, R14). -/
def accessWf (off width : Nat) : Bool := [8, 16, 32, 64].contains width && off % (width / 8) == 0

/-- A request of 1 to 256 bytes that crosses no 4 KiB boundary, which PCIe and CXL.mem keep. -/
def spanWf (addr n : Nat) : Bool := decide (1 ≤ n) && decide (n ≤ 256) && decide (addr % 4096 + n ≤ 4096)

/-- The well-formed commands; CTL.TIME, CTL.RAND and CTL.HLTH carry V = 1 (R104). -/
def Instr.wf : Instr → Bool
  | .fetchRow i => i.wfLane
  | .fetchVbuf i => i.wfLane
  | .fetchWgt i => i.wfLane
  | .matStream i => i.wfLane
  | .matStreamT i => i.wfLane
  | .gemvLoadv i => i.wfLane
  | .gemvMac i => i.wfLane
  | .tileOpComplete _ _ _ => true
  | .lvDrain i => i.wfLane
  | .lvEw i => i.wfLane
  | .lvFunc i => i.wfLane
  | .redSum i => i.wfCore
  | .redSmax i => i.wfCore
  | .redNorm i => i.wfCore
  | .redTopk i => i.wfCore
  | .stRow i => i.wfLane
  | .stMem i => i.wfLane
  | .mshSend i => i.wfCore
  | .mshFan i => i.wfCore
  | .mshConf i => i.wfCore
  | .rlyPass i => i.wfCore
  | .rlyFwd i => i.wfCore
  | .bcnSig i => i.wfCore
  | .bcnMsg i => i.wfCore
  | .messageSend _ => true
  | .messageDelivery _ _ => true
  | .hostRingRecord _ => true
  | .combiningContribution _ => true
  | .ctlNop i => i.wfCore
  | .ctlFork i => i.wfCore
  | .windowForkResolve _ => true
  | .exitForkResolve _ => true
  | .ctlPpoint i => i.wfCore
  | .ctlTime i => i.wfCore && i.v
  | .ctlRand i => i.wfCore && i.v
  | .ctlHlth i => i.wfCore && i.v
  | .stepOpen i => i.wfCore
  | .stepCommit i => i.wfCore
  | .ctlMark i => i.wfCore
  | .tcfg i => i.wfLane
  | .tmov i => i.wfLane
  | .tzero i => i.wfLane
  | .dmaRd i => i.wfCore
  | .dmaWr i => i.wfCore
  | .dmaSgather i => i.wfCore
  | .dmaSscatter i => i.wfCore
  | .halfRowArrival _ _ row _ _ _ _ => rowWf row
  | .dueTickCheck _ => true
  | .writeAckCheck _ => true
  | .eclipseBegin => true
  | .eclipseRelease => true
  | .routeWatchdog => true
  | .meshSlipOverrun _ port _ => decide (port.toNat < 6)
  | .segmentBoundary => true
  | .gateRelease => true
  | .scoreboardSegmentEnd => true
  | .preemptionTaken => true
  | .load _ _ => true
  | .loadComplete => true
  | .start _ _ => true
  | .stop _ => true
  | .preempt _ => true
  | .coreRetire _ _ => true
  | .coreTest _ _ => true
  | .coreTestDone _ => true
  | .coreReturn _ _ => true
  | .streamEntryWrite _ _ _ _ _ => true
  | .scratchTestStart _ => true
  | .scratchTestStep _ _ _ => true
  | .nonScheduledAccess _ _ _ _ => true
  | .hdwRead _ => true
  | .hdwWrite _ => true
  | .imapApply _ => true
  | .channelRetire _ ch => channelWf ch
  | .channelTest _ ch => channelWf ch
  | .channelTestDone ch _ => channelWf ch
  | .rejoin _ ch => channelWf ch
  | .digest _ => true
  | .digestDone _ => true
  | .blockCheckFail ch off _ rereads persistent _ => channelWf ch && decide (off.toNat % 256 = 0) && (rereads == 3#2 || !persistent)
  | .channelLost ch => channelWf ch
  | .plannedRefresh ch => channelWf ch
  | .forcedRefresh ch _ => channelWf ch
  | .mr4Poll pkg _ => decide (pkg.toNat < 12)
  | .stepCopyDone => true
  | .heldWriteRelease _ => true
  | .ownStretch island _ => islandWf island
  | .shadowStretch => true
  | .stretchHigh island => islandWf island
  | .clkMarginLost island => islandWf island
  | .clkOppAtWrite _ _ _ => true
  | .oppSwitch => true
  | .sensorSample die _ => die.all fun x => islandWf x.1
  | .throttleLevelChange => true
  | .powerLimit => true
  | .thermalTrip => true
  | .powerStateEntry => true
  | .wake _ => true
  | .pwrCtrlWake _ => true
  | .pwrBudgetNsWrite _ _ _ => true
  | .beaconSet _ _ _ _ => true
  | .beaconAdd _ _ _ => true
  | .arm _ _ _ => true
  | .bcnWaitTimeout _ => true
  | .bind _ _ => true
  | .unbind _ _ => true
  | .slotWordWrite _ _ _ _ => true
  | .switch _ => true
  | .tenancySwitch _ => true
  | .tenApply _ _ => true
  | .send _ _ _ => true
  | .ringEnable _ _ _ => true
  | .timLaunchAtWrite _ _ _ => true
  | .launch => true
  | .relaunch => true
  | .syncMessage _ _ _ _ => true
  | .syncLost => true
  | .ppsIn _ _ => true
  | .ppsOut => true
  | .portCfgWrite _ _ _ => true
  | .linkChange _ _ _ => true
  | .convoyValid _ _ _ => true
  | .join _ _ => true
  | .leave _ _ => true
  | .joinAll _ => true
  | .joinResend _ => true
  | .blockTransmit _ => true
  | .data _ _ => true
  | .receiveStoreDrain _ => true
  | .ack _ _ => true
  | .ackWindowEnd _ => true
  | .ackPeriodic _ => true
  | .signal _ _ _ => true
  | .abort _ _ => true
  | .joinFrame _ _ _ _ _ _ => true
  | .keepalive _ => true
  | .wmkPeerLost _ => true
  | .mirrorDigest f _ _ _ => f.convoy == 511#9
  | .mirrorFolds f _ _ folds => f.convoy == 511#9 && decide (folds.length = 256)
  | .mirrorVariance f _ _ _ => f.convoy == 511#9
  | .mirrorStop f _ _ => f.convoy == 511#9
  | .mirrorArm f _ _ _ _ _ _ => f.convoy == 511#9
  | .mirrorIntervalEnd => true
  | .restore _ => true
  | .restoreDone _ => true
  | .verify _ => true
  | .fill _ _ _ => true
  | .fillDone _ => true
  | .fillSourceFail _ => true
  | .serve _ _ _ => true
  | .serveEnd _ => true
  | .cairn _ => true
  | .clearRepeat _ => true
  | .cancelQueued _ => true
  | .riskUpdate _ => true
  | .configRequest _ off _ => decide (off.toNat % 4 = 0)
  | .cxlMemRead _ _ addr len => spanWf addr.toNat len.toNat
  | .cxlMemWrite _ _ addr bytes => spanWf addr.toNat bytes.length
  | .backInvalidate _ line => decide (line.toNat % 64 = 0)
  | .h2dSnoop _ line => decide (line.toNat % 64 = 0)
  | .translationCompletion _ _ _ _ _ => true
  | .atsTimeout _ _ _ => true
  | .invalidateRequest _ _ pages => decide (1 ≤ pages)
  | .retry _ => true
  | .hostLinkDown => true
  | .doeDiscovery _ => true
  | .tableAccess _ => true
  | .getCert _ _ => true
  | .getMeasurements _ _ => true
  | .recover _ => true
  | .update _ => true
  | .flashProgramDone _ => true
  | .svnCommit _ => true
  | .revoke _ _ => true
  | .policy _ _ => true
  | .ownerKey _ => true
  | .evalCommit _ => true
  | .challenge _ _ _ => true
  | .respond _ => true
  | .powerOn => true
  | .powerLoss => true
  | .perstAssert _ => true
  | .perstRelease _ => true
  | .dramTrainingDone => true
  | .lanternRingEnable _ _ => true
  | .lanternRecord => true
  | .registerWrite _ off width _ => accessWf off.toNat width.toNat
  | .phimonStatus => true
  | .phimonFaults => true
  | .phimonRd addr wide => decide (addr.toNat % (if wide then 8 else 4) = 0)
  | .phimonBcn _ => true
  | .phimonCore _ => true
  | .phimonLantern _ => true
  | .phimonLevel => true
  | .phimonBaud _ => true
  | .phimonWr addr wide _ => decide (addr.toNat % (if wide then 8 else 4) = 0)
  | .phimonBcnSet _ _ => true
  | .phimonBcnAdd _ _ => true
  | .phimonRow _ => true
  | .phimonFreeze _ => true
  | .freezeBegin => true
  | .phimonTick _ => true
  | .phimonRun => true
  | .phimonStop => true
  | .smbusModel => true
  | .smbusSerial => true
  | .smbusCores => true
  | .smbusVin _ => true
  | .smbusPin => true
  | .smbusTdie => true
  | .smbusTdram => true
  | .smbusStatus => true
  | .smbusPstate => true
  | .smbusWrite _ => true
  | .trst => true
  | .writeAcknowledgement _ _ _ => true
  | .mirrorArmTimeout => true
  | .fuseProgramDone => true
  | .hostLinkUp _ _ _ _ => true
  | .netclk25Loss => true
  | .netclk25Return => true
  | .railLeavesRegulation rail => decide (rail.toNat < 6)
  | .hdmDecoderCommit _ _ _ _ _ => true
  | .msixUnmask _ _ => true
  | .doeErrorResponse _ request => decide (request.length % 4 = 0)
  | .boundaryScanAccess _ => true
  | .phimonUnknownCommand _ => true

end Sys2Proof
end

