-- ==== Sys2Proof/Tests/Slice0.lean ====
section
/-! SUPPORT. Ill-formed commands that WellFormed refuses, the spec's worked examples, known answers, a few single steps, and for each
statement a state and operands that meet its hypotheses (`witness_`). -/

namespace Sys2Proof.Tests
open Sys2Proof.Machine
set_option maxRecDepth 20000
set_option exponentiation.threshold 5000

/-- A machine that runs a segment with core 0 placed. -/
def going : State :=
  { State.reset with
    dev := ({ linkUp := true, mod := { fw := true, ready := true, trained := true, perst := false },
              run := { phase := .segment, tick := 5 } } : Dev).put (Reg.CORE_STATUS.PLACED 0) 1 }

/-- The same with a change of the device. -/
def goingWith (f : Dev → Dev) : State := { going with dev := f going.dev }

/-- An idle machine that has booted. -/
def idling : State :=
  { State.reset with dev := { linkUp := true, mod := { fw := true, ready := true, trained := true, perst := false } } }

/-- The same with a change of the device. -/
def idlingWith (f : Dev → Dev) : State := { idling with dev := f idling.dev }

/-- An occurrence in core 0. -/
def occ (lane : BitVec 2) (opa opb opd : BitVec 24) (count : BitVec 16) : Inst :=
  { core := 0#8, lane := lane, v := false, spec := false, tag := 7#24, opa := opa, opb := opb, opd := opd, count := count,
    mod := 0#20, dep0 := 0#12, dep1 := 0#12, ext := 0#40, lin := 0 }

/-- An FP32 tile of 64 rows and 64 columns, and a BF16 one. -/
def cfg32 : TileCfg := { rows := 64, cols := 64, fmt := 0xB, exact := false, base := 0 }
def cfg16 : TileCfg := { rows := 64, cols := 64, fmt := 0xA, exact := false, base := 0 }

/-- Both lanes of core 0 with FP32 accumulators 0 and 1, weights and vector registers configured. -/
def tiled : State :=
  goingWith fun d => d.onCore 0 fun k =>
    let l : LaneSt := { accCfg := [(0, some cfg32), (1, some cfg32)], accUse := [], ws0 := { cfg := some cfg16 }, ws1 := { cfg := some cfg16 },
                        gvCfg := [(0, some cfg16), (1, some cfg16)] }
    { k with lane0 := l, lane1 := l }

/-- A machine whose channels serve, with tenancy 0's memory and a load in progress. -/
def loading : Dev :=
  ({ idling.dev with load := some { tenancy := 0, addr := 0, len := 160 }, tens := [(0, { regions := [(0, 4096)] })], resident := some 0 } : Dev).put
    Reg.MEM_CH_MAP_LO.IN_SERVICE (2 ^ 64 - 1)

/-- Every unit that the fuses of reset hold present. -/
def fused (d : Dev) : Dev := { d with sec := { d.sec with sensed := resetFuses } }

/-- A frame on convoy 511. -/
def mir : Frame := { convoy := 511#9, src := 1#15, block := 0#16, num := 0#64, resend := false, echo := false, ce := false, intact := true,
                     stamp := 0#64, port := 0#3 }

/-! ### Ill-formed commands: one for each check of WellFormed.lean, and a well-formed neighbour -/

/-- R82: a lane unit with no lane. -/
theorem test_ill_formed_lane : (Instr.fetchRow (occ 0 0 0 0 1)).wf = false ∧ (Instr.fetchRow (occ 1 0 0 0 1)).wf = true := by decide

/-- R82: a core unit with a lane. -/
theorem test_ill_formed_core : (Instr.redSum (occ 1 0 0 0 1)).wf = false ∧ (Instr.redSum (occ 0 0 0 0 1)).wf = true := by decide

/-- R104: CTL.TIME with V = 0. -/
theorem test_ill_formed_valid : (Instr.ctlTime (occ 0 0 0 0 1)).wf = false ∧ (Instr.ctlTime { occ 0 0 0 0 1 with v := true }).wf = true := by decide

/-- R217: row 576. -/
theorem test_ill_formed_row : (Instr.halfRowArrival 0 0 576 0 0 .none 0).wf = false ∧ (Instr.halfRowArrival 0 0 575 0 0 .none 0).wf = true := by decide

/-- A port above 5: the four of the mesh, and the two of the chain. -/
theorem test_ill_formed_port : (Instr.meshSlipOverrun 0 6 false).wf = false ∧ (Instr.meshSlipOverrun 0 5 false).wf = true := by decide

/-- R23: channel 96. -/
theorem test_ill_formed_channel : (Instr.channelTest 0 96).wf = false ∧ (Instr.channelTest 0 95).wf = true := by decide

/-- R287: an offset inside a block. -/
theorem test_ill_formed_block : (Instr.blockCheckFail 0 1 false 0 false .cxlMem).wf = false ∧ (Instr.blockCheckFail 0 256 false 0 false .cxlMem).wf = true := by decide

/-- R291: persistent after two re-reads. -/
theorem test_ill_formed_rereads : (Instr.blockCheckFail 0 0 false 2 true .cxlMem).wf = false ∧ (Instr.blockCheckFail 0 0 false 3 true .cxlMem).wf = true := by decide

/-- A DRAM package above 11. -/
theorem test_ill_formed_package : (Instr.mr4Poll 12 none).wf = false ∧ (Instr.mr4Poll 11 none).wf = true := by decide

/-- R22: island 21. -/
theorem test_ill_formed_island : (Instr.ownStretch 21 0).wf = false ∧ (Instr.ownStretch 20 0).wf = true := by decide

/-- R22: a sensor of island 21. -/
theorem test_ill_formed_sensor : (Instr.sensorSample [(21, 0)] 0).wf = false ∧ (Instr.sensorSample [(20, 0)] 0).wf = true := by decide

/-- A MIRROR frame without 256 folds. -/
theorem test_ill_formed_folds : (Instr.mirrorFolds mir 0 0 []).wf = false ∧ (Instr.mirrorFolds mir 0 0 (List.replicate 256 0)).wf = true := by decide

/-- R462: a MIRROR frame on another convoy. -/
theorem test_ill_formed_mirror : (Instr.mirrorStop { mir with convoy := 5 } 0 0).wf = false ∧ (Instr.mirrorStop mir 0 0).wf = true := by decide

/-- A configuration request inside a word. -/
theorem test_ill_formed_config : (Instr.configRequest 0 2 .read).wf = false ∧ (Instr.configRequest 0 4 .read).wf = true := by decide

/-- A request over a 4 KiB boundary. -/
theorem test_ill_formed_span : (Instr.cxlMemRead none false 4095 2).wf = false ∧ (Instr.cxlMemRead none false 4094 2).wf = true := by decide

/-- A write of no bytes. -/
theorem test_ill_formed_write : (Instr.cxlMemWrite none false 0 []).wf = false ∧ (Instr.cxlMemWrite none false 0 [0#8]).wf = true := by decide

/-- A snoop inside a line. -/
theorem test_ill_formed_line : (Instr.h2dSnoop 0 32).wf = false ∧ (Instr.h2dSnoop 0 64).wf = true := by decide

/-- An invalidation of no pages. -/
theorem test_ill_formed_pages : (Instr.invalidateRequest 0 0 0).wf = false ∧ (Instr.invalidateRequest 0 0 1).wf = true := by decide

/-- R14: a misaligned 32-bit write. -/
theorem test_ill_formed_access : (Instr.registerWrite 0 2 32 0).wf = false ∧ (Instr.registerWrite 0 4 32 0).wf = true := by decide

/-- R14: a 24-bit write. -/
theorem test_ill_formed_width : (Instr.registerWrite 0 0 24 0).wf = false ∧ (Instr.registerWrite 0 0 16 0).wf = true := by decide

/-- R569: a 64-bit read at offset 4. -/
theorem test_ill_formed_phimon : (Instr.phimonRd 4 true).wf = false ∧ (Instr.phimonRd 4 false).wf = true := by decide

/-- R578: a seventh rail. -/
theorem test_ill_formed_rail : (Instr.railLeavesRegulation 6).wf = false ∧ (Instr.railLeavesRegulation 5).wf = true := by decide

/-- A DOE object that is no whole number of words. -/
theorem test_ill_formed_doe : (Instr.doeErrorResponse 0 [0#8]).wf = false ∧ (Instr.doeErrorResponse 0 []).wf = true := by decide

/-! ### The hypotheses of the statements can be met -/

theorem witness_FetchStreams :
    let d := going.dev
    let i := occ 3 575 0 8 1
    d.canIssue i.core = true ∧ d.lanesFree i 0 = true ∧ i.lane ≠ 0#2 ∧ opTile i.opd = 8 ∧ d.watchOff = true ∧
    (∀ l ∈ laneList i.lane.toNat, i.cnt ≤ fetchWgtLimit ((d.lane i.coreN l).ws (opTile i.opd - 8)).cfg) ∧
    d.rowReadable i.coreN (opBank i.opa) (opRow i.opa) = true ∧ d.portOpen portBufRead 7 2 = true := by decide

theorem witness_TileRegisters :
    let d := tiled.dev
    let i := { occ 3 0 0 1 1 with mod := 0xB0000#20 }
    let none := occ 2 8 0 9 1
    d.canIssue i.core = true ∧ d.lanesFree i 10 = true ∧ d.watchOff = true ∧
    (∀ l ∈ laneList i.lane.toNat, tcfgOk (d.lane i.coreN l) (opTile i.opd) (tcfgOf i) = true) ∧
    (∀ l ∈ laneList i.lane.toNat, (d.lane i.coreN l).regCfg (opTile i.opa) = some cfg32 ∧ (d.lane i.coreN l).regCfg (opTile i.opd) = some cfg32 ∧
      tmovOk (opTile i.opa) (opTile i.opd) cfg32 cfg32 = true ∧ d.portOpen portQueue (i.coreN * 2 + l) 1 = true) ∧
    (∀ l ∈ laneList none.lane.toNat, (d.lane none.coreN l).regCfg (opTile none.opa) = some cfg16 ∧ ¬ opTile none.opa < 8) := by decide

theorem witness_MatrixStreams :
    let d := tiled.dev
    let i := { occ 3 0 8 0 64 with mod := 0xA0000#20 }
    let m : Member := { owner := {}, opc := 0x11, cfgD := cfg32, cfgW := cfg16, weights := {}, acc := true, rnd := 0, key := 0#64, ctr := 0#64, stream := 0, pass := 0, lin := 0, count := 1, busy := 1 }
    let op : TileOp := { core := 0, lane := 0, tile := 0, members := [m], complete := 300 }
    let r : MatRow := { j := 0, land := 5, data := 0#1024, sx0 := 127, sx1 := 127, src := .kept, slice := 0, scaleSrc := .kept, member := 0 }
    d.canIssue i.core = true ∧ d.lanesFree i 1 = true ∧ d.watchOff = true ∧
    (∀ l ∈ laneList i.lane.toNat, streamOk i (d.lane i.coreN l) false = some (cfg16, cfg32) ∧ streamOk i (d.lane i.coreN l) true = some (cfg16, cfg32)) ∧
    ((d.onRun fun r => { r with ops := [op] }).opOn 0 0 0).isSome = true ∧ op.members[r.member]? = some m := by
  decide

theorem witness_GemvStreams :
    let d := tiled.dev
    let i := { occ 3 0 0 0 32 with mod := 0xA0000#20 }
    d.canIssue i.core = true ∧ d.lanesFree i 2 = true ∧ d.watchOff = true ∧ i.cnt ≤ 32 ∧ opTile 11#24 = 11 ∧
    ∀ l ∈ laneList i.lane.toNat, gemvOk i (d.lane i.coreN l) = some (cfg16, cfg32) := by decide

theorem witness_TileCompletion :
    let op : TileOp := { core := 0, lane := 1, tile := 3, members := [], landed := [(63, 1)], complete := 5 }
    ((goingWith fun d => d.onRun fun r => { r with ops := [op] }).dev.opDue 0 1 3).isSome = true ∧
    going.dev.opDue 0 1 3 = none ∧ (op.landed.map Prod.fst).Nodup := by decide

theorem witness_VectorUnits :
    let d := tiled.dev
    let i := occ 3 1 2 0 1
    let o := d.owner i 3 1
    d.canIssue i.core = true ∧ d.unitFree o.core o.unit 0 = true ∧ (d.lane 0 0).regCfg (opTile i.opa) = some cfg32 ∧ d.watchOff = true ∧
    i.sub ≤ 4 ∧ d.portOpen portBufRead 0 2 = true ∧ (d.ported portBufRead 0 o).portOpen portBufRead 0 2 = true ∧ i.epi = 0 ∧ i.fmt ≠ 0xD ∧
    d.portOpen portQueue 0 1 = true ∧
    (∀ c ∈ List.range 64, (drainElem { i with mod := 0xB0000#20 } {} (some cfg32) [0#2048] 63 c).isSome = true) := by decide

theorem witness_Reductions :
    let d := tiled.dev
    let i := { occ 0 0 0 1 1 with mod := 0xB0000#20 }
    let j := { occ 0 0 0 1 1 with mod := 0xB0002#20 }
    let bad := occ 0 0 0 1 1
    d.canIssue i.core = true ∧ d.unitFree 0 4 2 = true ∧ redCfg i (d.core 0) = some cfg32 ∧ redDst i (d.core 0) cfg32 = true ∧
    redCfg bad (d.core 0) = none ∧ cfg32.fmt = 0xB ∧ i.sub % 4 < 2 ∧ 2 ≤ j.sub % 4 ∧ d.watchOff = true ∧ d.rowReadable 0 0 0 = true ∧
    d.portOpen portReduce 0 1 = true ∧ (d.ported portReduce 0 (d.owner i 4 0)).portOpen portReduce 1 1 = true ∧
    (redSumRows cfg32 2 (List.replicate 64 [0#2048]) (List.replicate 64 [0#2048])).2 = false := by decide

/-- A Route whose core 0 has a memory stream, a host stream and a stream of convoy 511. -/
def routed : State :=
  let p : Prog := { core := 0, descs := [], loops := [], mesh := [0x3D#128], sb := 0#256, streams :=
    [BitVec.ofNat 128 (512 * 2 ^ 64), BitVec.ofNat 128 (2 ^ 96 + 512 * 2 ^ 64), BitVec.ofNat 128 (2 ^ 97 + 512 * 2 ^ 64 + 511 * 2 ^ 48),
     BitVec.ofNat 128 (3 * 2 ^ 96 + 512 * 2 ^ 64)] }
  goingWith fun d =>
    ({ d with rt := { loaded := true, progs := [p], segs := [BitVec.ofNat 256 (2 ^ 20)] }, tens := [(0, { regions := [(0, 4096)] })] } : Dev).put Reg.MEM_CH_MAP_LO.IN_SERVICE (2 ^ 64 - 1)

theorem witness_RowStores :
    let d := routed.dev
    let i := { occ 1 0 0 0 8 with opd := 2#24 }
    let o := d.owner i 11 0
    let m := occ 1 127 0 0 1
    let j := routed.dev.put (Reg.WMK_CV0.JOINED 511) 1
    d.canIssue i.core = true ∧ d.unitFree 0 11 2 = true ∧ d.unitFree 0 5 0 = true ∧
    strKind (d.stream 0 0) = 0 ∧ strKind (d.stream 0 2) = 2 ∧ strBase (d.stream 0 2) / 2 ^ 48 = 511 ∧
    j.is (Reg.WMK_CV0.JOINED 511) = true ∧ j.get (Reg.WMK_CV2.PERIOD 511) = 0 ∧ kget 0 j.wmkIssued 511 = 0 ∧ j.is Reg.MIR_STATUS.ACTIVE = false ∧
    ((d.took o 2 1 8).streamAt o i i.opd).1.isSome = true ∧ d.watchOff = true ∧ opVbuf m.opa = 127 ∧ d.portOpen portBufRead 7 2 = true ∧
    d.streamFault 0 0 0 = none ∧ d.streamFault 2 0 0 = none ∧ d.rowReadable 0 0 0 = true ∧ strKind (d.stream 0 3) = 3 ∧
    (d.setSlotWord 0 0 1#32).slotFault (rowWord ((d.core 0).row 0 0) 0).toNat = none := by decide

theorem witness_Transfers :
    let d := routed.dev
    let i := occ 1 0 0 575 1
    let o := d.owner i 11 0
    d.canIssue i.core = true ∧ d.unitFree 0 11 2 = true ∧ ((d.took o 2 1 1).streamAt o i i.opa).1.isSome = true ∧ strKind (d.stream 0 0) ≠ 2 ∧
    d.watchOff = true ∧ d.rowReadable 0 0 0 = true ∧ opRow i.opd ≤ 575 ∧
    ((d.took o 2 1 1).rowServed 0 0 0 o).rowReadable 0 1 575 = true ∧
    (d.put (Reg.WMK_CV0.JOINED 511) 1).is (Reg.WMK_CV0.JOINED 511) = true ∧ kget 0 d.wmkIssued 511 = 0 ∧
    (d.run.tick : Int) + 12 * i.cnt + 512 ≤ (d.wmkDue 511 0 : Int) - d.get Reg.TIM_RUN_TICK.TICK + d.run.tick ∧
    (d.wmkDue 511 0 : Int) - d.get Reg.TIM_RUN_TICK.TICK + d.run.tick + 24 < segLength d.seg ∧
    d.streamFault 0 0 0 = none ∧ (d.setSlotWord 1023 0 1#32).slotFault 1023 = none := by decide

theorem witness_ArrivalsAndChecks :
    let x : Xfer := { owner := { core := 0, tag := 7 }, path := .memory, j := 0, bank := 7, row := 575, due := 5, addr := 0 }
    let t : Store := { owner := { core := 0, tag := 7 }, j := 0, due := 5, sink := .memory 0, data := 0#4096 }
    let s := goingWith fun _ => routed.dev.onRun fun r => { r with xfers := [x], stores := [t] }
    let d := s.dev
    d.run.xfers.find? (fun x => x.wants 0 7 575 1) = some x ∧ (d.halfData [] { x with path := .gather } 1 0#2048).isSome = true ∧ x.complete = false ∧
    ({ x with got0 := true, got1 := true } : Xfer).complete = true ∧ ({ t with acked := true } : Store).acked = true ∧ t.acked = false ∧
    (d.run.holds.any fun h => h.d == d.run.tick && h.why == .acks t.owner.core t.owner.tag) = false ∧
    x.relaxed = false ∧ d.is (Reg.CORE_STATUS.SCOREBOARD x.owner.core) = false ∧ d.run.eclipse = false ∧
    (d.run.holds.any fun h => h.d == d.run.tick && h.why == .rows x.owner.core x.owner.tag) = false ∧ d.ackable 0 7 0 = some t := by decide

theorem witness_MeshAndChain :
    let d := (goingWith fun d => { d with rt := { progs := [{ core := 0, descs := [], loops := [], streams := [], mesh := [0x3D#128], sb := 0#256 }] } }).dev
    let i := occ 0 575 0 0 1
    let e := d.meshEntry 0 0
    d.canIssue i.core = true ∧ d.unitFree 0 6 2 = true ∧ d.unitFree 0 7 2 = true ∧ d.watchOff = true ∧ d.rowReadable 0 0 575 = true ∧
    (d.members (meshCols e) (meshRows e)).head? ≠ some 0 := by decide

theorem witness_SlipOverrun :
    going.dev.inSegment = true ∧ going.dev.held = false ∧ crossing 3 1 ≠ none ∧ crossing 0 1 = none ∧
    (going.dev.put Reg.MSH_EVENT.OVERRUN 1).is Reg.MSH_EVENT.OVERRUN = true ∧ going.dev.is Reg.MSH_EVENT.OVERRUN = false ∧ idling.dev.inSegment = false ∧
    (goingWith fun d => d.onRun fun r => { r with eclipse := true }).dev.held = true := by decide

/-- A waiter of Beacon 16383. -/
def waiter (take : Bool) (target : BitVec 32) : HWait :=
  { n := 31, ten := 0, bcn := 16383, take := take, target := target, wd := false, vector := 0, tag := 0, waited := 0 }

/-- Beacon 16383 at a value. -/
def beaconAt (v : BitVec 32) : Dev := { going.dev with beacons := [(16383, v)] }

theorem witness_BeaconSignals :
    let d := beaconAt 0x80000000#32
    let i := occ 0 16383 0 0 1
    going.dev.canIssue i.core = true ∧ going.dev.unitFree 0 8 2 = true ∧
    (waiter false 0#32).take = false ∧ reached (d.beacon 16383) 0#32 = false ∧ reached (d.beacon 16383) 1#32 = true ∧
    (waiter true 0#32).take = true ∧ going.dev.beacon 16383 = 0#32 ∧ d.beacon 16383 ≠ 0#32 := by decide

/-- A message of core 0 to core 255, bank 7, row 575. -/
def message : Msg :=
  { sender := 0, dest := 255 * 8192 + 7 * 1024 + 575, tag := 0xFFFFFF, len := 64, reply := false, payload := 1#512, ten := 0, receipt := false }

/-- A core with a message to send, and one with a message to take. -/
def sending (granted : Nat) (m : Msg) (ready : Nat) : Dev :=
  { going.dev with cores := [(0, { outbound := [{ m with ready := ready }] }), (255, { inRoute := [m] })],
                   rt := { credits := [BitVec.ofNat 32 (255 * 256 + granted * 65536)] } }

theorem witness_SignalNetwork :
    let d := going.dev
    let full := d.onCore 0 fun k => { k with outbound := List.replicate 32 message }
    let toMgmt := { message with dest := 2 ^ 21 }
    d.canIssue 0#8 = true ∧ d.unitFree 0 8 2 = true ∧ d.watchOff = true ∧ d.rowReadable 0 0 0 = true ∧
    (d.core 0).outbound.length < 32 ∧ 32 ≤ (full.core 0).outbound.length ∧ full.rowReadable 0 0 0 = true ∧ (d.core 0).outbound = [] ∧
    ((sending 1 message 0).core 0).outbound = [message] ∧ creditDest message.dest = 255 ∧ bitsOf message.dest 21 3 = 0 ∧
    bitsOf toMgmt.dest 21 3 ≠ 0 ∧ message.ready ≤ (sending 1 message 0).run.cont ∧ (sending 1 message 0).creditsUsed 0 255 < (sending 1 message 0).granted 0 255 ∧
    (sending 0 message 0).granted 0 255 ≤ (sending 0 message 0).creditsUsed 0 255 ∧ (sending 1 message 1).run.cont < 1 := by decide

theorem witness_MessageDelivery :
    let d := (sending 1 message 0).onRun fun r => { r with issued := true }
    let u := d.onRun fun r => { r with ports := List.replicate 2 { tick := 5, port := portCode portWrite 2047, owner := noOwner } }
    let h := d.onCore 255 fun k => { k with inRoute := [], inHost := [{ message with sender := 0xFE }] }
    let r := d.onCore 255 fun k => { k with inRoute := [], inReply := [{ message with reply := true }] }
    d.nextDelivery 255 .route = some message ∧ u.nextDelivery 255 .route = none ∧ (h.nextDelivery 255 .host).isSome = true ∧
    (r.nextDelivery 255 .reply).isSome = true ∧ message.receipt = false ∧ message.bcn = none ∧ bitsOf message.dest 13 8 = 255 ∧
    rowKey 0 0 ≠ rowKey 7 575 ∧ (d.core 255).cells 0 0 ≠ (d.core 255).cells 7 575 ∧
    u.requestsAt 255 7 ≠ 0 ∧ u.requestsAt 255 6 = 0 ∧ message.len ≤ 64 ∧ message.len ≠ 0 ∧ message.tag < 2 ^ 24 ∧ message.sender < 256 := by
  decide

/-- A record that waits in tenancy 15's ring, whose producer index stands at `prod`. -/
def ringing (prod : Nat) (payload : List Byte) : Dev :=
  (({ idling.dev with ringQueue := [{ ten := 15, kind := 0, head := 0, sender := 0xFF, payload := payload, reply := false, credit := none }] } : Dev).put
    (Reg.SES_RING_CFG.ENABLE 15) 1).put (Reg.SES_RING_PROD.INDEX 15) prod

theorem witness_HostRings :
    let a := ringing 0 [0#8]
    let b := (ringing 4080 [0#8]).put (Reg.SES_RING_CONS.INDEX 15) 4064
    let c : Dev := { a with ringQueue := a.ringQueue.map fun r => { r with bcn := some 5, credit := some 3 } }
    a.is (Reg.SES_RING_CFG.ENABLE 15) = true ∧ a.linkUp = true ∧ (a.nextRecord 15).isSome = true ∧ ((a.nextRecord 15).bind RingRec.bcn) = none ∧
    a.get (Reg.SES_RING_PROD.INDEX 15) = a.get (Reg.SES_RING_CONS.INDEX 15) ∧
    ((c.nextRecord 15).bind RingRec.bcn) = some 5 ∧ ((c.nextRecord 15).bind RingRec.credit) = some 3 ∧
    (b.nextRecord 15).isSome = true ∧ b.get (Reg.SES_RING_PROD.INDEX 15) ≠ b.get (Reg.SES_RING_CONS.INDEX 15) ∧
    idling.dev.nextRecord 15 = none := by decide

theorem witness_CombiningEntries :
    let m : Msg := { message with sender := 0xFE, dest := 0x1FFEFF, len := 4 }
    let big : Msg := { m with len := 16, payload := BitVec.ofNat 512 (2 ^ 126) }
    let s (c : Comb) : Dev := { idling.dev with mgmtQueue := [m], comb := [(255, c)] }
    let find (d : Dev) := d.mgmtQueue.find? fun m => bitsOf m.dest 0 21 == 0x1FFE00 + 255
    let one : Comb := { valid := true, fmt := 0xB, elems := 1, expect := 1 }
    find idling.dev = none ∧ find (s one) = some m ∧ m.receipt = false ∧ (kget {} (s {}).comb 255).valid = false ∧
    (kget {} (s one).comb 255).valid = true ∧ m.len = one.elems * combElem one.fmt ∧ m.len ≠ 2 * combElem one.fmt ∧
    one.expect ≤ (one.got ++ [m.payload]).length ∧ (one.got ++ [m.payload]).length < 2 ∧ one.target ≠ 1 ∧ message.sender ≠ 0xFE ∧
    exactInRange (2 ^ 126 + 2 ^ 126) = false ∧ (combSum 0xD 1 [big.payload, big.payload]).2 = true ∧ (combSum 0xD 1 [big.payload]).2 = false := by
  decide

theorem witness_ControlDescriptors :
    let d := going.dev
    let m := { d with mir := { secondary := true } }.put Reg.MIR_STATUS.ACTIVE 1
    d.canIssue 0#8 = true ∧ d.unitFree 0 9 2 = true ∧ (d.is Reg.MIR_STATUS.ACTIVE && d.mir.secondary) = false ∧
    (m.is Reg.MIR_STATUS.ACTIVE && m.mir.secondary) = true ∧ m.peerBytes 7 0 = none ∧
    (d.onRun fun r => { r with ppoints := [noOwner] }).quietAt 5 = true ∧
    (d.onRun fun r => { r with ppoints := [noOwner], contribs := [{ opd := 0, j := 0, land := 6, source := 0, fmt := 0, entry := 0, data := 0 }] }).quietAt 5 = false ∧
    ({ m with mir := { m.mir with variance := [(7, 0, [1#8])] } }.peerBytes 7 0).isSome = true ∧
    d.run.freezeMark ≠ some 0#32 ∧ (d.onRun fun r => { r with freezeMark := some 0#32 }).run.freezeMark = some 0#32 := by decide

theorem witness_RowLandings :
    going.dev.watchOff = true ∧ going.dev.portOpen portWrite 2047 2 = true ∧ rowKey 7 574 ≠ rowKey 7 575 ∧
    (going.dev.core 255).cells 7 574 ≠ (going.dev.core 255).cells 7 575 := by decide

/-- A fork of core 255 that resolves at tick 5 on bank 7, row 575. -/
def forked (exit : Bool) (r : Nat) : State :=
  let f : Fork := { owner := {}, r := r, exit := exit, opa := 7 * 1024 + 575, cmp := 3, word := 127, imm := 0, row := 0, count := 1, banks := 0,
                    pFirst := 0, pCount := 0, qFirst := 0, qCount := 0 }
  goingWith fun d => { d with cores := [(255, { fork := some f })] }

theorem witness_Forks :
    let w := (forked false 5).dev
    (going.dev.core 255).fork = none ∧ (w.core 255).fork.isSome = true ∧ w.run.tick = 5 ∧ (forked false 6).dev.run.tick ≠ 6 ∧ w.watchOff = true ∧
    (w.core 255).specFaults = [] ∧ w.running = true ∧
    ((w.onCore 255 fun k => { k with specFaults := [(noOwner, 0x0201)] }).core 255).specFaults ≠ [] ∧ w.rowReadable 255 7 575 = true ∧ forkCompare 3 0 0 = true ∧ forkCompare 3 0 1 = false ∧
    ((forked true 5).dev.core 255).fork.any (·.exit) = true ∧ going.dev.canIssue 0#8 = true ∧ going.dev.unitFree 0 9 2 = true := by decide

theorem witness_FaultRecord :
    let h := going.dev.put Reg.RTE_FAULT_CODE.VALID 1
    going.dev.running = true ∧ going.dev.run.stopping = none ∧ going.dev.is Reg.RTE_FAULT_CODE.VALID = false ∧
    h.running = true ∧ h.run.stopping = none ∧ h.is Reg.RTE_FAULT_CODE.VALID = true ∧
    (going.dev.run.undo.filter fun u => u.owner.same { core := 255, lane := 3, tag := 2 ^ 24 - 1 }) = [] := by decide

theorem witness_Eclipses :
    let h (x : Nat) : Hold := { d := 0, h := x, cause := 6, why := .slip }
    let due (x : Nat) := (goingWith fun d => d.onRun fun r => { r with holds := [h x] }).dev
    let e := (((going.dev.onRun fun r => { r with eclipse := true, eclipseHolds := [h 6] }).put Reg.TIM_MILESTONE.COUNT 10000001))
    let seg (d : Dev) : Dev := { d with rt := { loaded := true, segs := [BitVec.ofNat 256 100] } }
    (seg (due 6)).run.holds.filter (fun x => decide (x.h ≤ (seg (due 6)).holdTick)) ≠ [] ∧ (seg (due 6)).segmentOver = false ∧
    (seg (due 7)).run.holds.filter (fun x => decide (x.h ≤ (seg (due 7)).holdTick)) = [] ∧
    ({ due 6 with xlatFail := [(0, 0, false, false)] } : Dev).xlatFail ≠ [] ∧ (e.onRun fun r => { r with aborted := true }).run.aborted = true ∧ (due 6).inSegment = true ∧ (due 6).run.eclipse = false ∧
    (due 6).xlatFail = [] ∧ e.eclipseClear = true ∧ e.run.aborted = false ∧ e.watchdogDue = true ∧ (due 6).eclipseClear = false ∧
    (due 6).watchdogDue = false ∧ e.sbSegment = false ∧
    (going.dev.inSegment && !going.dev.run.eclipse && !going.dev.run.frozen && going.dev.run.freezeAt.any (fun t => decide (t ≤ 6))) = false ∧
    (let f := going.dev.onRun fun r => { r with freezeAt := some 6 }
     f.inSegment && !f.run.eclipse && !f.run.frozen && f.run.freezeAt.any (fun t => decide (t ≤ 6))) = true := by decide

/-- A Route of one segment of 6 ticks with a successor rule, at tick 5. -/
def lastTick (succ idx : Nat) : Dev :=
  { going.dev with rt := { loaded := true, segs := [BitVec.ofNat 256 (6 + succ * 2 ^ 45 + idx * 2 ^ 47)] } }

theorem witness_Boundaries :
    let d := lastTick 0 0
    let p := d.onRun fun r => { r with preempt := true }
    let n := d.get Reg.RTE_STATUS.SEGMENT
    let gate (free : Bool) : Dev := { d.onRun (fun r => { r with phase := .gate }) with
      gate := some { bcn := 0, take := false, target := 0, seg := 0, waited := 0, released := free } }
    let armed (at_ : Nat) : Dev := { (d.onRun fun r => { r with phase := .relaunch }).put Reg.TIM_STATUS.LAUNCH_ARMED 1 with
      tim := { armedAt := at_ } }
    d.inSegment = true ∧ d.held = false ∧ d.segmentOver = true ∧ d.run.stopping = none ∧ d.sbSegment = false ∧
    (d.onRun fun r => { r with tick := 4 }).segmentOver = false ∧ d.rt.rewrites = [] ∧ d.applyWatchpost.mirDisarm.preemptPending = false ∧
    p.applyWatchpost.mirDisarm.preemptPending = true ∧ segSucc (lastTick 2 0).seg = 2 ∧ segSucc (lastTick 1 0).seg = 1 ∧ d.run.repeatsLeft = 0 ∧
    ((lastTick 1 0).onRun fun r => { r with repeatsLeft := 1 }).run.repeatsLeft ≠ 0 ∧ segSucc d.seg ≠ 2 ∧ segSuccIdx (lastTick 0 1).seg ≠ n ∧
    segGate d.seg = 0 ∧ d.is Reg.TIM_STATUS.LAUNCH_ARMED = false ∧ (gate false).gate.any (·.released) = false ∧
    (gate true).gate.any (·.released) = true ∧ ((gate true).wakeUp .gateReady).run.phase = .gate ∧ ((gate true).wakeUp .gateReady).gate = (gate true).gate ∧
    (armed 0).run.phase = .relaunch ∧ (armed 0).is Reg.TIM_STATUS.LAUNCH_ARMED = true ∧ (armed 0).tim.armedAt ≤ (armed 0).now ∧
    (armed 1).now < (armed 1).tim.armedAt ∧ segGate (armed 1).seg = 0 ∧ segGate (BitVec.ofNat 256 (6 + 2 ^ 88)) ≠ 0 ∧ (gate true).atPreemptPoint = true ∧ p.preemptPending = true ∧ d.preemptPending = false := by decide

/-- An image of one segment and one placement without cores, at address 0 of device memory. -/
def imageBytes : Memory :=
  [(0, 0x52#8), (1, 0x4F#8), (2, 0x55#8), (3, 0x54#8), (4, 1#8), (6, 1#8), (11, 1#8), (12, 1#8), (24, 160#8), (28, 64#8), (32, 96#8),
   (69, 0x44#8), (99, 6#8)]

theorem witness_RouteCommands :
    let d := idling.dev
    let quietLoad : Dev := { loading with load := none }
    let other : Dev := { quietLoad with tens := [(0, { regions := [(0, 4096)], enable := true })], resident := none }
    let hot := loading.put Reg.RTE_STATUS.SUSPENDED 1
    let check (m : Memory) := loading.loadCheck (fun off n => loading.readMem m (0 + off) n) 160 0
    let ready : Dev := { d with resident := some 0, rt := { loaded := true } }
    let filling : Dev := ready.put Reg.CRN_STATUS.REPEAT_ARMED 1
    d.cmdTenancy 0 15 = some 15 ∧ d.cmdTenancy 1 0 = none ∧ d.acting 0 = some 0 ∧ d.acting 1 = none ∧ loading.inSpace 0 0 160 = true ∧
    loading.inSpace 0 0 4097 = false ∧ quietLoad.running = false ∧ quietLoad.is Reg.RTE_STATUS.SUSPENDED = false ∧ quietLoad.load = none ∧
    quietLoad.is Reg.PWR_STATE.THERMAL_HOLD = false ∧ quietLoad.resident = some 0 ∧ other.resident ≠ some 0 ∧ (kget {} other.tens 0).enable = true ∧
    loading.load.isSome = true ∧ loading.running = false ∧ hot.is Reg.RTE_STATUS.SUSPENDED = true ∧ (check []).isLeft = true ∧
    (check imageBytes).isRight = true ∧ ready.run.startWait = false ∧ ready.rt.loaded = true ∧ ready.rt.tenancy = 0 ∧ ready.startBarred = false ∧
    ready.run.resume = .none ∧ (ready.onRun fun r => { r with resume := .atTick }).run.resume = .atTick ∧
    (ready.put Reg.TIM_STATUS.LAUNCH_ARMED 1).is Reg.TIM_STATUS.LAUNCH_ARMED = true ∧ (ready.put Reg.MIR_CTL.ENABLE 1).is Reg.MIR_CTL.ENABLE = true ∧
    ready.is Reg.MIR_STATUS.ARMED = false ∧ (ready.onRun fun r => { r with startWait := true }).run.startWait = true ∧
    (going.dev.onRun fun r => { r with phase := .gate }).inSegment = false ∧ (going.dev.onRun fun r => { r with phase := .gate }).running = true ∧
    filling.startBarred = true ∧ ready.is Reg.TIM_STATUS.LAUNCH_ARMED = false ∧ ready.is Reg.MIR_CTL.ENABLE = false ∧ ready.rt.rewrites = [] ∧
    d.mayStop 0 = true ∧ d.mayStop 1 = false ∧ going.dev.inSegment = true ∧ going.dev.running = true := by decide

theorem witness_Launches :
    let p : Prog := { core := 255, descs := [], loops := [], streams := List.replicate 64 0#128, mesh := [], sb := 0#256 }
    let w := fused (({ going.dev with rt := { loaded := true, progs := [p] } } : Dev).put Reg.PWR_DOMAIN_ON.PD (2 ^ 24 - 1))
    let d := idling.dev
    let armed (at_ : Nat) : Dev := ({ d with rt := { loaded := true }, tim := { armedAt := at_ } } : Dev).put Reg.TIM_STATUS.LAUNCH_ARMED 1
    w.acting 0 = some 0 ∧ w.acting 15 = none ∧ w.windowOn 255 = true ∧ (w.shownStream 255 63).isSome = true ∧ w.running = true ∧ d.running = false ∧
    d.windowOn 255 = false ∧ d.resident ≠ some 1 ∧ d.now + 100000 ≤ 100000 ∧ 99999 < d.now + 100000 ∧ d.anyConvoy = false ∧ d.startBarred = false ∧
    (armed 0).running = false ∧ (armed 0).is Reg.TIM_STATUS.LAUNCH_ARMED = true ∧ (armed 0).tim.armedAt ≤ (armed 0).now ∧
    (armed 1).now < (armed 1).tim.armedAt ∧ (armed 0).rt.loaded = true ∧ (armed 0).startBarred = false ∧
    (armed 0).get Reg.PWR_STATE.STATE ≤ 1 ∧ (armed 0).rt.rewrites = [] ∧ d.rt.loaded = false ∧
    ((armed 0).put Reg.CRN_STATUS.REPEAT_ARMED 1).startBarred = true ∧ 1 < ((armed 0).put Reg.PWR_STATE.STATE 2).get Reg.PWR_STATE.STATE ∧
    w.rt.tenancy ≠ 15 := by decide

theorem witness_MirrorExchange :
    let on := going.dev.put Reg.WMK_CTL.WAYMARK_EN 1
    let act := ({ on with mir := { secondary := true } } : Dev).put Reg.MIR_STATUS.ACTIVE 1
    let arm : Dev := { idling.dev with mir := { arming := some 0 } }
    let late := arm.put Reg.TIM_MILESTONE.COUNT 10000000
    let ends := ({ going.dev with mir := { k := 0 } } : Dev).put Reg.MIR_STATUS.ACTIVE 1
    let f : Frame := { convoy := 511#9, src := 1#15, block := 0#16, num := 3#64, resend := true, echo := false, ce := false, intact := true,
                       stamp := 0#64, port := 0#3 }
    let had : Dev := { on with mir := { got := [3] } }
    f.resend = true ∧ f.intact = true ∧ { f with intact := false }.intact = false ∧ f.num.toNat ∈ had.mir.got ∧ f.num.toNat ∉ act.mir.got ∧
    had.is Reg.WMK_CTL.WAYMARK_EN = true ∧ act.is Reg.WMK_CTL.WAYMARK_EN = true ∧
    going.dev.is Reg.WMK_CTL.WAYMARK_EN = false ∧ on.is Reg.WMK_CTL.WAYMARK_EN = true ∧ act.is Reg.MIR_STATUS.ACTIVE = true ∧ act.mir.secondary = true ∧
    act.run.xfers = [] ∧ act.running = true ∧ on.is Reg.MIR_STATUS.ACTIVE = false ∧ act.mir.arming = none ∧ arm.mir.arming.isSome = true ∧ arm.run.startWait = false ∧
    (arm.put Reg.MIR_STATUS.PEER_UP 1).armReason { measure := 1, dsig := 0, latid := 0, placement := 0, role := 0, coreMap := 0 } = some 1 ∧
    arm.armLate = false ∧ late.armLate = true ∧ going.dev.intervalDue = false ∧ ends.intervalDue = true ∧ ends.mir.peer = [] := by decide

/-- A machine that a held Eclipse keeps at rest. -/
def resting (d : Dev) : Dev := d.onRun fun r => { r with eclipse := true }

/-- An idle machine with every unit of the fuses of reset, and its core 255 in a stage of its life. -/
def withCore (k : CoreSt) : Dev := { fused idling.dev with cores := [(255, k)] }

theorem witness_CoreLife :
    let d := withCore {}
    d.acting 0 = some 0 ∧ d.acting 15 ≠ some 0 ∧ (15#4 ≠ 0) ∧ d.coreFused 255 = true ∧ idling.dev.coreFused 255 = false ∧ (d.core 255).life = 0 ∧
    ((withCore { life := 2 }).core 255).life ≠ 0 ∧ ((withCore { life := 1 }).core 255).life < 2 ∧ 2 ≤ ((withCore { life := 2 }).core 255).life ∧ d.is Reg.RTE_CORE_STAT.BUSY = false ∧
    d.is (Reg.CORE_STATUS.PLACED 255) = false ∧ ((withCore { life := 4 }).core 255).life = 4 ∧
    ((withCore { life := 4 }).onRun fun r => { r with phase := .segment }).running = true ∧
    ((d.cores.find? fun x => x.2.life == 3).isNone) = true ∧ (((withCore { life := 3 }).cores.find? fun x => x.2.life == 3).isSome) = true ∧
    8191 % 1024 ≥ 576 ∧ 575 % 1024 < 576 ∧ ((withCore {}).core 255).freeSpare 7 = some 0 ∧
    ((withCore { spareBad := (List.range 8).map fun k => (56 + k, true) }).core 255).freeSpare 7 = none := by decide

theorem witness_ScratchTests :
    let t (step : Nat) (ok : Bool) : RowTest := { bank := 7, row := 575, step := step, ok := ok, notBefore := 0 }
    let due := (withCore { testQueue := [575], testDue := 0 }).put (Reg.GLB_CORE_MAP.IN_SERVICE 3) (2 ^ 64 - 1)
    let walk := (withCore { testDue := 0 }).put (Reg.GLB_CORE_MAP.IN_SERVICE 3) (2 ^ 64 - 1)
    let spent : CoreSt := { test := some (t 6 false), spareBad := (List.range 8).map fun k => (56 + k, true) }
    idling.dev.testDue 255 = false ∧ due.testDue 255 = true ∧ walk.testDue 255 = true ∧ ((withCore {}).core 255).test = none ∧
    (t 7 true).step = 7 ∧ (withCore { test := some (t 1 true) }).run.cont ≥ (t 1 true).notBefore ∧ (withCore {}).get Reg.PWR_STATE.STATE ≤ 1 ∧
    ({ test := some (t 6 true) } : CoreSt).outOfSpares = false ∧ spent.outOfSpares = true ∧ (t 6 true).row < 576 ∧
    (withCore {}).portFree 255 7 true [4, 0] = true ∧ (resting (withCore {})).portFree 255 7 true [4, 0] = false ∧ (t 1 true).step = 1 := by decide

theorem witness_HostWindow :
    let d := fused ((idling.dev.put Reg.SEC_STATUS.FEATURES 4).put Reg.PWR_DOMAIN_ON.PD (2 ^ 24 - 1))
    let w (h : Bool × Nat) : Dev := { d with hdw := some h }
    let busy := resting (w (true, 575))
    d.acting 0 = some 0 ∧ d.acting 15 ≠ some 0 ∧ bitOf (d.get Reg.SEC_STATUS.FEATURES) 2 = true ∧ d.is Reg.DBG_HDW_STATUS.BUSY = false ∧ d.rowThere 575 = true ∧
    d.rowThere 576 = false ∧ bitOf (idling.dev.get Reg.SEC_STATUS.FEATURES) 2 = false ∧ d.hdw = none ∧ d.phRow = none ∧
    (w (true, 2097151)).hdw = some (true, 2097151) ∧ 2097151 / 1024 = 255 * 8 + 7 ∧ (w (true, 575)).portFree 0 0 true [2, 0] = true ∧
    busy.portFree 0 0 true [2, 0] = false ∧ { d with phRow := some 575 }.portFree 0 0 false [3, 0] = true ∧
    ({ busy with hdw := none, phRow := some 575 } : Dev).portFree 0 0 false [3, 0] = false ∧
    kget false ((d.core 0).meetErr 575 .none).bad 575 = false ∧ kget false ((d.core 0).meetErr 575 .uncorrectable).bad 575 = true ∧
    kget false ((d.core 0).meetErr 575 .uncorrectable).emptyRow 575 = false := by decide

theorem witness_MemoryChannels :
    let d := fused idling.dev
    let es := (List.range 32).filterMap d.imapWritten
    let at_ (st : Nat) := d.put (Reg.MEM_CH_STAT.STATE 95) st
    d.acting 0 = some 0 ∧ going.dev.running = true ∧ d.running = false ∧ d.load = none ∧ d.crn.step = none ∧ d.digestJob = none ∧ es.all Imap.ok = true ∧
    imapsApart es = true ∧ d.chFused 95 = true ∧ d.chFused 96 = false ∧ (at_ 0).get (Reg.MEM_CH_STAT.STATE 95) = 0 ∧
    (at_ 1).get (Reg.MEM_CH_STAT.STATE 95) ≠ 0 ∧ (at_ 1).chRetire.contains 95 = false ∧ (at_ 3).get (Reg.MEM_CH_STAT.STATE 95) = 3 ∧
    (at_ 2).get (Reg.MEM_CH_STAT.STATE 95) = 2 ∧ physAddr 0 < 2 ^ 33 ∧ ({ d with chRetire := [95] } : Dev).chRetire.contains 95 = true ∧
    (d.put Reg.MEM_CH_MAP_HI.IN_SERVICE (2 ^ 32 - 1)).chMapped 95 = true ∧ idling.dev.chServes 95 = false ∧
    (d.put Reg.MEM_CH_MAP_HI.IN_SERVICE (2 ^ 32 - 1)).chServes 95 = true := by decide

/-- A step that copies the region at 0 to 2 MiB. -/
def copying : Dev :=
  let x : StepOpen := { ten := 0, addrs := [0], complete := false, copied := 0, done := none }
  ({ loading with crn := { step := some x } } : Dev).put Reg.CRN_STATUS.COPYING 1

theorem witness_MemoryChecks :
    let d := loading
    let job : Dev := { d with digestJob := some (0, 2097152) }
    let waits : Dev := { d with refresh := [(95, { count := 160, waiting := [(15, 0)] })] }
    d.acting 0 = some 0 ∧ d.digestJob = none ∧ job.digestJob = some (0, 2097152) ∧ d.allServed 0 256 = true ∧ idling.dev.allServed 0 256 = false ∧
    d.anyBad [] 0 256 = false ∧ ({ d with badBlk := [(0, true)] } : Dev).anyBad [] 0 256 = true ∧ d.addrOf 0 0 = some 0 ∧ d.addrOf 96 0 = none ∧
    d.chServes 0 = true ∧ bitsOf (d.get Reg.MEM_DERATE.MULT) 22 2 = 0 ∧ bitsOf ((d.put Reg.MEM_DERATE.MULT (2 ^ 24 - 1)).get Reg.MEM_DERATE.MULT) 22 2 = 3 ∧
    (kget {} d.refresh 95).waiting = [] ∧ (kget {} d.refresh 95).atDeadline 15 = none ∧ (kget {} waits.refresh 95).atDeadline 15 = some (15, 0) ∧
    kget 0 d.mr4Missed 11 = 0 ∧ kget 0 ({ d with mr4Missed := [(11, 1)] } : Dev).mr4Missed 11 = 1 ∧ d.crn.step = none ∧
    copying.crn.step.isSome = true ∧ copying.is Reg.CRN_STATUS.COPYING = true ∧ copying.writeHeld 256 = true ∧ d.writeHeld 256 = false ∧
    (copying.crn.step.all fun x => (copying.copyFails [] x 2).isNone) = true := by decide

/-- The whole of a copy of one region fails at no block of an empty memory without bad blocks. -/
theorem witness_copyWhole (d : Dev) (x : StepOpen) (n : Nat) (h : ∀ a, d.isBad [] a = false) : d.copyFails [] x n = none := by
  simp [Dev.copyFails, h]

/-- An idle machine with a power state of its own. -/
def powered (p : PwrSt) (fs : List (Fld × Nat)) : Dev := fs.foldl (fun d x => d.put x.1 x.2) { idling.dev with pwr := p }

theorem witness_Stretches :
    let d := powered {} [(Reg.CLK_STRETCH_CTL.WARN, 8)]
    let shadow := (powered { wins := [(20, [1])] } []).onRun fun r => { r with cont := 48 }
    let high := (powered { wins := [(20, List.range 4096)] } [(Reg.CLK_STRETCH_CTL.HIGH_PCT, 0)]).onRun fun r => { r with cont := 15 }
    d.get Reg.CLK_STRETCH_CTL.WARN = 8 ∧ 7 < d.get Reg.CLK_STRETCH_CTL.WARN ∧ d.get Reg.PWR_STATE.STATE < 2 ∧ d.running = false ∧
    idling.dev.shadowDue = false ∧ shadow.shadowDue = true ∧ 2 ≤ shadow.window ∧ idling.dev.stretchHighDue 20 = false ∧
    high.stretchHighDue 20 = true ∧ going.dev.running = true ∧ (powered {} [(Reg.CLK_STRETCH_CTL.WARN, 0)]).get Reg.CLK_STRETCH_CTL.WARN = 0 ∧
    2 ≤ (powered {} [(Reg.PWR_STATE.STATE, 2)]).get Reg.PWR_STATE.STATE := by decide

theorem witness_OperatingPoints :
    let d := powered {} [(Reg.CLK_OPP.TARGET, 4), (Reg.CLK_OPP_AT.AT, 0)]
    let fast := powered {} [(Reg.CLK_OPP.TARGET, 0), (Reg.CLK_OPP_AT.AT, 249999)]
    let due := powered { opp := some (4, 0), oppTick := some 0 } []
    d.acting 0 = some 0 ∧ d.acting 1 ≠ some 0 ∧ idling.dev.get Reg.CLK_OPP_AT.AT = 2 ^ 64 - 1 ∧ d.oppRefused 0 = false ∧ fast.oppRefused 249999 = true ∧
    fast.oppRefused 250000 = false ∧ d.rt.loaded = false ∧ d.is Reg.PWR_STATE.THERMAL_HOLD = false ∧ idling.dev.oppDue = false ∧ due.oppDue = true ∧
    due.pwr.opp = some (4, 0) := by decide

theorem witness_ThermalLimits :
    let up := powered { hotSince := some 0 } [(Reg.TIM_MILESTONE.COUNT, 100000)]
    let limit := (powered { fullSince := some 0 } [(Reg.TIM_MILESTONE.COUNT, 10000000), (Reg.CLK_THROTTLE.LEVEL, 7), (Reg.PWR_MODULE_W.WATTS, 2047)])
    let trip : Dev := { idling.dev with dieTemp := [(20, 110)] }
    let held := powered {} [(Reg.PWR_STATE.THERMAL_HOLD, 1)]
    idling.dev.booted = true ∧ State.reset.dev.booted = false ∧ up.throttleStep = some 1 ∧ idling.dev.throttleStep = none ∧
    (powered { coolSince := some 0 } [(Reg.TIM_MILESTONE.COUNT, 1000000), (Reg.CLK_THROTTLE.LEVEL, 7)]).throttleStep = some 6 ∧
    limit.powerLimitDue = true ∧ idling.dev.powerLimitDue = false ∧ trip.tripDue = true ∧ idling.dev.tripDue = false ∧
    held.stateDue = some 4 ∧ held.is Reg.PWR_STATE.THERMAL_HOLD = true := by decide

theorem witness_PowerStates :
    let held := powered {} [(Reg.PWR_STATE.THERMAL_HOLD, 1)]
    let deep (n : Nat) := powered {} [(Reg.PWR_STATE.STATE, n)]
    let rest := powered { idleSince := some 0 } [(Reg.TIM_MILESTONE.COUNT, 10000)]
    let armed := powered {} [(Reg.TIM_STATUS.LAUNCH_ARMED, 1)]
    let near : Dev := { armed.put Reg.PWR_STATE.STATE 5 with tim := { armedAt := 0 } }
    held.stateDue = some 4 ∧ idling.dev.stateDue = none ∧ idling.dev.mod.fw = true ∧ State.reset.dev.mod.fw = false ∧
    armed.is Reg.TIM_STATUS.LAUNCH_ARMED = true ∧ held.is Reg.PWR_STATE.THERMAL_HOLD = true ∧
    ({ held with dieTemp := [(0, 150)] } : Dev).coolEnough = false ∧ (deep 5).is Reg.PWR_STATE.THERMAL_HOLD = false ∧ (deep 5).get Reg.PWR_STATE.STATE = 5 ∧
    (deep 2).get Reg.PWR_STATE.STATE = 2 ∧ rest.stateDue.isSome = true ∧ rest.is Reg.PWR_STATE.THERMAL_HOLD = false ∧ idling.dev.acting 0 = some 0 ∧
    (held.put Reg.PWR_STATE.STATE 4).coolEnough = true ∧ (held.put Reg.PWR_STATE.STATE 4).get Reg.PWR_STATE.STATE = 4 ∧
    held.get Reg.PWR_STATE.STATE ≠ 4 ∧ near.deepest < near.get Reg.PWR_STATE.STATE ∧ (deep 0).get Reg.PWR_STATE.STATE ≤ (deep 0).deepest ∧
    idling.dev.gate.any (·.released) = false ∧ ({ idling.dev with gate := some { bcn := 0, take := false, target := 0#32, seg := 0, waited := 0, released := true } } : Dev).gate.any (·.released) = true ∧
    idling.dev.is Reg.TIM_STATUS.LAUNCH_ARMED = false ∧ idling.dev.acting 1 = none ∧ ({ idling.dev with tens := [(15, { enable := true, port := 1 })] } : Dev).acting 1 = some 15 := by decide

theorem witness_MilestoneTime :
    let on := powered {} [(Reg.TIM_CFG.SOURCE, 1)]
    let pps := powered {} [(Reg.TIM_CFG.SOURCE, 3)]
    let locked := on.put Reg.TIM_STATUS.LOCKED 1
    let second := powered {} [(Reg.TIM_CFG.PPS_OUT, 1), (Reg.TIM_MILESTONE.COUNT, 1000000000)]
    idling.dev.get Reg.TIM_CFG.SOURCE = 0 ∧ on.mod.fw = true ∧ on.get Reg.TIM_CFG.SOURCE = 1 ∧ on.get Reg.TIM_CFG.DOMAIN = (0#8).toNat ∧
    on.is Reg.TIM_STATUS.LOCKED = false ∧ ((50 : Int).natAbs : Int) ≤ on.get Reg.TIM_CFG.SYNC_LIMIT ∧ locked.is Reg.TIM_STATUS.LOCKED = true ∧
    locked.running = false ∧ ¬ 100 < 100 ∧ pps.get Reg.TIM_CFG.SOURCE = 3 ∧ (-1000000 : Int).natAbs ≤ 1000000 ∧ second.ppsDue = true ∧
    idling.dev.ppsDue = false ∧ locked.get Reg.TIM_CFG.SYNC_LIMIT < ((-2000000000 : Int).natAbs) ∧ locked.tim.above < 2 ∧
    2 ≤ ({ locked with tim := { above := 2 } } : Dev).tim.above ∧ idling.dev.maySet = true ∧ (locked.running && locked.routeJoined) = false ∧
    idling.dev.is Reg.TIM_STATUS.LOCKED = false := by decide

/-- A machine whose core 0 may open a step on region 2 MiB (shadowed), the list at address 0; its memory holds the list. -/
def stepping (k : CairnSt) : State :=
  let p : Prog := { core := 0, descs := [], loops := [], streams := [0#128], mesh := [], sb := 0#256 }
  let d : Dev := { going.dev with crn := k, rt := { loaded := true, progs := [p] }, tens := [(0, { regions := [(0, 4194304)] })], imap := [{ shadow := 1 }] }
  { going with dev := (d.put Reg.MEM_CH_MAP_LO.IN_SERVICE (2 ^ 64 - 1)).put Reg.MEM_CH_MAP_HI.IN_SERVICE (2 ^ 32 - 1), dram := [(0, 1#8), (10, 0x20#8)] }

theorem witness_Steps :
    let s := stepping {}
    let d := s.dev
    let x : StepOpen := { ten := 0, addrs := [0], done := none }
    let i := occ 0 (3 * 2 ^ 21) 0 0 0
    d.canIssue i.core = true ∧ d.unitFree 0 9 2 = true ∧ idling.dev.canIssue 0#8 = false ∧ d.crn.step = none ∧ d.stepList s.dram i = [2097152] ∧
    d.listOk 0 [2097152] = true ∧ d.stepList [] i = [] ∧ d.listOk 0 [1] = false ∧ (stepping { step := some x }).dev.crn.step.isSome = true ∧
    d.is Reg.CRN_STATUS.CAIRN_ARMED = false ∧ (d.put Reg.CRN_STATUS.CAIRN_ARMED 1).is Reg.CRN_STATUS.CAIRN_ARMED = true ∧
    copying.writeHeld 2097151 = true := by decide

theorem witness_Restores :
    let d := idling.dev
    let own : Dev := { d with crn := { fill := some { store := false, stepMatch := false } } }
    let cut := ({ d with crn := { step := some { ten := 0, addrs := [0], done := none } } } : Dev).put Reg.CRN_STATUS.INTERRUPTED 1
    let busy := cut.put Reg.CRN_STATUS.RESTORING 1
    let whole := ({ busy with crn := { step := some { ten := 0, addrs := [0], copied := 1, done := none } }, imap := [{ shadow := 1 }] } : Dev).put
      Reg.MEM_CH_MAP_LO.IN_SERVICE (2 ^ 64 - 1) |>.put Reg.MEM_CH_MAP_HI.IN_SERVICE (2 ^ 32 - 1)
    let marred : Dev := { whole with badBlk := [((whole.dramAt (290303 * 2 ^ 21)).getD 0 / 256, true)] }
    d.acting 0 = some 0 ∧ d.acting 1 ≠ some 0 ∧ busy.is Reg.CRN_STATUS.RESTORING = true ∧ own.fillOwn = true ∧ d.fillOwn = false ∧
    d.is Reg.CRN_STATUS.RESTORING = false ∧ d.is Reg.CRN_STATUS.INTERRUPTED = false ∧ cut.is Reg.CRN_STATUS.INTERRUPTED = true ∧ cut.running = false ∧
    busy.crn.step.isSome = true ∧ busy.crn.slotBad = [] ∧
    ({ busy with crn := { busy.crn with slotBad := [0] } } : Dev).crn.slotBad ≠ [] ∧
    (whole.crn.step.all fun x => (whole.restoreFails [] x).isNone) = true ∧
    (marred.crn.step.all fun x => marred.restoreFails [] x == some 0) = true := by decide

theorem witness_FillsAndServes :
    let d := idling.dev
    let f : FillReq := { store := true, stepMatch := false }
    let one : Dev := { d with crn := { fill := some f } }
    let two : Dev := { d with crn := { fill := some f, queued := some f } }
    let host := powered {} [(Reg.CRN_XFER_A.KIND, 2), (Reg.CRN_STORE.SIZE, 2), (Reg.CRN_STATUS.STORE_VALID, 1), (Reg.CRN_XFER_B.KIND, 2), (Reg.CRN_AUTO.KIND, 1)]
    let serving : Dev := { d with crn := { serve := some { src := 1, wait := false } } }
    let good : List Byte := [0x43#8, 0x41#8, 0x52#8, 0x4E#8, 1#8] ++ List.replicate 28 0#8 ++ [0x10#8, 0x20#8]
    d.acting 0 = some 0 ∧ d.acting 1 ≠ some 0 ∧ one.crn.fill.isSome = true ∧ one.crn.queued = none ∧ two.crn.queued.isSome = true ∧ d.crn.fill = none ∧
    host.xferOk (host.fillSource false) true false = true ∧ 2 ≤ host.get Reg.CRN_STORE.SIZE ∧ host.running = false ∧ host.crn.step = none ∧
    d.xferOk (d.fillSource false) true false = false ∧ d.serveBusy = false ∧ serving.serveBusy = true ∧ d.get Reg.CRN_AUTO.KIND = 0 ∧
    host.get Reg.CRN_AUTO.KIND ≠ 0 ∧ host.is Reg.CRN_STATUS.STORE_VALID = true ∧ d.is Reg.CRN_STATUS.STORE_VALID = false ∧
    one.manifestOk f [] = false ∧ one.manifestOk f good = true ∧ host.get Reg.CRN_XFER_B.KIND ≠ 0 ∧ d.get Reg.CRN_XFER_B.KIND = 0 ∧
    d.serveReady [] = false ∧ serving.serveReady [] = true ∧ d.mod.fw = true ∧ d.fillBytes [] = none ∧ one.fillBytes good = some good ∧
    (one.fillSource f.alt).1 ≠ 1 := by decide

theorem witness_FillsAndServes_convoy :
    let d := powered {} [(Reg.CRN_XFER_A.KIND, 1), (Reg.CRN_XFER_A.CONVOY, 5)]
    let some_ : FillReq := { store := true, stepMatch := false, blks := [(0, 0#32768)] }
    let all : FillReq := { some_ with blks := (List.range 512).map fun k => (k, 0#32768) }
    (d.fillSource false).1 = 1 ∧ (d.fillSource false).2.1 = 5 ∧ some_.blocks 512 = none ∧ (all.blocks 512).isSome = true := by decide +kernel

/-- An idle machine with Waymark on, eight ports, and convoy 5's entry on port 7 as R442 allows it. -/
def wired (fs : List (Fld × Nat)) : Dev :=
  fs.foldl (fun d x => d.put x.1 x.2) (powered {} [(Reg.GLB_GRADE.PORT_MASK, 255), (Reg.WMK_CTL.WAYMARK_EN, 1), (Reg.WMK_P_CFG.ENABLE 7, 1),
    (Reg.WMK_P_STAT.LINK0 7, 1), (Reg.WMK_CV0.PORT 5, 7), (Reg.WMK_CV0.BLOCKS 5, 2), (Reg.WMK_CV2.LEN 5, 2000), (Reg.WMK_TIMERS.PACE_PCT, 90)])

/-- A frame of convoy 5. -/
def frameOf (num : BitVec 64) (block : BitVec 16) : Frame :=
  { convoy := 5, src := 0, block := block, num := num, resend := false, echo := false, ce := false, intact := true, stamp := 0, port := 7 }

theorem witness_PortsAndEntries :
    let d := wired []
    let valid := wired [(Reg.WMK_CV0.VALID 5, 1)]
    let p : Prog := { core := 0, descs := [], loops := [], mesh := [], sb := 0#256, streams := [BitVec.ofNat 128 (2 ^ 97 + 5 * 2 ^ 48)] }
    let named : Dev := { valid with rt := { loaded := true, progs := [p] } }
    d.acting 0 = some 0 ∧ d.acting 15 ≠ some 0 ∧ d.portPresent 7 = true ∧ idling.dev.portPresent 7 = false ∧ d.is (Reg.WMK_P_CFG.ENABLE 7) = true ∧
    (valid.is (Reg.WMK_CV0.VALID 5) = true ∧ valid.cvPort 5 = 7) ∧ d.netClk = true ∧ d.is (Reg.WMK_P_STAT.LINK0 7) = true ∧
    d.is (Reg.WMK_P_STAT.LINK1 7) = false ∧ d.is (Reg.WMK_P_CFG.SPLIT 7) = false ∧ d.reachesConvoy 0 5 = true ∧ d.reachesConvoy 15 5 = false ∧
    d.convoyOk 5 = true ∧ (wired [(Reg.WMK_CV2.LEN 5, 1999)]).convoyOk 5 = false ∧ d.is (Reg.WMK_CV0.VALID 5) = false ∧
    named.routeNames 5 = true ∧ valid.routeNames 5 = false := by decide

theorem witness_Joining :
    let d := wired [(Reg.WMK_CV0.VALID 5, 1)]
    let asked : Dev := { d with joining := [5] }
    let early : Dev := { d with peerJoin := [(5, 0, 0, 2000, 2, 1)] }
    let joined := d.put (Reg.WMK_CV0.JOINED 5) 1
    let t : TxInst := { convoy := 510, inst := 0, blocks := 1, owner := noOwner }
    let own : Dev := { joined with txInsts := [t] }
    let side : Dev := { joined with txInsts := [{ t with convoy := 511 }] }
    let late (x : Dev) : Dev := x.put Reg.TIM_MILESTONE.COUNT 1000000
    d.reachesConvoy 0 5 = true ∧ d.is (Reg.WMK_CV0.VALID 5) = true ∧ d.is (Reg.WMK_CV0.JOINED 5) = false ∧ (∀ x ∈ d.peerJoin, x.1 ≠ 5) ∧
    ¬ (∀ x ∈ early.peerJoin, x.1 ≠ 5) ∧ d.routeNames 5 = false ∧ 5 ∈ asked.joining ∧ (late asked).now ≥ kget 0 asked.joinSent 5 + 100000 ∧
    asked.now < kget 0 asked.joinSent 5 + 100000 ∧ (frameOf 0 0).intact = true ∧ d.joinAgrees 5 0 0 2000 2 1 = true ∧
    d.joinAgrees 5 0 0 2000 2 0 = false ∧ (joined.is (Reg.WMK_CV0.JOINED 5) = true ∧
      kget 0 joined.said (joined.cvPeer 5) + (late joined).peerTimeout / 4 ≤ (late joined).now) ∧ 510 ∈ own.openConvoys ∧
    kget 0 own.heard (own.cvPeer 510) + (late own).peerTimeout ≤ (late own).now ∧ own.sideConvoy 510 = false ∧ side.sideConvoy 511 = true ∧
    own.takeFrame (frameOf 0 0) = some { own with heard := kset 0 own.heard (own.cvPeer 5) own.now } ∧ d.takeFrame (frameOf 0 0) = none ∧
    (∀ k ∈ side.openConvoys, side.sideConvoy k = true) ∧ (wired []).is (Reg.WMK_CV0.VALID 5) = false ∧
    (own.openConvoys.find? fun k => own.cvPeer k == own.cvPeer 5 && !own.sideConvoy k) = some 510 := by decide

theorem witness_FramesAndBlocks :
    let d := wired [(Reg.WMK_CV0.VALID 5, 1), (Reg.WMK_CV0.JOINED 5, 1)]
    let f := frameOf 3 1
    let full : RxInst := { convoy := 5, inst := 3, posted := some noOwner, got := [(0, 1), (1, 2)] }
    let half : RxInst := { full with got := [(1, 2)] }
    let low : Dev := { d with rxLow := [(5, 4)] }
    let blk : RxBlk := { convoy := 5, inst := 3, blk := 1, data := 0 }
    let stored (r : RxInst) : Dev := { d with rxInsts := [r], rxBlks := [blk] }
    let t : TxInst := { convoy := 5, inst := 0, blocks := 2, owner := noOwner }
    let b : TxBlk := { convoy := 5, inst := 0, blk := 0, ten := 0, owner := noOwner, data := 0 }
    let sends : Dev := ({ d with txInsts := [t], txBlks := [b] } : Dev)
    let past (x : Dev) : Dev := x.put Reg.TIM_MILESTONE.COUNT 2000
    (d.takeFrame f).isSome = true ∧ (d.put (Reg.WMK_CV0.JOINED 5) 0).takeFrame f = none ∧ f.ce = false ∧ 3 < kget 0 low.rxLow 5 ∧
    kget 0 d.rxLow 5 ≤ 3 ∧ d.rx 5 3 = none ∧ (d.rxBlks.filter fun x => d.cvPort x.convoy == d.cvPort 5).length < 256 ∧
    (stored half).rx 5 3 = some half ∧ (half.got.any fun g => g.1 == f.block.toNat) = true ∧ half.full (d.cvBlocks 5) = false ∧
    ((stored { full with closed := true }).rx 5 3).any (fun r => r.closed) = true ∧ ((stored full).rx 5 3).any (fun r => r.closed) = false ∧
    sends.linkOf 5 = true ∧ (sends.txInsts.find? fun t => t.convoy == 5 && sends.slotOpen t && (sends.nextBlock t).isSome) = some t ∧
    (sends.nextBlock t).isSome = true ∧ d.txInsts = [] ∧ d.slotWanted 7 = false ∧ d.serveOver 5 = none ∧ ((stored half).rxBlks.find? fun b => d.cvPort b.convoy == 7 && (stored half).drainable b).isSome = true ∧
    ((past (stored half)).openRx 5 fun r => !r.ended && decide ((past (stored half)).windowEnd 5 r.inst ≤ (past (stored half)).now)).isSome = true ∧
    ((stored { half with ended := true }).openRx 5 fun r => r.ended && !r.full 2 && r.lastAck.isNone).isSome = true ∧
    (sends.txInsts.find? (fun t => t.convoy == 5 && t.inst == 3)) = none ∧ 0 ≤ b.blk ∧ bitOf 1 (b.blk - 0) = true := by decide

theorem witness_FramesAndBlocks_crowded :
    let blk : RxBlk := { convoy := 5, inst := 2, blk := 1, data := 0 }
    let d : Dev := { wired [(Reg.WMK_CV0.JOINED 5, 1)] with rxBlks := List.replicate 256 blk }
    (d.takeFrame (frameOf 3 1)).isSome = true ∧ 256 ≤ (d.rxBlks.filter fun x => d.cvPort x.convoy == d.cvPort 5).length ∧ d.rx 5 3 = none := by
  decide

theorem witness_FramesAndBlocks_data :
    let d := wired [(Reg.WMK_CV0.JOINED 5, 1)]
    let whole : RxInst := { convoy := 5, inst := 3, got := [(0, 1), (1, 2)] }
    let part : RxInst := { convoy := 5, inst := 3, posted := some noOwner, got := [(0, 1)] }
    let shut : RxInst := { whole with closed := true }
    let acked : RxInst := { whole with lastAck := some 0 }
    let on (r : RxInst) : Dev := { d with rxInsts := [r] }
    let f := frameOf 3 1
    let broken : Frame := { f with intact := false }
    let marked : Frame := { f with ce := true }
    (d.takeFrame marked).isSome = true ∧ ((d.count (Reg.WMK_P_ECN_CE.COUNT 7) 1).onRx 5 3 fun r => { r with echo := true }).rx 5 3 =
      some { convoy := 5, inst := 3, echo := true } ∧
    ((on whole).rx 5 3 = some whole ∧ (whole.got.any fun g => g.1 == f.block.toNat) = true ∧ whole.full (d.cvBlocks 5) = true) ∧
    ((on part).rx 5 3 = some part ∧ (part.got.any fun g => g.1 == f.block.toNat) = false ∧ part.posted.isSome = true) ∧
    (let g := (on whole).count (Reg.WMK_P_CRC_ERR.COUNT 7) 1; g.rx 5 3 = some whole ∧ whole.lastAck = none ∧ whole.closed = false) ∧
    ((on acked).now < 0 + (on acked).get Reg.WMK_TIMERS.ACK_NS ∧ ((on acked).count (Reg.WMK_P_CRC_ERR.COUNT 7) 1).rx 5 3 = some acked) ∧
    ((on shut).count (Reg.WMK_P_CRC_ERR.COUNT 7) 1).rx 5 3 = some shut ∧ broken.intact = false ∧ broken.port.toNat = 7 := by decide

theorem witness_FramesAndBlocks_refused :
    let blk : RxBlk := { convoy := 5, inst := 2, blk := 1, data := 0 }
    let r : RxInst := { convoy := 5, inst := 3, got := [(0, 1)] }
    let d : Dev := { wired [(Reg.WMK_CV0.JOINED 5, 1)] with rxBlks := List.replicate 256 blk, rxInsts := [r] }
    (d.takeFrame (frameOf 3 1)).isSome = true ∧ 256 ≤ (d.rxBlks.filter fun x => d.cvPort x.convoy == d.cvPort 5).length ∧ d.rx 5 3 = some r ∧
    (r.got.any fun g => g.1 == (frameOf 3 1).block.toNat) = false ∧ r.posted = none := by decide

theorem witness_FramesAndBlocks_resends :
    let d := wired [(Reg.WMK_CV0.VALID 5, 1), (Reg.WMK_CV0.JOINED 5, 1)]
    let t : TxInst := { convoy := 5, inst := 0, blocks := 2, owner := noOwner, slotAt := 10 }
    let b : TxBlk := { convoy := 5, inst := 0, blk := 0, ten := 0, owner := noOwner, data := 0, sent := some 0 }
    let waits : Dev := { d with txInsts := [t], txBlks := [{ b with sent := none }] }
    let past (x : Dev) : Dev := x.put Reg.TIM_MILESTONE.COUNT 2000
    let x : MirOut := { inst := 3, payload := [], sent := 0 }
    let told : Dev := { d with mir := { unacked := [x] } }
    waits.txInsts.find? (fun t => t.convoy == 5 && waits.slotOpen t && (waits.nextBlock t).isSome) = none ∧ waits.slotWanted (waits.cvPort 5) = true ∧
    (frameOf 3 0).convoy ≠ 511#9 ∧ { frameOf 3 0 with convoy := 511#9 }.convoy = 511#9 ∧ (frameOf 3 0).block.toNat = 0 ∧
    (waits.txInsts.find? (fun t => t.convoy == 5 && t.inst == 0)).isSome = true ∧ ¬ (0 ≤ b.blk ∧ bitOf 2 (b.blk - 0) = true) ∧ b.sent = some 0 ∧
    d.now < 0 + d.get Reg.WMK_TIMERS.RESEND_GAP_NS ∧ 0 + (past d).get Reg.WMK_TIMERS.RESEND_GAP_NS ≤ (past d).now ∧ (past d).sideConvoy 5 = false ∧
    b.resends < max 1 ((past d).get Reg.WMK_TIMERS.RETRY_MAX) ∧ max 1 ((past d).get Reg.WMK_TIMERS.RETRY_MAX) ≤ 8 ∧
    told.mir.unacked.find? (fun x => x.inst == 3) = some x := by decide

theorem witness_FramesAndBlocks_serve :
    let d := wired [(Reg.WMK_CV0.VALID 5, 1), (Reg.WMK_CV0.JOINED 5, 1), (Reg.WMK_CV0.BLOCKS 5, 72), (Reg.CRN_XFER_A.KIND, 1), (Reg.CRN_XFER_A.CONVOY, 5),
      (Reg.CRN_AUTO.KIND, 1), (Reg.CRN_AUTO.CONVOY, 5)]
    let v : ServeReq := { src := 2, wait := false }
    let w : ServeReq := { v with bytes := [], flying := [{ idx := 0, sent := 0, again := true }] }
    let on (v : ServeReq) : Dev := { d with crn := { serve := some v } }
    (on v).serveOver 5 = some v ∧ (on w).serveOver 5 = some w ∧ (on v).serveNext [] v = some (0, false) ∧ (on w).serveNext [] w = some (0, true) ∧
    (on { v with src := 0 }).serveOver 5 = some { v with src := 0 } ∧ (on { v with src := 0 }).serveNext [] { v with src := 0 } = none ∧ v.nextAt ≤ d.now ∧ d.now < 1 ∧ (0 : Nat) / 72 = 0 ∧ ¬ (0 ≤ 0 % 72 ∧ bitOf 0 (0 % 72 - 0) = true) := by decide

theorem witness_HostBeacons :
    let d := powered {} [(Reg.BCN_WD_LIMIT.NS, 5), (Reg.BCN_HWAIT_A.BEACON 15, 16383)]
    let t : Dev := { d with tens := [(0, { bcnBase := 0, bcnCount := 256 }), (15, { enable := true, port := 15 })] }
    let w : HWait := { n := 15, ten := 0, bcn := 16383, take := false, target := 0, wd := true, vector := 0, tag := 0, waited := 6 }
    let above : Dev := { d with hwaits := [w] }
    let held : Dev := { d with gate := some { bcn := 1, take := false, target := 0, seg := 2, waited := 6 }, run := { phase := .gate } }
    d.acting 15 = none ∧ t.acting 0 = some 0 ∧ t.acting 15 = some 15 ∧ t.ownsBeacon 0 16383 = true ∧ d.ownsBeacon 0 16383 = false ∧
    State.reset.dev.mod.fw = false ∧ d.get (Reg.BCN_HWAIT_B.STATUS 15) ≠ 1 ∧ t.ownsBeacon 0 (t.get (Reg.BCN_HWAIT_A.BEACON 15)) = true ∧
    (d.put (Reg.BCN_HWAIT_B.STATUS 15) 1).get (Reg.BCN_HWAIT_B.STATUS 15) = 1 ∧ d.get Reg.BCN_WD_LIMIT.NS ≠ 0 ∧
    (above.hwaits.find? fun w => w.n == 15 && w.wd && decide (5 < w.waited)) = some w ∧ held.gate.isSome = true ∧ held.run.phase = .gate ∧ d.gate = none ∧
    (d.put Reg.BCN_WD_LIMIT.NS 0).get Reg.BCN_WD_LIMIT.NS = 0 := by decide

theorem witness_SlotsAndTenancies :
    let d := idling.dev
    let mine := d.setSlotWord 1023 0 1#32
    let run (x : Dev) : Dev := x.onRun fun r => { r with phase := .segment }
    let two : Dev := { d with tens := [(1, { enable := true, port := 1, prio := 3 }), (2, { enable := true, port := 2, prio := 3 })] }
    let want : Dev := { two with switchReqs := [2, 1] }
    let kept : Dev := { want with contexts := [(1, want.saveContext)] }
    let based : Dev := { two with tens := [(1, { enable := true, port := 1, bcnBase := 0, bcnCount := 256 })] }
    let full : Dev := { two.put (Reg.SES_RING_CFG.ENABLE 1) 1 with repliesOwed := [(1, 4)] }
    let waits : Dev := { d with slotOps := [.bind 0 1023, .unbind 0 5] }
    let asked : Dev := { two with switchOwed := [1] }
    let x : Dev := d.put (Reg.SES_TEN_BCN.COUNT 15) 257
    let host : Dev := { two with resident := some 1, rt := { loaded := true, tenancy := 1 } }
    let core : Dev := host.put (Reg.CORE_STATUS.PLACED 0) 1
    let m := core.hostMsg 1
    d.acting 0 = some 0 ∧ d.acting 15 = none ∧ two.acting 1 = some 1 ∧ d.slotState 1023 = 0 ∧ mine.slotState 1023 = 1 ∧ mine.slotTen 1023 = 0 ∧
    full.mayOwe 1 = false ∧ SlotOp.bind 0 1023 ∈ waits.slotOps ∧ SlotOp.unbind 0 5 ∈ waits.slotOps ∧ d.slotOps = [] ∧ 1 ∈ asked.switchOwed ∧ d.running = false ∧ (run mine).running = true ∧ (run mine).slotState 1023 = 1 ∧
    x.tenOk 15 (x.tenRegs 15) = false ∧ d.tenOk 15 (d.tenRegs 15) = true ∧ d.mayOwe 0 = true ∧ two.mayOwe 1 = true ∧
    (kget {} two.tens 1).enable = true ∧ 1 ∉ two.switchOwed ∧ two.resident = none ∧ host.resident = some 1 ∧ want.winner = some 1 ∧
    want.switchReady = true ∧ d.switchReady = false ∧ want.running = false ∧ (want.leaveResident.contexts.find? fun c => c.1 == 1) = none ∧
    (∀ a ∈ want.leaveResident.afterSwitch, a.1 ≠ 1) ∧ (kept.leaveResident.contexts.find? fun c => c.1 == 1).isSome = true ∧ kept.switchReady = true ∧
    host.running = false ∧ host.rt.loaded = true ∧ two.rt.loaded = false ∧ two.leaveResident.ownsBeacon 1 0 = false ∧ based.ownsBeacon 1 5 = true ∧
    host.is (Reg.SES_MSG_CTL.BUSY 1) = false ∧ m.receipt = false ∧ (two.hostMsg 1).receipt = false ∧ two.msgToComb m = false ∧ bitsOf m.dest 21 3 = 0 ∧ core.msgToCore m = true ∧
    host.msgToCore m = false ∧ bitOf (2 ^ 31) 31 = true ∧ 12 ≤ bitsOf 12 0 5 := by decide

theorem witness_SlotsAndTenancies_receipt :
    let d : Dev := { idling.dev with tens := [(1, { enable := true, port := 1 })], resident := some 1 }
    let r := d.put (Reg.SES_MSG_DATA.BYTES 1 7) (2 ^ 56)
    let e := (r.put (Reg.SES_RING_CFG.ENABLE 1) 1)
    (r.hostMsg 1).receipt = true ∧ r.mayOwe 1 = true ∧ ({ e with repliesOwed := [(1, 4)] } : Dev).mayOwe 1 = false ∧ r.is (Reg.SES_MSG_CTL.BUSY 1) = false ∧
    r.acting 1 = some 1 := by decide

theorem witness_RegisterWrites :
    let d := idling.dev
    let rec_ := ({ State.reset.dev with mod := { fw := false, ready := true, perst := false } } : Dev).put Reg.SEC_STATUS.STAGE 2
    let two : Dev := { d with tens := [(15, { enable := true, port := 15 })], resident := some 15 }
    let f := Reg.BCN_COMB_A.FMT 127
    let zero : Dev := { d with tens := [(0, { enable := true, port := 15 })] }
    let set := d.put Reg.SEC_EVENT.DONE 1
    let just : Dev := { set with justSet := [Reg.SEC_EVENT.DONE.key] }
    State.reset.dev.mod.fw = false ∧ State.reset.dev.inRecovery = false ∧ rec_.inRecovery = true ∧ d.inRecovery = false ∧ d.acting 15 = none ∧
    two.acting 15 = some 15 ∧ two.mayWrite 15 15 0x40008 = false ∧ zero.acting 15 = some 0 ∧ d.mod.fw = true ∧ 0x3000C % 4 = 0 ∧ Reg.SEC_EVENT.DONE.acc = .rw1c ∧ set.is Reg.SEC_EVENT.DONE = true ∧ d.is Reg.SEC_EVENT.DONE = false ∧
    Reg.SEC_EVENT.DONE.key ∉ set.justSet ∧ Reg.SEC_EVENT.DONE.key ∈ just.justSet ∧ Reg.SEC_EVENT.DONE.key ≠ Reg.RTE_FAULT_CODE.VALID.key ∧
    Reg.SEC_EVENT.DONE.key ≠ (Reg.BCN_WD_REC.VALID 0).key ∧ Reg.SEC_EVENT.DONE.key ≠ (Reg.BCN_WD_REC.VALID 1).key ∧
    Reg.MEM_EVENT.PERSISTENT.acc = .rw1c ∧ Reg.MEM_EVENT.CH_LOST.acc = .rw1c ∧ Reg.BCN_EVENT.WD_TIMEOUT.acc = .rw1c ∧
    (Reg.RTE_EVENT.FAULT 15).acc = .rw1c ∧ (Reg.RTE_EVENT.LOAD_FAIL 15).acc = .rw1c ∧
    f.acc = .rw ∧ encodingOk (Reg.BCN_COMB_A.FMT 0) 0xB = true ∧ encodingOk (Reg.BCN_COMB_A.FMT 0) 0xE = false ∧ Reg.GLB_CORE_MAP.IN_SERVICE 0 ≠ f ∧ (Reg.GLB_CORE_MAP.IN_SERVICE 0).acc = .ro ∧
    bitsOf 1 0 4 = 1 ∧ bitsOf 7 0 4 = 7 := by decide

theorem witness_HostMemory :
    let d := powered {} [(Reg.MEM_CH_MAP_LO.IN_SERVICE, 2 ^ 64 - 1), (Reg.MEM_CH_MAP_HI.IN_SERVICE, 255), (Reg.HP_BIND.VALID 0, 1), (Reg.HP_BIND.ANY 0, 1), (Reg.HP_LINK.CXL 0, 1)]
    let off : Dev := { d with mod := { d.mod with fw := false } }
    let rec_ := ({ State.reset.dev with mod := { fw := false, ready := true, perst := false } } : Dev).put Reg.SEC_STATUS.STAGE 2
    let up : Dev := { d with imap := [{}], hdm := [(0, true)], tens := [(0, { regions := [(0, 4096)] })] }
    let bad : Dev := { up with badBlk := [((up.dramAt 0).getD 0 / 256, true)] }
    let hot : Dev := { d.put Reg.PWR_STATE.THERMAL_HOLD 1 with pwr := { d.pwr with mr4Over := [0] } }
    State.reset.dev.mod.ready = false ∧ rec_.inRecovery = true ∧ rec_.mod.ready = true ∧ d.mod.ready = true ∧ d.inRecovery = false ∧
    (d.put (Reg.HP_BIND.ANY 0) 0).bindingOf none = none ∧ d.bindingOf none = some 0 ∧ off.bindingOf (some 0) = some 0 ∧ off.mod.fw = false ∧
    (d.put (Reg.HP_LINK.CXL 0) 0).is (Reg.HP_LINK.CXL 0) = false ∧ kget false d.hdm 0 = false ∧ kget false up.hdm 0 = true ∧ up.firstBad [] 0 64 = none ∧ bad.firstBad [] 0 64 = some 0 ∧ bad.isBad [] 0 = true ∧ up.isBad [] 0 = false ∧ up.hostLands 0 0 = true ∧
    hot.is Reg.PWR_STATE.THERMAL_HOLD = true ∧ hot.pwr.mr4Over ≠ [] ∧ d.is Reg.PWR_STATE.THERMAL_HOLD = false ∧
    up.reaches 0 0 = true ∧ up.reaches 0 (567 * 2 ^ 30) = false ∧ up.writeView none false = some 0 ∧
    d.writeView none false = none ∧ up.crn.step = none ∧ up.hostLands 0 63 = true ∧ (up.dramAt 63).isSome = true := by decide

theorem witness_HostMemory_views :
    let d := powered {} [(Reg.MEM_CH_MAP_LO.IN_SERVICE, 2 ^ 64 - 1)]
    let up : Dev := { d with imap := [{}], tens := [(15, { enable := true, port := 15, regions := [(0, 4096)] })] }
    up.acting 15 = some 15 ∧ up.reaches 15 4095 = true ∧ up.reaches 15 4096 = false ∧ ((List.range 2).any fun i => up.reaches 15 (4096 + i)) = false ∧
    ((List.range 2).all fun i => up.reaches 15 (4094 + i)) = true := by decide

theorem witness_TranslationAndLink :
    let d : Dev := { idling.dev with snoop := [(15, 64)], xlatPend := [(15, 1, true)], ats := [(0, 5)], msixPend := [(1023, true)], msixMask := [(1023, true)] }
    let p : Prog := { core := 0, descs := [], loops := [], mesh := [], sb := 0#256, streams := [BitVec.ofNat 128 (2 ^ 96)] }
    let s := d.put (Reg.HP_XLAT_CTL.SUSPENDED 15) 1
    let uses : Dev := { d with rt := { loaded := true, progs := [p] } }
    (15, 64) ∈ d.snoop ∧ (15, 65) ∉ d.snoop ∧ (15, 1, true) ∈ d.xlatPend ∧ (15, 1, false) ∉ d.xlatPend ∧ (∀ e ∈ d.ats, e.1 ≠ 15) ∧ d.mod.fw = true ∧
    d.is (Reg.HP_XLAT_CTL.SUSPENDED 15) = false ∧ s.is (Reg.HP_XLAT_CTL.SUSPENDED 15) = true ∧ State.reset.dev.linkUp = false ∧ d.linkUp = true ∧
    d.usesHost = false ∧ uses.usesHost = true ∧ d.fillFromHost = false ∧ d.serveOnHost = false ∧ d.running = false ∧ d.mod.perst = false ∧
    State.reset.dev.mod.perst = true ∧ kget false d.msixPend 1023 = true ∧ kget false d.msixPend 0 = false := by decide

theorem witness_DoeAndLantern :
    let d := idling.dev
    let rec_ := ({ State.reset.dev with mod := { fw := false, ready := true, perst := false } } : Dev).put Reg.SEC_STATUS.STAGE 2
    let r : LtnRec := { milestone := 0, tick := 0, segment := 0, core := 0, lane := 0, type := 0, tag := 0, ten := 0, payload := none, lost := false, data := 0 }
    let ring : Dev := { powered {} [(Reg.DBG_LTN_CTL.RING_EN, 1), (Reg.DBG_LTN_CFG.LOG2SIZE, 12)] with ltn := [r, r] }
    let full := ring.put Reg.DBG_LTN_PROD.INDEX 4096
    State.reset.dev.doeServed 0 = false ∧ rec_.doeServed 0 = true ∧ rec_.doeServed 15 = false ∧ d.doeServed 15 = true ∧ rec_.inRecovery = true ∧
    d.inRecovery = false ∧ ofLeBytes ([0x3D#8, 0x1F#8, 1#8].take 2) = 0x1F3D ∧ d.attestError [] ≠ 0 ∧ ofLeBytes ([2#8, 0#8].take 2) = 2 ∧
    d.acting 0 = some 0 ∧ d.acting 15 ≠ some 0 ∧ d.ltn = [] ∧ ring.is Reg.DBG_LTN_CTL.RING_EN = true ∧ ring.linkUp = true ∧
    r.size ≤ ring.ltnSize ∧ full.ltnSize < 4096 + r.size := by decide

theorem witness_HostMemory_waits :
    let d := powered {} [(Reg.MEM_CH_MAP_LO.IN_SERVICE, 2 ^ 64 - 1), (Reg.HP_BIND.VALID 0, 1), (Reg.HP_BIND.ANY 0, 1), (Reg.HP_LINK.CXL 0, 1)]
    let st : StepOpen := { ten := 0, addrs := [0], done := none }
    let up : Dev := { d with imap := [{}], hdm := [(0, true)], crn := { step := some st, waitCopy := true } }
    up.writeView none false = some 0 ∧ up.writeWaits 0 64 = true ∧ (up.wakeUp .cxlMem).writeWaits 0 64 = true := by decide

/-- The words of a response to the challenge whose first byte is 2: a key on the curve, and a signature that it verifies (calculated outside the
model from FIPS 186-5: the digest itself is r and s, and the key is the point of that x less the base point). -/
def responseWords : List Nat := [
    0xf8d3e52c63747104, 0xbff104d871614c01, 0x40746570c58db5e0, 0x1dff245c3b317f1f, 0x61ac211c99785493, 0x4b49ce785dbb27c2,
    0x25779acbcfe01bc, 0x87a5372455167795, 0xa0084f85523a83d9, 0xffdd9982338ef25c, 0xee6fd8fcf0f63357, 0x124d3a3f03789ac7,
    0x7ed6a36a93078027, 0x6a3185dda67a3be9, 0x7d77b22ae67bd25c, 0x8c93ff9e06812e14, 0xd76b09d08f58bfe4, 0x46dbc2d2cfd76f7,
    0x7ed6a36a93078060, 0x6a3185dda67a3be9, 0x7d77b22ae67bd25c, 0x8c93ff9e06812e14, 0xd76b09d08f58bfe4, 0x46dbc2d2cfd76f7,
    0x60]

/-- An idle machine that holds that challenge and its response, with the key's hash and a debug policy in the fuses. -/
def challenged (policy : Nat) : Dev :=
  let d := powered {} ((Reg.SEC_CHAL.BYTES 0, 2) :: responseWords.zipIdx.map fun x => (Reg.SEC_RESP.BYTES x.2, x.1))
  { d with sec := { sensed := BitVec.ofNat 4096 (policy * 2 ^ 834 +
      0xbbd085b1a8bc22735ba840342bd5c591aebfb42bab006e8e88bce5b066be3d31073f52b736c9939d2b77d1f7f3c5c0a8 * 2 ^ 840), chal := some (63, 0, 0) } }

/-- A module in recovery. -/
def recovering : Dev := ({ State.reset.dev with mod := { fw := false, ready := true, perst := false } } : Dev).put Reg.SEC_STATUS.STAGE 2

theorem witness_FirmwareImages :
    let r := recovering
    let u : Dev := { idling.dev with tens := [(0, { regions := [(0, 4096)] })] }
    let ends : Dev := { u with sec := { flashJob := some ([0x52#8], true) } }
    r.inRecovery = true ∧ r.get Reg.SEC_STATUS.STAGE = 2 ∧ r.is Reg.SEC_STATUS.BUSY = false ∧ u.inRecovery = false ∧
    imageOk r.sec.sensed.toNat [] = false ∧ u.acting 0 = some 0 ∧ u.acting 15 ≠ some 0 ∧ u.is Reg.SEC_STATUS.BUSY = false ∧
    u.get Reg.SEC_IMG_ADDR.VALUE % 4096 = 0 ∧ u.inSpace 0 0 0 = true ∧ imageOk u.sec.sensed.toNat (u.memBytes [] 0 0) = false ∧
    u.sec.flashJob = none ∧ ends.sec.flashJob.isSome = true ∧ idling.dev.is Reg.SEC_EVENT.ERROR = false ∧
    (idling.dev.put Reg.SEC_EVENT.ERROR 1).is Reg.SEC_EVENT.ERROR = true := by decide

theorem witness_FusesAndDebug :
    let d := idling.dev
    let d1 : Dev := { d with sec := { fuseJob := some 1#4096 } }
    let c : Dev := { d with sec := { chal := some (63, 0, 0) } }
    let f := resetFuses.toNat
    d.acting 0 = some 0 ∧ d.acting 15 ≠ some 0 ∧ d.running = false ∧ d.load = none ∧ d.sec.fuseJob = none ∧ d.sec.flashJob = none ∧
    d1.sec.fuseJob = some 1#4096 ∧ policyRank (policyOf f) ≤ policyRank 3 ∧ ¬ (svnFloor f < min 64 (d.get Reg.SEC_SVN.RUNNING)) ∧
    svnFloor f < min 64 ((d.put Reg.SEC_SVN.RUNNING 64).get Reg.SEC_SVN.RUNNING) ∧ resetFuses.getLsbD 1928 = true ∧ d.get Reg.SEC_STATUS.FAILS ≠ 3 ∧
    (d.put Reg.SEC_STATUS.FAILS 3).get Reg.SEC_STATUS.FAILS = 3 ∧ d.is Reg.SEC_STATUS.BUSY = false ∧ d.evalInForce = false ∧ d.responseOk = false ∧
    c.responseOk = false := by decide

theorem witness_FusesAndDebug_response :
    (challenged 1).responseOk = true ∧ (challenged 1).mayEnable = true ∧ (challenged 2).mayEnable = false ∧ (challenged 1).acting 0 = some 0 ∧
    (challenged 1).is Reg.SEC_STATUS.BUSY = false := by decide +kernel

theorem witness_PowerSupply :
    let d := State.reset.dev
    let f : Dev := { d with sec := { fuseJob := some 1#4096 } }
    let off : Dev := { d with mod := { input := false, rails := [] } }
    d.mod.input = true ∧ off.mod.input = false ∧ 5 ∈ d.mod.rails ∧ 6 ∉ d.mod.rails ∧ f.sec.fuseJob = some 1#4096 ∧ d.sec.fuseJob = none ∧
    (999 < 1000 ∧ 1000 ≤ 1000) ∧ Reg.PWR_EVENT.THERMAL_TRIP.key ∈ stickyKeys ∧ Reg.TIM_MILESTONE.COUNT.key ∉ stickyKeys ∧ Reg.SEC_STATUS.STAGE.key ∉ stickyKeys := by decide

theorem witness_Boot :
    let d := State.reset.dev
    let off : Dev := { d with mod := { input := true, rails := [] } }
    let sensed := (({ d with mod := { d.mod with perst := false } } : Dev).emit (.bootLine 1 0)).senseFuses State.reset.fuses
    let t : Dev := { d with mod := { d.mod with perst := false, fw := true } }
    d.mod.perst = true ∧ d.pwrgd = true ∧ off.pwrgd = false ∧ idling.dev.mod.perst = false ∧
    ({ sensed with sec := { sensed.sec with flashBroken := true } } : Dev).flashOk = false ∧ bitOf resetFuses.toNat 836 = false ∧
    d.mod.fw = false ∧ t.mod.fw = true ∧ t.mod.trained = false ∧ idling.dev.mod.trained = true := by decide

theorem witness_PhimonCommands :
    let d := idling.dev
    let two := d.put Reg.SEC_STATUS.FEATURES 8
    let s : Dev := { going.dev with run := { phase := .segment, tick := 5 } }
    let held : Dev := { s with run := { s.run with frozen := true } }
    State.reset.dev.mod.fw = false ∧ d.mod.fw = true ∧ bitOf (d.get Reg.SEC_STATUS.FEATURES) 3 = false ∧
    bitOf (two.get Reg.SEC_STATUS.FEATURES) 3 = true ∧ two.rowThere 576 = false ∧ (fused (d.put Reg.PWR_DOMAIN_ON.PD (2 ^ 24 - 1))).rowThere 575 = true ∧
    two.phRow = none ∧ s.inSegment = true ∧ s.run.frozen = false ∧ held.run.frozen = true ∧ 28 < s.run.tick + 24 ∧ s.run.tick + 24 ≤ 29 ∧
    3000000 ∈ [115200, 230400, 460800, 921600, 1000000, 2000000, 3000000] ∧ 0xFFFFFC % 4 = 0 ∧ 0xFFFFFC % 8 ≠ 0 := by decide

theorem witness_SmbusAndScan :
    let d := State.reset.dev
    let off : Dev := { d with mod := { input := false, rails := [] } }
    0 ∈ d.mod.rails ∧ 1 ∈ d.mod.rails ∧ 0 ∉ off.mod.rails ∧ 1 ∉ off.mod.rails ∧ idling.dev.booted = true ∧ d.booted = false ∧ idling.dev.mod.fw = true ∧
    d.mod.fw = false ∧ d.mod.tap.fresh = true ∧
    bitOf ((d.put Reg.SEC_STATUS.FEATURES 32).get Reg.SEC_STATUS.FEATURES) 5 = true ∧ bitOf (d.get Reg.SEC_STATUS.FEATURES) 5 = false := by decide

/-- The codes are free, but a code outside the standard exists, so BYPASS can be selected; and EXTEST selects the boundary register. -/
theorem witness_SmbusAndScan_registers :
    (∃ c, let t : TapSt := { ir := c, fresh := false }
      t.ir ≠ Config.tapCode 0 ∧ t.boundary = false) ∧ ({ ir := Config.tapCode 1, fresh := false } : TapSt).boundary = true := by
  refine ⟨?_, by simp [TapSt.boundary]⟩
  apply Classical.byContradiction
  intro h
  simp only [TapSt.boundary, not_exists, not_and] at h
  have k : ∀ n < 5, ∃ i < 4, (Config.tapCode i).toNat = n := by
    intro n hn
    have := h (BitVec.ofNat 8 n)
    apply Classical.byContradiction
    intro g
    simp only [not_exists, not_and] at g
    have e : ∀ i < 4, BitVec.ofNat 8 n ≠ Config.tapCode i := fun i hi q => g i hi (by rw [← q]; simp; omega)
    have a := e 0 (by omega)
    have b := e 1 (by omega)
    have c := e 2 (by omega)
    have d := e 3 (by omega)
    simp_all
  obtain ⟨i0, j0, k0⟩ := k 0 (by omega)
  obtain ⟨i1, j1, k1⟩ := k 1 (by omega)
  obtain ⟨i2, j2, k2⟩ := k 2 (by omega)
  obtain ⟨i3, j3, k3⟩ := k 3 (by omega)
  obtain ⟨i4, j4, k4⟩ := k 4 (by omega)
  have ne : ∀ i j, (Config.tapCode i).toNat ≠ (Config.tapCode j).toNat → i ≠ j := fun i j q r => q (by rw [r])
  have a01 := ne i0 i1 (by omega)
  have a02 := ne i0 i2 (by omega)
  have a03 := ne i0 i3 (by omega)
  have a04 := ne i0 i4 (by omega)
  have a12 := ne i1 i2 (by omega)
  have a13 := ne i1 i3 (by omega)
  have a14 := ne i1 i4 (by omega)
  have a23 := ne i2 i3 (by omega)
  have a24 := ne i2 i4 (by omega)
  have a34 := ne i3 i4 (by omega)
  omega

theorem witness_StepAtFront :
    ({ State.reset with pending := [.powerOn] } : State).pending = .powerOn :: [] ∧ State.reset.pending = [] := by decide

theorem witness_StepAtFront_idle :
    let off := State.reset.dev
    let on : Dev := { off with mod := { off.mod with rails := [0, 1, 2, 3, 4, 5] } }
    let dark : Dev := { off with mod := { off.mod with rails := [] } }
    let up : Dev := { on with mod := { on.mod with fw := true } }
    let parks : Dev := { up with parked := [.retry 0] }
    let held : Dev := { up with heldWrites := [.cxlMemWrite none false 0 []] }
    let due : Dev := ({ up with mir := { up.mir with arming := some 0 } }).put Reg.TIM_MILESTONE.COUNT 10000000
    let copies : Dev := ({ up with crn := { up.crn with step := some { ten := 0, addrs := [0], done := none, copied := 3 } } }).put Reg.CRN_STATUS.COPYING 1
    let digests : Dev := { up with digestJob := some (0, 512) }
    off.idleStep.2 = [] ∧ off.copyNext = none ∧ off.digestNext = none ∧ copies.copyNext ≠ none ∧ digests.digestNext ≠ none ∧
    dark.pwrgd = false ∧ on.pwrgd = true ∧ on.mod.fw = false ∧ up.mod.fw = true ∧ parks.settle.parked ≠ [] ∧ parks.settle.pwr.mr4Over = [] ∧
    held.settle.parked = [] ∧ held.settle.heldWrites ≠ [] ∧ held.settle.crn.waitCopy = false ∧
    up.settle.heldWrites = [] ∧ due.settle.dueAny ≠ [] ∧ up.settle.dueAny = [] ∧ up.settle.dueWaits = [] := by decide

theorem witness_StepAtFront_waits :
    let off := State.reset.dev
    let w : HWait := { n := 1, ten := 0, bcn := 4, take := false, target := 1#32, wd := true, vector := 0, tag := 0, waited := 2000000000 }
    let up : Dev := { off with mod := { off.mod with fw := true, rails := [0, 1, 2, 3, 4, 5] }, hwaits := [w] }
    up.settle.dueAny = [] ∧ up.settle.dueWaits ≠ [] := by decide

theorem witness_WhatEachChanges : writesMemory .powerOn = false ∧ writesFuses .powerOn = false ∧ writesMemory .powerLoss = true := by decide

theorem witness_StepKeeps :
    let s : State := { State.reset with pending := [.powerOn], dram := [(5, 1#8)] }
    (∃ t, step s = .next t) ∧ Memory.wf s.dram = true ∧ s.fuses.getLsbD 1928 = true := ⟨⟨_, rfl⟩, by decide⟩

theorem witness_UnitCollisions :
    let o : Owner := { core := 0, lane := 1, unit := 0, tag := 1 }
    let d := going.dev
    let busy := d.took o 0 1 1
    let spec : Owner := { o with spec := true }
    let f := (forked false 5).dev
    let i : Inst := Tests.occ 3 0 0 0 1
    let e := busy.raise (busy.owner i 0 1) 0x0202
    let both := busy.took { o with lane := 2 } 1 1 1
    let e2 := both.raise (both.owner i 0 1) 0x0202
    e.unitFree 0 0 1 = true ∧ e2.unitFree 0 0 1 = false ∧
    busy.unitFree 0 0 0 = false ∧ busy.unitFree 0 0 1 = true ∧ d.unitFree 0 0 0 = true ∧ 0 < 1 ∧ spec.spec = true ∧ (f.core 255).fork.isSome = true ∧
    o.spec = false ∧ d.running = true ∧ d.run.stopping = none ∧ busy.canIssue 0#8 = true ∧ laneList 1 = [0] ∧ laneList 3 = [0, 1] := by decide

theorem witness_HazardReports :
    let o : Owner := { core := 255, lane := 2, tag := 9, dep0 := 4 }
    let on : Dev := { going.dev with wptOn := true, wptMask := 14, wptStop := true }
    going.dev.wptOn = false ∧ on.wptOn = true ∧ bitOf on.wptMask (4 - 1) = true ∧ bitOf on.wptMask (1 - 1) = false ∧ on.wptStop = true ∧
    ¬ (o.dep0 = 0 ∧ o.dep1 = 0) ∧ (o.dep0 ≠ 0 ∧ 5 + o.dep0 = o.tag) ∧ ¬ (6 + o.dep0 = o.tag) ∧
    on.is Reg.WPT_EVENT.HAZARD = false ∧ (on.put Reg.WPT_EVENT.HAZARD 1).is Reg.WPT_EVENT.HAZARD = true := by decide

theorem witness_HazardReports_reuse :
    let o : Owner := { core := 255, lane := 2, tag := 9 }
    let d : Dev := going.dev.sched 9 false { o with tag := 7 } (.landTile 1 2 cfg32 [])
    d.inFlightOn 255 1 3 = none ∧ d.inFlightOn 255 1 2 = some 7 ∧ 7 ≠ o.tag ∧ d.inFlightOn 255 1 2 = some ({ o with tag := 7 } : Owner).tag := by decide

/-! ### Worked examples of the spec -/

/-- R21's example: core 0x57 lies in island 5. -/
theorem test_island_of_core : islandOf 0x57 = 5 := by decide

/-- R23's example: channel 50 attaches to the router of core index 240. -/
theorem test_router_of_channel : channelRouter 50 = 240 := by decide

/-- 09_device_memory.md, "Worked example: decoding one address": channel 13, channel offsets 397,312 and 397,568.
The example's o is 1,193,984, as its text computes with (its hexadecimal A lies 1,024 bytes lower). -/
theorem test_locate : let e : Imap := { base := 0, size := 9072, gran := 2048, first := 12, count := 3 }
    e.locate 1193984 = (13, 397312) ∧ e.locate (1193984 + 256) = (13, 397568) := by decide

/-- 08_scheduled_mesh.md, "Worked example: four partial sums across an island boundary": LAT_min is 18. -/
theorem test_least_latency : latMin ([0x24, 0x34, 0x54].map fun a => meshPath false a 0x44) 2 = 18 := by decide

/-- 05_formats_and_accumulation.md, "Worked example: one output element, three ways": the values and the windows of K-tiles 0 and 1. -/
theorem test_windows : let v (x : Nat) := fmtE5M2.decode x
    rn32 (v 0x6C) = 0x45800000#32 ∧ rn32 (v 0x38) = 0x3F000000#32 ∧
    windowLsb 1 false 0 [v 0x6C] [v 0x6C] 0 0 = -24 ∧ windowLsb 1 false 0 [v 0x3C, v 0x01] [v 0x3C, v 0x38] 0 0 = -48 := by decide

/-- The same example: the chain on one core gives 4, the Confluence pairs (0, 1) and (2, 3) give 3. -/
theorem test_placements :
    fAdd (fAdd (fAdd 0x4B800000#32 0x3F800040#32) 0x3F800000#32) 0xCB800000#32 = 0x40800000#32 ∧
    fAdd (fAdd 0x4B800000#32 0x3F800040#32) (fAdd 0x3F800000#32 0xCB800000#32) = 0x40400000#32 := by decide

/-- R189's examples: SQRT(−0), RCP(−∞) and SILU(−∞) give −0. -/
theorem test_functions_zero : fSqrt 0x80000000#32 = 0x80000000#32 ∧ fRcp 0xFF800000#32 = 0x80000000#32 ∧ fSilu 0xFF800000#32 = 0x80000000#32 := by
  decide

/-- R400's example: with PROD 4,048 in a ring of 4,096 bytes, an 80-byte record goes after a wrap marker and PROD becomes 4,176. -/
theorem test_ring_wrap :
    let r : RingRec := { ten := 0, kind := 0, head := 1, sender := 5, payload := List.replicate 60 7#8, reply := false, credit := none, bcn := none }
    let s := idlingWith fun d => { powered {} [(Reg.SES_RING_CFG.ENABLE 0, 1), (Reg.SES_RING_CFG.LOG2SIZE 0, 12), (Reg.SES_RING_PROD.INDEX 0, 4048),
      (Reg.SES_RING_CONS.INDEX 0, 1200)] with ringQueue := [r], linkUp := d.linkUp }
    (match exec (.hostRingRecord 0) s with
      | .next t => t.dev.get (Reg.SES_RING_PROD.INDEX 0) == 4176
      | _ => false) = true := by decide

/-! ### Known answers of the standards that the spec names -/

/-- The check value of CRC-32C: the digits 1 to 9 give 0xE3069283. -/
theorem test_crc32c : crc32c [0x31#8, 0x32#8, 0x33#8, 0x34#8, 0x35#8, 0x36#8, 0x37#8, 0x38#8, 0x39#8] = 0xE3069283#32 := by decide

/-- FIPS 180-4's example: SHA-384 of "abc". -/
theorem test_sha384 : beBytes 48 (ofBeBytes (sha384 [0x61#8, 0x62#8, 0x63#8])) =
    beBytes 48 0xcb00753f45a35e8bb5a03d699ac65007272c32ab0eded1631a8b605a43ff5bed8086072ba1e7cc2358baeca134c825a7 := by decide +kernel

/-! ### Single steps -/

/-- R582: an assertion of PERST# shorter than 1 µs does nothing; one of 1 µs stops the firmware. -/
theorem test_perst : (match step { idling with pending := [.perstAssert 999] } with
      | .next t => t.dev.mod.fw
      | _ => false) = true ∧
    (match step { idling with pending := [.perstAssert 1000] } with
      | .next t => t.dev.mod.fw
      | _ => true) = false := by decide

/-- R380: an add through BAR2 wraps modulo 2^32. -/
theorem test_beacon_add : (match step { idlingWith (fun d => { d with beacons := [(9, 0xFFFFFFFF#32)], tens := [(0, { bcnCount := 256 })] }) with
      pending := [.beaconAdd 0 9 2] } with
      | .next t => t.dev.beacon 9 == 1#32 && t.pending.isEmpty
      | _ => false) = true := by decide

/-- R36: a second fetch in the lane in one tick is ISSUE_COLLISION. -/
theorem test_collision : (match exec (.fetchRow (occ 1 0 0 0 1)) going with
      | .next t => (match exec (.fetchRow (occ 1 0 0 0 1)) t with
        | .next u => t.dev.run.stopping.isNone && (u.dev.run.stopping.map (·.code)) == some 0x0202
        | _ => false)
      | _ => false) = true := by decide

/-- R131: TMOV from weights to an accumulator is no pair of the table, and raises TCFG_INCONSISTENT. -/
theorem test_tmov_refused : (match exec (.tmov (occ 1 8 0 0 1)) tiled with
      | .next u => (u.dev.run.stopping.map (·.code)) == some 0x0201
      | _ => false) = true := by decide

/-- R534: a private boundary-scan instruction is refused; BYPASS is not. -/
theorem test_bypass : (match exec (.boundaryScanAccess (.shiftIR 0xFF#8)) State.reset with
      | .next t => t.dev.mod.tap.ir == 0xFF#8
      | _ => false) = true := by decide

end Sys2Proof.Tests
end

section
/-! PROOF. One occurrence per unit and lane in a tick (R36, R82): who is refused, what a refusal does to the run, and how a FETCH.ROW
goes on in the lanes that are left. -/

namespace Sys2Proof.Machine

/-! ### A unit taken -/

/-- A taken unit is busy in the tick in which it is taken. -/
theorem Dev.unitFree_took_same (d : Dev) (o : Owner) (lane step : Nat) {count : Nat} (hc : 0 < count) :
    (d.took o lane step count).unitFree o.core o.unit lane = false := by
  simp [Dev.unitFree, Dev.took, Dev.onRun, Busy.covers, hc]

/-- Every other unit, and the unit in any other lane, is as free as before. -/
theorem Dev.unitFree_took_of_ne (d : Dev) (o : Owner) (lane step count : Nat) {c u l : Nat}
    (h : ¬ (c = o.core ∧ u = o.unit ∧ l = lane)) : (d.took o lane step count).unitFree c u l = d.unitFree c u l := by
  have hne : (o.core == c && o.unit == u && lane == l) = false := by
    rw [Bool.eq_false_iff]
    intro hall
    simp only [Bool.and_eq_true, beq_iff_eq] at hall
    obtain ⟨⟨hcore, hunit⟩, hlane⟩ := hall
    exact h ⟨hcore.symm, hunit.symm, hlane.symm⟩
  simp [Dev.unitFree, Dev.took, Dev.onRun, hne]

/-! ### The stop a fault carries -/

@[simp] theorem Dev.stopping_kill (d : Dev) (o : Owner) : (d.kill o).run.stopping = d.run.stopping := by
  rw [Dev.run_kill]; rfl

@[simp] theorem Dev.running_record (d : Dev) (o : Owner) (a b c : Nat) (x : Bool) : (d.record o a b c x).running = d.running := by
  unfold Dev.running; rw [Dev.run_record]

/-- The first stop on the hold line is carried as it is asked for. -/
theorem Dev.stopping_stopAt_first {d : Dev} (t why code : Nat) (hr : d.running = true) (hn : d.run.stopping = none) :
    (d.stopAt t why code).run.stopping =
      some { t := t, at_ := if d.held then t else t + 24, why := why, fault := why == 2, code := code } := by
  simp [Dev.stopAt, hr, hn, Dev.onRun]

/-- A fault that meets a running device with no stop under way stops it at the fault's tick, with the fault's code (R38). -/
theorem Dev.stopping_faultAt_first {d : Dev} (o : Owner) (code t : Nat) (hr : d.running = true) (hn : d.run.stopping = none) :
    ∃ x : Stopping, (d.faultAt o code t).run.stopping = some x ∧ x.t = t ∧ x.fault = true ∧ x.code = code := by
  have hr' : (d.record o code t 0 d.run.stopping.isSome).running = true := by rw [Dev.running_record, hr]
  have hn' : (d.record o code t 0 d.run.stopping.isSome).run.stopping = none := by rw [Dev.run_record, hn]
  unfold Dev.faultAt
  simp only [hr, if_true, Dev.stopping_kill, Dev.stopping_stopAt_first t 2 code hr' hn']
  exact ⟨_, rfl, rfl, rfl, rfl⟩

/-- The fault of a speculative occurrence under an open fork stops nothing yet (R68). -/
theorem Dev.stopping_raise_spec {d : Dev} {o : Owner} (code : Nat) (hs : o.spec = true) (hf : (d.core o.core).fork.isSome = true) :
    (d.raise o code).run.stopping = d.run.stopping := by
  simp only [Dev.raise, hs, hf, Bool.and_self, if_true, Dev.stopping_kill]
  rfl

theorem Dev.raise_of_not_spec {d : Dev} {o : Owner} (code : Nat) (hs : o.spec = false) : d.raise o code = d.faultAt o code d.faultTick := by
  simp [Dev.raise, hs]

/-! ### The lanes of a FETCH.ROW -/

theorem leaves_fetchRow {i : Inst} {s : State} (h : s.dev.canIssue i.core = true) : Leaves (.fetchRow i) s (s.dev.fetchRow i) := by
  show s.issue i (fun d => d.fetchRow i) = _
  simp only [State.issue, State.on, h, if_true]

/-- Refused in every lane, a fetch does nothing more. -/
theorem Dev.fetchRow_of_takeLanes_nil {d d1 : Dev} {i : Inst} (h : d.takeLanes i 0 i.interval i.cnt = ([], d1)) : d.fetchRow i = d1 := by
  simp [Dev.fetchRow, h]

/-- The instances of the other lanes go on with their first row. -/
theorem Dev.fetchRow_of_takeLanes_cons {d d1 : Dev} {i : Inst} {l : Nat} {ls : List Nat}
    (h : d.takeLanes i 0 i.interval i.cnt = (l :: ls, d1)) :
    d.fetchRow i = d1.fetchRowTick (inLanes i (l :: ls)) (d.owner (inLanes i (l :: ls)) 0 (inLanes i (l :: ls)).lane.toNat) 0 := by
  simp [Dev.fetchRow, h]

/-- In one lane whose unit is busy, no instance goes on. -/
theorem Dev.takeLanes_one_busy {d : Dev} {i : Inst} {unit l : Nat} (step count : Nat) (hl : laneList i.lane.toNat = [l])
    (hb : d.unitFree i.coreN unit l = false) : d.takeLanes i unit step count = ([], d.raise (d.owner i unit (l + 1)) 0x0202) := by
  have h0 := Dev.takeUnit_busy (o := d.owner i unit (l + 1)) step count hb
  simp [Dev.takeLanes, hl, h0]

/-- In both lanes with lane 0 busy, lane 1 is tried in the state that the collision leaves. -/
theorem Dev.takeLanes_both_busy {d d1 : Dev} {i : Inst} {unit step count : Nat} {ok : Bool} (hl : laneList i.lane.toNat = [0, 1])
    (hb : d.unitFree i.coreN unit 0 = false)
    (h1 : (d.raise (d.owner i unit 1) 0x0202).takeUnit (d.owner i unit 2) 1 step count = (ok, d1)) :
    d.takeLanes i unit step count = (if ok then [1] else [], d1) := by
  have h0 := Dev.takeUnit_busy (o := d.owner i unit 1) step count hb
  simp [Dev.takeLanes, hl, h0, h1]

/-- A FETCH.ROW in both lanes that collides in lane 0 collides in lane 1 too or goes on there alone (R82). -/
theorem fetchRow_both_lane0_busy {i : Inst} {s : State} (hi : s.dev.canIssue i.core = true) (hl : laneList i.lane.toNat = [0, 1])
    (hb : s.dev.unitFree i.coreN 0 0 = false) :
    let e := s.dev.raise (s.dev.owner i 0 1) 0x0202
    (e.unitFree i.coreN 0 1 = false → Leaves (.fetchRow i) s (e.raise (s.dev.owner i 0 2) 0x0202)) ∧
    (e.unitFree i.coreN 0 1 = true →
      Leaves (.fetchRow i) s ((e.took (s.dev.owner i 0 2) 1 i.interval i.cnt).fetchRowTick (inLanes i [1]) (s.dev.owner (inLanes i [1]) 0 2) 0)) := by
  intro e
  constructor
  · intro h1
    have hlanes := Dev.takeLanes_both_busy hl hb (Dev.takeUnit_busy (o := s.dev.owner i 0 2) i.interval i.cnt h1)
    rw [← Dev.fetchRow_of_takeLanes_nil hlanes]
    exact leaves_fetchRow hi
  · intro h1
    have hlanes := Dev.takeLanes_both_busy hl hb (Dev.takeUnit_free (o := s.dev.owner i 0 2) i.interval i.cnt h1)
    have hrow := Dev.fetchRow_of_takeLanes_cons hlanes
    rw [show (inLanes i [1]).lane.toNat = 2 from rfl] at hrow
    rw [← hrow]
    exact leaves_fetchRow hi

/-- Settles O59: `takeUnit` by whether the unit is free, the stop by whether the fault waits at a fork, and the fetch by what its lanes
answer. -/
theorem unitCollisions : Obligations.UnitCollisions := by
  unfold Obligations.UnitCollisions
  refine ⟨fun d o lane step count => ?taking, fun d o => ?stopping, fun i s hi => ?oneLane, fun i s hi hl hb => ?bothLanes⟩
  case taking =>
    exact ⟨Dev.takeUnit_busy step count, Dev.takeUnit_free step count,
      fun c u l h => Dev.unitFree_took_of_ne d o lane step count h, Dev.unitFree_took_same d o lane step⟩
  case stopping =>
    refine ⟨Dev.stopping_raise_spec 0x0202, fun hs hr hn => ?_⟩
    rw [Dev.raise_of_not_spec 0x0202 hs]
    exact Dev.stopping_faultAt_first o 0x0202 d.faultTick hr hn
  case oneLane =>
    rintro ⟨l, hl, hb⟩
    refine ⟨l, hl, ?_⟩
    rw [← Dev.fetchRow_of_takeLanes_nil (Dev.takeLanes_one_busy i.interval i.cnt hl hb)]
    exact leaves_fetchRow hi
  case bothLanes => exact fetchRow_both_lane0_busy hi hl hb

end Sys2Proof.Machine
end

section
/-! PROOF. Operating points (R331 to R335): what a write of CLK_OPP_AT leaves, the three outcomes of an arming, and what the switch leaves. -/

namespace Sys2Proof.Machine

/-! ### Reports leave the power state alone -/

@[simp] theorem Dev.pwr_event (d : Dev) (F : Fld) : (d.event F).pwr = d.pwr := by
  obtain ⟨r, j, o, p, w, h⟩ := Dev.event_eq d F
  rw [h]

@[simp] theorem Dev.pwr_lantern (d : Dev) (ty c l tg tk dt : Nat) (p : Option Row) : (d.lantern ty c l tg tk dt p).pwr = d.pwr := by
  obtain ⟨r, x, b, h⟩ := Dev.lantern_eq d ty c l tg tk dt p
  rw [h]

theorem Dev.is_lantern_ne (d : Dev) (ty c l tg tk dt : Nat) (p : Option Row) {F : Fld} (h : F.key ≠ Reg.DBG_LTN_LOST.COUNT.key) :
    (d.lantern ty c l tg tk dt p).is F = d.is F := by
  rw [Dev.is, Dev.get_lantern_ne d ty c l tg tk dt p h, Dev.is]

/-! ### A write of CLK_OPP_AT (R332) -/

theorem leaves_clkOppAtWrite (b : BitVec 4) (part : RegPart) (v : BitVec 64) (s : State) :
    Leaves (.clkOppAtWrite b part v) s (s.dev.oppAtWrite b.toNat part v.toNat) := rfl

theorem Dev.oppAtWrite_of_not_acting {d : Dev} {b : Nat} (part : RegPart) (v : Nat) (h : d.acting b ≠ some 0) : d.oppAtWrite b part v = d :=
  if_pos h

theorem Dev.oppAtWrite_low {d : Dev} {b : Nat} (v : Nat) (h : d.acting b = some 0) :
    d.oppAtWrite b .low v = d.put Reg.CLK_OPP_AT.AT (d.get Reg.CLK_OPP_AT.AT / 2 ^ 32 * 2 ^ 32 + v % 2 ^ 32) := if_neg (not_not_intro h)

theorem Dev.oppAtWrite_high {d : Dev} {b : Nat} (v : Nat) (h : d.acting b = some 0) :
    d.oppAtWrite b .high v = (d.put Reg.CLK_OPP_AT.AT (v % 2 ^ 32 * 2 ^ 32 + d.get Reg.CLK_OPP_AT.AT % 2 ^ 32)).oppArm :=
  if_neg (not_not_intro h)

theorem Dev.oppAtWrite_whole {d : Dev} {b : Nat} (v : Nat) (h : d.acting b = some 0) :
    d.oppAtWrite b .whole v = (d.put Reg.CLK_OPP_AT.AT v).oppArm := if_neg (not_not_intro h)

/-! ### An arming (R332 to R334) -/

/-- `p` is what is pending, its tick not yet fixed, and the core rail is at the level of point `r` or on its way there. -/
def Dev.setOpp (p : Option (Nat × Nat)) (r : Nat) (d : Dev) : Dev := { d with pwr := { d.pwr with opp := p, oppTick := none, rail := r } }

@[simp] theorem Dev.opp_setOpp (d : Dev) (p : Option (Nat × Nat)) (r : Nat) : (d.setOpp p r).pwr.opp = p := rfl

@[simp] theorem Dev.rail_setOpp (d : Dev) (p : Option (Nat × Nat)) (r : Nat) : (d.setOpp p r).pwr.rail = r := rfl

@[simp] theorem Dev.get_setOpp (d : Dev) (p : Option (Nat × Nat)) (r : Nat) (F : Fld) : (d.setOpp p r).get F = d.get F := rfl

theorem Dev.oppRefused_iff (d : Dev) (c : Nat) : d.oppRefused c = true ↔ d.get Reg.CLK_OPP.TARGET < d.get Reg.GLB_GRADE.MAX_OPP ∨
    (d.rt.loaded = true ∧ d.get Reg.CLK_OPP.TARGET < d.rt.maxOpp) ∨ (d.get Reg.CLK_OPP.TARGET < d.get Reg.CLK_OPP.CURRENT ∧ c < d.now + 250000) ∨
    d.is Reg.PWR_STATE.THERMAL_HOLD = true := by
  simp only [Dev.oppRefused, Bool.or_eq_true, Bool.and_eq_true, decide_eq_true_eq, or_assoc]

theorem Dev.oppArm_all_ones {d : Dev} (h : d.get Reg.CLK_OPP_AT.AT = 2 ^ 64 - 1) :
    d.oppArm = (d.setOpp none (d.get Reg.CLK_OPP.CURRENT)).put Reg.CLK_OPP.PENDING 0 :=
  if_pos h

theorem Dev.oppArm_refused {d : Dev} (h : d.get Reg.CLK_OPP_AT.AT ≠ 2 ^ 64 - 1) (hr : d.oppRefused (d.get Reg.CLK_OPP_AT.AT) = true) :
    d.oppArm = (d.put Reg.CLK_OPP_AT.AT d.oppCount).event Reg.CLK_EVENT.OPP_REFUSED :=
  (if_neg h).trans (if_pos hr)

theorem Dev.oppArm_accepted {d : Dev} (h : d.get Reg.CLK_OPP_AT.AT ≠ 2 ^ 64 - 1) (hr : d.oppRefused (d.get Reg.CLK_OPP_AT.AT) = false) :
    d.oppArm = (d.setOpp (some (d.get Reg.CLK_OPP.TARGET, d.get Reg.CLK_OPP_AT.AT))
      (min (d.get Reg.CLK_OPP.TARGET) (d.get Reg.CLK_OPP.CURRENT))).put Reg.CLK_OPP.PENDING 1 :=
  (if_neg h).trans (if_neg (Bool.eq_false_iff.mp hr))

/-! ### The switch (R335) -/

theorem leaves_oppSwitch (s : State) : Leaves .oppSwitch s s.dev.oppSwitch := rfl

theorem Dev.oppSwitch_of_not_due {d : Dev} (h : d.oppDue = false) : d.oppSwitch = d := by
  cases ho : d.pwr.opp <;> simp [Dev.oppSwitch, ho, h]

/-- The tick clocks run at operating point `t`, and no change is pending. -/
def Dev.atPoint (t : Nat) (d : Dev) : Dev :=
  (((d.setOpp none t).put Reg.CLK_OPP.CURRENT t).put Reg.CLK_OPP.PENDING 0).put Reg.CLK_OPP_AT.AT (2 ^ 64 - 1)

theorem Dev.oppSwitch_of_due {d : Dev} {t c : Nat} (ho : d.pwr.opp = some (t, c)) (hd : d.oppDue = true) :
    d.oppSwitch = ((d.atPoint t).event Reg.CLK_EVENT.OPP_DONE).lantern 10 0xFF 0 0 d.run.tick (t + 8 * d.get Reg.CLK_THROTTLE.LEVEL) none := by
  simp only [Dev.oppSwitch, ho, hd]
  rfl

theorem Dev.get_atPoint_current (d : Dev) {t : Nat} (h : t < 8) : (d.atPoint t).get Reg.CLK_OPP.CURRENT = t := by
  rw [Dev.atPoint, Dev.get_put_ne _ _ (by decide), Dev.get_put_ne _ _ (by decide), Dev.get_put_self]
  exact Nat.mod_eq_of_lt h

theorem Dev.get_atPoint_pending (d : Dev) (t : Nat) : (d.atPoint t).get Reg.CLK_OPP.PENDING = 0 := by
  rw [Dev.atPoint, Dev.get_put_ne _ _ (by decide), Dev.get_put_self]
  rfl

theorem Dev.get_atPoint_at (d : Dev) (t : Nat) : (d.atPoint t).get Reg.CLK_OPP_AT.AT = 2 ^ 64 - 1 := Dev.get_put_self _ _ _

/-- The reports of a switch, its event and its Lantern record, change no field but OPP_DONE and the count of lost records. -/
theorem Dev.get_oppSwitch_of_due {d : Dev} {t c : Nat} {F : Fld} (ho : d.pwr.opp = some (t, c)) (hd : d.oppDue = true)
    (he : F.key ≠ Reg.CLK_EVENT.OPP_DONE.key) (hl : F.key ≠ Reg.DBG_LTN_LOST.COUNT.key) : d.oppSwitch.get F = (d.atPoint t).get F := by
  rw [Dev.oppSwitch_of_due ho hd, Dev.get_lantern_ne _ _ _ _ _ _ _ _ hl, Dev.get_event_ne _ he]

theorem Dev.is_oppSwitch_done {d : Dev} {t c : Nat} (ho : d.pwr.opp = some (t, c)) (hd : d.oppDue = true) :
    d.oppSwitch.is Reg.CLK_EVENT.OPP_DONE = true := by
  rw [Dev.oppSwitch_of_due ho hd, Dev.is_lantern_ne _ _ _ _ _ _ _ _ (by decide)]
  exact Dev.is_event_self _ _ (by decide)

theorem Dev.pwr_oppSwitch_of_due {d : Dev} {t c : Nat} (ho : d.pwr.opp = some (t, c)) (hd : d.oppDue = true) :
    d.oppSwitch.pwr = (d.setOpp none t).pwr := by
  rw [Dev.oppSwitch_of_due ho hd, Dev.pwr_lantern, Dev.pwr_event]
  rfl

/-- Settles O33: the write by its part, the arming by its three outcomes (cancelled, refused, pending), and the switch by whether it is due. -/
theorem operatingPoints : Obligations.OperatingPoints := by
  unfold Obligations.OperatingPoints
  refine ⟨fun b v s => ⟨fun hb part => ?otherHost, fun hb => ⟨?low, ?high, ?whole⟩⟩, fun d => ⟨fun hc => ?cancelled, fun hc hr => ?refused,
    fun hc hr => ?pending⟩, Dev.oppRefused_iff, fun s => ⟨fun hd => ?notDue, fun t c ho ht hd => ?due⟩⟩
  case otherHost =>
    have h := leaves_clkOppAtWrite b part v s
    rwa [Dev.oppAtWrite_of_not_acting part v.toNat hb] at h
  case low =>
    rw [← Dev.oppAtWrite_low v.toNat hb]
    exact leaves_clkOppAtWrite b .low v s
  case high =>
    rw [← Dev.oppAtWrite_high v.toNat hb]
    exact leaves_clkOppAtWrite b .high v s
  case whole =>
    rw [← Dev.oppAtWrite_whole v.toNat hb]
    exact leaves_clkOppAtWrite b .whole v s
  case cancelled =>
    rw [Dev.oppArm_all_ones hc]
    exact ⟨Dev.opp_setOpp _ _ _, Dev.get_put_self _ _ _⟩
  case refused =>
    rw [Dev.oppArm_refused hc hr]
    refine ⟨Dev.is_event_self _ _ (by decide), Dev.pwr_event _ _, ?_⟩
    rw [Dev.get_event_ne _ (by decide), Dev.get_put_self]
    rfl
  case pending =>
    rw [Dev.oppArm_accepted hc hr]
    exact ⟨Dev.opp_setOpp _ _ _, Dev.get_put_self _ _ _, Dev.get_put_ne _ _ (by decide)⟩
  case notDue =>
    have h := leaves_oppSwitch s
    rwa [Dev.oppSwitch_of_not_due hd] at h
  case due =>
    have hp := Dev.pwr_oppSwitch_of_due ho hd
    have hget {F : Fld} (he : F.key ≠ Reg.CLK_EVENT.OPP_DONE.key) (hl : F.key ≠ Reg.DBG_LTN_LOST.COUNT.key) :=
      Dev.get_oppSwitch_of_due ho hd he hl
    refine ⟨s.dev.oppSwitch, leaves_oppSwitch s, ?_, ?_, ?_, Dev.is_oppSwitch_done ho hd, ?_, ?_⟩
    · exact (hget (by decide) (by decide)).trans (Dev.get_atPoint_current _ ht)
    · exact (hget (by decide) (by decide)).trans (Dev.get_atPoint_pending _ t)
    · exact (hget (by decide) (by decide)).trans (Dev.get_atPoint_at _ t)
    · rw [hp, Dev.opp_setOpp]
    · rw [hp, Dev.rail_setOpp]

end Sys2Proof.Machine
end

section
/-! PROOF. Watchpost's reports (R366 to R368): when it is silent, what a report leaves in its registers, and which reads and writes are hazards. -/

namespace Sys2Proof.Machine

/-! ### Which register fields a change keeps -/

theorem RegsKept.refl (d : Dev) (l : List Fld) : RegsKept d d l := fun _ _ => rfl

theorem RegsKept.put {d e : Dev} {l : List Fld} {G : Fld} (h : RegsKept d e l) (v : Nat) (hG : G ∈ l) : RegsKept (d.put G v) e l :=
  fun F hF => (Dev.get_put_ne d v (hF G hG)).trans (h F hF)

theorem RegsKept.event {d e : Dev} {l : List Fld} {G : Fld} (h : RegsKept d e l) (hG : G ∈ l) : RegsKept (d.event G) e l :=
  fun F hF => (Dev.get_event_ne d (hF G hG)).trans (h F hF)

theorem RegsKept.count (d : Dev) (G : Fld) (n : Nat) : RegsKept (d.count G n) d [G] :=
  fun _ hF => Dev.get_count_ne d n (hF G List.mem_cons_self)

theorem RegsKept.trans {d e f : Dev} {l m : List Fld} (h : RegsKept d e m) (h' : RegsKept e f l) : RegsKept d f (l ++ m) :=
  fun F hF => (h F fun G hG => hF G (List.mem_append_right l hG)).trans (h' F fun G hG => hF G (List.mem_append_left m hG))

/-! ### The record of a hazard (R367) -/

/-- The fields of Watchpost's record, and the event bit that it sets. -/
def wptRecord : List Fld := [Reg.WPT_REC.KIND, Reg.WPT_REC.CORE, Reg.WPT_REC.LANE, Reg.WPT_REC.TICK, Reg.WPT_TAGS.TAG,
  Reg.WPT_TAGS.OTHER, Reg.WPT_LOC.SPACE, Reg.WPT_LOC.INDEX, Reg.WPT_EVENT.HAZARD]

/-- The counters stand at higher offsets than the record. -/
theorem wptCount_key_ne (n : Nat) {G : Fld} (h : G ∈ wptRecord) : (Reg.WPT_COUNT.COUNT n).key ≠ G.key := by
  have below : ∀ G ∈ wptRecord, G.key < 0xBC020 * 64 := by decide
  have hG := below G h
  simp only [Fld.key, Reg.WPT_COUNT.COUNT] at hG ⊢
  omega

/-- The hazard is recorded, and HAZARD is set. -/
def Dev.hazardRecorded (k : Nat) (o : Owner) (other space index : Nat) (d : Dev) : Dev :=
  (d |>.put Reg.WPT_REC.KIND k |>.put Reg.WPT_REC.LANE o.lane |>.put Reg.WPT_REC.CORE o.core
    |>.put Reg.WPT_REC.TICK d.run.tick |>.put Reg.WPT_TAGS.OTHER other |>.put Reg.WPT_TAGS.TAG o.tag
    |>.put Reg.WPT_LOC.SPACE space |>.put Reg.WPT_LOC.INDEX index).event Reg.WPT_EVENT.HAZARD

theorem Dev.rest_hazardRecorded (d : Dev) (k : Nat) (o : Owner) (other space index : Nat) :
    (d.hazardRecorded k o other space index).rest = d.rest := by
  simp only [Dev.hazardRecorded, Dev.rest_event, Dev.rest_put]

theorem Dev.is_hazardRecorded (d : Dev) (k : Nat) (o : Owner) (other space index : Nat) :
    (d.hazardRecorded k o other space index).is Reg.WPT_EVENT.HAZARD = true :=
  Dev.is_event_self _ _ (by decide)

theorem Dev.regsKept_hazardRecorded (d : Dev) (k : Nat) (o : Owner) (other space index : Nat) :
    RegsKept (d.hazardRecorded k o other space index) d wptRecord :=
  (RegsKept.refl d wptRecord) |>.put k (by decide) |>.put o.lane (by decide) |>.put o.core (by decide)
    |>.put d.run.tick (by decide) |>.put other (by decide) |>.put o.tag (by decide)
    |>.put space (by decide) |>.put index (by decide) |>.event (by decide)

theorem Dev.get_hazardRecorded (d : Dev) {k : Nat} (o : Owner) (other space index : Nat) (hk : k ≤ 4) :
    let e := d.hazardRecorded k o other space index
    e.get Reg.WPT_REC.KIND = k ∧ e.get Reg.WPT_REC.CORE = o.core % 2 ^ 8 ∧ e.get Reg.WPT_REC.LANE = o.lane % 2 ^ 2 ∧
    e.get Reg.WPT_REC.TICK = d.run.tick % 2 ^ 40 ∧ e.get Reg.WPT_TAGS.TAG = o.tag % 2 ^ 24 ∧
    e.get Reg.WPT_TAGS.OTHER = other % 2 ^ 24 ∧ e.get Reg.WPT_LOC.SPACE = space % 2 ^ 2 ∧ e.get Reg.WPT_LOC.INDEX = index % 2 ^ 13 := by
  simp (disch := decide) only [Dev.hazardRecorded, Dev.get_event_ne, Dev.get_put_ne, Dev.get_put_self]
  have hkind : k < 2 ^ 4 := by omega
  exact ⟨Nat.mod_eq_of_lt hkind, rfl, rfl, rfl, rfl, rfl, rfl, rfl⟩

/-! ### The report of a hazard (R367) -/

/-- The hazard is counted, and recorded while HAZARD is clear. -/
def Dev.hazardReported (k : Nat) (o : Owner) (other space index : Nat) (d : Dev) : Dev :=
  let c := d.count (Reg.WPT_COUNT.COUNT (k - 1)) 1
  if d.is Reg.WPT_EVENT.HAZARD then c else c.hazardRecorded k o other space index

section
variable {d : Dev} {k : Nat} (o : Owner) (other space index : Nat)

theorem Dev.hazard_silent (h : d.wptOn = false ∨ bitOf d.wptMask (k - 1) = false) : d.hazard k o other space index = (true, d) :=
  if_pos (by rcases h with h | h <;> simp [h])

theorem Dev.hazard_reports (hw : d.wptOn = true) (hm : bitOf d.wptMask (k - 1) = true) : d.hazard k o other space index =
    if d.wptStop then (false, (d.hazardReported k o other space index).raise o 0x0209) else (true, d.hazardReported k o other space index) :=
  if_neg (by simp [hw, hm])

theorem Dev.hazardReported_again (h : d.is Reg.WPT_EVENT.HAZARD = true) :
    d.hazardReported k o other space index = d.count (Reg.WPT_COUNT.COUNT (k - 1)) 1 :=
  if_pos h

theorem Dev.hazardReported_first (h : d.is Reg.WPT_EVENT.HAZARD = false) : d.hazardReported k o other space index =
    (d.count (Reg.WPT_COUNT.COUNT (k - 1)) 1).hazardRecorded k o other space index :=
  if_neg (by simp [h])

theorem Dev.rest_hazardReported : (d.hazardReported k o other space index).rest = d.rest := by
  cases h : d.is Reg.WPT_EVENT.HAZARD
  · rw [Dev.hazardReported_first o other space index h, Dev.rest_hazardRecorded, Dev.rest_count]
  · rw [Dev.hazardReported_again o other space index h, Dev.rest_count]

theorem Dev.get_hazardReported_count : (d.hazardReported k o other space index).get (Reg.WPT_COUNT.COUNT (k - 1)) =
    min (d.get (Reg.WPT_COUNT.COUNT (k - 1)) + 1) (2 ^ 32 - 1) := by
  cases h : d.is Reg.WPT_EVENT.HAZARD
  · rw [Dev.hazardReported_first o other space index h, Dev.regsKept_hazardRecorded _ k o other space index _ fun _ => wptCount_key_ne (k - 1)]
    exact Dev.get_count_self _ _ _
  · rw [Dev.hazardReported_again o other space index h]
    exact Dev.get_count_self _ _ _

theorem Dev.is_hazardReported : (d.hazardReported k o other space index).is Reg.WPT_EVENT.HAZARD = true := by
  cases h : d.is Reg.WPT_EVENT.HAZARD
  · rw [Dev.hazardReported_first o other space index h]
    exact Dev.is_hazardRecorded _ _ _ _ _ _
  · rw [Dev.hazardReported_again o other space index h, Dev.count, Dev.is_put_ne _ _ (wptCount_key_ne (k - 1) (by decide)).symm]
    exact h

end

/-! ### Reads and writes that are hazards (R366) -/

section
variable (d : Dev) {o : Owner} {other : Nat} (space index : Nat)

theorem Dev.checkRead_no_deps (h : o.dep0 = 0 ∧ o.dep1 = 0) : d.checkRead o other space index = (true, d) := if_pos h

theorem Dev.checkRead_named (h : (o.dep0 ≠ 0 ∧ other + o.dep0 = o.tag) ∨ (o.dep1 ≠ 0 ∧ other + o.dep1 = o.tag)) :
    d.checkRead o other space index = (true, d) := by
  have hdep : ¬ (o.dep0 = 0 ∧ o.dep1 = 0) := fun ⟨h0, h1⟩ => h.elim (·.1 h0) (·.1 h1)
  exact (if_neg hdep).trans (if_pos h)

theorem Dev.checkRead_unnamed (hdep : ¬ (o.dep0 = 0 ∧ o.dep1 = 0))
    (h : ¬ ((o.dep0 ≠ 0 ∧ other + o.dep0 = o.tag) ∨ (o.dep1 ≠ 0 ∧ other + o.dep1 = o.tag))) :
    d.checkRead o other space index = d.hazard 1 o other space index :=
  (if_neg hdep).trans (if_neg h)

end

section
variable {d : Dev} {o : Owner} {core lane reg : Nat}

theorem Dev.checkReuse_chained (h : d.inFlightOn core lane reg = none ∨ d.inFlightOn core lane reg = some o.tag) :
    d.checkReuse o core lane reg = (true, d) := by
  rcases h with h | h <;> simp [Dev.checkReuse, h]

theorem Dev.checkReuse_other {tag : Nat} (h : d.inFlightOn core lane reg = some tag) (ht : tag ≠ o.tag) :
    d.checkReuse o core lane reg = d.hazard 3 o tag 1 reg := by
  simp [Dev.checkReuse, h, ht]

end

/-- Settles O60: a hazard by whether Watchpost watches for its kind and whether one is recorded already, a read by the dependences, a write by
what is in flight. -/
theorem hazardReports : Obligations.HazardReports := by
  unfold Obligations.HazardReports
  refine ⟨fun d k o other space index _ hk => ⟨Dev.hazard_silent o other space index, fun hw hm => ?report⟩,
    fun d o other space index => ⟨Dev.checkRead_no_deps d space index, Dev.checkRead_named d space index, Dev.checkRead_unnamed d space index⟩,
    fun d o core lane reg => ⟨Dev.checkReuse_chained, fun _ => Dev.checkReuse_other⟩⟩
  refine ⟨d.hazardReported k o other space index, Dev.hazard_reports o other space index hw hm, Dev.rest_hazardReported o other space index,
    Dev.get_hazardReported_count o other space index, Dev.is_hazardReported o other space index, fun h => ?again, fun h => ?first⟩
  case again =>
    rw [Dev.hazardReported_again o other space index h]
    exact RegsKept.count _ _ _
  case first =>
    rw [Dev.hazardReported_first o other space index h]
    obtain ⟨hkind, hcore, hlane, htick, htag, hother, hspace, hindex⟩ :=
      (d.count (Reg.WPT_COUNT.COUNT (k - 1)) 1).get_hazardRecorded o other space index hk
    exact ⟨hkind, hcore, hlane, htick, htag, hother, hspace, hindex,
      (Dev.regsKept_hazardRecorded _ k o other space index).trans (RegsKept.count d _ 1)⟩

end Sys2Proof.Machine
end

section
/-! PROOF. The memory window (R283, R290, R493 to R505, R528): what the port makes of a request, what a read answers, which bytes a write
leaves, and which programming the decoder commits. -/

namespace Sys2Proof.Machine

/-! ### What a command leaves -/

theorem Leaves.congr {c : Instr} {s : State} {d e : Dev} (h : Leaves c s d) (he : d = e) : Leaves c s e := he ▸ h

/-- A command that stores device memory as it stood leaves the device. -/
theorem Stores.leaves {c : Instr} {s : State} {m : Memory} {d : Dev} (h : Stores c s m d) (hm : m = s.dram) : Leaves c s d := by
  subst hm
  exact h.trans (by rw [Dev.striped_self])

/-! ### A wake event leaves the decoders alone -/

@[simp] theorem Dev.hdm_event (d : Dev) (F : Fld) : (d.event F).hdm = d.hdm := by
  obtain ⟨r, j, o, p, w, h⟩ := Dev.event_eq d F
  rw [h]

theorem Dev.hdm_foldl_onCore (f : Nat → CoreSt → CoreSt) (l : List Nat) (d : Dev) : (l.foldl (fun d c => d.onCore c (f c)) d).hdm = d.hdm := by
  induction l generalizing d with
  | nil => rfl
  | cons c l ih => exact (ih (d.onCore c (f c))).trans (Dev.onCore_hdm d c (f c))

@[simp] theorem Dev.hdm_leaveTo (d : Dev) (st : Nat) : (d.leaveTo st).hdm = d.hdm := by
  unfold Dev.leaveTo
  simp only [apply_ite Dev.hdm, Dev.hdm_event, Dev.hdm_foldl_onCore, Dev.updDomains, Dev.put_hdm, ite_self]

@[simp] theorem Dev.hdm_wakeUp (d : Dev) (ev : WakeEvent) : (d.wakeUp ev).hdm = d.hdm := by
  unfold Dev.wakeUp
  simp only [apply_ite Dev.hdm, Dev.hdm_leaveTo, Dev.emit_hdm, Dev.put_hdm, ite_self]

/-! ### Configuration requests (R501, R502) -/

theorem leaves_configRequest (b : BitVec 4) (off : BitVec 12) (op : CfgOp) (s : State) :
    Leaves (.configRequest b off op) s (s.dev.configRequest s.fuses.toNat s.dram b.toNat off.toNat op) := rfl

section
variable {d : Dev} {b : Nat} (fuses : Nat) (m : Memory) (off : Nat) (op : CfgOp)

theorem Dev.configRequest_retried (h : d.mod.ready = false) : d.configRequest fuses m b off op = d.emit (.config b true 0) :=
  if_pos (by simp [h])

theorem Dev.configRequest_recovery (h : d.mod.ready = true) (hr : d.inRecovery = true) (hb : b ≠ 0) : d.configRequest fuses m b off op = d := by
  simp [Dev.configRequest, h, hr, hb]

theorem Dev.configRequest_read (h : d.mod.ready = true) (hr : d.inRecovery = false) :
    d.configRequest fuses m b off .read = (d.configRead b off).2.emit (.config b false (d.configRead b off).1) := by
  simp [Dev.configRequest, h, hr]

theorem Dev.configRequest_write (v : BitVec 32) (h : d.mod.ready = true) (hr : d.inRecovery = false) :
    d.configRequest fuses m b off (.write v) = (d.configWrite fuses m b off v.toNat).emit (.config b false 0) := by
  simp [Dev.configRequest, h, hr]

end

/-- Outside recovery the device ID is 0x4707. -/
theorem Dev.configRead_id {d : Dev} (b : Nat) (h : d.inRecovery = false) : d.configRead b 0 = (0x4707 * 2 ^ 16 + 0x1F3D, d) := by
  simp [Dev.configRead, h]

/-! ### What the port makes of a memory request (R495, R496, R503, R528) -/

section
variable {d : Dev} {p : Option (BitVec 12)} {io : Bool} {b : Nat}

theorem Dev.memReq_unbound (h : d.bindingOf p = none) : d.memReq p io = .unbound := by simp [Dev.memReq, h]

theorem Dev.memReq_mem_unready (h : d.bindingOf p = some b) (hf : d.mod.fw = false) : d.memReq p false = .dead := by simp [Dev.memReq, h, hf]

theorem Dev.memReq_io_unready (h : d.bindingOf p = some b) (hf : d.mod.fw = false) : d.memReq p true = .unsupported := by
  simp [Dev.memReq, h, hf]

theorem Dev.memReq_io_committed (h : d.bindingOf p = some b) (hf : d.mod.fw = true) (hc : kget false d.hdm b = true) :
    d.memReq p true = .unsupported := by simp [Dev.memReq, h, hf, hc]

theorem Dev.memReq_io_uncommitted (h : d.bindingOf p = some b) (hf : d.mod.fw = true) (hc : kget false d.hdm b = false) :
    d.memReq p true = .go b := by simp [Dev.memReq, h, hf, hc]

theorem Dev.memReq_unnegotiated (h : d.bindingOf p = some b) (hf : d.mod.fw = true) (hl : d.is (Reg.HP_LINK.CXL b) = false) :
    d.memReq p false = .dead := by simp [Dev.memReq, h, hf, hl]

theorem Dev.memReq_hot (h : d.bindingOf p = some b) (hf : d.mod.fw = true) (hl : d.is (Reg.HP_LINK.CXL b) = true)
    (ht : d.is Reg.PWR_STATE.THERMAL_HOLD = true) (hm : d.pwr.mr4Over ≠ []) : d.memReq p false = .park := by
  simp [Dev.memReq, h, hf, hl, ht, hm]

theorem Dev.memReq_mem (h : d.bindingOf p = some b) (hf : d.mod.fw = true) (hl : d.is (Reg.HP_LINK.CXL b) = true)
    (ht : d.is Reg.PWR_STATE.THERMAL_HOLD = false ∨ d.pwr.mr4Over = []) : d.memReq p false = .go b := by
  rcases ht with ht | ht <;> simp [Dev.memReq, h, hf, hl, ht]

/-- The decoder lets a request through: it comes by CXL.io, or the decoder is committed. -/
theorem Dev.not_uncommitted (h : io = true ∨ kget false d.hdm b = true) : ¬ (!io && !kget false d.hdm b) = true := by
  rcases h with h | h <;> simp [h]

/-- A write is served for a view only when its request goes through, and a CXL.mem write only by a committed decoder. -/
theorem Dev.memReq_of_writeView (h : d.writeView p io = some b) : d.memReq p io = .go b ∧ (io = true ∨ kget false d.hdm b = true) := by
  unfold Dev.writeView at h
  split at h
  case h_1 c hc =>
    obtain ⟨hserved, hcb⟩ := Option.ite_none_left_eq_some.mp h
    cases hcb
    exact ⟨hc, Decidable.or_iff_not_imp_left.mpr fun hio => by simpa [hio] using hserved⟩
  case h_2 => cases h

end

/-! ### Reads -/

theorem leaves_cxlMemRead (p : Option (BitVec 12)) (io : Bool) (a : BitVec 40) (n : BitVec 9) (s : State) :
    Leaves (.cxlMemRead p io a n) s (s.dev.cxlRead p io a.toNat n.toNat s.dram) := rfl

/-- The answer of all ones. -/
def onesReply (n : Nat) : Output := .reply (List.replicate n 0xFF#8)

section
variable {d : Dev} {p : Option (BitVec 12)} {io : Bool} {b : Nat} (a n : Nat) (m : Memory)

theorem Dev.cxlRead_unbound (h : d.memReq p false = .unbound) :
    d.cxlRead p false a n m = (d.count (Reg.HP_UNBOUND.COUNT 0) 1).emit (onesReply n) := by simp [Dev.cxlRead, h, onesReply]

theorem Dev.cxlRead_dead (h : d.memReq p io = .dead) : d.cxlRead p io a n m = d.emit (onesReply n) := by simp [Dev.cxlRead, h, onesReply]

theorem Dev.cxlRead_unsupported (h : d.memReq p io = .unsupported) (hb : d.bindingOf p = some b) :
    d.cxlRead p io a n m = d.emit (.cxl b cxlUnsupported a) := by simp [Dev.cxlRead, h, hb]

theorem Dev.cxlRead_parked (a : BitVec 40) (n : BitVec 9) (h : d.memReq p io = .park) :
    d.cxlRead p io a.toNat n.toNat m = { d with parked := d.parked ++ [.cxlMemRead p io a n] } := by
  simp [Dev.cxlRead, h, BitVec.ofNat_toNat]

theorem Dev.cxlRead_uncommitted (h : d.memReq p false = .go b) (hc : kget false d.hdm b = false) :
    d.cxlRead p false a n m = ((d.wakeUp .cxlMem).event Reg.MEM_EVENT.UNMAPPED).emit (onesReply n) := by
  simp [Dev.cxlRead, h, hc, onesReply]

theorem Dev.cxlRead_served (h : d.memReq p io = .go b) (hc : io = true ∨ kget false d.hdm b = true) :
    d.cxlRead p io a n m = (d.wakeUp .cxlMem).serveRead b io a n m := by
  have hserved := Dev.not_uncommitted (d := d.wakeUp .cxlMem) (by rwa [Dev.hdm_wakeUp])
  unfold Dev.cxlRead
  rw [h]
  exact if_neg hserved

end

/-! ### What a view reads (R283, R290, R504) -/

section
variable {d : Dev} {b a n : Nat} {m : Memory}

theorem Dev.hostBytes_of_all (h : ((List.range n).all fun i => d.reaches b (a + i)) = true) :
    d.hostBytes m b a n = (List.range n).map fun i => d.readByte m (a + i) :=
  List.map_congr_left fun i hi => if_pos (List.all_eq_true.mp h i hi)

theorem Dev.hostBytes_of_none (h : ((List.range n).any fun i => d.reaches b (a + i)) = false) :
    d.hostBytes m b a n = List.replicate n 0xFF#8 := by
  have hff : d.hostBytes m b a n = (List.range n).map fun _ => 0xFF#8 :=
    List.map_congr_left fun i hi => if_neg (List.any_eq_false.mp h i hi)
  rw [hff, List.map_const', List.length_range]

theorem Dev.serveRead_good (io : Bool) (h : ((List.range n).all fun i => d.reaches b (a + i)) = true) (hg : d.firstBad m a n = none) :
    d.serveRead b io a n m = ((if io then d else d.holdLine b (a / 64 * 64)).useChecks a n).emit
      (.reply ((List.range n).map fun i => d.readByte m (a + i))) := by
  simp [Dev.serveRead, h, hg, Dev.hostBytes_of_all h]

theorem Dev.serveRead_bad {x : Nat} (io : Bool) (h : ((List.range n).all fun i => d.reaches b (a + i)) = true) (hx : d.firstBad m a n = some x) :
    d.serveRead b io a n m = (d.meetBad (some x) .cxlMem).emit (onesReply n) := by
  simp [Dev.serveRead, h, hx, onesReply]

theorem Dev.reaches_iff : d.reaches b a = true ↔ d.mod.trained = true ∧ a < 567 * 2 ^ 30 ∧ (d.dramAt a).isSome = true ∧
    (b = 0 ∨ ∃ t, d.acting b = some t ∧ d.inRegions t a 1 = true) := by
  cases h : d.acting b <;> simp [Dev.reaches, h, and_assoc]

end

/-! ### Which blocks a write is made of -/

theorem blocksOf_one (a : Nat) : blocksOf a 1 = [a / 256 * 256] := by simp [blocksOf]

theorem coversBlock_one (a x : Nat) : coversBlock a 1 x = false := by
  simp only [coversBlock, Bool.and_eq_false_iff, decide_eq_false_iff_not]
  omega

/-! ### Device memory after a write (R290, R309, R504) -/

/-- A sequence of operations that each leave a byte alone leaves it alone. -/
theorem Memory.read_foldl {β : Type} {f : Memory → β → Memory} {l : List β} {k : Nat}
    (hf : ∀ x ∈ l, ∀ m, Memory.read (f m x) k = Memory.read m k) (m : Memory) : Memory.read (l.foldl f m) k = Memory.read m k := by
  induction l generalizing m with
  | nil => rfl
  | cons x l ih => exact (ih (fun y hy => hf y (List.mem_cons_of_mem x hy)) _).trans (hf x List.mem_cons_self m)

section
variable {d : Dev} {p : Option (BitVec 12)} {io : Bool} {b : Nat} (a : Nat) (bs : List Byte) (m : Memory)

theorem Dev.copyBlockMem_of_no_step (h : d.crn.step = none) : d.copyBlockMem a m = m := by simp [Dev.copyBlockMem, h]

theorem Dev.writeWaits_of_no_step (n : Nat) (h : d.crn.step = none) : d.writeWaits a n = false := by simp [Dev.writeWaits, Dev.writeHeld, h]

theorem Dev.hostWriteMem_unserved (h : d.writeView p io = none) : d.hostWriteMem p io a bs m = m := by simp [Dev.hostWriteMem, h]

theorem Dev.hostWriteMem_waits (h : d.writeWaits a bs.length = true) : d.hostWriteMem p io a bs m = m := by
  cases hv : d.writeView p io with
  | none => exact Dev.hostWriteMem_unserved a bs m hv
  | some b => simp [Dev.hostWriteMem, hv, h]

/-- With no step open nothing is copied first, in whichever blocks the view lands. -/
theorem Dev.foldl_copyBlockMem_of_no_step (lands : Nat → Bool) (l : List Nat) (h : d.crn.step = none) :
    l.foldl (fun m x => if lands x then d.copyBlockMem x m else m) m = m := by
  induction l with
  | nil => rfl
  | cons x l ih => rw [List.foldl_cons, Dev.copyBlockMem_of_no_step x m h, ite_self, ih]

theorem Dev.hostWriteMem_no_step (h : d.crn.step = none) (hv : d.writeView p io = some b) :
    d.hostWriteMem p io a bs m = (blocksOf a bs.length).foldl (fun m x => d.hostBlockMem b a bs x m) m := by
  have hwaits : ¬ d.writeWaits a bs.length = true := by rw [Dev.writeWaits_of_no_step a bs.length h]; exact Bool.false_ne_true
  simp only [Dev.hostWriteMem, hv, if_neg hwaits, Dev.foldl_copyBlockMem_of_no_step m (fun x => d.hostLands b (max a x)) _ h]

/-- A block of a write leaves each byte alone but those of the request where the view lands. -/
theorem Dev.read_hostBlockMem (x : Nat) {k : Nat} (h : ∀ y, a ≤ y → y < a + bs.length → d.hostLands b y = true → d.dramAt y ≠ some k) :
    Memory.read (d.hostBlockMem b a bs x m) k = Memory.read m k := by
  unfold Dev.hostBlockMem
  split
  · refine Memory.read_foldl (fun y hy m => ?_) m
    have hlen : y.2 < bs.length := List.snd_lt_of_mem_zipIdx hy
    split
    · next hl => exact Dev.read_writeByte m y.1 (h _ (Nat.le_add_right a y.2) (Nat.add_lt_add_left hlen a) hl.2)
    · rfl
  · rfl

theorem Dev.hostBlockMem_byte (v : Byte) (hl : d.hostLands b a = true) :
    d.hostBlockMem b a [v] (a / 256 * 256) m = if d.isBad m (a / 256 * 256) then m else d.writeByte m a v := by
  cases hb : d.isBad m (a / 256 * 256) <;> simp [Dev.hostBlockMem, Dev.hostWrites, coversBlock_one, hb, hl]

theorem Dev.hostWriteMem_byte (v : Byte) (h : d.crn.step = none) (hv : d.writeView p io = some b) (hl : d.hostLands b a = true) :
    d.hostWriteMem p io a [v] m = if d.isBad m (a / 256 * 256) then m else d.writeByte m a v := by
  rw [Dev.hostWriteMem_no_step a [v] m h hv, List.length_singleton, blocksOf_one]
  exact Dev.hostBlockMem_byte a m v hl

end

/-- A write leaves each byte alone but those of the request where its view lands. -/
theorem Dev.bytesKept_hostWriteMem {d : Dev} (p : Option (BitVec 12)) (io : Bool) (a : Nat) (bs : List Byte) (m : Memory) (h : d.crn.step = none) :
    BytesKept m (d.hostWriteMem p io a bs m) fun k => ∃ b x, d.writeView p io = some b ∧ a ≤ x ∧ x < a + bs.length ∧ d.hostLands b x = true ∧
      d.dramAt x = some k := by
  intro k hk
  cases hv : d.writeView p io with
  | none => rw [Dev.hostWriteMem_unserved a bs m hv]
  | some b =>
    rw [Dev.hostWriteMem_no_step a bs m h hv]
    exact Memory.read_foldl (fun x _ m => Dev.read_hostBlockMem a bs m x fun y h1 h2 h3 h4 => hk ⟨b, y, hv, h1, h2, h3, h4⟩) m

/-! ### Writes -/

theorem stores_cxlMemWrite (p : Option (BitVec 12)) (io : Bool) (a : BitVec 40) (bs : List Byte) (s : State) :
    Stores (.cxlMemWrite p io a bs) s (s.dev.hostWriteMem p io a.toNat bs s.dram) (s.dev.cxlWrite p io a.toNat bs s.dram) := rfl

theorem Dev.cxlWrite_waits {d : Dev} {p : Option (BitVec 12)} {io : Bool} {b : Nat} (a : BitVec 40) (bs : List Byte) (m : Memory)
    (hv : d.writeView p io = some b) (hw : (d.wakeUp .cxlMem).writeWaits a.toNat bs.length = true) :
    d.cxlWrite p io a.toNat bs m =
      { d.wakeUp .cxlMem with heldWrites := (d.wakeUp .cxlMem).heldWrites ++ [.cxlMemWrite p io a bs] } := by
  obtain ⟨hgo, hc⟩ := Dev.memReq_of_writeView hv
  have hserved := Dev.not_uncommitted (d := d.wakeUp .cxlMem) (by rwa [Dev.hdm_wakeUp])
  simp only [Dev.cxlWrite, hgo, if_neg hserved, if_pos hw, BitVec.ofNat_toNat, BitVec.setWidth_eq]

/-! ### HDM decoder 0 (R503) -/

theorem leaves_hdmDecoderCommit (b : BitVec 4) (base size skip : BitVec 64) (ways : BitVec 8) (s : State) :
    Leaves (.hdmDecoderCommit b base size skip ways) s (s.dev.hdmCommit b.toNat base.toNat size.toNat skip.toNat ways.toNat) := rfl

section
variable {d : Dev} (b base size skip ways : Nat)

theorem Dev.hdmCommit_unready (h : d.mod.fw = false) : d.hdmCommit b base size skip ways = d := if_pos (by simp [h])

/-- The decoder is committed by R503's programming, and reports an error at any other. -/
theorem Dev.hdmCommit_ready (h : d.mod.fw = true) :
    let ok := base = d.bar4 b ∧ size = 567 * 2 ^ 30 ∧ skip = 0 ∧ ways = 1
    (kget false (d.hdmCommit b base size skip ways).hdm b = true ↔ ok) ∧
      (kget false (d.hdmCommit b base size skip ways).hdmErr b = true ↔ ¬ ok) := by
  intro ok
  have he : d.hdmCommit b base size skip ways =
      { d with hdm := kset false d.hdm b (decide ok), hdmErr := kset false d.hdmErr b (!decide ok) } := if_neg (by simp [h])
  rw [he]
  simp only [kget_kset_self, decide_eq_true_eq, Bool.not_eq_true', decide_eq_false_iff_not, and_self]

end

/-- Settles O46: a configuration request by the state of the module; a read by what the port makes of it and by the first block that fails;
a write by whether it waits, and with no step open block by block; the decoder by its programming. -/
theorem hostMemory : Obligations.HostMemory := by
  unfold Obligations.HostMemory
  refine ⟨fun b off op s => ?config, fun p io a n s => ⟨fun hb hio => ?unbound, fun b hb => ?bound⟩, fun d b a n m hall => ?serve,
    fun d b a n m => Dev.hostBytes_of_none, fun d b a hr => ?reaches, fun p io a bs s => ?write, fun b base size skip ways s => ?decoder⟩
  case config =>
    have hc := leaves_configRequest b off
    refine ⟨fun hready => (hc op s).congr (Dev.configRequest_retried _ _ _ _ hready), fun hrec hb hready => ?recovery,
      fun hready hrec hoff => ?read, fun v hready hrec => ⟨_, hc (.write v) s, ?wrote⟩⟩
    case recovery =>
      have hb' : b.toNat ≠ 0 := fun h => hb (BitVec.eq_of_toNat_eq h)
      exact (hc op s).congr (Dev.configRequest_recovery _ _ _ _ hready hrec hb')
    case read =>
      refine (hc .read s).congr ?_
      rw [Dev.configRequest_read _ _ _ hready hrec, hoff, BitVec.toNat_zero, Dev.configRead_id _ hrec]
    case wrote =>
      rw [Dev.configRequest_write _ _ _ _ hready hrec]
      exact List.getLast?_concat
  case unbound =>
    subst hio
    exact (leaves_cxlMemRead p false a n s).congr (Dev.cxlRead_unbound _ _ _ (Dev.memReq_unbound hb))
  case bound =>
    have hr := fun io => leaves_cxlMemRead p io a n s
    refine ⟨?memUnready, ?ioUnready, ?unnegotiated, ?mem, ?hot, ?ioCommitted, ?ioUncommitted⟩
    case memUnready =>
      rintro hf rfl
      exact (hr false).congr (Dev.cxlRead_dead _ _ _ (Dev.memReq_mem_unready hb hf))
    case ioUnready =>
      rintro hf rfl
      exact (hr true).congr (Dev.cxlRead_unsupported _ _ _ (Dev.memReq_io_unready hb hf) hb)
    case unnegotiated =>
      rintro hf rfl hl
      exact (hr false).congr (Dev.cxlRead_dead _ _ _ (Dev.memReq_unnegotiated hb hf hl))
    case mem =>
      rintro hf rfl hl ht
      have hgo := Dev.memReq_mem hb hf hl ht
      exact ⟨fun hc => (hr false).congr (Dev.cxlRead_uncommitted _ _ _ hgo hc),
        fun hc => (hr false).congr (Dev.cxlRead_served _ _ _ hgo (.inr hc))⟩
    case hot =>
      rintro hf rfl hl ht hm
      exact (hr false).congr (Dev.cxlRead_parked _ a n (Dev.memReq_hot hb hf hl ht hm))
    case ioCommitted =>
      rintro hf rfl hc
      exact (hr true).congr (Dev.cxlRead_unsupported _ _ _ (Dev.memReq_io_committed hb hf hc) hb)
    case ioUncommitted =>
      rintro hf rfl hc
      exact (hr true).congr (Dev.cxlRead_served _ _ _ (Dev.memReq_io_uncommitted hb hf hc) (.inl rfl))
  case serve =>
    exact ⟨fun hg => ⟨Dev.serveRead_good true hall hg, Dev.serveRead_good false hall hg⟩, fun x io hx => Dev.serveRead_bad io hall hx⟩
  case reaches =>
    obtain ⟨-, hlt, hmapped, hview⟩ := Dev.reaches_iff.mp hr
    exact ⟨hlt, hmapped, hview.resolve_left⟩
  case write =>
    have hst := stores_cxlMemWrite p io a bs s
    refine ⟨fun hv => ⟨_, hst.leaves (Dev.hostWriteMem_unserved _ _ _ hv)⟩,
      fun b hv hd hw => (hst.leaves (Dev.hostWriteMem_waits _ _ _ hd)).congr (Dev.cxlWrite_waits a bs _ hv hw),
      fun hstep => ⟨_, _, hst, Dev.bytesKept_hostWriteMem p io _ bs _ hstep⟩, ?byte⟩
    rintro b v hstep hv rfl hl
    have hm := Dev.hostWriteMem_byte a.toNat s.dram v hstep hv hl
    refine ⟨fun hgood => ⟨s.dev.cxlWrite p io a.toNat [v] s.dram, ?good⟩, fun hbad => ⟨_, hst.leaves (hm.trans (if_pos hbad))⟩⟩
    rwa [hm, hgood, if_neg Bool.false_ne_true] at hst
  case decoder =>
    have hc := leaves_hdmDecoderCommit b base size skip ways s
    refine ⟨fun hf => hc.congr (Dev.hdmCommit_unready _ _ _ _ _ hf), fun hf => ⟨_, hc, ?_⟩⟩
    have hskip : skip.toNat = 0 ↔ skip = 0#64 := BitVec.toNat_inj (y := 0#64)
    have hways : ways.toNat = 1 ↔ ways = 1#8 := BitVec.toNat_inj (y := 1#8)
    have hready := Dev.hdmCommit_ready b.toNat base.toNat size.toNat skip.toNat ways.toNat hf
    rwa [hskip, hways] at hready

end Sys2Proof.Machine
end

section
/-! PROOF. Power and PERST# (R15, R577, R579, R580, R582 to R584): what the fall of the rails and an assertion of PERST# leave of the device,
and which fuses stay blown. -/

namespace Sys2Proof.Machine

/-! ### Registers that hold -/

/-- A key that the filter keeps reads as before, every other one as an unlisted key. -/
theorem kget_kfilter {α : Type} (d : α) (p : Nat → Bool) (m : KMap α) (k : Nat) :
    kget d (kfilter p m) k = if p k = true then kget d m k else d := by
  induction m with
  | nil => exact (ite_self d).symm
  | cons e m ih =>
    obtain ⟨k', v⟩ := e
    rw [kfilter] at ih ⊢
    rw [List.filter_cons]
    by_cases hk : k = k'
    · subst hk
      cases hp : p k
      · simpa [hp] using ih
      · simp [kget]
    · cases hp : p k'
      · simpa [kget, hk] using ih
      · simpa [kget, hk] using ih

/-! ### Power on (R579) -/

theorem leaves_powerOn (s : State) : Leaves .powerOn s s.dev.powerOn := rfl

theorem Dev.powerOn_powered {d : Dev} (h : d.mod.input = true) : d.powerOn = d := if_pos h

theorem Dev.powerOn_off {d : Dev} (h : d.mod.input = false) :
    d.powerOn = ({ d with mod := { d.mod with input := true, rails := [0, 1, 2, 3, 4, 5] } } : Dev).emit (.pin 0 true) :=
  if_neg (by simp [h])

theorem Dev.pwrgd_of_all_rails {d : Dev} (h : d.mod.rails = [0, 1, 2, 3, 4, 5]) : d.pwrgd = true := by
  rw [Dev.pwrgd, h]
  decide

theorem Dev.pwrgd_of_no_rails {d : Dev} (h : d.mod.rails = []) : d.pwrgd = false := by
  rw [Dev.pwrgd, h]
  decide

/-! ### The rails fall (R577, R580) -/

section
variable {s : State} {r : BitVec 3}

theorem noEffect_powerLoss (h : s.dev.mod.input = false) : NoEffect .powerLoss s := if_neg (by simp [h])

theorem exec_powerLoss (h : s.dev.mod.input = true) :
    exec .powerLoss s = .next { s with dev := s.dev.railsFall false, dram := [], fuses := s.dev.fusesOnLoss s.fuses } := by
  rw [← show s.dev.powerLoss = s.dev.railsFall false from if_pos h]
  exact if_pos h

theorem noEffect_railLeavesRegulation (h : r.toNat ∉ s.dev.mod.rails) : NoEffect (.railLeavesRegulation r) s :=
  if_neg (mt List.contains_iff_mem.mp h)

theorem exec_railLeavesRegulation (h : r.toNat ∈ s.dev.mod.rails) :
    exec (.railLeavesRegulation r) s =
      .next { s with dev := s.dev.railsFall s.dev.mod.input, dram := [], fuses := s.dev.fusesOnLoss s.fuses } := by
  have hc := List.contains_iff_mem.mpr h
  rw [← show s.dev.railLeaves r.toNat = s.dev.railsFall s.dev.mod.input from if_pos hc]
  exact if_pos hc

end

/-- MOD_PWRGD is reported to fall only where it was asserted; what remains is what stands outside the die's volatile parts. -/
theorem Dev.railsFall_eq (d : Dev) (input : Bool) : d.railsFall input =
    { ({ d with out := d.out ++ (if d.pwrgd then [.pin 0 false] else []), fresh := d.fresh + 1 } : Dev).remains with
      mod := { input := input, rails := [], dramRails := false, perst := d.mod.perst } } := by
  unfold Dev.railsFall
  cases d.pwrgd
  case true => rfl
  case false =>
    rw [if_neg Bool.false_ne_true, if_neg Bool.false_ne_true, List.append_nil]
    rfl

/-! ### Fuses after the rails fall (R533; which bits a cut-off command has blown is open, notes/assumptions/43.md) -/

section
variable {d : Dev} {bits : BitVec 4096} (f : BitVec 4096)

theorem Dev.fusesOnLoss_idle (h : d.sec.fuseJob = none) : d.fusesOnLoss f = f := by simp only [Dev.fusesOnLoss, h]

theorem Dev.fusesOnLoss_blowing (h : d.sec.fuseJob = some bits) :
    d.fusesOnLoss f = f ||| (bits &&& BitVec.ofNat 4096 (Config.freeNat d.fresh)) := by
  simp only [Dev.fusesOnLoss, h]

variable {f} {i : Nat}

/-- Only bits of the command in progress are blown. -/
theorem Dev.blown_or_asked (h : d.sec.fuseJob = some bits) (hi : (d.fusesOnLoss f).getLsbD i = true) :
    f.getLsbD i = true ∨ bits.getLsbD i = true := by
  rw [Dev.fusesOnLoss_blowing f h, BitVec.getLsbD_or, BitVec.getLsbD_and, Bool.or_eq_true, Bool.and_eq_true] at hi
  exact hi.imp_right And.left

/-- A blown fuse stays blown. -/
theorem Dev.getLsbD_fusesOnLoss (d : Dev) (hi : f.getLsbD i = true) : (d.fusesOnLoss f).getLsbD i = true := by
  cases h : d.sec.fuseJob with
  | none => rwa [Dev.fusesOnLoss_idle f h]
  | some bits => rw [Dev.fusesOnLoss_blowing f h, BitVec.getLsbD_or, hi, Bool.true_or]

end

/-! ### PERST# (R15, R582 to R584) -/

section
variable {ns : Nat} {d : Dev} {s : State}

theorem Dev.perstActs_iff : d.perstActs ns = true ↔ 1000 ≤ ns ∧ d.mod.input = true := by simp [Dev.perstActs]

theorem noEffect_perstAssert (h : s.dev.perstActs ns = false) : NoEffect (.perstAssert ns) s := by
  simp [NoEffect, exec, execPerstAssert, State.onFuses, Dev.perstAssert, h]

theorem exec_perstAssert (h : s.dev.perstActs ns = true) :
    exec (.perstAssert ns) s = .next { s with dev := s.dev.perstAssert ns, fuses := s.dev.fusesAfter s.fuses } := by
  simp [exec, execPerstAssert, State.onFuses, h]

/-- Beside what stands outside the die's volatile parts, the sticky fields, the check stripe, the last die samples and the module's power state
hold. -/
theorem Dev.perstAssert_of_acts (h : d.perstActs ns = true) : d.perstAssert ns =
    { d.remains with
      regs := kfilter (fun k => stickyKeys.contains k) d.regs, badBlk := d.badBlk, ckBuf := d.flushChecks.ckBuf,
      checks := d.flushChecks.checks, dieTemp := d.dieTemp, dieBad := d.dieBad, tim := { everLocked := d.tim.everLocked },
      mod := { d.mod with perst := true, fw := false, ready := false, trained := false, alert := false, baud := 115200 } } :=
  if_neg (by simp [h])

theorem Dev.get_perstAssert (h : d.perstActs ns = true) (F : Fld) :
    (d.perstAssert ns).get F = if F.key ∈ stickyKeys then d.get F else F.rst := by
  rw [Dev.perstAssert_of_acts h]
  simp only [Dev.get, kget_kfilter, List.contains_iff_mem]

end

/-- Settles O51: both losses of power are one fall of the rails (`Dev.railsFall_eq`), and an assertion of PERST# that acts keeps a filter of
the registers (`Dev.get_perstAssert`); every other field is one that `Dev.remains` keeps or gives its power-on value. -/
theorem powerSupply : Obligations.PowerSupply := by
  unfold Obligations.PowerSupply
  refine ⟨fun s => ?on, fun r s => ?loss, fun d f => ?fuses, fun _ => rfl, fun ns s => ?perst⟩
  case on =>
    refine ⟨fun h => (leaves_powerOn s).congr (Dev.powerOn_powered h), fun h => ⟨s.dev.powerOn, leaves_powerOn s, ?_⟩⟩
    rw [Dev.powerOn_off h]
    exact ⟨rfl, Dev.pwrgd_of_all_rails rfl, rfl⟩
  case loss =>
    intro d lost
    have falls {c : Instr} {input : Bool}
        (h : exec c s = .next { s with dev := d.railsFall input, dram := [], fuses := d.fusesOnLoss s.fuses }) : lost c input := by
      rw [Dev.railsFall_eq] at h
      refine ⟨_, h, rfl, Dev.pwrgd_of_no_rails rfl, fun _ => rfl, ?_⟩
      and_intros <;> rfl
    exact ⟨noEffect_powerLoss, fun h => falls (exec_powerLoss h),
      noEffect_railLeavesRegulation, fun h => falls (exec_railLeavesRegulation h)⟩
  case fuses =>
    exact ⟨Dev.fusesOnLoss_idle f, fun _ _ h => Dev.blown_or_asked h, fun _ => Dev.getLsbD_fusesOnLoss d⟩
  case perst =>
    refine ⟨fun h => noEffect_perstAssert ?short, fun hns hin => ?acts⟩
    case short =>
      rw [Bool.eq_false_iff, Ne, Dev.perstActs_iff]
      rintro ⟨hns, hin⟩
      exact h.elim (Nat.not_lt.mpr hns) (by simp [hin])
    case acts =>
      have hact : s.dev.perstActs ns = true := Dev.perstActs_iff.mpr ⟨hns, hin⟩
      have hget := Dev.get_perstAssert hact
      have hexec := exec_perstAssert hact
      rw [Dev.perstAssert_of_acts hact] at hget hexec
      refine ⟨_, hexec, rfl, fun F hF => (hget F).trans (if_pos hF), fun F hF => (hget F).trans (if_neg hF), ?_⟩
      and_intros <;> rfl

end Sys2Proof.Machine
end

section
/-! PROOF. What a command and a step may change (R290, R533, R577, R583): the commands that reach device memory or fuses, the canonical form that
every write of device memory keeps, and the fuses that nothing clears. -/

namespace Sys2Proof.Machine

/-! ### What a command reaches -/

/-- The command answers a next state with the queue as it was; it writes device memory only where `m` is set, fuses only where `f` is. -/
def Reaches (m f : Bool) (c : Instr) (s : State) : Prop :=
  ∃ t, exec c s = .next t ∧ t.pending = s.pending ∧ (m = false → t.dram = s.dram) ∧ (f = false → t.fuses = s.fuses)

theorem Leaves.reaches {c : Instr} {s : State} {d : Dev} (h : Leaves c s d) (m f : Bool) : Reaches m f c s :=
  ⟨_, h, rfl, fun _ => rfl, fun _ => rfl⟩

theorem Stores.reaches {c : Instr} {s : State} {m : Memory} {d : Dev} (h : Stores c s m d) (f : Bool) : Reaches true f c s :=
  ⟨_, h, rfl, nofun, fun _ => rfl⟩

theorem reaches_of_noEffect {c : Instr} {s : State} (h : NoEffect c s) (m f : Bool) : Reaches m f c s :=
  ⟨_, h, rfl, fun _ => rfl, fun _ => rfl⟩

/-! ### The commands that may write device memory -/

theorem noEffect_stepOpen {i : Inst} {s : State} (h : s.dev.canIssue i.core = false) : NoEffect (.stepOpen i) s := if_neg (by simp [h])

theorem stores_stepOpen {i : Inst} {s : State} (h : s.dev.canIssue i.core = true) :
    Stores (.stepOpen i) s (s.dev.stepOpenMem i s.dram) (s.dev.stepOpen i s.dram) := if_pos h

section
variable {core : BitVec 8} {tag : BitVec 24} {j : BitVec 16} {s : State}

theorem noEffect_writeAcknowledgement (h : s.dev.ackable core.toNat tag.toNat j.toNat = none) :
    NoEffect (.writeAcknowledgement core tag j) s := by
  show execWriteAcknowledgement core tag j s = _
  simp only [execWriteAcknowledgement, h]

theorem stores_writeAcknowledgement {x : Store} (h : s.dev.ackable core.toNat tag.toNat j.toNat = some x) :
    Stores (.writeAcknowledgement core tag j) s (s.dev.acceptMem x s.dram) (s.dev.acceptStore x) := by
  show execWriteAcknowledgement core tag j s = _
  simp only [execWriteAcknowledgement, h]
  rfl

end

theorem stores_channelTestDone (ch : BitVec 7) (pass : Bool) (s : State) :
    Stores (.channelTestDone ch pass) s (s.dev.testedMem ch.toNat s.dram) (s.dev.channelTestDone ch.toNat pass) := rfl

theorem stores_stepCopyDone (s : State) : Stores .stepCopyDone s (s.dev.copyAllMem s.dram) (s.dev.copyAll s.dram) := rfl

theorem stores_heldWriteRelease (a : BitVec 40) (s : State) :
    Stores (.heldWriteRelease a) s (s.dev.copyBlockMem a.toNat s.dram) (s.dev.copyBlock a.toNat s.dram) := rfl

theorem stores_tenancySwitch (intact : Bool) (s : State) :
    Stores (.tenancySwitch intact) s (if s.dev.switchReady then s.dev.switchMem s.dram else s.dram) (s.dev.tenancySwitch intact) := rfl

theorem stores_restoreDone (failed : Bool) (s : State) :
    Stores (.restoreDone failed) s (s.dev.restoredMem s.dram) (s.dev.restoreFinish failed s.dram) := rfl

theorem stores_fillDone (bs : List Byte) (s : State) : Stores (.fillDone bs) s (s.dev.fillReachMem bs s.dram) (s.dev.fillReach bs) := rfl

/-- Private instructions of the TAP alone are refused (R534). -/
theorem exec_boundaryScanAccess_private {op : TapOp} {s : State} (h : s.dev.tapPrivate op = true) :
    exec (.boundaryScanAccess op) s = .refused .privateTapInstruction := if_pos h

theorem leaves_boundaryScanAccess {op : TapOp} {s : State} (h : s.dev.tapPrivate op = false) :
    Leaves (.boundaryScanAccess op) s (s.dev.tapAccess op s.fuses.toNat) := if_neg (by simp [h])

theorem reaches_powerLoss (s : State) : Reaches true true .powerLoss s := by
  cases h : s.dev.mod.input with
  | false => exact reaches_of_noEffect (noEffect_powerLoss h) _ _
  | true => exact ⟨_, exec_powerLoss h, rfl, nofun, nofun⟩

theorem reaches_railLeavesRegulation (r : BitVec 3) (s : State) : Reaches true true (.railLeavesRegulation r) s := by
  by_cases h : r.toNat ∈ s.dev.mod.rails
  · exact ⟨_, exec_railLeavesRegulation h, rfl, nofun, nofun⟩
  · exact reaches_of_noEffect (noEffect_railLeavesRegulation h) _ _

/-- Settles O57: device memory by the commands that store, fuses by those that blow them, and every other command by the equation of its arm,
which changes the device alone. -/
theorem whatEachChanges : Obligations.WhatEachChanges := by
  unfold Obligations.WhatEachChanges
  intro c s
  show Reaches (writesMemory c) (writesFuses c) c s ∨ _
  cases c with
  | stepOpen i =>
    cases h : s.dev.canIssue i.core with
    | false => exact .inl (reaches_of_noEffect (noEffect_stepOpen h) _ _)
    | true => exact .inl ((stores_stepOpen h).reaches _)
  | writeAcknowledgement core tag j =>
    cases h : s.dev.ackable core.toNat tag.toNat j.toNat with
    | none => exact .inl (reaches_of_noEffect (noEffect_writeAcknowledgement h) _ _)
    | some x => exact .inl ((stores_writeAcknowledgement h).reaches _)
  | channelTestDone ch pass => exact .inl ((stores_channelTestDone ch pass s).reaches _)
  | stepCopyDone => exact .inl ((stores_stepCopyDone s).reaches _)
  | heldWriteRelease a => exact .inl ((stores_heldWriteRelease a s).reaches _)
  | tenancySwitch intact => exact .inl ((stores_tenancySwitch intact s).reaches _)
  | restoreDone failed => exact .inl ((stores_restoreDone failed s).reaches _)
  | fillDone bs => exact .inl ((stores_fillDone bs s).reaches _)
  | cxlMemWrite p io a bs => exact .inl ((stores_cxlMemWrite p io a bs s).reaches _)
  | powerLoss => exact .inl (reaches_powerLoss s)
  | railLeavesRegulation r => exact .inl (reaches_railLeavesRegulation r s)
  | fuseProgramDone => exact .inl ⟨_, rfl, rfl, fun _ => rfl, nofun⟩
  | perstAssert ns => exact .inl ⟨_, rfl, rfl, fun _ => rfl, nofun⟩
  | perstRelease ok => exact .inl ⟨_, rfl, rfl, fun _ => rfl, nofun⟩
  | boundaryScanAccess op =>
    cases h : s.dev.tapPrivate op with
    | false => exact .inl ((leaves_boundaryScanAccess h).reaches _ _)
    | true => exact .inr ⟨op, rfl, h, exec_boundaryScanAccess_private h⟩
  | _ => exact .inl ⟨_, rfl, rfl, fun _ => rfl, fun _ => rfl⟩

/-! ### Device memory keeps its canonical form -/

section
variable {d : Dev} {m : Memory} (h : Memory.wf m = true)
include h

theorem Dev.wf_copyToMem (n : Nat) : Memory.wf (d.copyToMem n m) = true := by
  unfold Dev.copyToMem
  split
  · split
    · exact Memory.wf_foldl _ (fun m j hm => Dev.wf_copyMem _ _ _ hm) _ h
    · exact h
  · exact h

theorem Dev.wf_copyBlockMem (a : Nat) : Memory.wf (d.copyBlockMem a m) = true := by
  unfold Dev.copyBlockMem
  split
  · split
    · exact Dev.wf_copyToMem h _
    · exact h
  · exact h

theorem Dev.wf_copyAllMem : Memory.wf (d.copyAllMem m) = true := by
  unfold Dev.copyAllMem
  split
  · exact Dev.wf_copyToMem h _
  · exact h

theorem Dev.wf_freeSlotsMem : Memory.wf (d.freeSlotsMem m) = true := by
  unfold Dev.freeSlotsMem
  split
  · split
    · exact Dev.wf_copyToMem h _
    · exact h
  · exact h

theorem Dev.wf_stepOpenMem (i : Inst) : Memory.wf (d.stepOpenMem i m) = true := by
  unfold Dev.stepOpenMem
  dsimp only
  split
  · exact Dev.wf_writeBytes _ _ h
  · exact h

theorem Dev.wf_acceptMem (x : Store) : Memory.wf (d.acceptMem x m) = true := by
  unfold Dev.acceptMem
  split
  · exact Dev.wf_writeMem _ _ _ h
  · exact h

theorem Dev.wf_testedMem (ch : Nat) : Memory.wf (d.testedMem ch m) = true := by
  unfold Dev.testedMem
  split
  · exact Memory.wf_kfilter _ h
  · exact h

theorem Dev.wf_switchMem : Memory.wf (d.switchMem m) = true := by
  unfold Dev.switchMem
  split
  · split
    · exact Memory.wf_foldl _ (fun m r hm => Memory.wf_foldl _ (fun m k hm => Dev.wf_writeByte _ _ hm) _ hm) _ h
    · exact h
  · exact h

theorem Dev.wf_restoredMem : Memory.wf (d.restoredMem m) = true := by
  unfold Dev.restoredMem Dev.restoreMem
  split
  · split
    · exact Memory.wf_foldl _ (fun m j hm => Dev.wf_copyMem _ _ _ hm) _ h
    · exact h
  · exact h

theorem Dev.wf_fillMem (bs : List Byte) : Memory.wf (d.fillMem bs m) = true := by
  unfold Dev.fillMem
  split
  · exact h
  · split
    · exact h
    · split
      · exact Dev.wf_writeBytes _ _ h
      · exact Dev.wf_writeBytes _ _ (Memory.wf_foldl _ (fun m k hm => Dev.wf_writeBytes _ _ hm) _ h)

theorem Dev.wf_fillReachMem (bs : List Byte) : Memory.wf (d.fillReachMem bs m) = true := by
  unfold Dev.fillReachMem
  split
  · exact Dev.wf_fillMem h _
  · exact h

theorem Dev.wf_hostBlockMem (b a : Nat) (bs : List Byte) (x : Nat) : Memory.wf (d.hostBlockMem b a bs x m) = true := by
  unfold Dev.hostBlockMem
  split
  · refine Memory.wf_foldl _ (fun m y hm => ?_) _ h
    split
    · exact Dev.wf_writeByte _ _ hm
    · exact hm
  · exact h

theorem Dev.wf_hostWriteMem (p : Option (BitVec 12)) (io : Bool) (a : Nat) (bs : List Byte) :
    Memory.wf (d.hostWriteMem p io a bs m) = true := by
  unfold Dev.hostWriteMem
  split
  · exact h
  · split
    · exact h
    · refine Memory.wf_foldl _ (fun m x hm => Dev.wf_hostBlockMem hm _ _ _ _) _ (Memory.wf_foldl _ (fun m x hm => ?_) _ h)
      split
      · exact Dev.wf_copyBlockMem hm _
      · exact hm

end

theorem Memory.wf_nil : Memory.wf [] = true := rfl

/-! ### No fuse is cleared (R533) -/

section
variable {d : Dev} {f : BitVec 4096} {i : Nat} (h : f.getLsbD i = true)
include h

theorem Dev.getLsbD_fusesAfter : (d.fusesAfter f).getLsbD i = true := by
  unfold Dev.fusesAfter
  split
  · rw [BitVec.getLsbD_or, h, Bool.true_or]
  · exact h

theorem Dev.getLsbD_bootFuses (ok : Bool) : (d.bootFuses ok f).getLsbD i = true := by
  unfold Dev.bootFuses
  dsimp only
  split
  · rw [BitVec.getLsbD_or, h, Bool.true_or]
  · exact h

end

/-! ### What every step keeps -/

/-- Canonical device memory stays canonical, and every blown fuse stays blown. -/
def Keeps (s t : State) : Prop :=
  (Memory.wf s.dram = true → Memory.wf t.dram = true) ∧ ∀ i, s.fuses.getLsbD i = true → t.fuses.getLsbD i = true

theorem Keeps.refl (s : State) : Keeps s s := ⟨id, fun _ => id⟩

section
variable {c : Instr} {s t : State} (he : exec c s = .next t)
include he

theorem Stores.keeps {m : Memory} {d : Dev} (hs : Stores c s m d) (hm : Memory.wf s.dram = true → Memory.wf m = true) : Keeps s t := by
  cases he.symm.trans hs
  exact ⟨hm, fun _ => id⟩

theorem NoEffect.keeps (hn : NoEffect c s) : Keeps s t := by
  cases he.symm.trans hn
  exact Keeps.refl s

/-- A command that writes neither. -/
theorem keeps_of_writes_neither (hm : writesMemory c = false) (hf : writesFuses c = false) : Keeps s t := by
  rcases whatEachChanges c s with ⟨u, hu, -, hdram, hfuses⟩ | ⟨op, -, -, hr⟩
  · cases he.symm.trans hu
    rw [Keeps, hdram hm, hfuses hf]
    exact ⟨id, fun _ => id⟩
  · cases he.symm.trans hr

end

theorem exec_keeps {c : Instr} {s t : State} (he : exec c s = .next t) : Keeps s t := by
  cases c with
  | stepOpen i =>
    cases h : s.dev.canIssue i.core with
    | false => exact NoEffect.keeps he (noEffect_stepOpen h)
    | true => exact Stores.keeps he (stores_stepOpen h) (Dev.wf_stepOpenMem · i)
  | writeAcknowledgement core tag j =>
    cases h : s.dev.ackable core.toNat tag.toNat j.toNat with
    | none => exact NoEffect.keeps he (noEffect_writeAcknowledgement h)
    | some x => exact Stores.keeps he (stores_writeAcknowledgement h) (Dev.wf_acceptMem · x)
  | channelTestDone ch pass => exact Stores.keeps he (stores_channelTestDone ch pass s) (Dev.wf_testedMem · _)
  | stepCopyDone => exact Stores.keeps he (stores_stepCopyDone s) Dev.wf_copyAllMem
  | heldWriteRelease a => exact Stores.keeps he (stores_heldWriteRelease a s) (Dev.wf_copyBlockMem · _)
  | tenancySwitch intact =>
    refine Stores.keeps he (stores_tenancySwitch intact s) fun hm => ?_
    split
    · exact Dev.wf_switchMem hm
    · exact hm
  | restoreDone failed => exact Stores.keeps he (stores_restoreDone failed s) Dev.wf_restoredMem
  | fillDone bs => exact Stores.keeps he (stores_fillDone bs s) (Dev.wf_fillReachMem · bs)
  | cxlMemWrite p io a bs => exact Stores.keeps he (stores_cxlMemWrite p io a bs s) (Dev.wf_hostWriteMem · p io _ bs)
  | powerLoss =>
    cases h : s.dev.mod.input with
    | false => exact NoEffect.keeps he (noEffect_powerLoss h)
    | true =>
      cases he.symm.trans (exec_powerLoss h)
      exact ⟨fun _ => Memory.wf_nil, fun _ => Dev.getLsbD_fusesOnLoss s.dev⟩
  | railLeavesRegulation r =>
    by_cases h : r.toNat ∈ s.dev.mod.rails
    · cases he.symm.trans (exec_railLeavesRegulation h)
      exact ⟨fun _ => Memory.wf_nil, fun _ => Dev.getLsbD_fusesOnLoss s.dev⟩
    · exact NoEffect.keeps he (noEffect_railLeavesRegulation h)
  | fuseProgramDone =>
    cases he
    exact ⟨id, fun _ => Dev.getLsbD_fusesAfter⟩
  | perstAssert ns =>
    cases he
    refine ⟨id, fun i hi => ?_⟩
    dsimp only
    split
    · exact Dev.getLsbD_fusesAfter hi
    · exact hi
  | perstRelease ok =>
    cases he
    exact ⟨id, fun _ hi => Dev.getLsbD_bootFuses hi ok⟩
  | _ => exact keeps_of_writes_neither he rfl rfl

theorem idle_keeps (s : State) : Keeps s s.idle := by
  unfold State.idle
  dsimp only
  split
  · exact ⟨Dev.wf_freeSlotsMem, fun _ => id⟩
  · exact Keeps.refl s

/-- Settles O58: a step is a command or an idle step; of the commands, those that write device memory write it byte by byte or remove bytes
(`Dev.wf_…`), and those that write fuses only add bits. -/
theorem stepKeeps : Obligations.StepKeeps := by
  unfold Obligations.StepKeeps
  intro s t h
  show Keeps s t
  unfold step at h
  split at h
  · have hk := exec_keeps h
    exact hk
  · cases h
    exact idle_keeps s

end Sys2Proof.Machine
end

section
/-! PROOF. The issue of an occurrence, and the fetch stage (R46, R47, R83, R137, R138, R223): a fetch takes the units of its lanes, and each of its
ticks serves one row. -/

namespace Sys2Proof.Machine

/-! ### The issue of an occurrence -/

/-- An occurrence that may issue does what its unit does. -/
theorem State.issue_of_canIssue {i : Inst} {s : State} (h : s.dev.canIssue i.core = true) (f : Dev → Dev) :
    s.issue i f = .next { s with dev := f s.dev } := by
  simp only [State.issue, State.on, h, if_true]

theorem laneList_ne_nil {x : BitVec 2} (h : x ≠ 0#2) : laneList x.toNat ≠ [] := by
  revert h
  revert x
  decide

/-! ### Fetches of rows and of vector buffers -/

section
variable {i : Inst} {s : State}

theorem leaves_fetchVbuf (h : s.dev.canIssue i.core = true) : Leaves (.fetchVbuf i) s (s.dev.fetchVbuf i) := State.issue_of_canIssue h _

theorem leaves_fetchWgt (h : s.dev.canIssue i.core = true) : Leaves (.fetchWgt i) s (s.dev.fetchWgt i) := State.issue_of_canIssue h _

end

/-- The device with the fetch unit of every selected lane taken. -/
def Dev.fetching (i : Inst) (d : Dev) : Dev := d.forLanes i 0 fun o l d => d.took o l i.interval i.cnt

section
variable {d : Dev} {i : Inst} (hf : d.lanesFree i 0 = true)
include hf

theorem Dev.fetchRow_of_free (hl : i.lane ≠ 0#2) :
    d.fetchRow i = (d.fetching i).fetchRowTick i (d.owner i 0 i.lane.toNat) 0 := by
  have hne := laneList_ne_nil hl
  simp only [Dev.fetchRow, Dev.takeLanes_free _ _ hf, inLanes_all hne, List.isEmpty_iff, hne, if_false]
  rfl

theorem Dev.fetchVbuf_of_free : d.fetchVbuf i = (d.fetching i).forLanes i 0 fun o l d => d.fetchVbufTick i o 0 l := by
  simp only [Dev.fetchVbuf, Dev.takeLanes_free _ _ hf]
  rfl

end

/-! ### Fetches of weights -/

/-- The shadow `ws` of a lane begins to fill for the occurrence. -/
def LaneSt.filling (i : Inst) (ws full : Nat) (x : LaneSt) : LaneSt := x.setWs ws { x.ws ws with fill := some (i.tag.toNat, full) }

/-- A lane whose shadow takes COUNT goes on, with the shadow filling. -/
theorem Dev.fillLane_of_room {d : Dev} {i : Inst} {l : Nat} (o : Owner) (full : Nat) (acc : List Nat) (hw : d.watchOff = true)
    (hd : opTile i.opd = 8 ∨ opTile i.opd = 9)
    (hc : i.cnt ≤ fetchWgtLimit ((d.lane i.coreN l).ws (opTile i.opd - 8)).cfg) :
    Dev.fillLane i o (opTile i.opd - 8) full (acc, d) l =
      (acc ++ [l], d.onLane i.coreN l (LaneSt.filling i (opTile i.opd - 8) full)) := by
  have hno : ¬ (fetchWgtLimit ((d.lane i.coreN l).ws (opTile i.opd - 8)).cfg < i.cnt ∨ (opTile i.opd ≠ 8 ∧ opTile i.opd ≠ 9)) := by omega
  simp only [Dev.fillLane, if_neg hno, Dev.checkReuse_off hw]
  rfl

/-- Every selected lane goes on. -/
theorem Dev.foldl_fillLane_of_room {d : Dev} {i : Inst} (o : Owner) (full : Nat) (hw : d.watchOff = true)
    (hd : opTile i.opd = 8 ∨ opTile i.opd = 9)
    (hc : ∀ l ∈ laneList i.lane.toNat, i.cnt ≤ fetchWgtLimit ((d.lane i.coreN l).ws (opTile i.opd - 8)).cfg) :
    (laneList i.lane.toNat).foldl (Dev.fillLane i o (opTile i.opd - 8) full) ([], d) =
      (laneList i.lane.toNat, d.forLanes i 0 fun _ l d => d.onLane i.coreN l (LaneSt.filling i (opTile i.opd - 8) full)) := by
  unfold Dev.forLanes
  rcases laneList_cases i.lane.toNat with e | e | e | e <;> rw [e] at hc ⊢
  case inl => rfl
  case inr.inl | inr.inr.inl =>
    simp only [List.foldl, Dev.fillLane_of_room o full [] hw hd (hc _ List.mem_cons_self), List.nil_append]
  case inr.inr.inr =>
    have h1 : i.cnt ≤ fetchWgtLimit (((d.onLane i.coreN 0 (LaneSt.filling i (opTile i.opd - 8) full)).lane i.coreN 1).ws
        (opTile i.opd - 8)).cfg := by
      rw [Dev.lane_onLane_ne _ _ (Or.inr (by decide))]
      exact hc 1 (by decide)
    have hw1 : (d.onLane i.coreN 0 (LaneSt.filling i (opTile i.opd - 8) full)).watchOff = true := hw
    simp only [List.foldl, Dev.fillLane_of_room o full [] hw hd (hc 0 List.mem_cons_self), Dev.fillLane_of_room o full [0] hw1 hd h1,
      List.nil_append, List.cons_append]

theorem Dev.fetchWgt_of_room {d : Dev} {i : Inst} (hf : d.lanesFree i 0 = true) (hl : i.lane ≠ 0#2) (hw : d.watchOff = true)
    (hd : opTile i.opd = 8 ∨ opTile i.opd = 9)
    (hc : ∀ l ∈ laneList i.lane.toNat, i.cnt ≤ fetchWgtLimit ((d.lane i.coreN l).ws (opTile i.opd - 8)).cfg) :
    d.fetchWgt i = (((d.fetching i).forLanes i 0 fun _ l e => e.onLane i.coreN l
        (LaneSt.filling i (opTile i.opd - 8) (d.run.tick + (i.cnt - 1) * i.interval + d.lead))).noteFilled i.coreN i.spec
        ((laneList i.lane.toNat).map fun l => (l, opTile i.opd - 8))).fetchWgtTick i (d.owner i 0 i.lane.toNat) 0 := by
  have hne := laneList_ne_nil hl
  obtain ⟨b, hb⟩ := Dev.forLanes_took d i 0 i.interval i.cnt
  have hfill := Dev.foldl_fillLane_of_room (d := d.fetching i) (d.owner i 0 i.lane.toNat) (d.run.tick + (i.cnt - 1) * i.interval + d.lead)
    (by rw [Dev.fetching, hb]; exact hw) hd (by rw [Dev.fetching, hb]; exact hc)
  simp only [Dev.fetchWgt, Dev.takeLanes_free _ _ hf]
  rw [← Dev.fetching, hfill]
  simp only [inLanes_all hne, List.isEmpty_iff, hne, if_false]

/-! ### The ticks of a fetch -/

/-- The landings of a served row are due `L` ticks after the read, in each lane alike. -/
theorem Dev.landWgts_eq (i : Inst) (o : Owner) (bank row : Nat) (act : Nat → Act) (d : Dev) :
    ((laneList i.lane.toNat).foldl (fun e l => e.sched (e.run.tick + e.lead) true o (act l)) (d.rowServed i.coreN bank row o)) =
      (d.rowServed i.coreN bank row o).forLanes i 0 fun _ l e => e.sched (d.run.tick + d.lead) true o (act l) := by
  unfold Dev.forLanes
  rcases laneList_cases i.lane.toNat with e | e | e | e <;> rw [e] <;> rfl

/-- Settles O1: the issue of each fetch with its units free (`Dev.fetchRow_of_free` and its neighbours), and each tick by the row that it
reads. -/
theorem fetchStreams : Obligations.FetchStreams := by
  unfold Obligations.FetchStreams
  refine ⟨fun i s hi hf hl => ⟨?row, ?vbuf, fun hw hd hc => ?wgt⟩, fun i d o j hw hr => ⟨?rowTick, ?wgtTick⟩, fun i d o j l hw hp => ?vbufTick⟩
  case row => exact (leaves_fetchRow hi).congr (Dev.fetchRow_of_free hf hl)
  case vbuf => exact (leaves_fetchVbuf hi).congr (Dev.fetchVbuf_of_free hf)
  case wgt => exact (leaves_fetchWgt hi).congr (Dev.fetchWgt_of_room hf hl hw hd hc)
  case rowTick =>
    simp only [Dev.fetchRowTick, Dev.readRow_ok o hr hw]
    rfl
  case wgtTick =>
    simp only [Dev.fetchWgtTick, Dev.readRow_ok o hr hw, Dev.landWgts_eq i o (opBank i.opa) (opRow i.opa + j)]
  case vbufTick => simp only [Dev.fetchVbufTick, Dev.readVbuf_ok o hp hw]

end Sys2Proof.Machine
end

section
/-! PROOF. Tile registers (R131 to R135, R147, R149): TCFG, TZERO and TMOV at issue, lane by lane, and what their landings leave of a lane. -/

namespace Sys2Proof.Machine

/-! ### What keeps a unit free -/

/-- A unit is as free as the busy list and the tick say. -/
theorem Dev.unitFree_congr {d e : Dev} (hb : e.run.busy = d.run.busy) (ht : e.run.tick = d.run.tick) (c u l : Nat) :
    e.unitFree c u l = d.unitFree c u l := by
  simp only [Dev.unitFree, hb, ht]

@[simp] theorem Dev.unitFree_onLane (d : Dev) (c l : Nat) (f : LaneSt → LaneSt) (k u m : Nat) :
    (d.onLane c l f).unitFree k u m = d.unitFree k u m := rfl

@[simp] theorem Dev.unitFree_sched (d : Dev) (t : Nat) (b : Bool) (o : Owner) (a : Act) (k u m : Nat) :
    (d.sched t b o a).unitFree k u m = d.unitFree k u m := rfl

@[simp] theorem Dev.unitFree_ported (d : Dev) (p x : Nat) (o : Owner) (k u m : Nat) :
    (d.ported p x o).unitFree k u m = d.unitFree k u m := rfl

theorem Dev.lanesFree_iff {d : Dev} {i : Inst} {unit : Nat} :
    d.lanesFree i unit = true ↔ ∀ l ∈ laneList i.lane.toNat, d.unitFree i.coreN unit l = true := List.all_eq_true

/-! ### TCFG -/

section
variable {i : Inst} {s : State} (h : s.dev.canIssue i.core = true)
include h

theorem leaves_tcfg : Leaves (.tcfg i) s (s.dev.forLanes i 10 (Dev.tcfgLane i)) := State.issue_of_canIssue h _

theorem leaves_tzero : Leaves (.tzero i) s (s.dev.forLanes i 10 (Dev.tzeroLane i)) := State.issue_of_canIssue h _

theorem leaves_tmov : Leaves (.tmov i) s (s.dev.forLanes i 10 (Dev.tmovLane i)) := State.issue_of_canIssue h _

end

/-- A register that takes the configuration gets it. -/
theorem Dev.tcfgLane_of_ok {d : Dev} {i : Inst} {o : Owner} {l : Nat} (hf : d.unitFree o.core o.unit l = true) (hw : d.watchOff = true)
    (hk : tcfgOk (d.lane i.coreN l) (opTile i.opd) (tcfgOf i) = true) :
    d.tcfgLane i o l = (d.took o l 1 1).onLane i.coreN l (LaneSt.setCfg (opTile i.opd) (tcfgOf i)) := by
  have hw1 : (d.took o l 1 1).watchOff = true := hw
  simp only [Dev.tcfgLane, Dev.takeUnit_free 1 1 hf, Dev.lane_took, hk, Dev.hazard_off hw1]
  cases (d.took o l 1 1).inFlightOn i.coreN l (opTile i.opd) <;> rfl

theorem Dev.forLanes_tcfgLane {d : Dev} {i : Inst} (hf : d.lanesFree i 10 = true) (hw : d.watchOff = true)
    (hk : ∀ l ∈ laneList i.lane.toNat, tcfgOk (d.lane i.coreN l) (opTile i.opd) (tcfgOf i) = true) :
    d.forLanes i 10 (Dev.tcfgLane i) =
      d.forLanes i 10 fun o l d => (d.took o l 1 1).onLane i.coreN l (LaneSt.setCfg (opTile i.opd) (tcfgOf i)) := by
  refine Dev.forLanes_each (fun l d => d.unitFree i.coreN 10 l = true ∧ d.watchOff = true ∧
    tcfgOk (d.lane i.coreN l) (opTile i.opd) (tcfgOf i) = true) (fun l hl => ⟨Dev.lanesFree_iff.mp hf l hl, hw, hk l hl⟩) ?lane ?next
  case lane =>
    rintro l d ⟨hf, hw, hk⟩
    exact Dev.tcfgLane_of_ok hf hw hk
  case next =>
    rintro d - ⟨hf, hw, hk⟩
    refine ⟨?_, hw, ?_⟩
    · rw [Dev.unitFree_onLane, Dev.unitFree_took (by decide)]
      exact hf
    · rw [Dev.lane_onLane_ne _ _ (.inr (by decide))]
      exact hk

/-! ### TZERO -/

theorem Dev.tzeroLane_of_free {d : Dev} {i : Inst} {o : Owner} {l : Nat} (hf : d.unitFree o.core o.unit l = true) :
    d.tzeroLane i o l = (d.took o l 1 1).sched (d.run.tick + 1) true o
      (.tzero l (opTile i.opd) ((d.lane i.coreN l).headExact (opTile i.opd) && opTile i.opd == headOf (opTile i.opd))) := by
  simp only [Dev.tzeroLane, Dev.takeUnit_free 1 1 hf]
  rfl

theorem Dev.forLanes_tzeroLane {d : Dev} {i : Inst} (hf : d.lanesFree i 10 = true) :
    d.forLanes i 10 (Dev.tzeroLane i) = d.forLanes i 10 fun o l d => (d.took o l 1 1).sched (d.run.tick + 1) true o
      (.tzero l (opTile i.opd) ((d.lane i.coreN l).headExact (opTile i.opd) && opTile i.opd == headOf (opTile i.opd))) := by
  refine Dev.forLanes_each (fun l d => d.unitFree i.coreN 10 l = true) (Dev.lanesFree_iff.mp hf)
    (fun l d hf => Dev.tzeroLane_of_free hf) fun d _ hf => ?_
  rw [Dev.unitFree_sched, Dev.unitFree_took (by decide)]
  exact hf

/-- One register zeroed, its flag clear (R147, R149). -/
def LaneSt.zeroReg (x : LaneSt) (g : Nat) : LaneSt :=
  { x with acc := kfilter (fun k => k / 64 != g) x.acc, accUse := kset false x.accUse g false }

theorem LaneSt.zeroTile_eq_foldl (x : LaneSt) (exact : Bool) (reg : Nat) :
    x.zeroTile exact reg = (groupRegs exact reg).foldl LaneSt.zeroReg x := rfl

theorem LaneSt.zeroRegs_eq (L : List Nat) (x : LaneSt) :
    L.foldl LaneSt.zeroReg x = { x with acc := (L.foldl LaneSt.zeroReg x).acc, accUse := (L.foldl LaneSt.zeroReg x).accUse } := by
  induction L generalizing x with
  | nil => rfl
  | cons a t ih => exact ih _

/-- Registers zeroed one after another read as all zero; the others as before. -/
theorem LaneSt.accRow_zeroRegs (L : List Nat) (x : LaneSt) (g : Nat) {r : Nat} (hr : r < 64) :
    (L.foldl LaneSt.zeroReg x).accRow g r = if g ∈ L then 0#2048 else x.accRow g r := by
  induction L generalizing x with
  | nil => rfl
  | cons a t ih =>
    rw [List.foldl_cons, ih]
    by_cases hg : g = a
    · simp [LaneSt.zeroReg, LaneSt.accRow, hg]
    · have hk : (g * 64 + r) / 64 = g := by omega
      simp [LaneSt.zeroReg, LaneSt.accRow, hg, kget_kset_ne, kget_kfilter, hk]

/-! ### TMOV -/

section
variable {d : Dev} {i : Inst} {o : Owner} {l : Nat} {ca cd : TileCfg}

/-- A row of a TMOV whose port is free: the tick's row is read, and the last one sends the whole to its landing. -/
theorem Dev.tmovRow_of_open (j : Nat) {lt : Latch} (ha : lt.cfgA = some ca) (hd : lt.cfgD = some cd)
    (hp : opTile i.opa < 8 → d.portOpen portQueue (i.coreN * 2 + l) 1 = true) :
    let d1 := if opTile i.opa < 8 then d.ported portQueue (i.coreN * 2 + l) o else d
    let x := d.lane i.coreN l
    let lt1 : Latch := { lt with rows0 := lt.rows0 ++ [x.sourceRow (opTile i.opa) ca j] }
    let lt2 : Latch := if opTile i.opa < 8 then lt1 else { lt1 with extra := (x.weightReg (opTile i.opa)).scaleRow ca.fmt }
    d.tmovRow i o j l lt = if j < 63 then d1.sched (d.run.tick + 1) false o (.row 0xA2 i (j + 1) l lt1)
      else d1.sched (d.run.tick + 3) true o (.landTmov i l lt2) := by
  by_cases h : opTile i.opa < 8
  · simp only [Dev.tmovRow, ha, hd, h, if_true, Dev.usePort_open o (hp h)]
    rfl
  · simp only [Dev.tmovRow, ha, hd, h, if_false]

/-- What TMOV notes of a weight shadow that it fills. -/
def Dev.movNoted (i : Inst) (l : Nat) (d : Dev) : Dev :=
  if opTile i.opd = 8 ∨ opTile i.opd = 9 then d.noteFilled i.coreN i.spec [(l, opTile i.opd - 8)] else d

/-- What the first row of a TMOV latches. -/
def Dev.movLatch (d : Dev) (i : Inst) (ca cd : TileCfg) : Latch :=
  { cfgA := some ca, cfgD := some cd, key := (d.passKey (i.extBits 0 10)).1, ctr := (d.passKey (i.extBits 0 10)).2, pass := d.run.passNo }

theorem Dev.run_movNoted (d : Dev) (i : Inst) (l : Nat) : (d.movNoted i l).run = d.run := by
  unfold Dev.movNoted Dev.noteFilled
  split
  · split <;> rfl
  · rfl

theorem Dev.watchOff_movNoted (d : Dev) (i : Inst) (l : Nat) : (d.movNoted i l).watchOff = d.watchOff := by
  unfold Dev.movNoted Dev.noteFilled
  split
  · split <;> rfl
  · rfl

theorem Dev.lane_movNoted (d : Dev) (i : Inst) (l c m : Nat) : (d.movNoted i l).lane c m = d.lane c m := by
  unfold Dev.movNoted Dev.noteFilled
  split
  · split
    · by_cases hc : c = i.coreN
      · subst hc
        simp only [Dev.lane, Dev.core_onCore_self]
        rfl
      · simp only [Dev.lane, Dev.core_onCore_ne _ _ hc]
    · rfl
  · rfl

/-- Between registers that it may join, a TMOV reads its first row. -/
theorem Dev.tmovLane_of_ok (hf : d.unitFree o.core o.unit l = true) (hw : d.watchOff = true)
    (ha : (d.lane i.coreN l).regCfg (opTile i.opa) = some ca) (hd : (d.lane i.coreN l).regCfg (opTile i.opd) = some cd)
    (hk : tmovOk (opTile i.opa) (opTile i.opd) ca cd = true) :
    d.tmovLane i o l = ((d.took o l 1 64).movNoted i l).tmovRow i o 0 l (d.movLatch i ca cd) := by
  have hw1 : (d.took o l 1 64).watchOff = true := hw
  simp only [Dev.tmovLane, Dev.takeUnit_free 1 64 hf, Dev.lane_took, ha, hd, hk, Dev.checkReuse_off hw1]
  rfl

end

/-- The conditions under which a TMOV goes on in a lane. -/
def Dev.MovReady (i : Inst) (ca cd : Nat → TileCfg) (l : Nat) (d : Dev) : Prop :=
  d.unitFree i.coreN 10 l = true ∧ d.watchOff = true ∧ (d.lane i.coreN l).regCfg (opTile i.opa) = some (ca l) ∧
  (d.lane i.coreN l).regCfg (opTile i.opd) = some (cd l) ∧ tmovOk (opTile i.opa) (opTile i.opd) (ca l) (cd l) = true ∧
  (opTile i.opa < 8 → d.portOpen portQueue (i.coreN * 2 + l) 1 = true)

/-- The first row of a TMOV in lane 0 leaves it ready in lane 1. -/
theorem Dev.MovReady.next {d : Dev} {i : Inst} {ca cd : Nat → TileCfg} {o : Owner} {lt : Latch} {a c : TileCfg} (h0 : d.MovReady i ca cd 0)
    (h1 : d.MovReady i ca cd 1) (ha : lt.cfgA = some a) (hc : lt.cfgD = some c) :
    (((d.took o 0 1 64).movNoted i 0).tmovRow i o 0 0 lt).MovReady i ca cd 1 := by
  obtain ⟨-, -, -, -, -, hp0⟩ := h0
  obtain ⟨hf, hw, hra, hrd, hk, hp⟩ := h1
  have hrun := Dev.run_movNoted (d.took o 0 1 64) i 0
  have hport (x : Nat) : ((d.took o 0 1 64).movNoted i 0).portOpen portQueue x 1 = d.portOpen portQueue x 1 := by
    simp only [Dev.portOpen, Dev.portUses, hrun]
    rfl
  have hfree : ((d.took o 0 1 64).movNoted i 0).unitFree i.coreN 10 1 = true := by
    rw [Dev.unitFree_congr (congrArg RunSt.busy hrun) (congrArg RunSt.tick hrun), Dev.unitFree_took (by decide)]
    exact hf
  rw [Dev.tmovRow_of_open 0 ha hc (by rw [hport]; exact hp0)]
  by_cases h8 : opTile i.opa < 8 <;>
    simp only [h8, if_true, if_false, show 0 < 63 from by decide, Dev.MovReady, Dev.unitFree_sched, Dev.unitFree_ported, hfree, Dev.lane_sched,
      Dev.watchOff_sched, Dev.watchOff_ported, Dev.lane_ported, Dev.lane_movNoted, Dev.watchOff_movNoted, Dev.lane_took, hra, hrd, hk,
      true_and, false_implies, and_true, true_implies]
  · refine ⟨hw, ?_⟩
    have hne := Dev.portOpen_ported (d := (d.took o 0 1 64).movNoted i 0) (kind := portQueue) (idx := i.coreN * 2 + 0) (lim := 1)
      (idx' := i.coreN * 2 + 1) o (by omega)
    exact hne.trans ((hport _).trans (hp h8))
  · exact hw

theorem Dev.forLanes_tmovLane {d : Dev} {i : Inst} {ca cd : Nat → TileCfg} (hr : ∀ l ∈ laneList i.lane.toNat, d.MovReady i ca cd l) :
    d.forLanes i 10 (Dev.tmovLane i) = d.forLanes i 10 fun o l d =>
      ((d.took o l 1 64).movNoted i l).tmovRow i o 0 l (d.movLatch i (ca l) (cd l)) := by
  refine Dev.forLanes_each (fun l d => d.MovReady i ca cd l) hr (fun l d h => ?_) fun d h0 h1 => h0.next h1 rfl rfl
  obtain ⟨hf, hw, hra, hrd, hk, -⟩ := h
  exact Dev.tmovLane_of_ok hf hw hra hrd hk

/-! ### The landing of a TMOV -/

/-- Rows written from key `n` on are read back. -/
theorem kget_foldl_zipIdx {α : Type} [DecidableEq α] (d : α) (l : List α) (m : KMap α) (n k : Nat) :
    kget d ((l.zipIdx n).foldl (fun m p => kset d m p.2 p.1) m) k = if n ≤ k then (l[k - n]?).getD (kget d m k) else kget d m k := by
  induction l generalizing m n with
  | nil => simp
  | cons a t ih =>
    rw [List.zipIdx_cons, List.foldl_cons, ih]
    rcases Nat.lt_trichotomy k n with h | h | h
    · rw [if_neg (by omega), if_neg (by omega), kget_kset_ne _ _ _ (by omega)]
    · subst h
      rw [if_neg (by omega), if_pos (Nat.le_refl k), Nat.sub_self, kget_kset_self]
      rfl
    · have hk : k - n = k - (n + 1) + 1 := by omega
      rw [if_pos (by omega), if_pos (by omega), hk, List.getElem?_cons_succ, kget_kset_ne _ _ _ (by omega)]

@[simp] theorem LaneSt.ws_setWs_self (x : LaneSt) (n : Nat) (w : WReg) : (x.setWs n w).ws n = w := by
  by_cases h : n = 0 <;> simp [LaneSt.ws, LaneSt.setWs, h]

/-- Settles O2: each of the three at issue, lane by lane (`Dev.forLanes_tcfgLane` and its neighbours), a configuration by the kind of its
register, a zeroed tile register by register, and the landing of a TMOV by the kind of its destination. -/
theorem tileRegisters : Obligations.TileRegisters := by
  unfold Obligations.TileRegisters
  refine ⟨fun i s hi hf hw => ⟨fun hk => ?tcfg, ?tzero, fun ca cd hr => ?tmov⟩, fun x reg c => ?cfg, fun d o l reg exact hw => ?landZero,
    fun x exact reg g r hr => ⟨?zeroed, ?zeroFrame⟩, fun i d o j l lt ca cd ha hd hp => Dev.tmovRow_of_open j ha hd hp,
    fun i d o l lt ca cd ha hd hw => ⟨fun ht => ?tile, fun ht x hx => ?weights⟩⟩
  case tcfg => exact (leaves_tcfg hi).congr (Dev.forLanes_tcfgLane hf hw hk)
  case tzero => exact (leaves_tzero hi).congr (Dev.forLanes_tzeroLane hf)
  case tmov =>
    refine (leaves_tmov hi).congr (Dev.forLanes_tmovLane fun l hl => ?_)
    obtain ⟨hra, hrd, hk, hp⟩ := hr l hl
    exact ⟨Dev.lanesFree_iff.mp hf l hl, hw, hra, hrd, hk, hp⟩
  case cfg =>
    dsimp only
    by_cases h8 : reg < 8
    · simp [LaneSt.setCfg, h8, LaneSt.cfgOf, LaneSt.accRow, LaneSt.gvRow]
      omega
    · by_cases h10 : reg < 10
      · by_cases h0 : reg - 8 = 0 <;>
          simp [LaneSt.setCfg, h8, h10, LaneSt.accRow, LaneSt.gvRow, LaneSt.setWs, LaneSt.ws, h0] <;> omega
      · simp [LaneSt.setCfg, h8, h10, LaneSt.accRow, LaneSt.gvRow]
        omega
  case landZero => simp only [Dev.landTzero, Dev.checkReuse_off hw, if_true]
  case zeroed =>
    rw [LaneSt.zeroTile_eq_foldl]
    exact LaneSt.accRow_zeroRegs _ x g hr
  case zeroFrame => exact LaneSt.zeroRegs_eq _ x
  case tile => simp only [Dev.landTmov, ha, hd, ht, if_true, Dev.landTileWhole, Dev.checkReuse_off hw]
  case weights =>
    simp only [Dev.landTmov, ha, hd, ht, if_false, Dev.landWeights, Dev.checkReuse_off hw, Bool.not_true, Bool.false_eq_true,
      Dev.lane_onLane_self] at hx
    subst hx
    rw [LaneSt.ws_setWs_self]
    refine ⟨rfl, rfl, fun r h => ?_⟩
    rw [kget_foldl_zipIdx, if_pos (Nat.zero_le r), Nat.sub_zero, List.getElem?_eq_getElem h]
    rfl

end Sys2Proof.Machine
end

section
/-! PROOF. Matrix streams and the GEMV path (R99, R129, R136, R139, R141 to R146, R151 to R153): how an occurrence joins the operation on its tile,
what a row that enters is and where it lands. -/

namespace Sys2Proof.Machine

/-! ### The first of a list changed -/

theorem find?_updFirst {α : Type} {p : α → Bool} {f : α → α} (hp : ∀ a, p a = true → p (f a) = true) (l : List α) :
    (updFirst p f l).find? p = (l.find? p).map f := by
  induction l with
  | nil => rfl
  | cons a t ih =>
    by_cases h : p a = true
    · simp [updFirst, h, hp a h]
    · simp [updFirst, h, ih]

/-! ### What an occurrence on a tile may change -/

/-- Beside the cores, only the queue of the run's acts and its tile operations differ. -/
def Dev.OpsOnly (d e : Dev) : Prop := e = { d with cores := e.cores, run := { d.run with sched := e.run.sched, ops := e.run.ops } }

theorem Dev.OpsOnly.trans {d e f : Dev} (h : d.OpsOnly e) (h' : e.OpsOnly f) : d.OpsOnly f := by
  unfold Dev.OpsOnly at h'
  rw [h] at h'
  exact h'

theorem Dev.OpsOnly.refl (d : Dev) : d.OpsOnly d := rfl

theorem Dev.opsOnly_onLane (d : Dev) (c l : Nat) (f : LaneSt → LaneSt) : d.OpsOnly (d.onLane c l f) := rfl

theorem Dev.opsOnly_sched (d : Dev) (t : Nat) (b : Bool) (o : Owner) (a : Act) : d.OpsOnly (d.sched t b o a) := rfl

theorem Dev.opsOnly_onOp (d : Dev) (c l t : Nat) (f : TileOp → TileOp) : d.OpsOnly (d.onRun (RunSt.onOp c l t f)) := rfl

theorem Dev.OpsOnly.tick {d e : Dev} (h : d.OpsOnly e) : e.run.tick = d.run.tick := by rw [h]

theorem Dev.OpsOnly.unitFree {d e : Dev} (h : d.OpsOnly e) (c u l : Nat) : e.unitFree c u l = d.unitFree c u l := by rw [h]; rfl

theorem Dev.OpsOnly.watchOff {d e : Dev} (h : d.OpsOnly e) : e.watchOff = d.watchOff := by rw [h]; rfl

/-! ### Joining an operation (R99, R144, R146) -/

/-- With Watchpost off an occurrence enters its tile's operation. -/
theorem Dev.enterOp_off {d : Dev} (hw : d.watchOff = true) (m : Member) (lane tile c : Nat) :
    d.enterOp m lane tile c = (some (joinOp m.owner.core lane tile m c d.run.ops).1,
      d.onRun fun x => { x with ops := (joinOp m.owner.core lane tile m c d.run.ops).2 }) := by
  simp only [Dev.enterOp, Dev.checkReuse_off hw]
  split <;> rfl

/-! ### The rows of a stream -/

section
variable (d : Dev) (o : Owner) (fmt tile l member j : Nat)

theorem Dev.opsOnly_enterRow : d.OpsOnly (d.enterRow o fmt tile l member j) := by
  have h : d.OpsOnly (if j % rowsPerEntry (fmtClass fmt) = 0 then d.onLane o.core l (LaneSt.takeLatch d.run.tick) else d) := by
    split
    · exact Dev.opsOnly_onLane _ _ _ _
    · exact Dev.OpsOnly.refl d
  exact (h.trans (Dev.opsOnly_onOp _ _ _ _ _)).trans (Dev.opsOnly_sched _ _ _ _ _)

theorem LaneSt.takeLatch_eq (t : Nat) (x : LaneSt) : ∃ a b, x.takeLatch t = { x with inLatch := a, inSrc := b } := by
  unfold LaneSt.takeLatch
  split <;> exact ⟨_, _, rfl⟩

theorem LaneSt.inLatch_takeLatch (t : Nat) (x : LaneSt) : (x.takeLatch t).inLatch = ((x.presented 0 t).map Entry.data).getD 0#4096 := by
  unfold LaneSt.takeLatch
  cases x.presented 0 t <;> rfl

/-- A row that enters leaves every other lane alone. -/
theorem Dev.lane_enterRow_ne {c m : Nat} (h : c ≠ o.core ∨ (m = 0) ≠ (l = 0)) : (d.enterRow o fmt tile l member j).lane c m = d.lane c m := by
  show (if j % rowsPerEntry (fmtClass fmt) = 0 then d.onLane o.core l (LaneSt.takeLatch d.run.tick) else d).lane c m = _
  split
  · exact Dev.lane_onLane_ne d _ h
  · rfl

/-- What is committed in its own lane stays. -/
theorem Dev.acc_enterRow : ((d.enterRow o fmt tile l member j).lane o.core l).acc = (d.lane o.core l).acc ∧
    ((d.enterRow o fmt tile l member j).lane o.core l).accUse = (d.lane o.core l).accUse := by
  show (Dev.lane (if j % rowsPerEntry (fmtClass fmt) = 0 then d.onLane o.core l (LaneSt.takeLatch d.run.tick) else d) o.core l).acc = _ ∧
    (Dev.lane (if j % rowsPerEntry (fmtClass fmt) = 0 then d.onLane o.core l (LaneSt.takeLatch d.run.tick) else d) o.core l).accUse = _
  split
  · rw [Dev.lane_onLane_self]
    obtain ⟨a, b, h⟩ := LaneSt.takeLatch_eq d.run.tick (d.lane o.core l)
    rw [h]
    exact ⟨rfl, rfl⟩
  · exact ⟨rfl, rfl⟩

/-- The row lands 133 ticks later; its bits are its slice of the entry last presented. -/
theorem Dev.sched_enterRow :
    let entry := if j % rowsPerEntry (fmtClass fmt) = 0 then (((d.lane o.core l).presented 0 d.run.tick).map Entry.data).getD 0#4096
      else (d.lane o.core l).inLatch
    ∃ r : MatRow, r.j = j ∧ r.member = member ∧
      r.data = BitVec.ofNat 1024 (rowBits entry (64 * elemBits fmt * (j % rowsPerEntry (fmtClass fmt))) (64 * elemBits fmt)) ∧
      (d.enterRow o fmt tile l member j).run.sched =
        d.run.sched ++ [{ due := d.run.tick + 133, land := true, owner := o, act := .landMat l tile r }] := by
  unfold Dev.enterRow
  by_cases h : j % rowsPerEntry (fmtClass fmt) = 0 <;> simp only [h, if_true, if_false]
  · refine ⟨_, rfl, rfl, ?_, rfl⟩
    dsimp only
    rw [Dev.lane_onLane_self, LaneSt.inLatch_takeLatch]
  · exact ⟨_, rfl, rfl, rfl, rfl⟩

end

section
variable (opc : Nat) (i : Inst) (d : Dev) (o : Owner) (j l : Nat) (lt : Latch)

/-- Two 4-bit rows enter in one tick (R141). -/
abbrev rowsPaired (i : Inst) (j : Nat) : Prop := entryTick (fmtClass i.fmt) i.exact (j + 1) = entryTick (fmtClass i.fmt) i.exact j

/-- The device once the rows of a stream's tick have entered. -/
def Dev.streamEntered (i : Inst) (o : Owner) (j l : Nat) (lt : Latch) (d : Dev) : Dev :=
  let d1 := d.enterRow o i.fmt (opTile i.opd) l lt.bits j
  if rowsPaired i j ∧ j + 1 < i.cnt then
    d1.enterRow o i.fmt (opTile i.opd) l lt.bits (j + 1)
  else d1

/-- A stream's tick: its rows enter, and the next one may be asked for. -/
theorem Dev.streamTick_eq : d.streamTick opc i o j l lt = d.streamEntered i o j l lt ∨
    ∃ t j', d.streamTick opc i o j l lt = (d.streamEntered i o j l lt).sched t false o (.row opc i j' l lt) := by
  by_cases h : (if rowsPaired i j then j + 2 else j + 1) < i.cnt
  · exact .inr ⟨_, _, if_pos h⟩
  · exact .inl (if_neg h)

theorem Dev.opsOnly_streamEntered : d.OpsOnly (d.streamEntered i o j l lt) := by
  have h1 := Dev.opsOnly_enterRow d o i.fmt (opTile i.opd) l lt.bits j
  unfold Dev.streamEntered
  dsimp only
  split
  · exact h1.trans (Dev.opsOnly_enterRow _ _ _ _ _ _ _)
  · exact h1

theorem Dev.opsOnly_streamTick : d.OpsOnly (d.streamTick opc i o j l lt) := by
  have h1 := Dev.opsOnly_streamEntered i d o j l lt
  rcases Dev.streamTick_eq opc i d o j l lt with h | ⟨t, j', h⟩ <;> rw [h]
  · exact h1
  · exact h1.trans (Dev.opsOnly_sched _ _ _ _ _)

theorem Dev.lane_streamTick_ne {c m : Nat} (h : c ≠ o.core ∨ (m = 0) ≠ (l = 0)) :
    (d.streamTick opc i o j l lt).lane c m = d.lane c m := by
  have h1 : (d.streamEntered i o j l lt).lane c m = d.lane c m := by
    unfold Dev.streamEntered
    dsimp only
    split
    · rw [Dev.lane_enterRow_ne _ _ _ _ _ _ _ h, Dev.lane_enterRow_ne _ _ _ _ _ _ _ h]
    · rw [Dev.lane_enterRow_ne _ _ _ _ _ _ _ h]
  rcases Dev.streamTick_eq opc i d o j l lt with e | ⟨t, j', e⟩ <;> rw [e]
  · exact h1
  · exact h1

theorem Dev.acc_streamTick : ((d.streamTick opc i o j l lt).lane o.core l).acc = (d.lane o.core l).acc ∧
    ((d.streamTick opc i o j l lt).lane o.core l).accUse = (d.lane o.core l).accUse := by
  have h1 : ((d.streamEntered i o j l lt).lane o.core l).acc = (d.lane o.core l).acc ∧
      ((d.streamEntered i o j l lt).lane o.core l).accUse = (d.lane o.core l).accUse := by
    obtain ⟨ha, hu⟩ := Dev.acc_enterRow d o i.fmt (opTile i.opd) l lt.bits j
    unfold Dev.streamEntered
    dsimp only
    split
    · obtain ⟨ha', hu'⟩ := Dev.acc_enterRow (d.enterRow o i.fmt (opTile i.opd) l lt.bits j) o i.fmt (opTile i.opd) l lt.bits (j + 1)
      exact ⟨ha'.trans ha, hu'.trans hu⟩
    · exact ⟨ha, hu⟩
  rcases Dev.streamTick_eq opc i d o j l lt with e | ⟨t, j', e⟩ <;> rw [e]
  · exact h1
  · exact h1

/-- What the first row of the tick has sent to its landing stays in the queue. -/
theorem Dev.mem_sched_streamTick {x : Item} (h : x ∈ (d.enterRow o i.fmt (opTile i.opd) l lt.bits j).run.sched) :
    x ∈ (d.streamTick opc i o j l lt).run.sched := by
  have h1 : x ∈ (d.streamEntered i o j l lt).run.sched := by
    unfold Dev.streamEntered
    dsimp only
    split
    · obtain ⟨r, -, -, -, hs⟩ := Dev.sched_enterRow (d.enterRow o i.fmt (opTile i.opd) l lt.bits j) o i.fmt (opTile i.opd) l lt.bits (j + 1)
      rw [hs]
      exact List.mem_append_left _ h
    · exact h
  rcases Dev.streamTick_eq opc i d o j l lt with e | ⟨t, j', e⟩ <;> rw [e]
  · exact h1
  · exact List.mem_append_left _ h1

end

/-! ### A stream at issue -/

section
variable {i : Inst} {s : State} (h : s.dev.canIssue i.core = true)
include h

theorem leaves_matStream : Leaves (.matStream i) s (s.dev.forLanes i 1 (Dev.streamLane 0x11 i)) := State.issue_of_canIssue h _

theorem leaves_matStreamT : Leaves (.matStreamT i) s (s.dev.forLanes i 1 (Dev.streamLane 0x12 i)) := State.issue_of_canIssue h _

theorem leaves_gemvLoadv : Leaves (.gemvLoadv i) s (s.dev.forLanes i 2 (Dev.loadvLane i)) := State.issue_of_canIssue h _

theorem leaves_gemvMac : Leaves (.gemvMac i) s (s.dev.forLanes i 2 (Dev.gemvLane i)) := State.issue_of_canIssue h _

end

/-- The member that a stream with weights under `cw` and destination under `cd` adds to its tile's operation. -/
def Dev.streamMember (d : Dev) (opc : Nat) (i : Inst) (cw cd : TileCfg) (o : Owner) (l : Nat) : Member :=
  { owner := o, opc := opc, cfgD := cd, cfgW := cw,
    weights := if opTile i.opb = 12 then { (d.lane i.coreN l).weightSide (opTile i.opb) with srcs := [] }
      else (d.lane i.coreN l).weightSide (opTile i.opb),
    acc := i.acc, rnd := i.rnd, key := (d.passKey (i.extBits 0 10)).1, ctr := (d.passKey (i.extBits 0 10)).2,
    stream := i.extBits 10 16, pass := d.run.passNo, lin := i.lin, count := i.cnt, busy := streamBusy (fmtClass i.fmt) i.exact i.cnt }

/-- The matrix unit taken and the shadow it names, if it names one, swapped into the array. -/
def Dev.streamTook (i : Inst) (o : Owner) (l : Nat) (d : Dev) : Dev :=
  if opTile i.opb = 12 then d.took o l 1 (streamBusy (fmtClass i.fmt) i.exact i.cnt)
  else (d.took o l 1 (streamBusy (fmtClass i.fmt) i.exact i.cnt)).onLane i.coreN l (LaneSt.swap (opTile i.opb - 8))

/-- What a stream that its registers accept does in a lane. -/
def Dev.streamEnters (opc : Nat) (i : Inst) (cw cd : TileCfg) (o : Owner) (l : Nat) (d : Dev) : Dev :=
  let p := joinOp o.core l (opTile i.opd) (d.streamMember opc i cw cd o l)
    (d.run.tick + streamBusy (fmtClass i.fmt) i.exact i.cnt + 134) d.run.ops
  ((d.streamTook i o l).onRun fun r => { r with ops := p.2 }).streamTick opc i o 0 l { bits := p.1 }

theorem Dev.streamLane_of_ok {d : Dev} {opc : Nat} {i : Inst} {o : Owner} {l : Nat} {cw cd : TileCfg}
    (hf : d.unitFree o.core o.unit l = true) (hw : d.watchOff = true)
    (hk : streamOk i (d.lane i.coreN l) (opc == 0x12) = some (cw, cd)) : d.streamLane opc i o l = d.streamEnters opc i cw cd o l := by
  have hw1 : (d.took o l 1 (streamBusy (fmtClass i.fmt) i.exact i.cnt)).watchOff = true := hw
  have hfill (b : Bool) (tag : Nat) : (if b = true then (true, d.took o l 1 (streamBusy (fmtClass i.fmt) i.exact i.cnt))
      else (d.took o l 1 (streamBusy (fmtClass i.fmt) i.exact i.cnt)).hazard 3 o tag 1 (opTile i.opb)) =
      (true, d.took o l 1 (streamBusy (fmtClass i.fmt) i.exact i.cnt)) := by
    rw [Dev.hazard_off hw1]
    exact ite_self _
  by_cases hb : opTile i.opb = 12
  · have hw2 : (d.streamTook i o l).watchOff = true := by rw [Dev.streamTook, if_pos hb]; exact hw
    rw [Dev.streamTook, if_pos hb] at hw2
    simp only [Dev.streamLane, Dev.takeUnit_free 1 _ hf, Dev.lane_took, hk, hb, if_true, true_or, Dev.streamEnters, Dev.streamTook,
      Dev.streamMember]
    cases ((d.lane i.coreN l).weightSide 12).fill <;> simp only [Dev.enterOp_off hw2] <;> rfl
  · have hw2 : (d.streamTook i o l).watchOff = true := by rw [Dev.streamTook, if_neg hb]; exact hw
    rw [Dev.streamTook, if_neg hb] at hw2
    simp only [Dev.streamLane, Dev.takeUnit_free 1 _ hf, Dev.lane_took, hk, hb, if_false, false_or, Dev.streamEnters, Dev.streamTook,
      Dev.streamMember]
    cases ((d.lane i.coreN l).weightSide (opTile i.opb)).fill <;>
      simp only [Dev.hazard_off hw1, Bool.not_true, Bool.false_eq_true, if_false, Dev.enterOp_off hw2] <;> rfl

theorem Dev.forLanes_streamLane {d : Dev} {opc : Nat} {i : Inst} {cw cd : Nat → TileCfg} (hf : d.lanesFree i 1 = true)
    (hw : d.watchOff = true)
    (hk : ∀ l ∈ laneList i.lane.toNat, streamOk i (d.lane i.coreN l) (opc == 0x12) = some (cw l, cd l)) :
    d.forLanes i 1 (Dev.streamLane opc i) = d.forLanes i 1 fun o l d => d.streamEnters opc i (cw l) (cd l) o l := by
  refine Dev.forLanes_each (fun l d => d.unitFree i.coreN 1 l = true ∧ d.watchOff = true ∧
    streamOk i (d.lane i.coreN l) (opc == 0x12) = some (cw l, cd l)) (fun l hl => ⟨Dev.lanesFree_iff.mp hf l hl, hw, hk l hl⟩) ?lane ?next
  case lane =>
    rintro l d ⟨hf, hw, hk⟩
    exact Dev.streamLane_of_ok hf hw hk
  case next =>
    rintro d - ⟨hf, hw, hk⟩
    have hlane (o : Owner) : (d.streamTook i o 0).lane i.coreN 1 = d.lane i.coreN 1 := by
      unfold Dev.streamTook
      split
      · rfl
      · rw [Dev.lane_onLane_ne _ _ (.inr (by decide))]
        rfl
    have hfree (o : Owner) : (d.streamTook i o 0).unitFree i.coreN 1 1 = true := by
      unfold Dev.streamTook
      split <;> exact (Dev.unitFree_took (by decide)).trans hf
    have hoff (o : Owner) : (d.streamTook i o 0).watchOff = true := by
      unfold Dev.streamTook
      split <;> exact hw
    unfold Dev.streamEnters
    dsimp only
    refine ⟨?_, ?_, ?_⟩
    · rw [(Dev.opsOnly_streamTick _ _ _ _ _ _ _).unitFree]
      exact hfree _
    · rw [(Dev.opsOnly_streamTick _ _ _ _ _ _ _).watchOff]
      exact hoff _
    · rw [Dev.lane_streamTick_ne _ _ _ _ _ _ _ (.inr (by decide)), Dev.lane_onRun, hlane]
      exact hk

/-! ### The swap -/

theorem LaneSt.swap_array (x : LaneSt) (n : Nat) : (x.swap n).array = { x.ws n with used := true, fill := none } := rfl

theorem LaneSt.ws_swap (x : LaneSt) (n m : Nat) :
    (x.swap n).ws m = (x.setWs n { (x.ws n).emptied with fill := (x.ws n).fill }).ws m := rfl

theorem LaneSt.ws_setWs_ne (x : LaneSt) {n m : Nat} (w : WReg) (h : (m = 0) ≠ (n = 0)) : (x.setWs n w).ws m = x.ws m := by
  by_cases hn : n = 0 <;> by_cases hm : m = 0 <;> simp_all [LaneSt.ws, LaneSt.setWs]

/-- Settles O3: a stream at issue lane by lane (`Dev.forLanes_streamLane`), the swap by its shadow, the operation by whether one is in flight on
the tile, a row that enters by `Dev.sched_enterRow`, and its landing by whether its values are in range. -/
theorem matrixStreams : Obligations.MatrixStreams := by
  unfold Obligations.MatrixStreams
  refine ⟨fun i s cw cd hi hf hw => ⟨fun hk => ?stream, fun hk => ?streamT⟩, fun x b hb => ?swap, fun core lane tile m c ops => ?join,
    fun opc i d o j l lt => ?row, fun o l tile r d op m ho hm => ⟨fun rows hr => ?lands, fun hr => ?breach⟩⟩
  case stream => exact (leaves_matStream hi).congr (Dev.forLanes_streamLane (opc := 0x11) hf hw hk)
  case streamT => exact (leaves_matStreamT hi).congr (Dev.forLanes_streamLane (opc := 0x12) hf hw hk)
  case swap =>
    refine ⟨LaneSt.swap_array x _, ?_, ?_, ?_, ?_⟩
    · rw [LaneSt.ws_swap, LaneSt.ws_setWs_self]
      rfl
    · rw [LaneSt.ws_swap, LaneSt.ws_setWs_self]
      rfl
    · rw [LaneSt.ws_swap, LaneSt.ws_setWs_self]
      rfl
    · rw [LaneSt.ws_swap, LaneSt.ws_setWs_ne]
      rcases hb with rfl | rfl <;> decide
  case join =>
    refine ⟨fun h => ?_, fun o h => ?_⟩
    · simp only [joinOp, h]
    · simp only [joinOp, h]
      refine ⟨trivial, ?_⟩
      rw [find?_updFirst fun a ha => by exact ha]
      exact congrArg (Option.map _) h
  case row =>
    obtain ⟨hacc, huse⟩ := Dev.acc_streamTick opc i d o j l lt
    obtain ⟨r, hj, hm, hd, hs⟩ := Dev.sched_enterRow d o i.fmt (opTile i.opd) l lt.bits j
    have hin := List.mem_append_right d.run.sched (List.mem_singleton_self
      ({ due := d.run.tick + 133, land := true, owner := o, act := .landMat l (opTile i.opd) r } : Item))
    rw [← hs] at hin
    exact ⟨⟨_, Dev.mem_sched_streamTick opc i d o j l lt hin, rfl, rfl, rfl, r, rfl, hj, hm, hd⟩, hacc, huse,
      Dev.opsOnly_streamTick opc i d o j l lt⟩
  case lands => simp only [Dev.landMat, ho, hm, hr]
  case breach => simp only [Dev.landMat, ho, hm, hr]

/-! ### GEMV (R151 to R153) -/

/-- The entry that the GEMV unit takes in this tick. -/
def LaneSt.gemvTaken (x : LaneSt) (t : Nat) : Row × Src := ((x.presented 1 t).map fun e => (e.data, e.src)).getD (0#4096, .kept)

theorem LaneSt.gemvTaken_fst (x : LaneSt) (t : Nat) : (x.gemvTaken t).1 = ((x.presented 1 t).map Entry.data).getD 0#4096 := by
  unfold LaneSt.gemvTaken
  cases x.presented 1 t <;> rfl

/-- Entry `j` of a vector register is loaded; a register that was not in use held zeros (R149). -/
def LaneSt.loadGv (g j issue : Nat) (e : Row × Src) (x : LaneSt) : LaneSt :=
  { x with gv := kset 0#4096 (if kget false x.gvUse g then x.gv else kfilter (fun k => k / 32 != g) x.gv) (g * 32 + j) e.1,
           gvSrc := kset (.kept, 0) x.gvSrc (g * 32 + j) (e.2, issue), gvUse := kset false x.gvUse g true }

/-- A loaded entry reads as it was loaded, every other entry as before. -/
theorem LaneSt.gvRow_loadGv (x : LaneSt) (g issue : Nat) (e : Row × Src) (h : Nat) {j k : Nat} (hj : j < 32) (hk : k < 32) :
    (x.loadGv g j issue e).gvRow h k = if h = g ∧ k = j then e.1 else x.gvRow h k := by
  unfold LaneSt.loadGv
  by_cases hg : h = g
  · subst hg
    by_cases hkj : k = j
    · simp [LaneSt.gvRow, hkj]
    · have hdiv : (h * 32 + k) / 32 = h := by omega
      cases hu : kget false x.gvUse h <;> simp [LaneSt.gvRow, hkj, kget_kset_ne, kget_kfilter, hu, hdiv]
  · have hne : h * 32 + k ≠ g * 32 + j := by omega
    have hdiv : (h * 32 + k) / 32 ≠ g := by omega
    cases hu : kget false x.gvUse g <;> simp [LaneSt.gvRow, hg, kget_kset_ne, hne, kget_kfilter, hdiv]

theorem Dev.loadvTick_eq (d : Dev) (i : Inst) (o : Owner) (j l : Nat) : d.loadvTick i o j l =
    let d1 := d.onLane i.coreN l (LaneSt.loadGv (opTile i.opd - 10) j o.issue ((d.lane i.coreN l).gemvTaken d.run.tick))
    if j + 1 < i.cnt then d1.sched (d.run.tick + 1) false o (.row 0x21 i (j + 1) l {}) else d1 := by
  unfold Dev.loadvTick LaneSt.gemvTaken LaneSt.loadGv
  cases (d.lane i.coreN l).presented 1 d.run.tick <;> rfl

section
variable {d : Dev} {i : Inst} {o : Owner} {l : Nat}

theorem Dev.loadvLane_of_ok (hf : d.unitFree o.core o.unit l = true) (hw : d.watchOff = true) (hc : i.cnt ≤ 32)
    (hd : opTile i.opd = 10 ∨ opTile i.opd = 11) : d.loadvLane i o l = (d.took o l 1 i.cnt).loadvTick i o 0 l := by
  have hno : ¬ (32 < i.cnt ∨ (opTile i.opd ≠ 10 ∧ opTile i.opd ≠ 11)) := by omega
  have hw1 : (d.took o l 1 i.cnt).watchOff = true := hw
  simp only [Dev.loadvLane, Dev.takeUnit_free 1 i.cnt hf, hno, if_false, Dev.checkReuse_off hw1]
  rfl

theorem Dev.opsOnly_loadvTick (d : Dev) (i : Inst) (o : Owner) (j l : Nat) : d.OpsOnly (d.loadvTick i o j l) := by
  unfold Dev.loadvTick
  dsimp only
  split <;> rfl

theorem Dev.forLanes_loadvLane (hf : d.lanesFree i 2 = true) (hw : d.watchOff = true) (hc : i.cnt ≤ 32)
    (hd : opTile i.opd = 10 ∨ opTile i.opd = 11) :
    d.forLanes i 2 (Dev.loadvLane i) = d.forLanes i 2 fun o l d => (d.took o l 1 i.cnt).loadvTick i o 0 l := by
  refine Dev.forLanes_each (fun l d => d.unitFree i.coreN 2 l = true ∧ d.watchOff = true)
    (fun l hl => ⟨Dev.lanesFree_iff.mp hf l hl, hw⟩) ?lane ?next
  case lane =>
    rintro l d ⟨hf, hw⟩
    exact Dev.loadvLane_of_ok hf hw hc hd
  case next =>
    rintro d - ⟨hf, hw⟩
    rw [(Dev.opsOnly_loadvTick _ _ _ _ _).unitFree, (Dev.opsOnly_loadvTick _ _ _ _ _).watchOff]
    exact ⟨(Dev.unitFree_took (by decide)).trans hf, hw⟩

/-- The member that a GEMV.MAC adds to its tile's operation. -/
def Dev.gemvMember (d : Dev) (i : Inst) (cg cd : TileCfg) (o : Owner) (l : Nat) : Member :=
  { owner := o, opc := 0x22, cfgD := cd, cfgW := cg, weights := {},
    gv := kfilter (fun k => kget false (d.lane i.coreN l).gvUse (k / 32)) (d.lane i.coreN l).gv, gvSrc := (d.lane i.coreN l).gvSrc,
    gv2 := decide (2 ≤ cd.rows), acc := i.acc, rnd := i.rnd, key := (d.passKey (i.extBits 0 10)).1,
    ctr := (d.passKey (i.extBits 0 10)).2, stream := i.extBits 10 16, pass := d.run.passNo, lin := i.lin, count := i.cnt, busy := i.cnt }

/-- What a GEMV.MAC that its registers accept does in a lane. -/
def Dev.gemvEnters (i : Inst) (cg cd : TileCfg) (o : Owner) (l : Nat) (d : Dev) : Dev :=
  let p := joinOp o.core l (opTile i.opd) (d.gemvMember i cg cd o l) (d.run.tick + i.cnt + 12) d.run.ops
  ((d.took o l 1 i.cnt).onRun fun r => { r with ops := p.2 }).gemvTick i o 0 l { bits := p.1 }

theorem Dev.gemvLane_of_ok {cg cd : TileCfg} (hf : d.unitFree o.core o.unit l = true) (hw : d.watchOff = true)
    (hk : gemvOk i (d.lane i.coreN l) = some (cg, cd)) : d.gemvLane i o l = d.gemvEnters i cg cd o l := by
  have hw1 : (d.took o l 1 i.cnt).watchOff = true := hw
  simp only [Dev.gemvLane, Dev.takeUnit_free 1 i.cnt hf, Dev.lane_took, hk, Dev.enterOp_off hw1]
  rfl

/-- The entry kept with a member of an operation. -/
def TileOp.taking (n : Nat) (x : Row × Src) (p : TileOp) : TileOp :=
  { p with members := p.members.zipIdx.map fun q => if q.2 = n then { q.1 with taken := q.1.taken ++ [x] } else q.1 }

theorem Dev.gemvTick_eq (d : Dev) (i : Inst) (o : Owner) (j l : Nat) (lt : Latch) : d.gemvTick i o j l lt =
    let d1 := d.onRun (RunSt.onOp o.core l (opTile i.opd) (TileOp.taking lt.bits ((d.lane i.coreN l).gemvTaken d.run.tick)))
    if j + 1 < i.cnt then d1.sched (d.run.tick + 1) false o (.row 0x22 i (j + 1) l lt)
    else d1.sched (d.run.tick + 12) true o (.landGemv l (opTile i.opd) lt.bits) := by
  unfold Dev.gemvTick LaneSt.gemvTaken TileOp.taking
  cases (d.lane i.coreN l).presented 1 d.run.tick <;> rfl

/-- The run alone changes, and of it only the queue and the tile operations. -/
theorem Dev.gemvTick_frame (d : Dev) (i : Inst) (o : Owner) (j l : Nat) (lt : Latch) : d.gemvTick i o j l lt =
    { d with run := { d.run with sched := (d.gemvTick i o j l lt).run.sched, ops := (d.gemvTick i o j l lt).run.ops } } := by
  rw [Dev.gemvTick_eq]
  dsimp only
  split <;> rfl

theorem Dev.sched_gemvTick (d : Dev) (i : Inst) (o : Owner) (j l : Nat) (lt : Latch) : (d.gemvTick i o j l lt).run.sched =
    d.run.sched ++ [if j + 1 < i.cnt then { due := d.run.tick + 1, land := false, owner := o, act := .row 0x22 i (j + 1) l lt }
      else { due := d.run.tick + 12, land := true, owner := o, act := .landGemv l (opTile i.opd) lt.bits }] := by
  rw [Dev.gemvTick_eq]
  dsimp only
  split <;> rfl

theorem Dev.opOn_gemvTick (d : Dev) (i : Inst) (o : Owner) (j l : Nat) (lt : Latch) :
    (d.gemvTick i o j l lt).opOn o.core l (opTile i.opd) =
      (d.opOn o.core l (opTile i.opd)).map (TileOp.taking lt.bits ((d.lane i.coreN l).gemvTaken d.run.tick)) := by
  have h : (d.gemvTick i o j l lt).run.ops = updFirst (fun p => p.core == o.core && p.lane == l && p.tile == opTile i.opd)
      (TileOp.taking lt.bits ((d.lane i.coreN l).gemvTaken d.run.tick)) d.run.ops := by
    rw [Dev.gemvTick_eq]
    dsimp only
    split <;> rfl
  simp only [Dev.opOn, h]
  refine find?_updFirst ?_ _
  exact fun a ha => ha

theorem Dev.forLanes_gemvLane {cg cd : Nat → TileCfg} (hf : d.lanesFree i 2 = true) (hw : d.watchOff = true)
    (hk : ∀ l ∈ laneList i.lane.toNat, gemvOk i (d.lane i.coreN l) = some (cg l, cd l)) :
    d.forLanes i 2 (Dev.gemvLane i) = d.forLanes i 2 fun o l d => d.gemvEnters i (cg l) (cd l) o l := by
  refine Dev.forLanes_each (fun l d => d.unitFree i.coreN 2 l = true ∧ d.watchOff = true ∧ gemvOk i (d.lane i.coreN l) = some (cg l, cd l))
    (fun l hl => ⟨Dev.lanesFree_iff.mp hf l hl, hw, hk l hl⟩) ?lane ?next
  case lane =>
    rintro l d ⟨hf, hw, hk⟩
    exact Dev.gemvLane_of_ok hf hw hk
  case next =>
    rintro d - ⟨hf, hw, hk⟩
    unfold Dev.gemvEnters
    dsimp only
    rw [Dev.gemvTick_frame]
    exact ⟨(Dev.unitFree_took (by decide)).trans hf, hw, hk⟩

end

theorem Dev.lane_loadvTick (d : Dev) (i : Inst) (o : Owner) (j l : Nat) : (d.loadvTick i o j l).lane i.coreN l =
    (d.lane i.coreN l).loadGv (opTile i.opd - 10) j o.issue ((d.lane i.coreN l).gemvTaken d.run.tick) := by
  rw [Dev.loadvTick_eq]
  dsimp only
  split
  · rw [Dev.lane_sched, Dev.lane_onLane_self]
  · rw [Dev.lane_onLane_self]

theorem Dev.sched_loadvTick (d : Dev) (i : Inst) (o : Owner) (j l : Nat) : (d.loadvTick i o j l).run.sched =
    d.run.sched ++ (if j + 1 < i.cnt then [{ due := d.run.tick + 1, land := false, owner := o, act := .row 0x21 i (j + 1) l {} }] else []) := by
  unfold Dev.loadvTick
  dsimp only
  split
  · rfl
  · exact (List.append_nil _).symm

/-- Settles O4: both occurrences at issue lane by lane, their ticks by the entry presented, and the landing by whether D has a second row. -/
theorem gemvStreams : Obligations.GemvStreams := by
  unfold Obligations.GemvStreams
  refine ⟨fun i s hi hf hw => ⟨fun hc hd => ?loadv, fun cg cd hk => ?mac⟩,
    fun i d o j l hj => ⟨fun h k hk => ?loads, Dev.sched_loadvTick d i o j l⟩,
    fun i d o j l lt => ⟨Dev.opOn_gemvTick d i o j l lt, Dev.sched_gemvTick d i o j l lt, Dev.gemvTick_frame d i o j l lt⟩,
    fun o l tile k d op m r0 r1 ho hm h0 => ⟨fun h2 => ?oneRow, fun h2 h1 => ?twoRows⟩⟩
  case loadv => exact (leaves_gemvLoadv hi).congr (Dev.forLanes_loadvLane hf hw hc hd)
  case mac => exact (leaves_gemvMac hi).congr (Dev.forLanes_gemvLane hf hw hk)
  case loads =>
    rw [Dev.lane_loadvTick, LaneSt.gvRow_loadGv _ _ _ _ _ hj hk, LaneSt.gemvTaken_fst]
  case oneRow =>
    simp only [Dev.landGemv, ho, hm, h0, h2]
    rfl
  case twoRows =>
    simp only [Dev.landGemv, ho, hm, h0, h2, h1]
    rfl

end Sys2Proof.Machine
end

section
/-! PROOF. The completion of a tile operation (R137, R145, R146, R149): what a commit leaves of a lane, row by row and flag by flag. -/

namespace Sys2Proof.Machine

/-- One landed row becomes committed, in the columns that were written. -/
def LaneSt.commitRow (op : TileOp) (x : LaneSt) (e : Nat × Nat) : LaneSt :=
  x.setAccRow (e.1 / 64) (e.1 % 64) (mergeCols e.2 (x.accRow (e.1 / 64) (e.1 % 64)) (kget 0#2048 op.shadow e.1))

theorem LaneSt.commit_eq_foldl (x : LaneSt) (op : TileOp) : x.commit op = op.landed.foldl (LaneSt.commitRow op) x := rfl

/-- A committed row reads as it was written; every other row, of a register in use or not, as before. -/
theorem LaneSt.accRow_setAccRow (x : LaneSt) {reg r : Nat} (v : TileRow) (g : Nat) {k : Nat} (hr : r < 64) (hk : k < 64) :
    (x.setAccRow reg r v).accRow g k = if reg * 64 + r = g * 64 + k then v else x.accRow g k := by
  by_cases hg : g = reg
  · subst hg
    by_cases hkr : k = r
    · simp [LaneSt.accRow, LaneSt.setAccRow, hkr]
    · have hdiv : (g * 64 + k) / 64 = g := by omega
      have hne : r ≠ k := fun h => hkr h.symm
      cases hu : kget false x.accUse g <;>
        simp [LaneSt.accRow, LaneSt.setAccRow, hkr, hne, kget_kset_ne, kget_kfilter, hu, hdiv]
  · have hne : g * 64 + k ≠ reg * 64 + r := by omega
    have hdiv : (g * 64 + k) / 64 ≠ reg := by omega
    cases hu : kget false x.accUse reg <;>
      simp [LaneSt.accRow, LaneSt.setAccRow, hg, hne, hne.symm, kget_kset_ne, kget_kfilter, hu, hdiv]

theorem LaneSt.accRow_commitRow (op : TileOp) (x : LaneSt) (e : Nat × Nat) (g : Nat) {r : Nat} (hr : r < 64) :
    (x.commitRow op e).accRow g r =
      if e.1 = g * 64 + r then mergeCols e.2 (x.accRow g r) (kget 0#2048 op.shadow (g * 64 + r)) else x.accRow g r := by
  have he : e.1 / 64 * 64 + e.1 % 64 = e.1 := Nat.div_add_mod' e.1 64
  rw [LaneSt.commitRow, LaneSt.accRow_setAccRow x _ g (Nat.mod_lt _ (by decide)) hr, he]
  split
  · next h =>
    have hg : e.1 / 64 = g := by omega
    have hm : e.1 % 64 = r := by omega
    rw [hg, hm, h]
  · rfl

theorem LaneSt.accRow_foldl_commitRow (op : TileOp) (g : Nat) {r : Nat} (hr : r < 64) (L : List (Nat × Nat)) (x : LaneSt)
    (hL : (L.map Prod.fst).Nodup) : (L.foldl (LaneSt.commitRow op) x).accRow g r = match L.find? fun e => e.1 == g * 64 + r with
      | some e => mergeCols e.2 (x.accRow g r) (kget 0#2048 op.shadow (g * 64 + r))
      | none => x.accRow g r := by
  induction L generalizing x with
  | nil => rfl
  | cons a t ih =>
    obtain ⟨hnot, ht⟩ := List.nodup_cons.mp hL
    rw [List.foldl_cons, ih _ ht, LaneSt.accRow_commitRow op x a g hr]
    by_cases ha : a.1 = g * 64 + r
    · have hnone : t.find? (fun e => e.1 == g * 64 + r) = none := by
        rw [List.find?_eq_none]
        intro e he heq
        exact hnot (ha.trans (eq_of_beq heq).symm ▸ List.mem_map_of_mem he)
      simp [ha, hnone]
    · simp [ha]

theorem LaneSt.accUse_foldl_commitRow (op : TileOp) (g : Nat) (L : List (Nat × Nat)) (x : LaneSt) :
    kget false (L.foldl (LaneSt.commitRow op) x).accUse g = (kget false x.accUse g || L.any fun e => decide (e.1 / 64 = g)) := by
  induction L generalizing x with
  | nil => simp
  | cons a t ih =>
    rw [List.foldl_cons, ih, List.any_cons, ← Bool.or_assoc]
    congr 1
    by_cases ha : a.1 / 64 = g
    · simp [LaneSt.commitRow, LaneSt.setAccRow, ha]
    · simp [LaneSt.commitRow, LaneSt.setAccRow, ha, kget_kset_ne _ _ _ (Ne.symm ha)]

theorem LaneSt.commitRow_eq (op : TileOp) (x : LaneSt) (e : Nat × Nat) : ∃ m u, x.commitRow op e = { x with acc := m, accUse := u } :=
  ⟨_, _, rfl⟩

theorem LaneSt.foldl_commitRow_frame (op : TileOp) (L : List (Nat × Nat)) (x : LaneSt) : L.foldl (LaneSt.commitRow op) x =
    { x with acc := (L.foldl (LaneSt.commitRow op) x).acc, accUse := (L.foldl (LaneSt.commitRow op) x).accUse } := by
  induction L generalizing x with
  | nil => rfl
  | cons a t ih =>
    obtain ⟨m, u, h⟩ := LaneSt.commitRow_eq op x a
    simp only [List.foldl_cons, h]
    exact ih _

theorem leaves_tileOpComplete (core : BitVec 8) (lane : BitVec 1) (tile : BitVec 3) (s : State) :
    Leaves (.tileOpComplete core lane tile) s (s.dev.tileComplete core.toNat lane.toNat tile.toNat) := rfl

/-- Settles O5: the command by whether its operation is due, and the commit by induction over the rows that landed. -/
theorem tileCompletion : Obligations.TileCompletion := by
  unfold Obligations.TileCompletion
  refine ⟨fun core lane tile s => ?command, fun x op g r hr hn => LaneSt.accRow_foldl_commitRow op g hr op.landed x hn,
    fun x op g => LaneSt.accUse_foldl_commitRow op g op.landed x, fun x op => LaneSt.foldl_commitRow_frame op op.landed x⟩
  have h := leaves_tileOpComplete core lane tile s
  unfold Dev.tileComplete at h
  cases hd : s.dev.opDue core.toNat lane.toNat tile.toNat with
  | some op =>
    rw [hd] at h
    exact h
  | none =>
    rw [hd] at h
    exact h

end Sys2Proof.Machine
end

section
/-! PROOF. The lane vector units and the core reduction unit (R85, R194 to R215): each occurrence at issue, and the ticks in which it reads its rows
with the ports free. -/

namespace Sys2Proof.Machine

/-! ### LV.DRAIN, LV.EW and LV.FUNC -/

section
variable {i : Inst} {s : State} (h : s.dev.canIssue i.core = true)
include h

theorem leaves_lvDrain : Leaves (.lvDrain i) s (s.dev.forLanes i 3 (Dev.drainLane i)) := State.issue_of_canIssue h _

theorem leaves_lvEw : Leaves (.lvEw i) s (s.dev.forLanes i 3 (Dev.ewLane i)) := State.issue_of_canIssue h _

theorem leaves_lvFunc : Leaves (.lvFunc i) s (s.dev.forLanes i 3 (Dev.funcLane i)) := State.issue_of_canIssue h _

theorem leaves_redSum : Leaves (.redSum i) s (s.dev.redSum i) := State.issue_of_canIssue h _

theorem leaves_redSmax : Leaves (.redSmax i) s (s.dev.redSmax i) := State.issue_of_canIssue h _

theorem leaves_redNorm : Leaves (.redNorm i) s (s.dev.redNorm i) := State.issue_of_canIssue h _

theorem leaves_redTopk : Leaves (.redTopk i) s (s.dev.redTopk i) := State.issue_of_canIssue h _

end

section
variable {d : Dev} {i : Inst} {o : Owner} {l : Nat}

section
variable (hf : d.unitFree o.core o.unit l = true)
include hf

theorem Dev.drainLane_of_free (hx : i.fmt = 0xD → ((d.lane i.coreN l).regCfg (opTile i.opa)).map TileCfg.exact = some true) :
    d.drainLane i o l = (d.took o l 1 64).drainTick i o 0 l
      { cfgA := (d.lane i.coreN l).regCfg (opTile i.opa), key := (d.passKey (i.extBits 0 10)).1, ctr := (d.passKey (i.extBits 0 10)).2,
        pass := d.run.passNo } := by
  have hno : ¬ (i.fmt = 0xD ∧ ((d.lane i.coreN l).regCfg (opTile i.opa)).map TileCfg.exact ≠ some true) := fun ⟨h1, h2⟩ => h2 (hx h1)
  simp only [Dev.drainLane, Dev.takeUnit_free 1 64 hf, Dev.lane_took, hno, if_false]
  rfl

theorem Dev.ewLane_of_free : d.ewLane i o l = (d.took o l 1 i.cnt).ewTick i o 0 l
    { key := (d.passKey (i.extBits 0 10)).1, ctr := (d.passKey (i.extBits 0 10)).2, pass := d.run.passNo } := by
  simp only [Dev.ewLane, Dev.takeUnit_free 1 i.cnt hf]
  rfl

theorem Dev.funcLane_of_free : d.funcLane i o l = (d.took o l 1 i.cnt).funcTick i o 0 l := by
  simp only [Dev.funcLane, Dev.takeUnit_free 1 i.cnt hf]
  rfl

end

theorem Dev.funcTick_of_open {j : Nat} (hw : d.watchOff = true)
    (hp : d.portOpen portBufRead (i.coreN * 8 + l * 4 + (opVbuf i.opa + j) / 32) 2 = true) :
    let d1 := (d.ported portBufRead (i.coreN * 8 + l * 4 + (opVbuf i.opa + j) / 32) o).sched (d.run.tick + 9) true o
      (.landVbuf l (opVbuf i.opd + j)
        (rowOfWords ((rowF32 (kget 0#4096 (d.lane i.coreN l).vbuf (opVbuf i.opa + j))).map (lvFunc i.sub))) false)
    d.funcTick i o j l = if j + 1 < i.cnt then d1.sched (d.run.tick + 1) false o (.row 0x33 i (j + 1) l {}) else d1 := by
  simp only [Dev.funcTick, Dev.readVbuf_ok o hp hw]

/-- An LV.EW of two buffer rows, neither a conversion nor with a scalar. -/
theorem Dev.ewTick_of_two_rows {j : Nat} {lt : Latch} (hw : d.watchOff = true) (hs : i.sub ≤ 4)
    (ha : d.portOpen portBufRead (i.coreN * 8 + l * 4 + (opVbuf i.opa + j) / 32) 2 = true)
    (hb : (d.ported portBufRead (i.coreN * 8 + l * 4 + (opVbuf i.opa + j) / 32) o).portOpen portBufRead
      (i.coreN * 8 + l * 4 + (opVbuf i.opb + j) / 32) 2 = true) :
    let ra := kget 0#4096 (d.lane i.coreN l).vbuf (opVbuf i.opa + j)
    let rb := kget 0#4096 (d.lane i.coreN l).vbuf (opVbuf i.opb + j)
    let d1 := ((d.ported portBufRead (i.coreN * 8 + l * 4 + (opVbuf i.opa + j) / 32) o).ported portBufRead
      (i.coreN * 8 + l * 4 + (opVbuf i.opb + j) / 32) o).sched (d.run.tick + 9) true o (.landVbuf l (opVbuf i.opd + j)
      (rowOfWords ((List.range 128).map fun c => ewOp i.sub (rowWord ra c) (rowWord rb c))) false)
    d.ewTick i o j l lt =
      if j + 1 < i.cnt then d1.sched (d.run.tick + 1) false o (.row 0x32 i (j + 1) l { lt with extra := rb }) else d1 := by
  have hscalar : ¬ (i.sub = 5 ∨ i.sub = 6) := by omega
  have hcvt : ¬ i.sub = 8 := by omega
  have hw1 : (d.ported portBufRead (i.coreN * 8 + l * 4 + (opVbuf i.opa + j) / 32) o).watchOff = true := hw
  simp only [Dev.ewTick, Dev.readVbuf_ok o ha hw, Dev.readVbuf_ok o hb hw1, hs, hscalar, hcvt, if_true, if_false]
  rfl

theorem any_isNone_of_isSome {α : Type} {es : List (Option α)} (h : ∀ e ∈ es, e.isSome = true) : es.any Option.isNone = false := by
  rw [List.any_eq_false]
  intro e hmem
  simp [Option.isSome_iff_ne_none.mp (h e hmem)]

/-- A drain without an epilogue reads no operand beside the tile row. -/
theorem Dev.drainTick_plain {j : Nat} {lt : Latch} (he : i.epi = 0) (hx : i.fmt ≠ 0xD) (hd : lt.dead = false)
    (hp : d.portOpen portQueue (i.coreN * 2 + l) 1 = true)
    (hes : ∀ e ∈ (List.range 64).map fun c => drainElem i lt lt.cfgA
      ((d.lane i.coreN l).tileRow ((lt.cfgA.map TileCfg.exact).getD false) (opTile i.opa) j) j c, e.isSome = true) :
    let es := (List.range 64).map fun c => drainElem i lt lt.cfgA
      ((d.lane i.coreN l).tileRow ((lt.cfgA.map TileCfg.exact).getD false) (opTile i.opa) j) j c
    let per := rowsPerBuf i.fmt
    let bits := lt.bits + packBits (elemBits i.fmt) (es.filterMap id) * 2 ^ (64 * elemBits i.fmt * (j % per))
    let full := decide (j % per = per - 1)
    let d1 := d.ported portQueue (i.coreN * 2 + l) o
    let d2 := if full then d1.sched (d.run.tick + 9) true o (.landVbuf l (opVbuf i.opd + j / per) (BitVec.ofNat 4096 bits) false)
      else d1
    d.drainTick i o j l lt =
      if j < 63 then d2.sched (d.run.tick + 1) false o (.row 0x31 i (j + 1) l { lt with bits := if full then 0 else bits }) else d2 := by
  obtain ⟨cfgA, cfgD, bits, rows0, rows1, extra, key, ctr, pass, scales, sts, dead⟩ := lt
  dsimp only at hd hes ⊢
  subst hd
  unfold Dev.drainTick
  rw [Dev.usePort_open o hp]
  cases cfgA
  all_goals
    dsimp only [Option.map, Option.getD] at hes ⊢
    have hbad := any_isNone_of_isSome hes
    by_cases hfull : j % rowsPerBuf i.fmt = rowsPerBuf i.fmt - 1 <;>
      simp only [he, hx, hfull, Dev.lane_ported, decide_true, decide_false, if_true, if_false, Bool.false_eq_true, Nat.reduceBEq,
        Bool.or_self, Bool.and_false, hbad] <;> rfl

end

/-- Settles O6: each occurrence at issue in a lane whose unit is free, and each tick with its ports free. -/
theorem vectorUnits : Obligations.VectorUnits := by
  unfold Obligations.VectorUnits
  exact ⟨fun i s h => ⟨leaves_lvDrain h, leaves_lvEw h, leaves_lvFunc h⟩,
    fun i d o l hf => ⟨Dev.drainLane_of_free hf, Dev.ewLane_of_free hf, Dev.funcLane_of_free hf⟩,
    fun i d o j l hw hp => Dev.funcTick_of_open hw hp, fun i d o j l lt hw hs ha hb => Dev.ewTick_of_two_rows hw hs ha hb,
    fun i d o j l lt he hx hd hp hes => Dev.drainTick_plain he hx hd hp hes⟩

/-! ### The reduction unit -/

section
variable {d : Dev} {i : Inst} {c : TileCfg} (hf : d.unitFree i.coreN 4 2 = true)
include hf

/-- The core's reduction unit is taken for as many ticks as the reduction lasts. -/
theorem Dev.takeUnit_reduction (n : Nat) : d.takeUnit (d.owner i 4 0) 2 1 n = (true, d.took (d.owner i 4 0) 2 1 n) :=
  Dev.takeUnit_free (o := d.owner i 4 0) 1 n hf

section
variable (hc : redCfg i (d.core i.coreN) = some c)
include hc

theorem Dev.redSum_of_cfg (hx : ¬ (c.exact = true ∧ i.sub % 4 = 0)) :
    d.redSum i = (d.took (d.owner i 4 0) 2 1 64).redSumTick i (d.owner i 4 0) 0 { cfgA := some c } := by
  simp only [Dev.redSum, Dev.takeUnit_reduction hf, Dev.core_took, hc, hx, if_false]
  rfl

theorem Dev.redSum_exact_pairs (hx : c.exact = true ∧ i.sub % 4 = 0) :
    d.redSum i = (d.took (d.owner i 4 0) 2 1 64).raise (d.owner i 4 0) 0x0201 := by
  simp only [Dev.redSum, Dev.takeUnit_reduction hf, Dev.core_took, hc, hx]
  rfl

theorem Dev.redTopk_of_cfg (hb : c.fmt = 0xB) :
    d.redTopk i = (d.took (d.owner i 4 0) 2 1 80).topkTick i (d.owner i 4 0) 0 { cfgA := some c } := by
  simp only [Dev.redTopk, Dev.takeUnit_reduction hf, Dev.core_took, hc, hb, if_true]
  rfl

section
variable (hb : c.fmt = 0xB) (hd : redDst i (d.core i.coreN) c = true)
include hb hd

theorem Dev.redSmax_of_cfg : d.redSmax i = (d.took (d.owner i 4 0) 2 1 128).redTwoTick 0x42 i (d.owner i 4 0) 0
    { cfgA := some c, sts := (d.core i.coreN).states (i.sub / 8 % 2) } := by
  simp only [Dev.redSmax, Dev.takeUnit_reduction hf, Dev.core_took, hc, hb, hd, and_self, if_true]
  rfl

/-- Modes 0 and 1 read no gain row. -/
theorem Dev.redNorm_of_state (hm : i.sub % 4 < 2) : d.redNorm i = (d.took (d.owner i 4 0) 2 1 128).redTwoTick 0x43 i (d.owner i 4 0) 0
    { cfgA := some c, sts := (d.core i.coreN).states (i.sub / 8 % 2) } := by
  have hno : ¬ 2 ≤ i.sub % 4 := by omega
  simp only [Dev.redNorm, Dev.takeUnit_reduction hf, Dev.core_took, hc, hb, hd, and_self, if_true, hno, if_false]
  rfl

/-- Modes 2 and 3 read it at issue. -/
theorem Dev.redNorm_of_gain (hm : 2 ≤ i.sub % 4) (hw : d.watchOff = true)
    (hr : d.rowReadable i.coreN (opBank i.opb) (opRow i.opb) = true) :
    d.redNorm i = ((d.took (d.owner i 4 0) 2 1 128).rowServed i.coreN (opBank i.opb) (opRow i.opb) (d.owner i 4 0)).redTwoTick 0x43 i
      (d.owner i 4 0) 0 { cfgA := some c, sts := (d.core i.coreN).states (i.sub / 8 % 2),
                          extra := (d.core i.coreN).row (opBank i.opb) (opRow i.opb) } := by
  have hread := Dev.readRow_ok (d := d.took (d.owner i 4 0) 2 1 128) (d.owner i 4 0) hr hw
  simp only [Dev.redNorm, Dev.takeUnit_reduction hf, Dev.core_took, hc, hb, hd, and_self, if_true, hm, hread]
  rfl

end

end

section
variable (hc : redCfg i (d.core i.coreN) = none)
include hc

theorem Dev.redSum_unconfigured : d.redSum i = (d.took (d.owner i 4 0) 2 1 64).raise (d.owner i 4 0) 0x0201 := by
  simp only [Dev.redSum, Dev.takeUnit_reduction hf, Dev.core_took, hc]
  rfl

theorem Dev.redSmax_unconfigured : d.redSmax i = (d.took (d.owner i 4 0) 2 1 128).raise (d.owner i 4 0) 0x0201 := by
  simp only [Dev.redSmax, Dev.takeUnit_reduction hf, Dev.core_took, hc]
  rfl

theorem Dev.redNorm_unconfigured : d.redNorm i = (d.took (d.owner i 4 0) 2 1 128).raise (d.owner i 4 0) 0x0201 := by
  simp only [Dev.redNorm, Dev.takeUnit_reduction hf, Dev.core_took, hc]
  rfl

theorem Dev.redTopk_unconfigured : d.redTopk i = (d.took (d.owner i 4 0) 2 1 80).raise (d.owner i 4 0) 0x0201 := by
  simp only [Dev.redTopk, Dev.takeUnit_reduction hf, Dev.core_took, hc]
  rfl

end

end

/-- With both outlets free a row is read in both lanes. -/
theorem Dev.redRead_of_open {d : Dev} {i : Inst} (o : Owner) (exact : Bool) (j : Nat) (h0 : d.portOpen portReduce (i.coreN * 2) 1 = true)
    (h1 : d.portOpen portReduce (i.coreN * 2 + 1) 1 = true) : d.redRead i o exact j =
      (some ((d.lane i.coreN 0).tileRow exact (opTile i.opa) j, (d.lane i.coreN 1).tileRow exact (opTile i.opa) j),
        (d.ported portReduce (i.coreN * 2) o).ported portReduce (i.coreN * 2 + 1) o) := by
  have h1' : (d.ported portReduce (i.coreN * 2) o).portOpen portReduce (i.coreN * 2 + 1) 1 = true := by
    rw [Dev.portOpen_ported o (by omega)]
    exact h1
  simp only [Dev.redRead, Dev.usePort_open o h0, Dev.usePort_open o h1', Dev.lane_ported]
  rfl

/-- Settles O7: each reduction at issue by the configuration of its tiles, and its last row by what it completes. -/
theorem reductions : Obligations.Reductions := by
  unfold Obligations.Reductions
  refine ⟨fun i s c hi hf hc => ⟨fun hx => ?sum, fun hx => ?sumExact, fun hb => ?topk, fun hb hd => ⟨?smax, fun hm => ?normState,
    fun hm hw hr => ?normGain⟩⟩, fun i s hi hf hc => ⟨?noSum, ?noSmax, ?noNorm, ?noTopk⟩, fun i d o lt c hc h0 h1 => ⟨fun hm => ?lastSum,
    ?lastTopk, ?lastSmax⟩⟩
  case sum => exact (leaves_redSum hi).congr (Dev.redSum_of_cfg hf hc hx)
  case sumExact => exact (leaves_redSum hi).congr (Dev.redSum_exact_pairs hf hc hx)
  case topk => exact (leaves_redTopk hi).congr (Dev.redTopk_of_cfg hf hc hb)
  case smax => exact (leaves_redSmax hi).congr (Dev.redSmax_of_cfg hf hc hb hd)
  case normState => exact (leaves_redNorm hi).congr (Dev.redNorm_of_state hf hc hb hd hm)
  case normGain => exact (leaves_redNorm hi).congr (Dev.redNorm_of_gain hf hc hb hd hm hw hr)
  case noSum => exact (leaves_redSum hi).congr (Dev.redSum_unconfigured hf hc)
  case noSmax => exact (leaves_redSmax hi).congr (Dev.redSmax_unconfigured hf hc)
  case noNorm => exact (leaves_redNorm hi).congr (Dev.redNorm_unconfigured hf hc)
  case noTopk => exact (leaves_redTopk hi).congr (Dev.redTopk_unconfigured hf hc)
  case lastSum => simp only [Dev.redSumTick, hc, Dev.redRead_of_open o _ _ h0 h1, hm, false_and, if_false, Nat.lt_irrefl]
  case lastTopk => simp only [Dev.topkTick, hc, Dev.redRead_of_open o _ _ h0 h1, if_false, Nat.lt_irrefl]
  case lastSmax => simp only [Dev.redTwoTick, hc, Dev.redRead_of_open o _ _ h0 h1, if_false, if_true, Nat.lt_irrefl]

end Sys2Proof.Machine
end

section
/-! PROOF. Row stores, memory stores and the DMA unit (R51, R89, R96, R306, R405, R406, R438 to R445, R511): what an occurrence does at issue
with its unit free, and what each of its busy ticks does with its port free and its addresses good. -/

namespace Sys2Proof.Machine

/-! ### Stores of rows -/

section
variable {i : Inst} {d d1 : Dev} {a : StreamAt}

/-- A DMA.WR whose unit is free and whose stream is not a convoy handles its first row. -/
theorem Dev.dmaWrite_of_free (hf : d.unitFree i.coreN 11 2 = true)
    (hs : (d.took (d.owner i 11 0) 2 1 i.cnt).streamAt (d.owner i 11 0) i i.opd = (some a, d1)) (hk : strKind a.entry ≠ 2) :
    d.dmaWrite i = d1.dmaWrTick i (d.owner i 11 0) 0 (a.latch 0) := by
  simp only [Dev.dmaWrite, Dev.takeUnit_free (o := d.owner i 11 0) 1 i.cnt hf, hs, Bool.not_true, Bool.false_eq_true, if_false, hk,
    ne_eq, not_false_eq_true, if_true]

/-- The instance that a DMA.WR opens on the convoy `c`; the secondary of a Mirror opens none (R374). -/
def Dev.openTx (i : Inst) (o : Owner) (c n : Nat) (secondary : Bool) (d : Dev) : Dev :=
  let d1 : Dev := { d with wmkIssued := kset 0 d.wmkIssued c (n + 1) }
  if secondary then d1
  else { d1 with txInsts := d1.txInsts ++ [{ convoy := c, inst := n, blocks := i.cnt / 8, owner := o, slotAt := d1.windowStart c n }] }

/-- A DMA.WR on a joined convoy with an instance left is the convoy's next instance. -/
theorem Dev.dmaWrite_of_convoy (hf : d.unitFree i.coreN 11 2 = true)
    (hs : (d.took (d.owner i 11 0) 2 1 i.cnt).streamAt (d.owner i 11 0) i i.opd = (some a, d1)) (hk : strKind a.entry = 2)
    (hj : d.is (Reg.WMK_CV0.JOINED (strBase a.entry / 2 ^ 48)) = true)
    (hn : d.get (Reg.WMK_CV2.PERIOD (strBase a.entry / 2 ^ 48)) = 0 → kget 0 d1.wmkIssued (strBase a.entry / 2 ^ 48) = 0) :
    d.dmaWrite i = (d1.openTx i (d.owner i 11 0) (strBase a.entry / 2 ^ 48) (kget 0 d1.wmkIssued (strBase a.entry / 2 ^ 48))
      (d.is Reg.MIR_STATUS.ACTIVE && d.mir.secondary)).dmaWrTick i (d.owner i 11 0) 0
      (a.latch (kget 0 d1.wmkIssued (strBase a.entry / 2 ^ 48))) := by
  have hno : ¬ (d.get (Reg.WMK_CV2.PERIOD (strBase a.entry / 2 ^ 48)) = 0 ∧ 1 ≤ kget 0 d1.wmkIssued (strBase a.entry / 2 ^ 48)) := by
    rintro ⟨hp, h1⟩
    exact absurd (hn hp) (by omega)
  simp only [Dev.dmaWrite, Dev.takeUnit_free (o := d.owner i 11 0) 1 i.cnt hf, hs, Bool.not_true, Bool.false_eq_true, if_false, hk,
    ne_eq, not_true_eq_false, Dev.nextInstance, hj]
  exact if_neg hno

end

/-! ### Stream operands at issue -/

section
variable {i : Inst} {d : Dev} {op : BitVec 24} (o : Owner)

theorem Dev.streamAt_of_direct (hk : strKind (d.stream i.coreN (opHandle op)) ≠ 3) :
    d.streamAt o i op = (some { entry := d.stream i.coreN (opHandle op),
                                base := strBase (d.stream i.coreN (opHandle op)) + opOffset op * strStride (d.stream i.coreN (opHandle op)),
                                limit := 0 }, d) := by
  simp only [Dev.streamAt, ne_eq, hk, not_false_eq_true, if_true]

/-- A session-relative operand whose row and slot are good (R408). -/
theorem Dev.streamAt_of_session (hk : strKind (d.stream i.coreN (opHandle op)) = 3) (hw : d.watchOff = true)
    (hr : d.rowReadable i.coreN (opBank i.opb) (opRow i.opb) = true)
    (hs : d.slotFault (rowWord ((d.core i.coreN).row (opBank i.opb) (opRow i.opb)) 0).toNat = none) :
    let n := (rowWord ((d.core i.coreN).row (opBank i.opb) (opRow i.opb)) 0).toNat
    let e := d.stream i.coreN (opHandle op)
    let kv := (d.slotWord n 2).toNat
    d.streamAt o i op = (some { entry := e, base := kv * 256 + strBase e + opOffset op * strStride e,
                                limit := (kv + (d.slotWord n 3).toNat) * 256 }, d.rowServed i.coreN (opBank i.opb) (opRow i.opb) o) := by
  have hs1 : (d.rowServed i.coreN (opBank i.opb) (opRow i.opb) o).slotFault
      (rowWord ((d.core i.coreN).row (opBank i.opb) (opRow i.opb)) 0).toNat = none := hs
  simp only [Dev.streamAt, ne_eq, hk, not_true_eq_false, if_false, Dev.readRow_ok o hr hw, hs1]
  rfl

end

/-- Settles O8: the issue of each store with its unit free, and each busy tick by the row that it reads. -/
theorem rowStores : Obligations.RowStores := by
  unfold Obligations.RowStores
  refine ⟨fun i s hi => ⟨State.issue_of_canIssue hi _, State.issue_of_canIssue hi _, fun a d hf => ?write⟩,
    fun i d o l hf => ⟨?rowLane, fun a d2 hs => ?memLane⟩, fun i d o op => ⟨fun hk => d.streamAt_of_direct o hk, fun hk hw hr => ?session⟩,
    fun i d o j l lt hw => ?laneTick, fun i d o j lt hw => ?writeTick, fun d o e a j n v => ⟨rfl, rfl⟩⟩
  case write =>
    intro o hs
    refine ⟨fun hk => ?direct, ?convoy⟩
    case direct => exact Leaves.congr (State.issue_of_canIssue hi _) (Dev.dmaWrite_of_free hf hs hk)
    case convoy =>
      intro c n d1 hk hj hn
      exact Leaves.congr (State.issue_of_canIssue hi _) (Dev.dmaWrite_of_convoy hf hs hk hj hn)
  case rowLane => simp only [Dev.stRowLane, Dev.takeUnit_free (o := o) 1 i.cnt hf, if_true]
  case memLane => simp only [Dev.stMemLane, Dev.takeUnit_free (o := o) 1 i.cnt hf, hs, Bool.not_true, Bool.false_eq_true, if_false]
  case session =>
    intro n kv a hs
    exact d.streamAt_of_session o hk hw hr hs
  case laneTick =>
    intro v p hp x e a d1 d2
    have hv : d.readVbuf o i.coreN l (opVbuf i.opa + j) = (some x, d.ported portBufRead p o) := Dev.readVbuf_ok o hp hw
    refine ⟨?row, fun hs => ?mem⟩
    case row =>
      simp only [Dev.stRowTick, hv]
      rfl
    case mem =>
      simp only [Dev.stMemTick, hv]
      rw [hs]
  case writeTick =>
    intro b r hr x e a d1 hs
    have hno : (if strKind e = 2 then none else d.streamFault (strKind e) a lt.pass) = none := by
      split
      case isTrue => rfl
      case isFalse h => exact hs h
    have hv : d.readRow o i.coreN (opBank i.opa) (opRow i.opa + j) = (some x, d.rowServed i.coreN b r o) := Dev.readRow_ok o hr hw
    simp only [Dev.dmaWrTick, hv]
    rw [hno]

/-! ### The DMA unit's reads -/

/-- With the DMA unit free a DMA.RD handles its first row, or posts the convoy's next instance. -/
theorem Dev.dmaRead_of_free {i : Inst} {d d1 : Dev} {a : StreamAt} (hf : d.unitFree i.coreN 11 2 = true)
    (hs : (d.took (d.owner i 11 0) 2 1 i.cnt).streamAt (d.owner i 11 0) i i.opa = (some a, d1)) :
    d.dmaRead i = if strKind a.entry = 2 then d1.dmaRdWaymark i (d.owner i 11 0) a.entry
      else d1.dmaRdTick i (d.owner i 11 0) 0 (a.latch 0) := by
  simp only [Dev.dmaRead, Dev.takeUnit_free (o := d.owner i 11 0) 1 i.cnt hf, hs, Bool.not_true, Bool.false_eq_true, if_false]

section
variable {i : Inst} {d : Dev} (hf : d.unitFree i.coreN 11 2 = true) (hw : d.watchOff = true)
  (hr : (d.took (d.owner i 11 0) 2 1 i.cnt).rowReadable i.coreN (opBank i.opa) (opRow i.opa) = true)
include hf hw hr

/-- A DMA.SGATHER reads its row of slots. -/
theorem Dev.gather_of_free (hd : opRow i.opd ≤ 575) :
    d.gather i = ((d.took (d.owner i 11 0) 2 1 i.cnt).rowServed i.coreN (opBank i.opa) (opRow i.opa) (d.owner i 11 0)).gatherTick i
      (d.owner i 11 0) 0 { scales := rowNumbers i.cnt ((d.core i.coreN).row (opBank i.opa) (opRow i.opa)) } := by
  simp only [Dev.gather, Dev.takeUnit_free (o := d.owner i 11 0) 1 i.cnt hf, Dev.readRow_ok (d.owner i 11 0) hr hw, Bool.not_true,
    Bool.false_eq_true, if_false, if_neg (Nat.not_lt.2 hd)]
  rfl

/-- A DMA.SSCATTER reads its row of words and its row of slots. -/
theorem Dev.scatter_of_free :
    let o := d.owner i 11 0
    let v := (d.core i.coreN).row (opBank i.opa) (opRow i.opa)
    let d1 := (d.took o 2 1 i.cnt).rowServed i.coreN (opBank i.opa) (opRow i.opa) o
    let w := (d1.core i.coreN).row (opBank i.opd) (opRow i.opd)
    d1.rowReadable i.coreN (opBank i.opd) (opRow i.opd) = true →
    d.scatter i = (((d1.rowServed i.coreN (opBank i.opd) (opRow i.opd) o).observe o i.coreN 3 0
      (rowKey (opBank i.opa) (opRow i.opa)) (rowBytes v)).observe o i.coreN 3 0 (rowKey (opBank i.opd) (opRow i.opd)) (rowBytes w)).scatterTick
      i o 0 { extra := v, scales := rowNumbers i.cnt w } := by
  intro o v d1 w hr2
  have hw1 : d1.watchOff = true := hw
  have h1 : (d.took o 2 1 i.cnt).readRow o i.coreN (opBank i.opa) (opRow i.opa) = (some v, d1) := Dev.readRow_ok o hr hw
  simp only [Dev.scatter, Dev.takeUnit_free (o := d.owner i 11 0) 1 i.cnt hf, Bool.not_true, Bool.false_eq_true, if_false]
  simp only [show ownerOf i 11 0 d = o from rfl, h1, Dev.readRow_ok o hr2 hw1]
  rfl

end

/-- Every row of the convoy's next instance is posted, where the due tick leaves room. -/
theorem Dev.dmaRdWaymark_of_room {i : Inst} {d : Dev} (o : Owner) {e : BitVec 128} :
    let c := strBase e / 2 ^ 48
    let n := kget 0 d.wmkIssued c
    let t := d.run.tick
    let due := (d.wmkDue c n : Int) - d.get Reg.TIM_RUN_TICK.TICK + t
    let path := if d.fromPeer o e then Path.peer else Path.waymark c 0 n
    d.is (Reg.WMK_CV0.JOINED c) = true → (d.get (Reg.WMK_CV2.PERIOD c) = 0 → n = 0) →
    t + 12 * i.cnt + 512 ≤ due → due + 24 < segLength d.seg →
    let x (j : Nat) : Xfer := { owner := o, path := path, j := j, bank := opBank i.opd, row := opRow i.opd + j, due := due.toNat,
                                addr := 0, relaxed := strRelaxed e, lin := i.lin }
    d.dmaRdWaymark i o e = ((List.range i.cnt).foldl (fun (d : Dev) j => d.post (x j))
      { d with wmkIssued := kset 0 d.wmkIssued c (n + 1) }).onRx c n fun r => { r with posted := some o } := by
  intro c n t due path hj hn hlo hhi x
  have hp : ¬ (d.get (Reg.WMK_CV2.PERIOD c) = 0 ∧ 1 ≤ n) := by
    rintro ⟨h0, h1⟩
    exact absurd (hn h0) (by omega)
  have hd : ¬ (due < t + 12 * i.cnt + 512 ∨ (segLength d.seg : Int) ≤ due + 24) := by omega
  have hj1 : (!d.is (Reg.WMK_CV0.JOINED c)) = false := by rw [hj]; rfl
  exact (if_neg (ne_true_of_eq_false hj1)).trans ((if_neg hp).trans (if_neg hd))

/-- Settles O9: the issue of each transfer with the DMA unit free, and each busy tick with its address or slot good. -/
theorem transfers : Obligations.Transfers := by
  unfold Obligations.Transfers
  refine ⟨fun i s hi hf => ⟨fun a d1 hs => ?read, fun hw hr => ⟨fun hd => ?gather, fun hr2 => ?scatter⟩⟩, fun i d o j lt => ?readTick,
    fun i d o e hj hn hlo hhi => d.dmaRdWaymark_of_room o hj hn hlo hhi, fun i d o k lt hs => ⟨?gatherTick, ?scatterTick⟩⟩
  case read => exact Leaves.congr (State.issue_of_canIssue hi _) (Dev.dmaRead_of_free hf hs)
  case gather => exact Leaves.congr (State.issue_of_canIssue hi _) (Dev.gather_of_free hf hw hr hd)
  case scatter => exact Leaves.congr (State.issue_of_canIssue hi _) (Dev.scatter_of_free hf hw hr hr2)
  case readTick =>
    intro e a hrow hs peer lat d1 d2
    simp only [Dev.dmaRdTick, if_neg (Nat.not_lt.2 hrow)]
    rw [hs]
    simp only [Bool.not_eq_true']
    rfl
  case gatherTick =>
    simp only [Dev.gatherTick, hs]
  case scatterTick =>
    simp only [Dev.scatterTick, hs]

end Sys2Proof.Machine
end

section
/-! PROOF. Arrivals, the checks at due ticks and write acknowledgements (R49, R51, R54, R218, R275, R289). -/

namespace Sys2Proof.Machine

/-! ### A half-row reaches its core -/

/-- An arriving half-row is written now where the fill eject is free, else it waits. -/
theorem leaves_halfRowArrival {core : BitVec 8} {bank : BitVec 3} {row : BitVec 10} {half : BitVec 1} {host : BitVec 2048} {delay : BitVec 16}
    {s : State} {x : Xfer} {v : Nat} (mark : DelayMark)
    (hx : s.dev.run.xfers.find? (fun x => x.wants core.toNat bank.toNat row.toNat half.toNat) = some x)
    (hv : s.dev.halfData s.dram x half.toNat host = some v) :
    Leaves (.halfRowArrival core bank row half host mark delay) s
      (s.dev.fillIn { core := core.toNat, bank := bank.toNat, row := row.toNat, half := half.toNat, data := v,
                      late := match mark with | .resend => 1 | .refresh => 2 | .none => 0 | .translation => 0,
                      from_ := s.dev.fillSide x, delay := delay.toNat, what := if x.path = .memory then 0 else 2 }) := by
  refine Leaves.congr (d := s.dev.arrive s.dram core.toNat bank.toNat row.toNat half.toNat host mark delay.toNat) rfl ?_
  simp only [Dev.arrive, hx, hv]
  cases mark <;> rfl

/-- A half-row that is written lands for the transfer that wants it. -/
theorem Dev.fillLand_of_wanted {d : Dev} {f : FillHalf} {x : Xfer}
    (hx : d.run.xfers.find? (fun x => x.wants f.core f.bank f.row f.half) = some x) :
    d.fillLand f = ((d.landHalf { x with late := f.late } f.half f.data).markHold { x with late := f.late }).fillDelay f.core f.delay
      f.what := by
  simp only [Dev.fillLand, hx]

@[simp] theorem Dev.core_observeAt (o : Owner) (t core kind lane loc : Nat) (bytes : List Byte) (d : Dev) (c : Nat) :
    (d.observeAt o t core kind lane loc bytes).core c = d.core c := by
  unfold Dev.observeAt
  split <;> rfl

@[simp] theorem Dev.core_sendVariance (o : Owner) (lin : Nat) (bytes : List Byte) (d : Dev) (c : Nat) :
    (d.sendVariance o lin bytes).core c = d.core c := by
  unfold Dev.sendVariance
  split
  case isTrue =>
    obtain ⟨f, p, s, w, u, h⟩ := Dev.mirFrame_eq (d.count Reg.MIR_SUBST.COUNT 1) 3 o.tag
      (leBytes 8 lin ++ leBytes 2 bytes.length ++ leBytes 6 0 ++ bytes)
    rw [h]
    rfl
  case isFalse => rfl

theorem Dev.core_noteDue_ne (x : Xfer) (d : Dev) {c : Nat} (h : c ≠ x.owner.core) : (d.noteDue x).core c = d.core c := by
  simp only [Dev.noteDue, Dev.core_observeAt, Dev.core_onCore_ne _ _ h]

theorem Dev.row_noteDue (x : Xfer) (d : Dev) (c bank row : Nat) : ((d.noteDue x).core c).row bank row = (d.core c).row bank row := by
  simp only [Dev.noteDue, Dev.core_observeAt]
  by_cases h : c = x.owner.core
  · rw [h, Dev.core_onCore_self]
    rfl
  · rw [Dev.core_onCore_ne _ _ h]

/-- A row that is complete: noted where its check has come, sent to the secondary, and captured in Lantern (R365, R374, R564). -/
def Dev.reportRow (x x1 : Xfer) (full : Bool) (d : Dev) : Dev :=
  let d1 := if x.checked then d.noteDue x1 else d
  let ix := x.owner.core * 8192 + rowKey x.bank x.row
  let v := (d1.core x.owner.core).row x.bank x.row
  let d2 := if x.path = .peer then d1 else d1.sendVariance x.owner x.lin (rowBytes v)
  if d2.captured ix then d2.lantern 14 x.owner.core 0 x.owner.tag d.run.tick ix (if full then some v else none) else d2

/-- The transfer with one more half there. -/
def Xfer.withHalf (half : Nat) (x : Xfer) : Xfer := if half = 0 then { x with got0 := true } else { x with got1 := true }

/-- The device with one half of a destination row written and its arrival mark set. -/
def Dev.writeHalf (x : Xfer) (half v : Nat) (d : Dev) : Dev :=
  (d.onCore x.owner.core fun k => k.putRow x.bank x.row (rowSet (k.row x.bank x.row) (256 * half) 256 v) false).onRun fun r =>
    { r with xfers := updFirst (fun y => y.owner.same x.owner && y.j == x.j && !y.dropped) (fun _ => x.withHalf half) r.xfers }

theorem Dev.landHalf_eq (x : Xfer) (half v : Nat) (d : Dev) :
    d.landHalf x half v = if (x.withHalf half).complete then
      (d.writeHalf x half v).reportRow x (x.withHalf half) (bitOf (d.get Reg.SEC_STATUS.FEATURES) 1) else d.writeHalf x half v := rfl

theorem Dev.row_reportRow (x : Xfer) (half : Nat) (full : Bool) (d : Dev) (c b r : Nat) :
    ((d.reportRow x (x.withHalf half) full).core c).row b r = (d.core c).row b r := by
  simp only [Dev.reportRow, apply_ite (Dev.core · c), apply_ite (CoreSt.row · b r), Dev.core_lantern, Dev.core_sendVariance, Dev.row_noteDue,
    ite_self]

@[simp] theorem Xfer.owner_withHalf (half : Nat) (x : Xfer) : (x.withHalf half).owner = x.owner := by
  unfold Xfer.withHalf
  split <;> rfl

theorem Dev.core_reportRow_ne (x : Xfer) (half : Nat) (full : Bool) (d : Dev) {c : Nat} (h : c ≠ x.owner.core) :
    (d.reportRow x (x.withHalf half) full).core c = d.core c := by
  have hn : c ≠ (x.withHalf half).owner.core := by rwa [Xfer.owner_withHalf]
  simp only [Dev.reportRow, apply_ite (Dev.core · c), Dev.core_lantern, Dev.core_sendVariance, Dev.core_noteDue_ne _ _ hn, ite_self]

/-- The destination row takes its half, and keeps the other. -/
theorem Dev.row_landHalf (d : Dev) (x : Xfer) (half v : Nat) :
    ((d.landHalf x half v).core x.owner.core).row x.bank x.row = rowSet ((d.core x.owner.core).row x.bank x.row) (256 * half) 256 v := by
  have hw : ((d.writeHalf x half v).core x.owner.core).row x.bank x.row =
      rowSet ((d.core x.owner.core).row x.bank x.row) (256 * half) 256 v := by
    simp only [Dev.writeHalf, Dev.core_onRun, Dev.core_onCore_self, CoreSt.row_putRow_self]
  rw [Dev.landHalf_eq]
  split
  · rw [Dev.row_reportRow, hw]
  · exact hw

theorem Dev.core_landHalf_ne (d : Dev) (x : Xfer) (half v : Nat) {c : Nat} (h : c ≠ x.owner.core) :
    (d.landHalf x half v).core c = d.core c := by
  have hw : (d.writeHalf x half v).core c = d.core c := by
    simp only [Dev.writeHalf, Dev.core_onRun, Dev.core_onCore_ne _ _ h]
  rw [Dev.landHalf_eq]
  split
  · rw [Dev.core_reportRow_ne _ _ _ _ h, hw]
  · exact hw

/-! ### The checks -/

/-- A new hold request is at this tick and takes effect 24 ticks later (R54). -/
theorem Dev.exists_hold {d : Dev} (c : Nat) (w : HoldWhy) (h : d.run.eclipse = false) :
    ∃ x ∈ (d.hold c w).run.holds, x.d = d.run.tick ∧ x.h = d.run.tick + 24 ∧ x.why = w := by
  rw [Dev.hold_off c w h]
  exact ⟨_, List.mem_append_right _ List.mem_cons_self, rfl, rfl, rfl⟩

theorem Dev.checkDue_of_complete {d : Dev} {x : Xfer} (h : x.complete = true) :
    d.checkDue x = (d.onRun fun r => { r with
      xfers := updFirst (fun y => y.owner.same x.owner && y.j == x.j && !y.dropped) (fun y => { y with checked := true, dropped := false })
        r.xfers }).noteDue x := by
  simp only [Dev.checkDue, h, if_true, Bool.not_true, Bool.and_false]

/-- A row with a half missing raises a hold request, where none of its occurrence was raised in this tick. -/
theorem Dev.exists_hold_checkDue {d : Dev} {x : Xfer} (hc : x.complete = false) (hr : x.relaxed = false)
    (hs : d.is (Reg.CORE_STATUS.SCOREBOARD x.owner.core) = false) (he : d.run.eclipse = false)
    (hh : (d.run.holds.any fun h => h.d == d.run.tick && h.why == .rows x.owner.core x.owner.tag) = false) :
    ∃ h ∈ (d.checkDue x).run.holds, h.d = d.run.tick ∧ h.h = d.run.tick + 24 ∧ h.why = .rows x.owner.core x.owner.tag := by
  simp only [Dev.checkDue, hc, hr, hs, Bool.false_eq_true, false_and, if_false, apply_ite Dev.run, Dev.count, put_run]
  simp only [Dev.run_onRun, ite_self, hh, Bool.false_eq_true, if_false]
  split <;> exact Dev.exists_hold _ _ he

theorem Dev.exists_hold_checkAck {d : Dev} {x : Store} (ha : x.acked = false) (he : d.run.eclipse = false)
    (hh : (d.run.holds.any fun h => h.d == d.run.tick && h.why == .acks x.owner.core x.owner.tag) = false) :
    ∃ h ∈ (d.checkAck x).run.holds, h.d = d.run.tick ∧ h.h = d.run.tick + 24 ∧ h.why = .acks x.owner.core x.owner.tag := by
  simp only [Dev.checkAck, ha, Bool.false_eq_true, if_false, Dev.run_onRun, hh]
  exact Dev.exists_hold _ _ he

/-- An accepted store writes the bytes of its address and no other. -/
theorem bytesKept_acceptMem (d : Dev) (x : Store) (m : Memory) :
    BytesKept m (d.acceptMem x m) (fun k => ∃ a j, x.sink = .memory a ∧ j < 512 ∧ d.dramAt (a + j) = some k) := by
  intro k hk
  unfold Dev.acceptMem
  cases hs : x.sink with
  | memory a => exact Dev.read_writeMem m _ _ _ fun j hj hd => hk ⟨a, j, hs, hj, hd⟩
  | host _ | waymark _ _ _ _ | slot _ _ _ => rfl

/-- Settles O10: the arrival of a half-row and its write; each check by whether its row is complete or its store acknowledged; the
acknowledgement by `Dev.read_writeMem`. -/
theorem arrivalsAndChecks : Obligations.ArrivalsAndChecks := by
  unfold Obligations.ArrivalsAndChecks
  refine ⟨fun core bank row half host mark delay s x v hx hv => ?arrival, fun d x half v => ⟨d.row_landHalf x half v,
      fun c hc => d.core_landHalf_ne x half v hc⟩, fun core s => ⟨rfl, rfl⟩,
    fun d x => ⟨fun hc => Dev.checkDue_of_complete hc, fun hc hr hs he hh => Dev.exists_hold_checkDue hc hr hs he hh⟩,
    fun d x => ⟨fun ha => if_pos ha, fun ha he hh => Dev.exists_hold_checkAck ha he hh⟩, fun core tag j s x hx => ?ack⟩
  case arrival =>
    refine (leaves_halfRowArrival mark hx hv).congr ?_
    unfold Dev.fillIn
    rw [Dev.fillLand_of_wanted hx] <;> cases mark <;> rfl
  case ack =>
    refine ⟨stores_writeAcknowledgement hx, bytesKept_acceptMem _ _ _, fun a ha => ?_⟩
    unfold Dev.acceptMem
    rw [ha]

end Sys2Proof.Machine
end

section
/-! PROOF. The mesh and the Relay chain (R252 to R271): the ticks of a transfer whose row is readable, and a slip overrun. -/

namespace Sys2Proof.Machine

/-- A core's place on the chain: the map is its own inverse (R266). -/
theorem chainPos_chainPos {c : Nat} (h : c < 256) : chainPos (chainPos c) = c ∧ chainPos c < 256 := by
  unfold chainPos
  by_cases he : c / 16 % 2 = 0
  · simp only [he, if_true]
    exact ⟨trivial, h⟩
  · have hq : (16 * (c / 16) + 15 - c % 16) / 16 = c / 16 := by omega
    simp only [hq, he, if_false]
    omega

/-- Settles O11: the issue of each transfer with its unit free, and each of its ticks by the row that it reads. -/
theorem meshAndChain : Obligations.MeshAndChain := by
  unfold Obligations.MeshAndChain
  refine ⟨fun i s hi => ⟨fun hf => ⟨?send, ?fan, ?conf⟩, fun hf => ⟨?pass, ?fwd⟩⟩, fun i d o j hw hr => ?ticks, fun i d o j v => ?relay,
    fun i d o j => ?fwdTick, fun c hc => chainPos_chainPos hc⟩
  case send =>
    refine Leaves.congr (State.issue_of_canIssue hi _) ?_
    simp only [Dev.meshSend, Dev.takeUnit_free (o := s.dev.owner i 6 0) 1 (4 * i.cnt) hf, if_true]
  case fan =>
    refine Leaves.congr (State.issue_of_canIssue hi _) ?_
    simp only [Dev.meshFan, Dev.takeUnit_free (o := s.dev.owner i 6 0) 1 (4 * i.cnt) hf, if_true]
  case conf =>
    refine Leaves.congr (State.issue_of_canIssue hi _) ?_
    simp only [Dev.meshConf, Dev.takeUnit_free (o := s.dev.owner i 6 0) 1 (4 * i.cnt) hf, if_true]
  case pass =>
    refine Leaves.congr (State.issue_of_canIssue hi _) ?_
    simp only [Dev.relayPass, Dev.takeUnit_free (o := s.dev.owner i 7 0) 1 i.cnt hf, if_true]
  case fwd =>
    refine Leaves.congr (State.issue_of_canIssue hi _) ?_
    simp only [Dev.relayFwd, Dev.takeUnit_free (o := s.dev.owner i 7 0) 1 i.cnt hf, if_true]
  case ticks =>
    intro v t e d1 land next leaves
    have hv : d.readRow o i.coreN (opBank i.opa) (opRow i.opa + j) = (some v, d1) := Dev.readRow_ok o hr hw
    refine ⟨?send, ?fan, ?conf, ?pass⟩
    case send =>
      simp only [Dev.sendTick, hv]
      rfl
    case fan =>
      simp only [Dev.fanTick, hv]
      rfl
    case conf =>
      intro c first mine d2 d3
      simp only [Dev.confTick, hv]
      rfl
    case pass =>
      simp only [Dev.passTick, hv]
      rfl
  case relay =>
    unfold Dev.relaySend
    rfl
  case fwdTick =>
    simp only [Dev.fwdTick]
    cases d.run.relayIn.find? fun x => x.1 == i.coreN && x.2.1 == i.extBits 0 1 <;> rfl

/-! ### A slip overrun -/

theorem Dev.is_of_get {d e : Dev} {F : Fld} (h : d.get F = e.get F) : d.is F = e.is F := by
  unfold Dev.is
  rw [h]

theorem RegsKept.blockFault {d e : Dev} {l : List Fld} (h : RegsKept d e l) (o : Owner) (code : Nat) (b : Bool)
    (h1 : Reg.DBG_LTN_LOST.COUNT ∈ l) (h2 : Reg.DBG_LTN_FAULTS.COUNT ∈ l) : RegsKept (d.blockFault o code b) e l :=
  fun F hF => (Dev.get_blockFault_ne d o code b (hF _ h1) (hF _ h2)).trans (h F hF)

/-- The debt of a crossing is brought to +4 or to -4, and the peak is 4 at least. -/
def Dev.overrunDebt (key : Nat) (plus : Bool) (d : Dev) : Dev :=
  ({ d with slip := kset 4 d.slip key (if plus then 8 else 0) } : Dev).peak Reg.MSH_SLIP_PEAK.PEAK 4

theorem Dev.slipBy_to_limit (key : Nat) (plus : Bool) (d : Dev) :
    d.slipBy key ((if plus then 4 else -4) - d.debt key) = d.overrunDebt key plus := by
  unfold Dev.slipBy Dev.overrunDebt
  have hs : (d.debt key + 4 + ((if plus then 4 else -4) - d.debt key)).toNat = if plus then 8 else 0 := by
    rw [show d.debt key + 4 + ((if plus then 4 else -4) - d.debt key) = (if plus then 4 else -4) + 4 by omega]
    cases plus <;> rfl
  have hd : min 4 (({ d with slip := kset 4 d.slip key (if plus then 8 else 0) } : Dev).debt key).natAbs = 4 := by
    simp only [Dev.debt, kget_kset_self]
    cases plus <;> rfl
  simp only [hs, hd]

theorem Dev.slipOverrun_of_segment {d : Dev} {router port : Nat} (plus : Bool) (hi : d.inSegment = true) (hh : d.held = false)
    (hc : crossing router port ≠ none) :
    d.slipOverrun router port plus = ((d.overrunDebt (router * 8 + port) plus).slipRecord router port plus).hold 6 .slip := by
  have hno : ¬ ((!d.inSegment) = true ∨ d.held = true ∨ (crossing router port).isNone = true) := by
    simp [hi, hh, Option.isNone_iff_eq_none, hc]
  refine (if_neg hno).trans ?_
  dsimp only
  rw [Dev.slipBy_to_limit]

/-- A second overrun is counted in Lantern. -/
theorem Dev.slipRecord_again {d : Dev} (router port : Nat) (plus : Bool) (h : d.is Reg.MSH_EVENT.OVERRUN = true) :
    d.slipRecord router port plus = (d.count Reg.MSH_OVERRUNS.COUNT 1).blockFault noOwner 0x0501 false := by
  simp only [Dev.slipRecord, h, if_true, Bool.not_true]

/-- The first overrun is recorded. -/
theorem Dev.slipRecord_first {d : Dev} (router port : Nat) (plus : Bool) (h : d.is Reg.MSH_EVENT.OVERRUN = false) :
    d.slipRecord router port plus = ((((d.putB Reg.MSH_SLIP_REC.SIGN plus).put Reg.MSH_SLIP_REC.PORT port).put Reg.MSH_SLIP_REC.ROUTER router
      |>.put Reg.MSH_SLIP_REC.TICK d.run.tick).event Reg.MSH_EVENT.OVERRUN |>.count Reg.MSH_OVERRUNS.COUNT 1).blockFault noOwner 0x0501 true := by
  simp only [Dev.slipRecord, h, Bool.false_eq_true, if_false, Bool.not_false]

/-- The fields that a slip overrun may change. -/
def slipFields : List Fld := [Reg.MSH_EVENT.OVERRUN, Reg.MSH_OVERRUNS.COUNT, Reg.MSH_SLIP_PEAK.PEAK, Reg.MSH_SLIP_REC.SIGN,
  Reg.MSH_SLIP_REC.PORT, Reg.MSH_SLIP_REC.ROUTER, Reg.MSH_SLIP_REC.TICK, Reg.DBG_LTN_LOST.COUNT, Reg.DBG_LTN_FAULTS.COUNT]

theorem RegsKept.slipRecord {d e : Dev} (router port : Nat) (plus : Bool) (h : RegsKept d e slipFields) :
    RegsKept (d.slipRecord router port plus) e slipFields := by
  have hm : ∀ F ∈ slipFields, F ∈ slipFields := fun _ h => h
  simp only [slipFields, List.forall_mem_cons] at hm
  obtain ⟨ho, hc, -, hs, hp, hr, ht, hl, hf, -⟩ := hm
  cases hd : d.is Reg.MSH_EVENT.OVERRUN
  case true =>
    rw [Dev.slipRecord_again _ _ _ hd]
    exact (h.put _ hc).blockFault _ _ _ hl hf
  case false =>
    rw [Dev.slipRecord_first _ _ _ hd]
    exact ((((((h.put _ hs).put _ hp).put _ hr).put _ ht).event ho).put _ hc).blockFault _ _ _ hl hf

theorem Dev.rest_slipRecord (router port : Nat) (plus : Bool) (d : Dev) : (d.slipRecord router port plus).rest = d.rest := by
  cases hd : d.is Reg.MSH_EVENT.OVERRUN
  case true => rw [Dev.slipRecord_again _ _ _ hd, Dev.rest_blockFault, Dev.rest_count]
  case false =>
    rw [Dev.slipRecord_first _ _ _ hd]
    simp only [Dev.rest_blockFault, Dev.rest_count, Dev.rest_event, Dev.rest_put, Dev.rest_putB]

/-- After an overrun the event stands and the overrun is counted; the peak stays. -/
theorem Dev.slipRecord_event (router port : Nat) (plus : Bool) (d : Dev) :
    (d.slipRecord router port plus).is Reg.MSH_EVENT.OVERRUN = true ∧
    (d.slipRecord router port plus).get Reg.MSH_SLIP_PEAK.PEAK = d.get Reg.MSH_SLIP_PEAK.PEAK ∧
    (d.slipRecord router port plus).get Reg.MSH_OVERRUNS.COUNT = min (d.get Reg.MSH_OVERRUNS.COUNT + 1) (2 ^ 32 - 1) := by
  cases hd : d.is Reg.MSH_EVENT.OVERRUN
  case true =>
    rw [Dev.slipRecord_again _ _ _ hd]
    refine ⟨(Dev.is_of_get ?_).trans hd, ?_, ?_⟩
    · simp (disch := decide) only [Dev.get_blockFault_ne, Dev.get_count_ne]
    · simp (disch := decide) only [Dev.get_blockFault_ne, Dev.get_count_ne]
    · simp (disch := decide) only [Dev.get_blockFault_ne, Dev.get_count_self]
      rfl
  case false =>
    rw [Dev.slipRecord_first _ _ _ hd]
    refine ⟨?_, ?_, ?_⟩
    · exact (Dev.is_of_get ((Dev.get_blockFault_ne _ _ _ _ (by decide) (by decide)).trans (Dev.get_count_ne _ _ (by decide)))).trans
        (Dev.is_event_self _ Reg.MSH_EVENT.OVERRUN (by decide))
    · simp (disch := decide) only [Dev.get_blockFault_ne, Dev.get_count_ne, Dev.get_event_ne, Dev.get_put_ne, Dev.putB]
    · simp (disch := decide) only [Dev.get_blockFault_ne, Dev.get_count_self, Dev.get_event_ne, Dev.get_put_ne, Dev.putB]
      rfl

/-- What an overrun records where no earlier one stands (R277). -/
theorem Dev.slipRecord_fields_first (router : BitVec 8) (port : BitVec 3) (plus : Bool) {d : Dev} (h : d.is Reg.MSH_EVENT.OVERRUN = false) :
    let e := d.slipRecord router.toNat port.toNat plus
    e.get Reg.MSH_SLIP_REC.ROUTER = router.toNat ∧ e.get Reg.MSH_SLIP_REC.PORT = port.toNat ∧
      e.get Reg.MSH_SLIP_REC.SIGN = (if plus then 1 else 0) ∧ e.get Reg.MSH_SLIP_REC.TICK = d.run.tick % 2 ^ 40 ∧
      e.get Reg.DBG_LTN_FAULTS.COUNT = d.get Reg.DBG_LTN_FAULTS.COUNT := by
  intro e
  have he : e = d.slipRecord router.toNat port.toNat plus := rfl
  rw [Dev.slipRecord_first _ _ _ h] at he
  rw [he]
  refine ⟨?_, ?_, ?_, ?_, ?_⟩ <;>
    simp (disch := decide) only [Dev.get_blockFault_recorded, Dev.get_count_ne, Dev.get_event_ne, Dev.get_put_ne, Dev.get_put_self, Dev.putB]
  · exact Nat.mod_eq_of_lt router.isLt
  · exact Nat.mod_eq_of_lt port.isLt
  · cases plus <;> rfl
  · rfl

/-- An overrun that meets an earlier one leaves the record, and Lantern counts it. -/
theorem Dev.slipRecord_fields_again (router port : Nat) (plus : Bool) {d : Dev} (h : d.is Reg.MSH_EVENT.OVERRUN = true) :
    let e := d.slipRecord router port plus
    e.get Reg.MSH_SLIP_REC.ROUTER = d.get Reg.MSH_SLIP_REC.ROUTER ∧ e.get Reg.MSH_SLIP_REC.PORT = d.get Reg.MSH_SLIP_REC.PORT ∧
      e.get Reg.MSH_SLIP_REC.SIGN = d.get Reg.MSH_SLIP_REC.SIGN ∧ e.get Reg.MSH_SLIP_REC.TICK = d.get Reg.MSH_SLIP_REC.TICK ∧
      e.get Reg.DBG_LTN_FAULTS.COUNT = min (d.get Reg.DBG_LTN_FAULTS.COUNT + 1) (2 ^ 32 - 1) := by
  intro e
  have he : e = d.slipRecord router port plus := rfl
  rw [Dev.slipRecord_again _ _ _ h] at he
  rw [he]
  refine ⟨?_, ?_, ?_, ?_, ?_⟩ <;>
    simp (disch := decide) only [Dev.get_blockFault_ne, Dev.get_blockFault_faults, Dev.get_count_ne, Bool.false_eq_true, if_false]

theorem Leaves.noEffect {c : Instr} {s : State} {d : Dev} (h : Leaves c s d) (e : d = s.dev) : NoEffect c s := by
  subst e
  exact h

/-- Settles O12: the overrun brings the debt to its limit (`Dev.slipBy_to_limit`) and is recorded by whether the event stands already. -/
theorem slipOverrun : Obligations.SlipOverrun := by
  unfold Obligations.SlipOverrun
  intro router port plus s key
  refine ⟨fun h => ?none, fun hi hh hc => ?overrun⟩
  case none =>
    have hno : (!s.dev.inSegment) = true ∨ s.dev.held = true ∨ (crossing router.toNat port.toNat).isNone = true := by
      simpa only [Bool.not_eq_true', Option.isNone_iff_eq_none] using h
    exact Leaves.noEffect (d := s.dev.slipOverrun router.toNat port.toNat plus) rfl (if_pos hno)
  case overrun =>
    have hl : Leaves (.meshSlipOverrun router port plus) s (s.dev.slipOverrun router.toNat port.toNat plus) := rfl
    rw [Dev.slipOverrun_of_segment plus hi hh hc] at hl
    have hrest := Dev.rest_slipRecord router.toNat port.toNat plus (s.dev.overrunDebt key plus)
    have hslip : ((s.dev.overrunDebt key plus).slipRecord router.toNat port.toNat plus).slip = kset 4 s.dev.slip key (if plus then 8 else 0) :=
      congrArg Dev.slip hrest
    have hrun : ((s.dev.overrunDebt key plus).slipRecord router.toNat port.toNat plus).run = s.dev.run :=
      Dev.run_rest (e := s.dev.overrunDebt key plus) hrest
    have hecl : s.dev.run.eclipse = false := by
      simp only [Dev.held, Bool.or_eq_false_iff] at hh
      exact hh.1.1
    have hov : (s.dev.overrunDebt key plus).is Reg.MSH_EVENT.OVERRUN = s.dev.is Reg.MSH_EVENT.OVERRUN := Dev.is_put_ne _ _ (by decide)
    have hfault : (s.dev.overrunDebt key plus).get Reg.DBG_LTN_FAULTS.COUNT = s.dev.get Reg.DBG_LTN_FAULTS.COUNT :=
      Dev.get_put_ne _ _ (by decide)
    obtain ⟨hev, hpk, hct⟩ := Dev.slipRecord_event router.toNat port.toNat plus (s.dev.overrunDebt key plus)
    have hkept : RegsKept (s.dev.overrunDebt key plus) s.dev slipFields := (RegsKept.refl s.dev slipFields).put _ (by decide)
    have hfirst := fun h => Dev.slipRecord_fields_first router port plus (hov.trans h)
    have hagain := fun h => Dev.slipRecord_fields_again router.toNat port.toNat plus (hov.trans h)
    have hrec := hkept.slipRecord router.toNat port.toNat plus
    rw [Dev.hold_off _ _ (by rw [hrun]; exact hecl)] at hl
    generalize (s.dev.overrunDebt key plus).slipRecord router.toNat port.toNat plus = e at *
    refine ⟨_, hl, ?debt, fun k hk => ?other, hev, hpk.trans ?peak, hct.trans ?count, fun h => ?first, fun h => ?again, hrec, ?rest⟩
    case debt =>
      show ((kget 4 e.slip key : Nat) : Int) - 4 = _
      rw [hslip, kget_kset_self]
      cases plus <;> rfl
    case other =>
      show ((kget 4 e.slip k : Nat) : Int) - 4 = ((kget 4 s.dev.slip k : Nat) : Int) - 4
      rw [hslip, kget_kset_ne _ _ _ hk]
    case peak => exact (Dev.get_put_self _ _ _).trans (Nat.mod_eq_of_lt (Nat.lt_succ_of_le (Nat.min_le_right _ 7)))
    case count => rw [show (s.dev.overrunDebt key plus).get Reg.MSH_OVERRUNS.COUNT = s.dev.get Reg.MSH_OVERRUNS.COUNT from
        Dev.get_put_ne _ _ (by decide)]
    case first =>
      obtain ⟨h1, h2, h3, h4, h5⟩ := hfirst h
      exact ⟨h1, h2, h3, h4, h5.trans hfault⟩
    case again =>
      obtain ⟨h1, h2, h3, h4, h5⟩ := hagain h
      exact ⟨h1.trans (Dev.get_put_ne _ _ (by decide)), h2.trans (Dev.get_put_ne _ _ (by decide)), h3.trans (Dev.get_put_ne _ _ (by decide)),
        h4.trans (Dev.get_put_ne _ _ (by decide)), h5.trans (by rw [hfault])⟩
    case rest =>
      have hnow : e.now = s.dev.now := hrec _ (by decide)
      rw [hrun, hnow]
      exact (Dev.rest_onRun _ hrest).trans rfl

end Sys2Proof.Machine
end

section
/-! PROOF. Beacons and their waiters, and the signal network's outbound side (R79, R383 to R394). -/

namespace Sys2Proof.Machine

/-! ### Signals and releases -/

/-- With the BCN unit free a signal is due 40 ticks later. -/
theorem Dev.beaconSignal_of_free {i : Inst} {d : Dev} (hf : d.unitFree i.coreN 8 2 = true) :
    d.beaconSignal i = (d.took (d.owner i 8 0) 2 1 1).sched (d.run.tick + 40) true (d.owner i 8 0)
      (.beacon (opBeacon i.opa) (i.sub % 2 == 1) (BitVec.ofNat 32 (i.extBits 0 32))) := by
  simp only [Dev.beaconSignal, Dev.takeUnit_free (o := d.owner i 8 0) 1 1 hf, if_true]

theorem Dev.beacon_signal_self (kind id bcn : Nat) (set : Bool) (v : BitVec 32) (d : Dev) :
    (d.signal kind id bcn set v).beacon bcn = if set then v else d.beacon bcn + v := kget_kset_self _ _ _ _

theorem Dev.beacon_signal_ne (kind id : Nat) {bcn b : Nat} (set : Bool) (v : BitVec 32) (d : Dev) (h : b ≠ bcn) :
    (d.signal kind id bcn set v).beacon b = d.beacon b := kget_kset_ne _ _ _ h

theorem reached_eq (a b : BitVec 32) : reached a b = decide ((a.toNat + 2 ^ 32 - b.toNat) % 2 ^ 32 < 2 ^ 31) := by
  have h : (a - b).toNat = (a.toNat + 2 ^ 32 - b.toNat) % 2 ^ 32 := by
    rw [BitVec.toNat_sub, Nat.add_comm, ← Nat.add_sub_assoc (Nat.le_of_lt b.isLt)]
  simp only [reached, h]

@[simp] theorem Dev.get_msix (d : Dev) (v n : Nat) (F : Fld) : (d.msix v n).get F = d.get F := by
  obtain ⟨o, p, l, h⟩ := Dev.msix_eq d v n
  rw [h]
  rfl

@[simp] theorem Dev.hwaits_msix (d : Dev) (v n : Nat) : (d.msix v n).hwaits = d.hwaits := by
  obtain ⟨o, p, l, h⟩ := Dev.msix_eq d v n
  rw [h]

@[simp] theorem Dev.beacons_msix (d : Dev) (v n : Nat) : (d.msix v n).beacons = d.beacons := by
  obtain ⟨o, p, l, h⟩ := Dev.msix_eq d v n
  rw [h]

/-- A host wait ends: it leaves the list, its status shows, and no Beacon changes. -/
theorem Dev.endWait_facts (w : HWait) (d : Dev) :
    (d.endWait w 2).get (Reg.BCN_HWAIT_B.STATUS w.n) = 2 ∧ (∀ x ∈ (d.endWait w 2).hwaits, x.n ≠ w.n) ∧
      ∀ b, (d.endWait w 2).beacon b = d.beacon b := by
  refine ⟨(Dev.get_msix _ _ _ _).trans (Dev.get_put_self _ _ _), fun x hx => ?_, fun b => ?_⟩
  · rw [Dev.endWait, Dev.hwaits_msix] at hx
    exact of_decide_eq_true (List.mem_filter.1 hx).2
  · rw [Dev.endWait, Dev.beacon, Dev.beacons_msix]
    rfl

theorem Dev.tryWait_of_wait {w : HWait} (d : Dev) (hw : w.take = false) :
    d.tryWait w = if reached (d.beacon w.bcn) w.target then d.endWait w 2 else d := by
  simp only [Dev.tryWait, hw, Bool.false_eq_true, if_false]

theorem Dev.tryWait_of_take {w : HWait} (d : Dev) (hw : w.take = true) :
    d.tryWait w = if d.beacon w.bcn = 0#32 then d
      else ({ d with beacons := kset 0#32 d.beacons w.bcn (d.beacon w.bcn - 1#32) } : Dev).endWait w 2 := by
  simp only [Dev.tryWait, hw, if_true]

/-- The Beacon has not risen, and no other has changed. -/
def Dev.Lowers (bcn : Nat) (d e : Dev) : Prop := (e.beacon bcn).toNat ≤ (d.beacon bcn).toNat ∧ ∀ b, b ≠ bcn → e.beacon b = d.beacon b

theorem Dev.Lowers.refl (bcn : Nat) (d : Dev) : Dev.Lowers bcn d d := ⟨Nat.le_refl _, fun _ _ => rfl⟩

theorem Dev.Lowers.trans {bcn : Nat} {d e f : Dev} (h : Dev.Lowers bcn d e) (h' : Dev.Lowers bcn e f) : Dev.Lowers bcn d f :=
  ⟨Nat.le_trans h'.1 h.1, fun b hb => (h'.2 b hb).trans (h.2 b hb)⟩

theorem Dev.Lowers.of_same {bcn : Nat} {d e : Dev} (h : ∀ b, e.beacon b = d.beacon b) : Dev.Lowers bcn d e :=
  ⟨Nat.le_of_eq (by rw [h]), fun b _ => h b⟩

/-- One unit is taken from a Beacon that is not 0. -/
theorem Dev.Lowers.of_take {bcn : Nat} {d e : Dev} (h0 : d.beacon bcn ≠ 0#32)
    (he : e.beacons = kset 0#32 d.beacons bcn (d.beacon bcn - 1#32)) : Dev.Lowers bcn d e := by
  have hb : ∀ b, e.beacon b = kget 0#32 (kset 0#32 d.beacons bcn (d.beacon bcn - 1#32)) b := fun b => by rw [Dev.beacon, he]
  refine ⟨?_, fun b hne => (hb b).trans (kget_kset_ne _ _ _ hne)⟩
  rw [hb, kget_kset_self]
  bv_omega

theorem Dev.lowers_tryWait (w : HWait) (d : Dev) : Dev.Lowers w.bcn d (d.tryWait w) := by
  cases hw : w.take
  case false =>
    rw [Dev.tryWait_of_wait d hw]
    split
    · exact .of_same (Dev.endWait_facts w d).2.2
    · exact .refl _ _
  case true =>
    rw [Dev.tryWait_of_take d hw]
    split
    case isTrue => exact .refl _ _
    case isFalse h0 => exact (Dev.Lowers.of_take h0 rfl).trans (.of_same (Dev.endWait_facts w _).2.2)

theorem Dev.lowers_tryGate (bcn : Nat) (d : Dev) : Dev.Lowers bcn d (d.tryGate bcn) := by
  unfold Dev.tryGate
  split
  case h_2 => exact .refl _ _
  case h_1 g hg =>
    dsimp only
    split
    · exact .refl _ _
    · split
      · split
        case isTrue => exact .refl _ _
        case isFalse h0 => exact .of_take h0 rfl
      · split
        · exact .of_same fun _ => rfl
        · exact .refl _ _

theorem Dev.lowers_tryWaits {bcn : Nat} {L : List HWait} (h : ∀ w ∈ L, w.bcn = bcn) (d : Dev) :
    Dev.Lowers bcn d (L.foldl (fun d w => d.tryWait w) d) := by
  induction L generalizing d with
  | nil => exact .refl _ _
  | cons w L ih =>
    have hw : Dev.Lowers bcn d (d.tryWait w) := h w List.mem_cons_self ▸ Dev.lowers_tryWait w d
    exact hw.trans (ih (fun x hx => h x (List.mem_cons_of_mem _ hx)) _)

/-- A store cycle's releases never raise the Beacon, and touch no other (R384). -/
theorem Dev.lowers_release (bcn : Nat) (d : Dev) : Dev.Lowers bcn d (d.release bcn) := by
  have hgate : ∀ (c : Prop) [Decidable c] (d : Dev), Dev.Lowers bcn d (if c then d else d.tryGate bcn) := fun c _ d => by
    split
    · exact .refl _ _
    · exact d.lowers_tryGate bcn
  have hgate' : ∀ (c : Prop) [Decidable c] (d : Dev), Dev.Lowers bcn d (if c then d.tryGate bcn else d) := fun c _ d => by
    split
    · exact d.lowers_tryGate bcn
    · exact .refl _ _
  have hwaits : ∀ (take : HWait → Bool) (d : Dev),
      Dev.Lowers bcn d ((d.hwaits.filter fun w => w.bcn == bcn && take w).foldl (fun d w => d.tryWait w) d) := fun take d => by
    refine Dev.lowers_tryWaits (fun w hw => ?_) d
    exact eq_of_beq (Bool.and_eq_true_iff.1 (List.mem_filter.1 hw).2).1
  exact (((hgate _ d).trans (hwaits (fun w => !w.take) _)).trans (hgate' _ _)).trans (hwaits (fun w => w.take) _)

/-- Settles O13: the issue of a signal, each waiter by its mode, and the releases by `Dev.lowers_release`. -/
theorem beaconSignals : Obligations.BeaconSignals := by
  unfold Obligations.BeaconSignals
  refine ⟨fun i s hi hf => Leaves.congr (State.issue_of_canIssue hi _) (Dev.beaconSignal_of_free hf),
    fun kind id bcn set v d => ⟨d.beacon_signal_self kind id bcn set v, fun b hb => d.beacon_signal_ne kind id set v hb⟩,
    reached_eq, fun w d hw => ⟨fun hr => ?still, fun hr => ?wait⟩, fun w d hw => ⟨fun h0 => ?zero, fun h0 => ?take⟩,
    fun bcn d => d.lowers_release bcn⟩
  case still => rw [Dev.tryWait_of_wait d hw, hr, if_neg Bool.false_ne_true]
  case wait =>
    rw [Dev.tryWait_of_wait d hw, hr, if_pos rfl]
    exact ⟨rfl, Dev.endWait_facts w d⟩
  case zero => rw [Dev.tryWait_of_take d hw, if_pos h0]
  case take =>
    rw [Dev.tryWait_of_take d hw, if_neg h0]
    obtain ⟨hs, hl, hb⟩ := Dev.endWait_facts w ({ d with beacons := kset 0#32 d.beacons w.bcn (d.beacon w.bcn - 1#32) } : Dev)
    exact ⟨rfl, hs, hl, (hb w.bcn).trans (kget_kset_self _ _ _ _), fun b hne => (hb b).trans (kget_kset_ne _ _ _ hne)⟩

/-! ### Messages leave a core -/

theorem Dev.creditsUsed_setCredits_self (sender dst n : Nat) (d : Dev) : (d.setCredits sender dst n).creditsUsed sender dst = n := by
  have hnone : (d.credits.filter fun c => !(c.1 == sender && c.2.1 == dst)).find? (fun c => c.1 == sender && c.2.1 == dst) = none := by
    refine List.find?_eq_none.2 fun c hc => ?_
    simpa only [Bool.not_eq_true', Bool.not_eq_true] using (List.mem_filter.1 hc).2
  unfold Dev.setCredits Dev.creditsUsed
  by_cases h0 : n = 0
  · simp only [h0, if_true, hnone]
  · simp only [h0, if_false, List.find?_append, hnone, Option.none_or, List.find?_cons, beq_self_eq_true, Bool.and_self]

theorem Dev.bcnMessage_of_free {i : Inst} {d : Dev} (hf : d.unitFree i.coreN 8 2 = true) (hw : d.watchOff = true)
    (hr : d.rowReadable i.coreN (opBank i.opa) (opRow i.opa) = true) :
    let o := d.owner i 8 0
    let e := (d.took o 2 1 1).rowServed i.coreN (opBank i.opa) (opRow i.opa) o
    d.bcnMessage i = if 32 ≤ (e.core i.coreN).outbound.length then e.raise o 0x0603
      else e.onCore i.coreN fun k => { k with outbound := k.outbound ++
          [{ sender := i.coreN, dest := i.opd.toNat, tag := i.extBits 6 24, len := i.extBits 0 6 + 1, reply := false,
             payload := BitVec.ofNat 512 (rowBits ((d.core i.coreN).row (opBank i.opa) (opRow i.opa)) 0 (8 * (i.extBits 0 6 + 1))),
             ten := d.rt.tenancy, receipt := false, ready := d.run.cont + 1 }] } := by
  intro o e
  have hr1 : (d.took o 2 1 1).rowReadable i.coreN (opBank i.opa) (opRow i.opa) = true := hr
  have hu : d.takeUnit (ownerOf i 8 0 d) 2 1 1 = (true, d.took o 2 1 1) := Dev.takeUnit_free (o := o) 1 1 hf
  have hv : (d.took o 2 1 1).readRow (ownerOf i 8 0 d) i.coreN (opBank i.opa) (opRow i.opa) =
      (some ((d.core i.coreN).row (opBank i.opa) (opRow i.opa)), e) := Dev.readRow_ok o hr1 hw
  simp only [Dev.bcnMessage, hu, hv, Bool.not_true, Bool.false_eq_true, if_false]
  rfl

/-- A read of a row may queue it for test, and changes nothing else of its core. -/
theorem CoreSt.noteRead_eq (k : CoreSt) (key : Nat) : ∃ q, k.noteRead key = { k with testQueue := q } := by
  unfold CoreSt.noteRead CoreSt.queueTest
  split
  · split <;> exact ⟨_, rfl⟩
  · exact ⟨_, rfl⟩

theorem Dev.outbound_rowServed (d : Dev) (c b r : Nat) (o : Owner) : ((d.rowServed c b r o).core c).outbound = (d.core c).outbound := by
  obtain ⟨q, h⟩ := CoreSt.noteRead_eq (d.core c) (rowKey b r)
  rw [Dev.rowServed, Dev.core_onCore_self, Dev.core_ported, h]

theorem Dev.messageSend_of_cons {d : Dev} {c : Nat} {m : Msg} {rest : List Msg} (h : (d.core c).outbound = m :: rest) :
    let dst := creditDest m.dest
    let e := (d.onCore c fun k => { k with outbound := rest }).setCredits m.sender dst (d.creditsUsed m.sender dst + 1)
    d.messageSend c = if d.run.cont < m.ready ∨ d.granted m.sender dst ≤ d.creditsUsed m.sender dst then d
      else if bitsOf m.dest 21 3 = 0 then e.onCore dst fun k => { k with inRoute := k.inRoute ++ [m] } else e.toMgmt m := by
  simp only [Dev.messageSend, h]

/-- Settles O14: a message's issue by whether its queue has room, and its way out by its head, its tick and its credits. -/
theorem signalNetwork : Obligations.SignalNetwork := by
  unfold Obligations.SignalNetwork
  refine ⟨fun i s hi hf hw hr => ⟨fun hfull => ?full, fun hroom => ?room⟩, fun core s => ⟨fun h0 => ?empty, fun m rest h => ?head⟩⟩
  case full =>
    refine Leaves.congr (State.issue_of_canIssue hi _) ((Dev.bcnMessage_of_free hf hw hr).trans (if_pos ?_))
    rwa [Dev.outbound_rowServed]
  case room =>
    refine Leaves.congr (State.issue_of_canIssue hi _) ((Dev.bcnMessage_of_free hf hw hr).trans (if_neg ?_))
    rw [Dev.outbound_rowServed]
    exact Nat.not_le.2 hroom
  case empty =>
    refine Leaves.noEffect (d := s.dev.messageSend core.toNat) rfl ?_
    simp only [Dev.messageSend, h0]
  case head =>
    intro dst d
    have hl : Leaves (.messageSend core) s (s.dev.messageSend core.toNat) := rfl
    rw [Dev.messageSend_of_cons h] at hl
    refine ⟨fun hwait => hl.noEffect (if_pos hwait), fun hready hcredit => ?_⟩
    have hgo : ¬ (s.dev.run.cont < m.ready ∨ s.dev.granted m.sender dst ≤ s.dev.creditsUsed m.sender dst) := by omega
    exact ⟨fun hc => hl.congr ((if_neg hgo).trans (if_pos hc)), fun hc => hl.congr ((if_neg hgo).trans (if_neg hc)),
      Dev.creditsUsed_setCredits_self _ _ _ _⟩

end Sys2Proof.Machine
end

section
/-! PROOF. The delivery of a message into its row, and the bank-conflict counters (R225 to R228, R391 to R395). -/

namespace Sys2Proof.Machine

/-! ### Which message is delivered -/

theorem lowestRank_eq_none {L : List (List Nat × Msg)} : lowestRank L = none ↔ L = [] := by
  cases L with
  | nil => simp [lowestRank]
  | cons x L =>
    unfold lowestRank
    split
    · simp
    · split <;> simp

theorem lowestRank_mem {L : List (List Nat × Msg)} {x : List Nat × Msg} (h : lowestRank L = some x) : x ∈ L := by
  induction L with
  | nil => simp [lowestRank] at h
  | cons y L ih =>
    unfold lowestRank at h
    split at h
    · cases h
      exact List.mem_cons_self
    · rename_i z hz
      split at h
      · cases h
        exact List.mem_cons_of_mem _ (ih hz)
      · cases h
        exact List.mem_cons_self

theorem Dev.nextDelivery_eq_none {d : Dev} {c : Nat} {q : MsgQueue} :
    d.nextDelivery c q = none ↔ ∀ x ∈ (d.core c).asking q, d.portFree c (bitsOf x.2.dest 10 3) true x.1 = false := by
  simp only [Dev.nextDelivery, Option.map_eq_none_iff, lowestRank_eq_none, List.filter_eq_nil_iff, Bool.not_eq_true]

theorem Dev.nextDelivery_mem {d : Dev} {c : Nat} {q : MsgQueue} {m : Msg} (h : d.nextDelivery c q = some m) :
    ∃ r, (r, m) ∈ (d.core c).asking q ∧ d.portFree c (bitsOf m.dest 10 3) true r = true := by
  obtain ⟨⟨r, x⟩, hx, rfl⟩ := Option.map_eq_some_iff.1 h
  obtain ⟨hmem, hfree⟩ := List.mem_filter.1 (lowestRank_mem hx)
  exact ⟨r, hmem, hfree⟩

/-! ### The row that a message leaves -/

section
variable (m : Msg) (seq : Nat) (r : Row) (hlen : m.len ≤ 64) (hpos : m.len ≠ 0) (htag : m.tag < 2 ^ 24) (hsender : m.sender < 256)

/-- The header of a delivered message (R391). -/
def Msg.header (m : Msg) (seq : Nat) : Nat :=
  m.tag + 2 ^ 24 * (m.len - 1) + (if m.reply then 2 ^ 30 else 0) + 2 ^ 31 + 2 ^ 32 * m.sender + 2 ^ 40 * (seq % 2 ^ 24)

theorem deliveredRow_eq : deliveredRow m seq r = rowSet (rowSet r 0 m.len m.payload.toNat) 504 8 (m.header seq) := rfl

include hlen in
theorem deliveredRow_payload : bitsOf (deliveredRow m seq r).toNat 0 (8 * m.len) = bitsOf m.payload.toNat 0 (8 * m.len) := by
  rw [deliveredRow_eq, bitsOf_rowSet_out _ _ (by omega) (by omega), bitsOf_rowSet_in _ _ (by omega) (by omega) (by omega)]

include hlen in
theorem deliveredRow_rest :
    bitsOf (deliveredRow m seq r).toNat (8 * m.len) (4032 - 8 * m.len) = bitsOf r.toNat (8 * m.len) (4032 - 8 * m.len) := by
  rw [deliveredRow_eq, bitsOf_rowSet_out _ _ (by omega) (by omega), bitsOf_rowSet_out _ _ (by omega) (by omega)]

theorem deliveredRow_header {lo w : Nat} (h : lo + w ≤ 64) :
    bitsOf (deliveredRow m seq r).toNat (4032 + lo) w = bitsOf (m.header seq) lo w := by
  rw [deliveredRow_eq, bitsOf_rowSet_in _ _ (by omega) (by omega) (by omega), show 4032 + lo - 8 * 504 = lo by omega]

/-- Fields placed one above the other read back. -/
theorem packed_fields {t l s z b : Nat} (ht : t < 16777216) (hl : l < 64) (hb : b < 2) (hs : s < 256) (hz : z < 16777216) :
    let h := t + 16777216 * l + 1073741824 * b + 2147483648 + 4294967296 * s + 1099511627776 * z
    h % 16777216 = t ∧ h / 16777216 % 64 = l ∧ h / 1073741824 % 2 = b ∧ h / 2147483648 % 2 = 1 ∧ h / 4294967296 % 256 = s ∧
      h / 1099511627776 % 16777216 = z := by
  intro h
  refine ⟨?_, ?_, ?_, ?_, ?_, ?_⟩ <;> omega

include hlen htag hsender in
theorem bitsOf_header :
    bitsOf (m.header seq) 0 24 = m.tag ∧ bitsOf (m.header seq) 24 6 = m.len - 1 ∧ bitsOf (m.header seq) 30 1 = (if m.reply then 1 else 0) ∧
      bitsOf (m.header seq) 31 1 = 1 ∧ bitsOf (m.header seq) 32 8 = m.sender ∧ bitsOf (m.header seq) 40 24 = seq % 2 ^ 24 := by
  have hl : m.len - 1 < 64 := by omega
  have hz : seq % 16777216 < 16777216 := Nat.mod_lt _ (by decide)
  have hf := fun b hb => packed_fields (b := b) htag hl hb hsender hz
  cases hr : m.reply
  · simpa [bitsOf, Msg.header, hr] using hf 0 (by decide)
  · simpa [bitsOf, Msg.header, hr] using hf 1 (by decide)

end

/-! ### What a delivery changes -/

/-- A row's contents go to its cells or to the save register, and the row's empty mark clears. -/
theorem CoreSt.putRow_eq (bank row : Nat) (v : Row) (k : CoreSt) :
    ∃ e x g, k.putRow bank row v false = { k with emptyRow := e, scratch := x, saveReg := g } := by
  unfold CoreSt.putRow
  simp only [Bool.not_false, if_true]
  unfold CoreSt.storeRow
  split <;> exact ⟨_, _, _, rfl⟩

/-- The core after the delivery: its row, its sequence number, and the queue the message has left. -/
def CoreSt.delivering (bank row : Nat) (q : MsgQueue) (m : Msg) (k : CoreSt) : CoreSt :=
  let k1 := k.putRow bank row (deliveredRow m k.delivered (k.row bank row)) false
  CoreSt.takeMsg q m { k1 with lastTag := kset 0 k1.lastTag (rowKey bank row) 0, delivered := (k1.delivered + 1) % 2 ^ 24 }

theorem CoreSt.row_takeMsg (q : MsgQueue) (m : Msg) (k : CoreSt) (b r : Nat) : (k.takeMsg q m).row b r = k.row b r := by
  cases q <;> rfl

theorem CoreSt.row_delivering_self (bank row : Nat) (q : MsgQueue) (m : Msg) (k : CoreSt) :
    (k.delivering bank row q m).row bank row = deliveredRow m k.delivered (k.row bank row) := by
  rw [CoreSt.delivering, CoreSt.row_takeMsg]
  exact CoreSt.row_putRow_self _ _ _ _ _

theorem CoreSt.row_delivering_ne {bank row b r : Nat} (q : MsgQueue) (m : Msg) (k : CoreSt) (h : rowKey b r ≠ rowKey bank row)
    (hc : k.cells b r ≠ k.cells bank row) : (k.delivering bank row q m).row b r = k.row b r := by
  rw [CoreSt.delivering, CoreSt.row_takeMsg]
  exact CoreSt.row_putRow_ne _ _ _ h hc

theorem CoreSt.delivering_rest (bank row : Nat) (q : MsgQueue) (m : Msg) (k : CoreSt) :
    (k.delivering bank row q m).delivered = (k.delivered + 1) % 2 ^ 24 ∧
      (q = .route → (k.delivering bank row q m).inRoute = eraseFirst m k.inRoute) ∧
      (q = .reply → (k.delivering bank row q m).inReply = eraseFirst m k.inReply) ∧
      (q = .host → (k.delivering bank row q m).inHost = eraseFirst m k.inHost) := by
  obtain ⟨e, x, g, h⟩ := CoreSt.putRow_eq bank row (deliveredRow m k.delivered (k.row bank row)) k
  unfold CoreSt.delivering
  rw [h]
  cases q
  case route => exact ⟨rfl, fun _ => rfl, fun hq => (by cases hq), fun hq => (by cases hq)⟩
  case host => exact ⟨rfl, fun hq => (by cases hq), fun hq => (by cases hq), fun _ => rfl⟩
  case reply => exact ⟨rfl, fun hq => (by cases hq), fun _ => rfl, fun hq => (by cases hq)⟩

/-- The device once a message is in its row and out of its queue. -/
def Dev.handed (c : Nat) (q : MsgQueue) (m : Msg) (d : Dev) : Dev :=
  ((d.takePort c (bitsOf m.dest 10 3) true).deliverRow m).onCore c (CoreSt.takeMsg q m)

theorem Dev.messageDelivery_of_next {d : Dev} {c : Nat} {q : MsgQueue} {m : Msg} (h : d.nextDelivery c q = some m) :
    d.messageDelivery c q = match q with
      | .route => (d.handed c q m).returnCredit m.sender c
      | .host => (d.handed c q m).hostForward
      | .reply => d.handed c q m := by
  simp only [Dev.messageDelivery, h]
  cases q <;> rfl

section
variable {c : Nat} {q : MsgQueue} {m : Msg} {d : Dev} (hr : m.receipt = false) (hb : m.bcn = none) (hc : bitsOf m.dest 13 8 = c)
include hr hb hc

theorem Dev.deliverRow_plain : d.deliverRow m =
    (d.pokeRow c (bitsOf m.dest 10 3) (bitsOf m.dest 0 10) (deliveredRow m (d.core c).delivered) false).onCore c fun k =>
      { k with delivered := (k.delivered + 1) % 2 ^ 24 } := by
  simp only [Dev.deliverRow, hb, Dev.receipt, hr, Bool.not_false, if_true, hc]

theorem Dev.core_handed_self : (d.handed c q m).core c = (d.core c).delivering (bitsOf m.dest 10 3) (bitsOf m.dest 0 10) q m := by
  simp only [Dev.handed, Dev.deliverRow_plain hr hb hc, Dev.core_onCore_self, Dev.pokeRow]
  rfl

theorem Dev.core_handed_ne {e : Nat} (h : e ≠ c) : (d.handed c q m).core e = d.core e := by
  simp only [Dev.handed, Dev.deliverRow_plain hr hb hc, Dev.core_onCore_ne _ _ h, Dev.pokeRow]
  rfl

theorem Dev.get_handed (F : Fld) : (d.handed c q m).get F = d.get F := by
  simp only [Dev.handed, Dev.deliverRow_plain hr hb hc]
  rfl

theorem Dev.creditsUsed_handed (x y : Nat) : (d.handed c q m).creditsUsed x y = d.creditsUsed x y := by
  simp only [Dev.handed, Dev.deliverRow_plain hr hb hc]
  rfl

end

/-- A host message that goes on joins its core's host queue; the cores are else as they were. -/
theorem Dev.core_hostForward (d : Dev) (c : Nat) : ∃ q, d.hostForward.core c = { d.core c with inHost := q } := by
  unfold Dev.hostForward
  split
  · exact ⟨_, rfl⟩
  · rename_i m hm
    dsimp only
    split
    · exact ⟨_, rfl⟩
    · by_cases hc : c = bitsOf m.dest 13 8
      · rw [← hc, Dev.core_onCore_self]
        exact ⟨_, rfl⟩
      · rw [Dev.core_onCore_ne _ _ hc]
        exact ⟨_, rfl⟩

/-- Whatever follows the hand-over, each core reads as the hand-over left it, but for its host queue. -/
theorem Dev.core_messageDelivery {d : Dev} {c : Nat} {q : MsgQueue} {m : Msg} (h : d.nextDelivery c q = some m) (e : Nat) :
    ∃ l, (d.messageDelivery c q).core e = { (d.handed c q m).core e with inHost := l } := by
  rw [Dev.messageDelivery_of_next h]
  cases q
  case route => exact ⟨_, rfl⟩
  case host => exact Dev.core_hostForward _ e
  case reply => exact ⟨_, rfl⟩

/-! ### Bank conflicts -/

theorem stalls_key_ne {c b c' b' : Nat} (hb : b < 8) (hb' : b' < 8) (h : (c, b) ≠ (c', b')) :
    (Reg.BANK_CONFLICT.STALLS c b).key ≠ (Reg.BANK_CONFLICT.STALLS c' b').key := by
  have hne : ¬ (c = c' ∧ b = b') := fun e => h (by rw [e.1, e.2])
  simp only [Fld.key, Reg.BANK_CONFLICT.STALLS]
  omega

/-- One step of the count at the end of a tick. -/
def Dev.countStall (d e : Dev) (x : Nat × Nat) : Dev :=
  match d.requestsAt x.1 x.2 with
  | 0 => e
  | n + 1 => e.count (Reg.BANK_CONFLICT.STALLS x.1 x.2) (n + 1)

theorem Dev.get_countStall_self (d e : Dev) (c b : Nat) : (d.countStall e (c, b)).get (Reg.BANK_CONFLICT.STALLS c b) =
    if d.requestsAt c b = 0 then e.get (Reg.BANK_CONFLICT.STALLS c b)
    else min (e.get (Reg.BANK_CONFLICT.STALLS c b) + d.requestsAt c b) (2 ^ 32 - 1) := by
  unfold Dev.countStall
  cases hn : d.requestsAt c b with
  | zero => simp
  | succ n =>
    simp only [Nat.succ_ne_zero, if_false]
    exact Dev.get_count_self _ _ _

theorem Dev.get_countStall_ne (d e : Dev) {x : Nat × Nat} {c b : Nat} (hb : b < 8) (hx : x.2 < 8) (h : x ≠ (c, b)) :
    (d.countStall e x).get (Reg.BANK_CONFLICT.STALLS c b) = e.get (Reg.BANK_CONFLICT.STALLS c b) := by
  unfold Dev.countStall
  split
  · rfl
  · exact Dev.get_count_ne _ _ (stalls_key_ne hb hx h.symm)

theorem Dev.get_countStalls_of_not_mem (d : Dev) {L : List (Nat × Nat)} {c b : Nat} (hb : b < 8) (hL : ∀ x ∈ L, x.2 < 8)
    (h : (c, b) ∉ L) (e : Dev) : (L.foldl d.countStall e).get (Reg.BANK_CONFLICT.STALLS c b) = e.get (Reg.BANK_CONFLICT.STALLS c b) := by
  induction L generalizing e with
  | nil => rfl
  | cons x L ih =>
    rw [List.foldl_cons, ih (fun y hy => hL y (List.mem_cons_of_mem _ hy)) fun hm => h (List.mem_cons_of_mem _ hm)]
    exact d.get_countStall_ne e hb (hL x List.mem_cons_self) fun hx => h (hx ▸ List.mem_cons_self)

theorem Dev.get_countStalls_of_mem (d : Dev) {L : List (Nat × Nat)} {c b : Nat} (hb : b < 8) (hL : ∀ x ∈ L, x.2 < 8) (hn : L.Nodup)
    (h : (c, b) ∈ L) (e : Dev) : (L.foldl d.countStall e).get (Reg.BANK_CONFLICT.STALLS c b) =
      if d.requestsAt c b = 0 then e.get (Reg.BANK_CONFLICT.STALLS c b)
      else min (e.get (Reg.BANK_CONFLICT.STALLS c b) + d.requestsAt c b) (2 ^ 32 - 1) := by
  induction L generalizing e with
  | nil => cases h
  | cons x L ih =>
    obtain ⟨hx, hn⟩ := List.nodup_cons.1 hn
    have hL' : ∀ y ∈ L, y.2 < 8 := fun y hy => hL y (List.mem_cons_of_mem _ hy)
    rw [List.foldl_cons]
    rcases List.mem_cons.1 h with rfl | hm
    · rw [d.get_countStalls_of_not_mem hb hL' hx, d.get_countStall_self]
    · have hne : x ≠ (c, b) := fun hx' => hx (hx' ▸ hm)
      rw [ih hL' hn hm, d.get_countStall_ne e hb (hL x List.mem_cons_self) hne]

theorem mem_dedup {α : Type} [DecidableEq α] {l : List α} {a : α} : a ∈ dedup l ↔ a ∈ l := by
  induction l with
  | nil => rfl
  | cons b l ih =>
    simp only [dedup, List.mem_cons, List.mem_filter, ih, decide_eq_true_eq]
    by_cases h : a = b <;> simp [h]

theorem nodup_dedup {α : Type} [DecidableEq α] (l : List α) : (dedup l).Nodup := by
  induction l with
  | nil => exact List.nodup_nil
  | cons b l ih => exact List.nodup_cons.2 ⟨fun h => by simpa using (List.mem_filter.1 h).2, ih.filter _⟩

theorem Dev.mem_requestBanks {d : Dev} {c b : Nat} : (c, b) ∈ d.requestBanks ↔
    b < 8 ∧ (c ∈ d.cores.map (·.1) ∨ c ∈ ((d.hdw.map (·.2)).toList ++ d.phRow.toList).map (· / 8192)) := by
  simp only [Dev.requestBanks, List.mem_flatMap, mem_dedup, List.mem_append (s := d.cores.map (·.1)), List.mem_map (b := (c, b)), List.mem_range,
    Prod.mk.injEq]
  constructor
  · rintro ⟨x, hx, y, hy, rfl, rfl⟩
    exact ⟨hy, hx⟩
  · rintro ⟨hb, hx⟩
    exact ⟨c, hx, b, hb, rfl, rfl⟩

theorem Dev.nodup_requestBanks (d : Dev) : d.requestBanks.Nodup := by
  refine List.pairwise_flatMap.2 ⟨fun c _ => ?_, (nodup_dedup _).imp fun {a b} hab x hx y hy hxy => hab ?_⟩
  · exact List.pairwise_map.2 (List.nodup_range.imp fun hne h => hne (Prod.mk.inj h).2)
  · obtain ⟨_, -, rfl⟩ := List.mem_map.1 hx
    obtain ⟨_, -, rfl⟩ := List.mem_map.1 hy
    exact (Prod.mk.inj hxy).1

theorem Dev.core_of_not_key {d : Dev} {c : Nat} (h : c ∉ d.cores.map (·.1)) : d.core c = {} := by
  have : ∀ m : KMap CoreSt, c ∉ m.map (·.1) → kget {} m c = ({} : CoreSt) := by
    intro m
    induction m with
    | nil => exact fun _ => rfl
    | cons p m ih =>
      intro hm
      simp only [List.map_cons, List.mem_cons, not_or] at hm
      exact (if_neg hm.1).trans (ih hm.2)
  exact this _ h

/-- A request stands only at a bank of `Dev.requestBanks`. -/
theorem Dev.requestsAt_eq_zero {d : Dev} {c b : Nat} (hb : b < 8) (h : (c, b) ∉ d.requestBanks) : d.requestsAt c b = 0 := by
  have hn : ¬ (c ∈ d.cores.map (·.1) ∨ c ∈ ((d.hdw.map (·.2)).toList ++ d.phRow.toList).map (· / 8192)) :=
    fun hc => h (Dev.mem_requestBanks.2 ⟨hb, hc⟩)
  obtain ⟨hcore, hrows⟩ := not_or.1 hn
  simp only [List.map_append, List.mem_append, not_or] at hrows
  obtain ⟨hhdw, hph⟩ := hrows
  have hrow : ∀ x, x / 1024 = c * 8 + b → x / 8192 = c := fun x hx => by omega
  have hw : ∀ w, (d.hdw.any fun x => x.1 == w && x.2 / 1024 == c * 8 + b) = false := by
    intro w
    cases hd : d.hdw with
    | none => rfl
    | some x =>
      refine Bool.eq_false_iff.2 fun ht => hhdw ?_
      simp only [Option.any_some, Bool.and_eq_true, beq_iff_eq] at ht
      simp [hd, hrow _ ht.2]
  have hp : (d.phRow.any fun x => x / 1024 == c * 8 + b) = false := by
    cases hd : d.phRow with
    | none => rfl
    | some x =>
      refine Bool.eq_false_iff.2 fun ht => hph ?_
      simp only [Option.any_some, beq_iff_eq] at ht
      simp [hd, hrow _ ht]
  have hk := Dev.core_of_not_key hcore
  have hf := hw false
  have ht := hw true
  simp only [beq_false, beq_true] at hf ht
  simp [Dev.requestsAt, Dev.portRequests, hk, hf, ht, hp, firstOfEach]

theorem Dev.get_countStalls (d : Dev) {c b : Nat} (hb : b < 8) : d.countStalls.get (Reg.BANK_CONFLICT.STALLS c b) =
    if d.requestsAt c b = 0 then d.get (Reg.BANK_CONFLICT.STALLS c b)
    else min (d.get (Reg.BANK_CONFLICT.STALLS c b) + d.requestsAt c b) (2 ^ 32 - 1) := by
  have hL : ∀ x ∈ d.requestBanks, x.2 < 8 := fun x hx => (Dev.mem_requestBanks.1 hx).1
  have he : d.countStalls = d.requestBanks.foldl d.countStall d := rfl
  rw [he]
  by_cases hm : (c, b) ∈ d.requestBanks
  · exact d.get_countStalls_of_mem hb hL d.nodup_requestBanks hm d
  · rw [d.get_countStalls_of_not_mem hb hL hm, if_pos (Dev.requestsAt_eq_zero hb hm)]

/-- Settles O15: the next message by `lowestRank_mem`; its row and its core by `Dev.core_messageDelivery` and `CoreSt.delivering`; the
conflict counters by an induction over the banks at which a request may stand. -/
theorem messageDelivery : Obligations.MessageDelivery := by
  unfold Obligations.MessageDelivery
  refine ⟨fun core q s => ⟨Dev.nextDelivery_eq_none.symm, fun h => ?none, fun m h => Dev.nextDelivery_mem h, fun m h hr hb hc => ?some⟩,
    fun d c b hb => d.get_countStalls hb, fun m seq r hlen hpos htag hsender => ?row⟩
  case none =>
    refine Leaves.noEffect (d := s.dev.messageDelivery core.toNat q) rfl ?_
    simp only [Dev.messageDelivery, h]
  case some =>
    intro bank row
    refine ⟨s.dev.messageDelivery core.toNat q, rfl, ?_⟩
    have hself := Dev.core_handed_self (q := q) (d := s.dev) hr hb hc
    have hne := fun e (h : e ≠ core.toNat) => Dev.core_handed_ne (q := q) (d := s.dev) hr hb hc h
    obtain ⟨hseq, hroute, hreply, hhost⟩ := CoreSt.delivering_rest bank row q m (s.dev.core core.toNat)
    obtain ⟨l, hcore⟩ := Dev.core_messageDelivery h core.toNat
    rw [hself] at hcore
    refine ⟨?written, fun b r hk hcells => ?rest, fun e b r he => ?other, ?seq, fun hq => ⟨?route, ?credit⟩, fun hq => ?reply,
      fun hq => ?host, fun hq => ⟨fun e he => ?core, fun F => ?reg⟩⟩
    case written =>
      rw [hcore]
      exact CoreSt.row_delivering_self bank row q m _
    case rest =>
      rw [hcore]
      exact CoreSt.row_delivering_ne q m _ hk hcells
    case other =>
      obtain ⟨l', he'⟩ := Dev.core_messageDelivery h e
      rw [he', hne e he]
      rfl
    case seq =>
      rw [hcore]
      exact hseq
    case route =>
      rw [hcore]
      exact hroute hq
    case credit =>
      subst hq
      rw [Dev.messageDelivery_of_next h, ← Dev.creditsUsed_handed (q := .route) (d := s.dev) hr hb hc]
      exact Dev.creditsUsed_setCredits_self _ _ _ _
    case reply =>
      rw [hcore]
      exact hreply hq
    case host =>
      subst hq
      refine ⟨s.dev.handed core.toNat .host m, ?_, Dev.messageDelivery_of_next h⟩
      rw [hself]
      exact hhost rfl
    case core =>
      rw [Dev.messageDelivery_of_next h]
      cases q
      case host => exact absurd rfl hq
      case route => exact hne e he
      case reply => exact hne e he
    case reg =>
      rw [Dev.messageDelivery_of_next h]
      cases q
      case host => exact absurd rfl hq
      case route => exact Dev.get_handed (q := .route) hr hb hc F
      case reply => exact Dev.get_handed hr hb hc F
  case row =>
    intro x
    obtain ⟨h1, h2, h3, h4, h5, h6⟩ := bitsOf_header m seq hlen htag hsender
    exact ⟨deliveredRow_payload m seq r hlen, deliveredRow_rest m seq r hlen, (deliveredRow_header m seq r (lo := 0) (by decide)).trans h1,
      (deliveredRow_header m seq r (lo := 24) (by decide)).trans h2, (deliveredRow_header m seq r (lo := 30) (by decide)).trans h3,
      (deliveredRow_header m seq r (lo := 31) (by decide)).trans h4, (deliveredRow_header m seq r (lo := 32) (by decide)).trans h5,
      (deliveredRow_header m seq r (lo := 40) (by decide)).trans h6⟩

end Sys2Proof.Machine
end

section
/-! PROOF. Host rings and combining entries (R394 to R403). -/

namespace Sys2Proof.Machine

/-! ### A record enters its ring -/

@[simp] theorem length_leBytes (n v : Nat) : (leBytes n v).length = n := by
  induction n generalizing v with
  | zero => rfl
  | succ n ih => simp only [leBytes, List.length_cons, ih]

/-- A header of 16 bytes, and the payload padded to a multiple of 16 (R398). -/
theorem RingRec.length_image (r : RingRec) (now : Nat) : (r.image now).length = r.bytes := by
  simp only [RingRec.image, RingRec.bytes, List.length_append, length_leBytes, List.length_replicate]
  omega

/-- The device with the record's bytes on their way, PROD moved past them, and the record out of its queue. -/
def Dev.ringWritten (t : Nat) (r : RingRec) (d : Dev) : Dev :=
  (({ d with out := d.out ++ d.ringWrites t r } : Dev).put (Reg.SES_RING_PROD.INDEX t)
    (d.get (Reg.SES_RING_PROD.INDEX t) + (if d.ringTail t < r.bytes then d.ringTail t else 0) + r.bytes)).recordLeaves t r

theorem Dev.putRecord_eq (t : Nat) (r : RingRec) (d : Dev) : d.putRecord t r =
    if d.get (Reg.SES_RING_PROD.INDEX t) = d.get (Reg.SES_RING_CONS.INDEX t) then
      ((d.ringWritten t r).recordSignal r).msix (d.viewOf t) (d.get (Reg.HP_EVT_VEC.RING (d.viewOf t)))
    else (d.ringWritten t r).recordSignal r := rfl

/-- A record that leaves takes its place in the queue, its debt and its credit with it; nothing else changes. -/
theorem Dev.recordLeaves_eq (t : Nat) (r : RingRec) (d : Dev) :
    ∃ o c, d.recordLeaves t r = { d with ringQueue := eraseFirst r d.ringQueue, repliesOwed := o, credits := c } := by
  unfold Dev.recordLeaves
  cases r.credit <;> exact ⟨_, _, rfl⟩

theorem Dev.ringWritten_eq (t : Nat) (r : RingRec) (d : Dev) : ∃ o c, d.ringWritten t r =
    { ({ d with out := d.out ++ d.ringWrites t r } : Dev).put (Reg.SES_RING_PROD.INDEX t)
        (d.get (Reg.SES_RING_PROD.INDEX t) + (if d.ringTail t < r.bytes then d.ringTail t else 0) + r.bytes) with
      ringQueue := eraseFirst r d.ringQueue, repliesOwed := o, credits := c } := Dev.recordLeaves_eq _ _ _

theorem Dev.creditsUsed_recordLeaves {t c : Nat} {r : RingRec} (d : Dev) (h : r.credit = some c) :
    (d.recordLeaves t r).creditsUsed c 0xFF = d.creditsUsed c 0xFF - 1 := by
  simp only [Dev.recordLeaves, h]
  exact Dev.creditsUsed_setCredits_self _ _ _ _

theorem Dev.writeRecordTo_of_next {d : Dev} {t : Nat} {r : RingRec} (he : d.is (Reg.SES_RING_CFG.ENABLE t) = true) (hl : d.linkUp = true)
    (hr : d.nextRecord t = some r) : d.writeRecordTo t = d.putRecord t r := by
  simp only [Dev.writeRecordTo, he, hl, hr, Bool.not_true, Bool.false_eq_true, or_self, if_false]

/-- Settles O16: the record that goes next is written whole, PROD moves past it, and it leaves its queue. -/
theorem hostRings : Obligations.HostRings := by
  unfold Obligations.HostRings
  refine ⟨fun t s => ⟨fun h => ?none, fun r he hl hr => ?some⟩, fun r now => ⟨r.length_image now, ?pad, ?header⟩⟩
  case none =>
    refine Leaves.noEffect (d := s.dev.writeRecordTo t.toNat) rfl ?_
    unfold Dev.writeRecordTo
    rcases h with h | h | h
    · simp only [h, Bool.not_false, true_or, if_true]
    · simp only [h, Bool.not_false, or_true, if_true]
    · simp only [h, ite_self]
  case some =>
    intro size base prod tail v
    obtain ⟨o, c, hy⟩ := Dev.ringWritten_eq t.toNat r s.dev
    refine ⟨s.dev.ringWritten t.toNat r, ?prod, ?queue, ?regs, ?cores, ?beacons, fun c hc => ?credit, ?out, ?leaves⟩
    case prod =>
      rw [hy]
      exact Dev.get_put_self _ _ _
    case queue => rw [hy]
    case regs =>
      intro F hF
      rw [hy]
      exact Dev.get_put_ne _ _ (hF _ List.mem_cons_self)
    case cores =>
      rw [hy]
      rfl
    case beacons =>
      rw [hy]
      rfl
    case credit => exact (Dev.creditsUsed_recordLeaves _ hc).trans rfl
    case out =>
      rw [hy]
      rfl
    case leaves =>
      refine Leaves.congr (d := s.dev.writeRecordTo t.toNat) rfl ?_
      rw [Dev.writeRecordTo_of_next he hl hr, Dev.putRecord_eq]
      unfold Dev.recordSignal
      cases r.bcn <;> rfl
  case pad =>
    unfold RingRec.bytes
    omega
  case header =>
    unfold RingRec.bytes
    omega

/-! ### Combining entries -/

theorem Dev.receipt_eq (m : Msg) (d : Dev) : ∃ q, d.receipt m = { d with ringQueue := q } := by
  unfold Dev.receipt Dev.reply
  split
  · exact ⟨_, rfl⟩
  · split <;> exact ⟨_, rfl⟩

/-- A contribution that leaves touches only the queues and the credits. -/
theorem Dev.takeContribution_eq (m : Msg) (d : Dev) :
    ∃ c q, d.takeContribution m = { d with mgmtQueue := eraseFirst m d.mgmtQueue, credits := c, ringQueue := q } := by
  unfold Dev.takeContribution
  by_cases hm : m.sender = 0xFE
  · obtain ⟨q, h⟩ := Dev.receipt_eq m { d with mgmtQueue := eraseFirst m d.mgmtQueue }
    simp only [hm, if_true, h]
    exact ⟨_, _, rfl⟩
  · obtain ⟨q, h⟩ := Dev.receipt_eq m (({ d with mgmtQueue := eraseFirst m d.mgmtQueue } : Dev).returnCredit m.sender 0xFF)
    simp only [hm, if_false, h]
    exact ⟨_, _, rfl⟩

theorem Dev.takeContribution_plain {m : Msg} (d : Dev) (hr : m.receipt = false) :
    d.takeContribution m = if m.sender = 0xFE then { d with mgmtQueue := eraseFirst m d.mgmtQueue }
      else ({ d with mgmtQueue := eraseFirst m d.mgmtQueue } : Dev).returnCredit m.sender 0xFF := by
  simp only [Dev.takeContribution, Dev.receipt, hr, Bool.not_false, if_true]

/-- An entry's error sets its two bits and reports them. -/
theorem Dev.combError_eq (e : Nat) (d : Dev) : ∃ r j o p w, d.combError e =
    { d with regs := r, justSet := j, out := o, msixPend := p, linkWait := w } := by
  unfold Dev.combError
  obtain ⟨j, h1⟩ := Dev.setBit_eq d (Reg.BCN_COMB_B.ERROR e)
  obtain ⟨r, k, o, p, w, h2⟩ := Dev.event_eq (d.setBit (Reg.BCN_COMB_B.ERROR e)) Reg.BCN_EVENT.COMB_ERROR
  rw [h2, h1]
  exact ⟨_, _, _, _, _, rfl⟩

theorem combError_key_ne (e : Nat) : (Reg.BCN_COMB_B.ERROR e).key ≠ Reg.BCN_EVENT.COMB_ERROR.key := by
  simp only [Fld.key, Reg.BCN_COMB_B.ERROR, Reg.BCN_EVENT.COMB_ERROR]
  omega

theorem Dev.is_combError (e : Nat) (d : Dev) :
    (d.combError e).is (Reg.BCN_COMB_B.ERROR e) = true ∧ (d.combError e).is Reg.BCN_EVENT.COMB_ERROR = true := by
  refine ⟨?_, Dev.is_event_self _ _ (by decide)⟩
  exact (Dev.is_of_get (Dev.get_event_ne _ (combError_key_ne e))).trans (Dev.is_setBit_self d _ (by decide : 0 < 1))

section
variable {d : Dev} {e : Nat} {m : Msg}

theorem Dev.addContribution_invalid (h : (kget {} d.comb e).valid = false) : d.addContribution e m = d := by
  simp only [Dev.addContribution, h, Bool.not_false, if_true]

theorem Dev.addContribution_length (h : (kget {} d.comb e).valid = true)
    (hl : m.len ≠ (kget {} d.comb e).elems * combElem (kget {} d.comb e).fmt) : d.addContribution e m = d.combError e := by
  simp only [Dev.addContribution, h, Bool.not_true, Bool.false_eq_true, if_false, if_pos hl]

theorem Dev.addContribution_kept (h : (kget {} d.comb e).valid = true)
    (hl : m.len = (kget {} d.comb e).elems * combElem (kget {} d.comb e).fmt) :
    d.addContribution e m = d.keepContribution e { kget {} d.comb e with got := (kget {} d.comb e).got ++ [m.payload] } := by
  simp only [Dev.addContribution, h, Bool.not_true, Bool.false_eq_true, if_false, hl, ne_eq, not_true_eq_false]

end

/-- The end of a round: the entry starts anew. -/
def Dev.newRound (e : Nat) (c : Comb) (d : Dev) : Dev :=
  let d1 := if (combSum c.fmt c.elems c.got).2 then d.combError e else d
  ({ d1 with comb := kset {} d1.comb e { c with got := [] } } : Dev).put (Reg.BCN_COMB_B.RECEIVED e) 0

theorem Dev.newRound_eq (e : Nat) (c : Comb) (d : Dev) : ∃ r j o p w, d.newRound e c =
    { d with comb := kset {} d.comb e { c with got := [] }, regs := r, justSet := j, out := o, msixPend := p, linkWait := w } := by
  unfold Dev.newRound
  split
  · obtain ⟨r, j, o, p, w, h⟩ := Dev.combError_eq e d
    rw [h]
    exact ⟨_, _, _, _, _, rfl⟩
  · exact ⟨_, _, _, _, _, rfl⟩

theorem Dev.newRound_received (e : Nat) (c : Comb) (d : Dev) : (d.newRound e c).get (Reg.BCN_COMB_B.RECEIVED e) = 0 :=
  Dev.get_put_self _ _ _

theorem Dev.newRound_error {e : Nat} {c : Comb} (d : Dev) (h : (combSum c.fmt c.elems c.got).2 = true) :
    (d.newRound e c).is (Reg.BCN_COMB_B.ERROR e) = true ∧ (d.newRound e c).is Reg.BCN_EVENT.COMB_ERROR = true := by
  have h1 : (Reg.BCN_COMB_B.ERROR e).key ≠ (Reg.BCN_COMB_B.RECEIVED e).key := by
    simp only [Fld.key, Reg.BCN_COMB_B.ERROR, Reg.BCN_COMB_B.RECEIVED]
    omega
  have h2 : Reg.BCN_EVENT.COMB_ERROR.key ≠ (Reg.BCN_COMB_B.RECEIVED e).key := by
    simp only [Fld.key, Reg.BCN_EVENT.COMB_ERROR, Reg.BCN_COMB_B.RECEIVED]
    omega
  unfold Dev.newRound
  rw [h]
  exact ⟨(Dev.is_put_ne _ _ h1).trans (d.is_combError e).1, (Dev.is_put_ne _ _ h2).trans (d.is_combError e).2⟩

theorem Dev.combDeliver_eq (e : Nat) (c : Comb) (d : Dev) : d.combDeliver e c =
    if c.target = 1 then (d.newRound e c).onCore (bitsOf c.row 13 8) fun k => { k with inRoute := k.inRoute ++
      [{ sender := 0xFF, dest := c.row, tag := e, len := (combSum c.fmt c.elems c.got).1.length, reply := false,
         payload := BitVec.ofNat 512 (ofLeBytes (combSum c.fmt c.elems c.got).1), ten := c.owner, receipt := false,
         bcn := if c.bcnEn then some c.beacon else none }] }
    else { d.newRound e c with ringQueue := (d.newRound e c).ringQueue ++
      [{ ten := c.owner, kind := 0, head := e, sender := 0xFF, payload := (combSum c.fmt c.elems c.got).1, reply := false,
         credit := none, bcn := if c.bcnEn then some c.beacon else none }] } := rfl

/-- The last contribution of a round starts the entry anew and sends the sum to the entry's target. -/
theorem Dev.combDeliver_facts (e : Nat) (c : Comb) (d : Dev) :
    let f := d.combDeliver e c
    let sum := (combSum c.fmt c.elems c.got).1
    let bcn := if c.bcnEn then some c.beacon else none
    let dst := bitsOf c.row 13 8
    (kget {} f.comb e).got = [] ∧ f.get (Reg.BCN_COMB_B.RECEIVED e) = 0 ∧
      (c.target ≠ 1 → f.cores = d.cores ∧ f.ringQueue = d.ringQueue ++
        [{ ten := c.owner, kind := 0, head := e, sender := 0xFF, payload := sum, reply := false, credit := none, bcn := bcn }]) ∧
      (c.target = 1 → f.ringQueue = d.ringQueue ∧ (f.core dst).inRoute = (d.core dst).inRoute ++
        [{ sender := 0xFF, dest := c.row, tag := e, len := sum.length, reply := false, payload := BitVec.ofNat 512 (ofLeBytes sum),
           ten := c.owner, receipt := false, bcn := bcn }]) ∧
      ((combSum c.fmt c.elems c.got).2 = true → f.is (Reg.BCN_COMB_B.ERROR e) = true ∧ f.is Reg.BCN_EVENT.COMB_ERROR = true) := by
  intro f sum bcn dst
  have hrec := d.newRound_received e c
  have herr := d.newRound_error (e := e) (c := c)
  obtain ⟨r, j, o, p, w, hn⟩ := d.newRound_eq e c
  have hcomb : (kget {} (d.newRound e c).comb e).got = [] := by rw [hn, kget_kset_self]
  have hcores : (d.newRound e c).cores = d.cores := by rw [hn]
  have hring : (d.newRound e c).ringQueue = d.ringQueue := by rw [hn]
  have hf : f = _ := d.combDeliver_eq e c
  by_cases ht : c.target = 1
  · rw [if_pos ht] at hf
    rw [hf]
    refine ⟨hcomb, hrec, fun h => absurd ht h, fun _ => ⟨hring, ?_⟩, herr⟩
    rw [Dev.core_onCore_self, Dev.core, hcores]
    rfl
  · rw [if_neg ht] at hf
    rw [hf]
    exact ⟨hcomb, hrec, fun _ => ⟨hcores, by rw [hring]⟩, fun h => absurd h ht, herr⟩

theorem Dev.contribute_of_found {d : Dev} {e : Nat} {m : Msg} (h : (d.mgmtQueue.find? fun m => bitsOf m.dest 0 21 == 0x1FFE00 + e) = some m) :
    d.contribute e = (d.takeContribution m).addContribution e m := by
  simp only [Dev.contribute, h]

/-- The element sums of a round (R402). -/
theorem combSum_int {fmt : Nat} (n : Nat) (got : List (BitVec 512)) (hb : fmt ≠ 0xB) (hd : fmt ≠ 0xD) : combSum fmt n got =
    ((List.range n).flatMap fun k => leBytes 4 (intBits 32 (satInt 32 ((got.map fun p => signedOf 32 (bitsOf p.toNat (32 * k) 32)).sum))),
      false) := by
  have he : combElem fmt = 4 := if_neg hd
  simp only [combSum, hb, hd, he, if_false]

theorem combSum_exact (n : Nat) (got : List (BitVec 512)) :
    let sums := (List.range n).map fun k => (got.map fun p => signedOf 128 (bitsOf p.toNat (128 * k) 128)).sum
    combSum 0xD n got = if sums.all exactInRange then (sums.flatMap fun s => leBytes 16 (intBits 128 s), false)
      else (List.replicate (16 * n) 0#8, true) := rfl

/-- Settles O17: the first contribution that waits, by whether its entry is valid, takes it, and ends its round; the sums by their format. -/
theorem combiningEntries : Obligations.CombiningEntries := by
  unfold Obligations.CombiningEntries
  refine ⟨fun e s => ⟨fun h => ?none, fun m h => ?found⟩, fun m d hr => ?taken, fun d n => ⟨(d.is_combError n).1, (d.is_combError n).2, ?comb⟩,
    fun fmt n got => ?sums⟩
  case none =>
    refine Leaves.noEffect (d := s.dev.contribute e.toNat) rfl ?_
    simp only [Dev.contribute, h]
  case found =>
    intro c q all
    obtain ⟨cr, rq, hq⟩ := Dev.takeContribution_eq m s.dev
    have hcomb : q.comb = s.dev.comb := by rw [show q = _ from hq]
    have hcores : q.cores = s.dev.cores := by rw [show q = _ from hq]
    have hc : kget {} q.comb e.toNat = c := by rw [hcomb]
    have hl : Leaves (.combiningContribution e) s (q.addContribution e.toNat m) := Leaves.congr rfl (Dev.contribute_of_found h)
    refine ⟨fun hv => hl.congr (Dev.addContribution_invalid (hc ▸ hv)), fun hv hm => hl.congr (Dev.addContribution_length (hc ▸ hv) (hc ▸ hm)),
      fun hv hm => ?_⟩
    have hkeep := hl.congr (Dev.addContribution_kept (hc ▸ hv) (hc ▸ hm))
    rw [hc] at hkeep
    refine ⟨fun hlt => ?kept, fun hle => ?last⟩
    case kept =>
      refine hkeep.congr ((if_neg (Nat.not_le.2 hlt)).trans ?_)
      rw [hcomb]
    case last =>
      refine ⟨_, hkeep.congr (if_pos hle), ?_⟩
      have hfacts := Dev.combDeliver_facts e.toNat { c with got := all }
        (({ q with comb := kset {} q.comb e.toNat { c with got := all } } : Dev).put (Reg.BCN_COMB_B.RECEIVED e.toNat) all.length)
      obtain ⟨h1, h2, h3, h4, h5⟩ := hfacts
      have hq1 : ∀ x, q.core x = s.dev.core x := fun x => by rw [Dev.core, hcores]; rfl
      exact ⟨h1, h2, fun ht => ⟨(h3 ht).1.trans hcores, (h3 ht).2⟩, fun ht => ⟨(h4 ht).1, (h4 ht).2.trans (by rw [← hq1]; rfl)⟩, h5⟩
  case taken =>
    intro q
    have hq : q = _ := Dev.takeContribution_plain d hr
    by_cases hm : m.sender = 0xFE
    · rw [if_pos hm] at hq
      rw [hq]
      exact ⟨rfl, rfl, rfl, rfl, fun _ => rfl, fun h => absurd hm h⟩
    · rw [if_neg hm] at hq
      rw [hq]
      exact ⟨rfl, rfl, rfl, rfl, fun _ => rfl, fun _ => Dev.creditsUsed_setCredits_self _ _ _ _⟩
  case comb =>
    obtain ⟨r, j, o, p, w, h⟩ := Dev.combError_eq n d
    rw [h]
  case sums =>
    intro el
    refine ⟨fun hb hd => ?int, fun hd => ?exact⟩
    case int =>
      rw [combSum_int n got hb hd]
      exact ⟨rfl, rfl⟩
    case exact =>
      subst hd
      have hr : (((List.range n).map fun k => (got.map (el 128 k)).sum).all exactInRange) = true ↔
          ∀ k, k < n → exactInRange (got.map (el 128 k)).sum = true := by
        simp only [List.all_map, List.all_eq_true, List.mem_range, Function.comp_apply]
      rw [combSum_exact]
      by_cases hall : (((List.range n).map fun k => (got.map (el 128 k)).sum).all exactInRange) = true
      case pos =>
        rw [if_pos hall]
        refine ⟨⟨fun h => absurd h Bool.false_ne_true, ?_⟩, fun h => absurd h Bool.false_ne_true, fun _ => List.flatMap_map _ _ _⟩
        rintro ⟨k, hk, hno⟩
        exact absurd (hr.1 hall k hk) (by rw [hno]; decide)
      case neg =>
        rw [if_neg hall]
        refine ⟨⟨fun _ => ?_, fun _ => rfl⟩, fun _ => rfl, fun h => absurd h.symm Bool.false_ne_true⟩
        obtain ⟨k, hno⟩ := Classical.not_forall.1 fun h => hall (hr.2 h)
        obtain ⟨hk, hno⟩ := Classical.not_imp.1 hno
        exact ⟨k, hk, Bool.eq_false_iff.2 hno⟩

end Sys2Proof.Machine
end

section
/-! PROOF. Control descriptors and rows that land in scratch (R36, R72, R96, R97, R218 to R221, R365, R374, R570). -/

namespace Sys2Proof.Machine

/-! ### The control unit -/

section
variable {i : Inst} {d : Dev} (hf : d.unitFree i.coreN 9 2 = true)
include hf

theorem Dev.takeUnit_control : d.takeUnit (ownerOf i 9 0 d) 2 1 1 = (true, d.took (d.owner i 9 0) 2 1 1) :=
  Dev.takeUnit_free (o := d.owner i 9 0) 1 1 hf

/-- A word of eight bytes is due 30 ticks later; a secondary without the primary's bytes raises a hold (R96, R374). -/
theorem Dev.ctlWrite_of_free (kind : CtlKind) : d.ctlWrite kind i =
    let e := (d.took (d.owner i 9 0) 2 1 1).sched (d.run.tick + 30) true (d.owner i 9 0)
      (.landCtl (opBank i.opd) (opRow i.opd) (i.extBits 0 7) kind i.lin)
    if d.is Reg.MIR_STATUS.ACTIVE && d.mir.secondary && (d.peerBytes i.tag.toNat i.lin).isNone then e.hold 5 (.variance i.tag.toNat i.lin)
    else e := by
  simp only [Dev.ctlWrite, Dev.takeUnit_control hf, Bool.not_true, Bool.false_eq_true, if_false]

theorem Dev.ppoint_of_free :
    d.ppoint i = (d.took (d.owner i 9 0) 2 1 1).onRun fun r => { r with ppoints := r.ppoints ++ [d.owner i 9 0] } := by
  simp only [Dev.ppoint, Dev.takeUnit_control hf, if_true]

theorem Dev.ctlMark_of_free : d.ctlMark i =
    let e := (d.took (d.owner i 9 0) 2 1 1).lantern 6 i.coreN 0 i.tag.toNat d.run.tick (i.extBits 0 32) none
    if d.run.freezeMark = some (BitVec.ofNat 32 (i.extBits 0 32)) then
      e.onRun fun r => { r with freezeMark := none, freezeAt := some (d.run.tick + 24) }
    else e := by
  simp only [Dev.ctlMark, Dev.takeUnit_control hf, Bool.not_true, Bool.false_eq_true, if_false, Dev.onRun, Dev.run_lantern]
  rfl

end

/-- The secondary of a Mirror lands the primary's bytes (R374). -/
theorem Dev.landCtl_secondary {d : Dev} {o : Owner} {lin : Nat} {bytes : List Byte} (bank row word : Nat) (kind : CtlKind)
    (hs : (d.is Reg.MIR_STATUS.ACTIVE && d.mir.secondary) = true) (hp : d.peerBytes o.tag lin = some bytes) :
    ∃ e : Dev, e.cores = d.cores ∧ e.run = d.run ∧
      d.landCtl o bank row word kind lin = e.landScratch o o.core bank row (fun r => rowSet r (4 * word) 8 (ofLeBytes bytes)) false := by
  unfold Dev.landCtl
  rw [if_pos hs, hp]
  exact ⟨({ d with mir := { d.mir with variance := d.mir.variance.filter fun x => !(x.1 == o.tag && x.2.1 == lin) } } : Dev).count
    Reg.MIR_SUBST.COUNT 1, rfl, rfl, rfl⟩

/-- Settles O18: each control descriptor's issue with its unit free, the check at a preemption point, and the bytes of each landing. -/
theorem controlDescriptors : Obligations.ControlDescriptors := by
  unfold Obligations.ControlDescriptors
  refine ⟨fun i s hi hf => ?issue, fun d => ⟨fun hq => if_pos hq, fun hq o ho => ?check⟩, fun d o bank row word kind lin => ?land,
    fun core d => ⟨rfl, rfl, fun c => ⟨?low, ?high⟩⟩⟩
  case issue =>
    intro o d t lands m marked
    have hl : ∀ kind, lands kind = d.sched (t + 30) true o (.landCtl (opBank i.opd) (opRow i.opd) (i.extBits 0 7) kind i.lin) := fun _ => rfl
    have hfew : ∀ kind, (s.dev.is Reg.MIR_STATUS.ACTIVE && s.dev.mir.secondary) = false ∨ (s.dev.peerBytes i.tag.toNat i.lin).isSome = true →
        s.dev.ctlWrite kind i = lands kind := by
      intro kind h
      refine (Dev.ctlWrite_of_free hf kind).trans (if_neg ?_)
      rcases h with h | h
      · simp [h]
      · simp [Option.isNone_eq_false_iff.2 h]
    have hhold : ∀ kind, (s.dev.is Reg.MIR_STATUS.ACTIVE && s.dev.mir.secondary) = true → s.dev.peerBytes i.tag.toNat i.lin = none →
        s.dev.ctlWrite kind i = (lands kind).hold 5 (.variance i.tag.toNat i.lin) := by
      intro kind h hp
      refine (Dev.ctlWrite_of_free hf kind).trans (if_pos ?_)
      rw [h, hp]
      rfl
    have issue : ∀ f : Dev → Dev, s.issue i f = .next { s with dev := f s.dev } := State.issue_of_canIssue hi
    refine ⟨Leaves.congr (issue _) ?nop, fun h => ⟨?_, ?_, ?_⟩, fun h hp => ⟨?_, ?_, ?_⟩, Leaves.congr (issue _) (Dev.ppoint_of_free hf),
      fun hm => Leaves.congr (issue _) ((Dev.ctlMark_of_free hf).trans (if_neg hm)),
      fun hm => Leaves.congr (issue _) ((Dev.ctlMark_of_free hf).trans (if_pos hm))⟩
    case nop => rw [Dev.ctlNop, Dev.takeUnit_control hf]
    · exact Leaves.congr (issue _) (hfew _ h)
    · exact Leaves.congr (issue _) (hfew _ h)
    · exact Leaves.congr (issue _) (hfew _ h)
    · exact Leaves.congr (issue _) (hhold _ h hp)
    · exact Leaves.congr (issue _) (hhold _ h hp)
    · exact Leaves.congr (issue _) (hhold _ h hp)
  case check =>
    refine (if_neg (by rw [hq]; decide)).trans ?_
    rw [ho]
    rfl
  case land =>
    intro secondary
    exact ⟨fun hs => if_neg (by rw [show (d.is Reg.MIR_STATUS.ACTIVE && d.mir.secondary) = false from hs]; decide),
      fun bytes hs hp => Dev.landCtl_secondary bank row word kind hs hp⟩
  case low =>
    show (d.health core c % 2 ^ 32 + 2 ^ 32 * c) % 2 ^ 32 = _
    rw [Nat.add_mul_mod_self_left, Nat.mod_mod]
  case high =>
    show (d.health core c % 2 ^ 32 + 2 ^ 32 * c) / 2 ^ 32 = c
    omega

/-! ### Landings in scratch -/

/-- A landing that finds its port open: the port is used, what it replaces is noted, the row is written and noted. -/
theorem Dev.landScratch_open {d : Dev} {core bank row : Nat} (o : Owner) (f : Row → Row) (whole : Bool) (hr : row ≤ 575)
    (hw : d.watchOff = true) (hp : d.portOpen portWrite (core * 8 + bank) 2 = true) :
    let d1 := d.ported portWrite (core * 8 + bank) o
    let v := f ((d.core core).row bank row)
    d.landScratch o core bank row f whole =
      (((d1.notePort (portCode portRowWritten (core * 8192 + rowKey bank row)) d.run.tick o).noteUndo
        (d1.undoRow o core bank row)).onCore core (CoreSt.putRow bank row v whole)).noteLanding o core bank row v := by
  intro d1 v
  have hw1 : (d.ported portWrite (core * 8 + bank) o).watchOff = true := hw
  simp only [Dev.landScratch, if_neg (Nat.not_lt.2 hr), Dev.usePort_open o hp]
  cases d1.portUses (portCode portRowWritten (core * 8192 + rowKey bank row)) d.run.tick with
  | nil => rfl
  | cons w l =>
    simp only [Dev.hazard_off hw1]
    rfl

theorem Dev.core_noteLanding (o : Owner) (core bank row : Nat) (v : Row) (d : Dev) (c : Nat) : (d.noteLanding o core bank row v).core c =
    (d.onCore core fun k => { k with lastTag := kset 0 k.lastTag (rowKey bank row) o.tag }).core c := by
  unfold Dev.noteLanding Dev.observe
  dsimp only
  split
  · rw [Dev.core_lantern, Dev.core_observeAt]
  · rw [Dev.core_observeAt]

/-- Settles O19: by `Dev.landScratch_open`, and what writing a row does to its core. -/
theorem rowLandings : Obligations.RowLandings := by
  unfold Obligations.RowLandings
  intro d o core bank row f whole hr hw hp e
  have he : e = _ := Dev.landScratch_open o f whole hr hw hp
  have hself : e.core core = { (d.core core).putRow bank row (f ((d.core core).row bank row)) whole with
      lastTag := kset 0 ((d.core core).putRow bank row (f ((d.core core).row bank row)) whole).lastTag (rowKey bank row) o.tag } := by
    rw [he, Dev.core_noteLanding, Dev.core_onCore_self, Dev.core_onCore_self]
    rfl
  refine ⟨?written, ?tag, fun c hc => ?other, fun b r hk hc => ?rest⟩
  case written =>
    rw [hself]
    exact CoreSt.row_putRow_self _ _ _ _ _
  case tag =>
    rw [hself]
    exact kget_kset_self _ _ _ _
  case other =>
    rw [he, Dev.core_noteLanding, Dev.core_onCore_ne _ _ hc, Dev.core_onCore_ne _ _ hc]
    rfl
  case rest =>
    rw [hself]
    exact CoreSt.row_putRow_ne _ _ _ hk hc

end Sys2Proof.Machine
end

section
/-! PROOF. The RTE fault record and the stop it carries, and the resolution of forks (R38, R59, R62 to R70, R107 to R110, R121 to R123,
R549 to R552). -/

namespace Sys2Proof.Machine

/-! ### The fault record -/

section
variable {d : Dev} (o : Owner) (code t desc : Nat)

/-- A free record takes the fault. -/
theorem Dev.record_free (thisStop : Bool) (hv : d.is Reg.RTE_FAULT_CODE.VALID = false) : d.record o code t desc thisStop =
    ((d.writeRecord o code t desc).emit (.uartFault code o.core o.lane o.tag (d.get Reg.RTE_STATUS.SEGMENT) t)).lantern 4
      (if o.tag = 0 then 0xFF else o.core) o.lane o.tag t (code + 2 ^ 16 + (if o.ofSpec then 2 ^ 17 else 0)) none := by
  simp only [Dev.record, hv, Bool.not_false, Bool.true_or, if_true, Bool.false_eq_true, if_false]

/-- A record that holds a fault of an earlier stop keeps it, and Lantern counts the new one. -/
theorem Dev.record_held (hv : d.is Reg.RTE_FAULT_CODE.VALID = true) : d.record o code t desc false =
    (d.count Reg.DBG_LTN_FAULTS.COUNT 1).lantern 4 (if o.tag = 0 then 0xFF else o.core) o.lane o.tag t
      (code + 0 + (if o.ofSpec then 2 ^ 17 else 0)) none := by
  simp only [Dev.record, hv, Bool.not_true, Bool.false_and, Bool.or_self, if_true, Bool.false_eq_true, if_false]

/-- The fields of the record. -/
def recordFields : List Fld := [Reg.RTE_FAULT_CODE.VALID, Reg.RTE_FAULT_CODE.SPEC, Reg.RTE_FAULT_CODE.LANE, Reg.RTE_FAULT_CODE.CORE,
  Reg.RTE_FAULT_CODE.CODE, Reg.RTE_FAULT_TAG.TAG, Reg.RTE_FAULT_TICK.TICK, Reg.RTE_FAULT_AUX.SEGMENT, Reg.RTE_FAULT_AUX.DESC,
  Reg.RTE_FAULT_AUX.PLACEMENT]

theorem RegsKept.writeRecord : RegsKept (d.writeRecord o code t desc) d recordFields := by
  have h : RegsKept ({ d with recTen := d.rt.tenancy } : Dev) d recordFields := fun F _ => rfl
  exact (((((((((h.put _ (by decide)).put _ (by decide)).put _ (by decide)).put _ (by decide)).put _ (by decide)).put _ (by decide)).put _
    (by decide)).put _ (by decide)).put _ (by decide)).put _ (by decide)

theorem Dev.get_record_ne {F : Fld} (h : ∀ G ∈ recordFields, F.key ≠ G.key) (hl : F.key ≠ Reg.DBG_LTN_LOST.COUNT.key)
    (hf : F.key ≠ Reg.DBG_LTN_FAULTS.COUNT.key) : (d.record o code t desc false).get F = d.get F := by
  cases hv : d.is Reg.RTE_FAULT_CODE.VALID
  case false =>
    rw [Dev.record_free _ _ _ _ _ hv]
    exact (Dev.get_lantern_ne _ _ _ _ _ _ _ _ hl).trans (RegsKept.writeRecord o code t desc F h)
  case true =>
    rw [Dev.record_held _ _ _ _ hv]
    exact (Dev.get_lantern_ne _ _ _ _ _ _ _ _ hl).trans (Dev.get_count_ne _ _ hf)

theorem Dev.held_record : (d.record o code t desc false).held = d.held := by
  unfold Dev.held
  rw [Dev.run_record, Dev.is_of_get (Dev.get_record_ne o code t desc (by decide) (by decide) (by decide))]

/-- What the record holds of the fault that it took. -/
theorem Dev.record_free_fields (hv : d.is Reg.RTE_FAULT_CODE.VALID = false) (hcode : code < 2 ^ 16) (hcore : o.core < 256) (hlane : o.lane < 4)
    (htag : o.tag < 2 ^ 24) (ht : t < 2 ^ 40) : let e := d.record o code t desc false
    e.get Reg.RTE_FAULT_CODE.VALID = 1 ∧ e.get Reg.RTE_FAULT_CODE.CODE = code ∧ e.get Reg.RTE_FAULT_CODE.CORE = o.core ∧
      e.get Reg.RTE_FAULT_CODE.LANE = o.lane ∧ e.get Reg.RTE_FAULT_TAG.TAG = o.tag ∧ e.get Reg.RTE_FAULT_TICK.TICK = t ∧
      e.get Reg.RTE_FAULT_AUX.SEGMENT = d.get Reg.RTE_STATUS.SEGMENT % 2 ^ 8 := by
  intro e
  have he : e = _ := Dev.record_free o code t desc false hv
  rw [he]
  refine ⟨?_, ?_, ?_, ?_, ?_, ?_, ?_⟩ <;>
    simp (disch := decide) only [Dev.get_lantern_ne, Dev.get_emit, Dev.writeRecord, Dev.putB, Dev.get_put_ne, Dev.get_put_self]
  · rfl
  · exact Nat.mod_eq_of_lt hcode
  · exact Nat.mod_eq_of_lt hcore
  · exact Nat.mod_eq_of_lt hlane
  · exact Nat.mod_eq_of_lt htag
  · exact Nat.mod_eq_of_lt ht
  · rfl

end

/-- A fault of a running device with no stop under way: the record, the stop, and the end of its occurrence. -/
theorem Dev.faultAt_first {d : Dev} (o : Owner) (code t : Nat) (hr : d.running = true) (hn : d.run.stopping = none) :
    d.faultAt o code t = ((d.record o code t 0 false).stopAt t 2 code).kill o := by
  simp only [Dev.faultAt, hr, hn, Option.isSome_none, if_true]

/-- Settles O21: the record by whether it is free, the stop by `Dev.stopping_stopAt_first`, what is dropped by `Dev.run_kill`. -/
theorem faultRecord : Obligations.FaultRecord := by
  unfold Obligations.FaultRecord
  intro d o code t hr hn e
  have he : e = _ := Dev.faultAt_first o code t hr hn
  have hget : ∀ F, e.get F = (d.record o code t 0 false).get F := fun F => by rw [he, Dev.get_kill, Dev.get_stopAt]
  have hr1 : (d.record o code t 0 false).running = true := by rw [Dev.running_record, hr]
  have hn1 : (d.record o code t 0 false).run.stopping = none := by rw [Dev.run_record, hn]
  obtain ⟨x, hrun⟩ := Dev.run_faultAt d o code t hr
  refine ⟨fun hv hcode hcore hlane htag ht => ?free, fun hv => ⟨fun F hF => ?kept, ?counted⟩, ?stop, fun x hx => ?dropped, ?tick,
    fun hu c => ?cores⟩
  case free =>
    simp only [hget]
    exact Dev.record_free_fields o code t 0 hv hcode hcore hlane htag ht
  case kept =>
    rw [hget, Dev.record_held _ _ _ _ hv]
    exact (Dev.get_lantern_ne _ _ _ _ _ _ _ _ (hF Reg.DBG_LTN_LOST.COUNT (by decide))).trans
      (Dev.get_count_ne _ _ (hF Reg.DBG_LTN_FAULTS.COUNT (by decide)))
  case counted =>
    rw [hget, Dev.record_held _ _ _ _ hv]
    exact (Dev.get_lantern_ne _ _ _ _ _ _ _ _ (by decide)).trans (Dev.get_count_self _ _ _)
  case stop =>
    rw [he, Dev.stopping_kill, Dev.stopping_stopAt_first t 2 code hr1 hn1, Dev.held_record]
    rfl
  case dropped =>
    rw [hrun] at hx
    simpa only [Bool.not_eq_true'] using (List.mem_filter.1 hx).2
  case tick =>
    rw [hrun]
    rfl
  case cores =>
    rw [he, Dev.core_kill, Dev.core_stopAt, Dev.core_record]
    rwa [Dev.undo_stopAt, Dev.run_record]

end Sys2Proof.Machine
end

section
/-! PROOF. Forks: their opening, and their resolution by arm (R62 to R70, R107 to R110). -/

namespace Sys2Proof.Machine

/-! ### The fields of a fork's core -/

/-- The counters of a core's forks are other fields than its open mark, and than one another. -/
theorem forkOpen_key_ne (c : Nat) : (Reg.CORE_STATUS.FORK_OPEN c).key ≠ (Reg.SPEC_RESOLVED.COUNT c).key ∧
    (Reg.CORE_STATUS.FORK_OPEN c).key ≠ (Reg.SPEC_MISS.COUNT c).key ∧ (Reg.CORE_STATUS.FORK_OPEN c).key ≠ (Reg.SPEC_DROPPED.FAULTS c).key ∧
    (Reg.CORE_STATUS.FORK_OPEN c).key ≠ (Reg.SPEC_DROPPED.XFERS c).key ∧ (Reg.CORE_STATUS.FORK_OPEN c).key ≠ Reg.DBG_LTN_LOST.COUNT.key := by
  simp only [Fld.key, Reg.CORE_STATUS.FORK_OPEN, Reg.SPEC_RESOLVED.COUNT, Reg.SPEC_MISS.COUNT, Reg.SPEC_DROPPED.FAULTS,
    Reg.SPEC_DROPPED.XFERS, Reg.DBG_LTN_LOST.COUNT]
  omega

theorem specMiss_key_ne (c : Nat) : (Reg.SPEC_MISS.COUNT c).key ≠ (Reg.SPEC_RESOLVED.COUNT c).key ∧
    (Reg.SPEC_MISS.COUNT c).key ≠ (Reg.CORE_STATUS.FORK_OPEN c).key ∧ (Reg.SPEC_MISS.COUNT c).key ≠ (Reg.SPEC_DROPPED.FAULTS c).key ∧
    (Reg.SPEC_MISS.COUNT c).key ≠ (Reg.SPEC_DROPPED.XFERS c).key ∧ (Reg.SPEC_MISS.COUNT c).key ≠ Reg.DBG_LTN_LOST.COUNT.key := by
  simp only [Fld.key, Reg.CORE_STATUS.FORK_OPEN, Reg.SPEC_RESOLVED.COUNT, Reg.SPEC_MISS.COUNT, Reg.SPEC_DROPPED.FAULTS,
    Reg.SPEC_DROPPED.XFERS, Reg.DBG_LTN_LOST.COUNT]
  omega

theorem specDropped_key_ne (c : Nat) : (Reg.SPEC_DROPPED.FAULTS c).key ≠ (Reg.SPEC_RESOLVED.COUNT c).key ∧
    (Reg.SPEC_DROPPED.FAULTS c).key ≠ (Reg.CORE_STATUS.FORK_OPEN c).key ∧ (Reg.SPEC_DROPPED.FAULTS c).key ≠ (Reg.SPEC_MISS.COUNT c).key ∧
    (Reg.SPEC_DROPPED.FAULTS c).key ≠ (Reg.SPEC_DROPPED.XFERS c).key ∧ (Reg.SPEC_DROPPED.FAULTS c).key ≠ Reg.DBG_LTN_LOST.COUNT.key := by
  simp only [Fld.key, Reg.CORE_STATUS.FORK_OPEN, Reg.SPEC_RESOLVED.COUNT, Reg.SPEC_MISS.COUNT, Reg.SPEC_DROPPED.FAULTS,
    Reg.SPEC_DROPPED.XFERS, Reg.DBG_LTN_LOST.COUNT]
  omega

/-! ### The arms -/

theorem CoreSt.emptyRows_eq (f : Fork) (k : CoreSt) : ∃ e t, k.emptyRows f = { k with emptyRow := e, lastTag := t } := by
  have hrows : ∀ (b : Nat) (L : List Nat) (k : CoreSt), ∃ e t, L.foldl (fun k j =>
      let key := rowKey b (f.row + j)
      { k with emptyRow := kset false k.emptyRow key true, lastTag := kset 0 k.lastTag key 0 }) k = { k with emptyRow := e, lastTag := t } := by
    intro b L
    induction L with
    | nil => exact fun k => ⟨_, _, rfl⟩
    | cons j L ih => exact fun k => ih _
  have hbanks : ∀ (L : List Nat) (k : CoreSt), ∃ e t, L.foldl (fun k b =>
      if bitOf f.banks b then (List.range f.count).foldl (fun k j =>
        let key := rowKey b (f.row + j)
        { k with emptyRow := kset false k.emptyRow key true, lastTag := kset 0 k.lastTag key 0 }) k else k) k =
      { k with emptyRow := e, lastTag := t } := by
    intro L
    induction L with
    | nil => exact fun k => ⟨_, _, rfl⟩
    | cons b L ih =>
      intro k
      rw [List.foldl_cons]
      split
      · obtain ⟨e, t, h⟩ := hrows b (List.range f.count) k
        rw [h]
        exact ih _
      · exact ih k
  exact hbanks _ k

theorem CoreSt.emptyShadows_eq (f : Fork) (k : CoreSt) : ∃ x y, k.emptyShadows f = { k with lane0 := x, lane1 := y } := by
  unfold CoreSt.emptyShadows
  generalize f.filled = L
  induction L generalizing k with
  | nil => exact ⟨_, _, rfl⟩
  | cons lw L ih =>
    rw [List.foldl_cons]
    obtain ⟨x, y, h⟩ := ih (k.setLane lw.1 ((k.lane lw.1).setWs lw.2 { ((k.lane lw.1).ws lw.2).emptied with fill := none }))
    rw [h]
    unfold CoreSt.setLane
    split <;> exact ⟨_, _, rfl⟩

/-- Arm P with no fault held: the fork closes, and what was speculative is ordinary (R70). -/
theorem Dev.selectP_of_none {d : Dev} {c : Nat} (f : Fork) (h : (d.core c).specFaults = []) : d.selectP c f =
    (d.onRun (RunSt.keepSpec c)).onCore c fun k =>
      { k with fork := none, specFaults := [], arms := k.arms ++ [{ first := f.pFirst, count := f.pCount, base := f.r }] } := by
  simp only [Dev.selectP, h, List.foldl_nil]

/-- An occurrence that was speculative for the fork is so no longer. -/
theorem RunSt.specOf_keepSpec (c : Nat) (r : RunSt) : ∀ x ∈ (r.keepSpec c).sched, x.owner.specOf c = false := by
  intro x hx
  obtain ⟨y, -, rfl⟩ := List.mem_map.1 hx
  dsimp only
  split
  case isTrue => rfl
  case isFalse h => exact Bool.eq_false_iff.2 h

theorem Dev.running_faultAt {d : Dev} (o : Owner) (code t : Nat) (h : d.running = true) : (d.faultAt o code t).running = true := by
  obtain ⟨x, hx⟩ := Dev.run_faultAt d o code t h
  unfold Dev.running
  rw [hx]
  exact h

/-- Faults raised one after the other leave a stop on the hold line. -/
theorem Dev.stopping_foldl_faultAt {L : List (Owner × Nat)} (hL : L ≠ []) {d : Dev} (h : d.running = true) :
    (L.foldl (fun d x => d.faultAt x.1 x.2 d.faultTick) d).run.stopping.isSome = true := by
  induction L generalizing d with
  | nil => exact absurd rfl hL
  | cons x L ih =>
    rw [List.foldl_cons]
    by_cases hn : L = []
    · subst hn
      obtain ⟨y, hy⟩ := Dev.run_faultAt d x.1 x.2 d.faultTick h
      rw [List.foldl_nil, hy]
      rfl
    · exact ih hn (Dev.running_faultAt _ _ _ h)

theorem Dev.stopping_selectP {d : Dev} {c : Nat} (f : Fork) (h : (d.core c).specFaults ≠ []) (hr : d.running = true) :
    (d.selectP c f).run.stopping.isSome = true := Dev.stopping_foldl_faultAt h hr

/-- What a fork's rows and shadows lose leaves its arms alone. -/
theorem CoreSt.emptied_arms (f : Fork) (k : CoreSt) :
    ((k.emptyRows f).emptyShadows f).fork = k.fork ∧ ((k.emptyRows f).emptyShadows f).arms = k.arms := by
  obtain ⟨x, y, h2⟩ := CoreSt.emptyShadows_eq f (k.emptyRows f)
  obtain ⟨e, t, h1⟩ := CoreSt.emptyRows_eq f k
  rw [h2, h1]
  exact ⟨rfl, rfl⟩

/-- Arm Q: the fork closes, and its arm issues from R + 64. -/
theorem Dev.core_selectQ (d : Dev) (c : Nat) (f : Fork) : ((d.selectQ c f).core c).fork = none ∧
    ((d.selectQ c f).core c).arms = (d.core c).arms ++ [{ first := f.qFirst, count := f.qCount, base := f.r + 64 }] := by
  unfold Dev.selectQ
  rw [Dev.core_onCore_self]
  exact CoreSt.emptied_arms f _

theorem Dev.get_selectQ (d : Dev) (c : Nat) (f : Fork) :
    (d.selectQ c f).get (Reg.SPEC_MISS.COUNT c) = min (d.get (Reg.SPEC_MISS.COUNT c) + 1) (2 ^ 32 - 1) ∧
      (d.selectQ c f).get (Reg.SPEC_DROPPED.FAULTS c) =
        min (d.get (Reg.SPEC_DROPPED.FAULTS c) + (d.core c).specFaults.length) (2 ^ 16 - 1) ∧
      (d.selectQ c f).get (Reg.CORE_STATUS.FORK_OPEN c) = d.get (Reg.CORE_STATUS.FORK_OPEN c) := by
  obtain ⟨-, -, hm1, hm2, -⟩ := specMiss_key_ne c
  obtain ⟨-, -, hd1, hd2, -⟩ := specDropped_key_ne c
  obtain ⟨-, hf1, hf2, hf3, -⟩ := forkOpen_key_ne c
  refine ⟨?_, ?_, ?_⟩ <;> simp only [Dev.selectQ, Dev.get_onCore, Dev.get_onRun]
  · exact (Dev.get_count_ne _ _ hm2).trans ((Dev.get_count_ne _ _ hm1).trans (Dev.get_count_self _ _ _))
  · refine (Dev.get_count_ne _ _ hd2).trans ((Dev.get_count_self _ _ _).trans ?_)
    rw [Dev.get_count_ne _ _ hd1]
    rfl
  · exact (Dev.get_count_ne _ _ hf3).trans ((Dev.get_count_ne _ _ hf2).trans (Dev.get_count_ne _ _ hf1))

/-! ### Resolutions -/

/-- The fork's mark clears and the resolution counts. -/
def Dev.closeFork (c : Nat) (d : Dev) : Dev := (d.put (Reg.CORE_STATUS.FORK_OPEN c) 0).count (Reg.SPEC_RESOLVED.COUNT c) 1

theorem Dev.get_closeFork_open (d : Dev) (c : Nat) : (d.closeFork c).get (Reg.CORE_STATUS.FORK_OPEN c) = 0 :=
  (Dev.get_count_ne _ _ (forkOpen_key_ne c).1).trans (Dev.get_put_self _ _ _)

/-- The owner that reads a fork's row: at R the read is no longer speculative. -/
def Fork.reader (f : Fork) : Owner := { f.owner with spec := false }

/-- The device at a window fork's R: its row is read, its mark clears, its resolution counts. -/
def Dev.atFork (c : Nat) (f : Fork) (d : Dev) : Dev := (d.rowServed c (bitsOf f.opa 10 3) (bitsOf f.opa 0 10) f.reader).closeFork c

theorem Dev.atFork_facts (c : Nat) (f : Fork) (d : Dev) :
    ((d.atFork c f).core c).specFaults = (d.core c).specFaults ∧ ((d.atFork c f).core c).arms = (d.core c).arms ∧
      (d.atFork c f).get (Reg.CORE_STATUS.FORK_OPEN c) = 0 ∧ (d.atFork c f).get (Reg.SPEC_MISS.COUNT c) = d.get (Reg.SPEC_MISS.COUNT c) ∧
      (d.atFork c f).get (Reg.SPEC_DROPPED.FAULTS c) = d.get (Reg.SPEC_DROPPED.FAULTS c) := by
  obtain ⟨q, h⟩ := CoreSt.noteRead_eq (d.core c) (rowKey (bitsOf f.opa 10 3) (bitsOf f.opa 0 10))
  have hcore : (d.atFork c f).core c = { d.core c with testQueue := q } := by
    rw [← h]
    exact (Dev.core_onCore_self _ _ _).trans (by rw [Dev.core_ported])
  obtain ⟨hm1, hm2, -⟩ := specMiss_key_ne c
  obtain ⟨hd1, hd2, -⟩ := specDropped_key_ne c
  rw [hcore]
  exact ⟨rfl, rfl, Dev.get_closeFork_open _ _, (Dev.get_count_ne _ _ hm1).trans (Dev.get_put_ne _ _ hm2),
    (Dev.get_count_ne _ _ hd1).trans (Dev.get_put_ne _ _ hd2)⟩

section
variable {d : Dev} {c : Nat} {f : Fork} (hf : (d.core c).fork = some f)
include hf

theorem Dev.resolveWindow_of_not (h : f.exit = true ∨ d.run.tick ≠ f.r) : d.resolveWindow c = d := by
  simp only [Dev.resolveWindow, hf]
  exact if_pos h

theorem Dev.resolveExit_of_not (h : f.exit = false ∨ d.run.tick ≠ f.r) : d.resolveExit c = d := by
  simp only [Dev.resolveExit, hf]
  exact if_pos (by simpa only [Bool.not_eq_true'] using h)

theorem Dev.resolveWindow_at (he : f.exit = false) (ht : d.run.tick = f.r) (hw : d.watchOff = true)
    (hr : d.rowReadable c (bitsOf f.opa 10 3) (bitsOf f.opa 0 10) = true) :
    let p := forkCompare f.cmp (rowWord ((d.core c).row (bitsOf f.opa 10 3) (bitsOf f.opa 0 10)) f.word).toNat f.imm
    d.resolveWindow c = (if p then (d.atFork c f).selectP c f else (d.atFork c f).selectQ c f).lantern 5 c 0 f.owner.tag f.r (if p then 0 else 1) none := by
  have hno : ¬ (f.exit = true ∨ d.run.tick ≠ f.r) := by simp [he, ht]
  simp only [Dev.resolveWindow, hf, if_neg hno, Dev.readRow_ok _ hr hw]
  rfl

theorem Dev.resolveExit_at (he : f.exit = true) (ht : d.run.tick = f.r) :
    let out := reached (d.beacon (bitsOf f.opa 0 14)) (BitVec.ofNat 32 f.imm)
    let e := ((d.closeFork c).onCore c fun k => { k with fork := none }).lantern 5 c 0 f.owner.tag f.r (2 + (if out then 1 else 0)) none
    d.resolveExit c = if out then e.onRun fun r => { r with exitAt := some (min (r.exitAt.getD (f.r + 24)) (f.r + 24)) } else e := by
  have hno : ¬ ((!f.exit) = true ∨ d.run.tick ≠ f.r) := by simp [he, ht]
  simp only [Dev.resolveExit, hf, if_neg hno]
  rfl

theorem Dev.resolveExit_facts (he : f.exit = true) (ht : d.run.tick = f.r) :
    ((d.resolveExit c).core c).fork = none ∧ (d.resolveExit c).get (Reg.CORE_STATUS.FORK_OPEN c) = 0 ∧ (d.resolveExit c).run =
      if reached (d.beacon (bitsOf f.opa 0 14)) (BitVec.ofNat 32 f.imm) then
        { d.run with exitAt := some (min (d.run.exitAt.getD (f.r + 24)) (f.r + 24)) }
      else d.run := by
  obtain ⟨-, -, -, -, hl⟩ := forkOpen_key_ne c
  rw [Dev.resolveExit_at hf he ht]
  cases reached (d.beacon (bitsOf f.opa 0 14)) (BitVec.ofNat 32 f.imm)
  case false =>
    refine ⟨?_, (Dev.get_lantern_ne _ _ _ _ _ _ _ _ hl).trans (Dev.get_closeFork_open d c), (Dev.run_lantern _ _ _ _ _ _ _ _).trans rfl⟩
    rw [if_neg Bool.false_ne_true, Dev.core_lantern, Dev.core_onCore_self]
  case true =>
    refine ⟨?_, (Dev.get_lantern_ne _ _ _ _ _ _ _ _ hl).trans (Dev.get_closeFork_open d c), ?_⟩
    · rw [if_pos rfl, Dev.core_onRun, Dev.core_lantern, Dev.core_onCore_self]
    · rw [if_pos rfl, Dev.run_onRun, Dev.run_lantern]
      rfl

end

/-- The fork that a CTL.FORK opens (R107, R108). -/
def Dev.openedFork (i : Inst) (d : Dev) : Fork :=
  let x := ((d.rt.prog i.coreN).map fun p => p.forkx i.tag.toNat).getD 0#256
  { owner := d.owner i 9 0, r := d.run.tick + i.extBits 0 24, exit := i.extBits 26 1 == 1, opa := i.opa.toNat, cmp := i.extBits 24 2,
    word := i.extBits 27 7, imm := bitsOf x.toNat 52 32, row := opRow i.opb, count := i.cnt, banks := i.sub,
    pFirst := bitsOf x.toNat 165 11, pCount := bitsOf x.toNat 154 11, qFirst := bitsOf x.toNat 143 11, qCount := bitsOf x.toNat 132 11 }

theorem Dev.fork_of_free {i : Inst} {d : Dev} (hu : d.unitFree i.coreN 9 2 = true) : d.fork i =
    ((d.took (d.owner i 9 0) 2 1 1).onCore i.coreN fun k => { k with fork := some (d.openedFork i) }).put
      (Reg.CORE_STATUS.FORK_OPEN i.coreN) 1 := by
  simp only [Dev.fork, Dev.takeUnit_control hu, Bool.not_true, Bool.false_eq_true, if_false]
  rfl

/-- The device with a fork open differs in its core's fork and its mark. -/
theorem Dev.fork_facts {i : Inst} {d : Dev} (hu : d.unitFree i.coreN 9 2 = true) : let e := d.fork i
    (∃ f, (e.core i.coreN).fork = some f ∧ f.r = d.run.tick + i.extBits 0 24 ∧ f.exit = (i.extBits 26 1 == 1) ∧ f.opa = i.opa.toNat ∧
      f.cmp = i.extBits 24 2 ∧ f.word = i.extBits 27 7 ∧ f.row = opRow i.opb ∧ f.count = i.cnt ∧ f.banks = i.sub) ∧
    e.get (Reg.CORE_STATUS.FORK_OPEN i.coreN) = 1 ∧ RegsKept e d [Reg.CORE_STATUS.FORK_OPEN i.coreN] ∧
    (∀ c, c ≠ i.coreN → e.core c = d.core c) ∧ e.run = (d.took (d.owner i 9 0) 2 1 1).run := by
  intro e
  have he : e = _ := Dev.fork_of_free hu
  rw [he]
  refine ⟨⟨d.openedFork i, ?_, rfl, rfl, rfl, rfl, rfl, rfl, rfl, rfl⟩, Dev.get_put_self _ _ _,
    fun F hF => Dev.get_put_ne _ _ (hF _ List.mem_cons_self), fun c hc => ?_, rfl⟩
  · rw [Dev.core_put, Dev.core_onCore_self]
  · rw [Dev.core_put, Dev.core_onCore_ne _ _ hc, Dev.core_took]

/-- Settles O20: a fork's opening by `Dev.fork_facts`, its resolution by its kind, its tick and its comparison. -/
theorem forks : Obligations.Forks := by
  unfold Obligations.Forks
  refine ⟨fun i s hi hu => ⟨_, State.issue_of_canIssue hi _, Dev.fork_facts hu⟩, fun core s => ⟨fun h0 => ?none, fun f hf => ?some⟩,
    fun w imm => ⟨rfl, rfl, rfl, rfl⟩⟩
  case none =>
    refine ⟨Leaves.noEffect (d := s.dev.resolveWindow core.toNat) rfl ?_, Leaves.noEffect (d := s.dev.resolveExit core.toNat) rfl ?_⟩
    · simp only [Dev.resolveWindow, h0]
    · simp only [Dev.resolveExit, h0]
  case some =>
    refine ⟨fun h => Leaves.noEffect (d := s.dev.resolveWindow core.toNat) rfl (Dev.resolveWindow_of_not hf h),
      fun h => Leaves.noEffect (d := s.dev.resolveExit core.toNat) rfl (Dev.resolveExit_of_not hf h),
      fun he ht => ⟨_, rfl, Dev.resolveExit_facts hf he ht⟩, fun he ht hw hr => ?window⟩
    case window =>
      intro w held
      refine ⟨s.dev.resolveWindow core.toNat, rfl, ?_⟩
      have hl := (forkOpen_key_ne core.toNat).2.2.2.2
      obtain ⟨hspec, harms, hopen, hmiss, hdropped⟩ := s.dev.atFork_facts core.toNat f
      rw [Dev.resolveWindow_at hf he ht hw hr]
      refine ⟨fun hp h0 => ?p, fun hp hne hrun => ?fault, fun hp => ?q⟩
      case p =>
        rw [if_pos hp, if_pos hp, Dev.selectP_of_none f (hspec.trans h0)]
        refine ⟨?_, (Dev.get_lantern_ne _ _ _ _ _ _ _ _ hl).trans hopen, ?_, ?_, ?_⟩
        · rw [Dev.core_lantern, Dev.core_onCore_self]
        · rw [Dev.core_lantern, Dev.core_onCore_self]
          exact congrArg (· ++ _) harms
        · rw [Dev.run_lantern]
          exact List.length_map _
        · rw [Dev.run_lantern]
          exact RunSt.specOf_keepSpec _ _
      case fault =>
        rw [if_pos hp, if_pos hp, Dev.run_lantern]
        exact Dev.stopping_selectP f (fun h => hne (hspec.symm.trans h)) hrun
      case q =>
        have hno : ¬ forkCompare f.cmp w f.imm = true := Bool.eq_false_iff.1 hp
        have hml := (specMiss_key_ne core.toNat).2.2.2.2
        have hdl := (specDropped_key_ne core.toNat).2.2.2.2
        obtain ⟨hfork, hqarms⟩ := Dev.core_selectQ (s.dev.atFork core.toNat f) core.toNat f
        obtain ⟨hqmiss, hqdrop, hqopen⟩ := Dev.get_selectQ (s.dev.atFork core.toNat f) core.toNat f
        rw [harms] at hqarms
        rw [hmiss] at hqmiss
        rw [hspec, hdropped] at hqdrop
        rw [if_neg hno, if_neg hno, Dev.core_lantern, Dev.run_lantern]
        exact ⟨hfork, (Dev.get_lantern_ne _ _ _ _ _ _ _ _ hl).trans (hqopen.trans hopen), hqarms,
          (Dev.get_lantern_ne _ _ _ _ _ _ _ _ hml).trans hqmiss, (Dev.get_lantern_ne _ _ _ _ _ _ _ _ hdl).trans hqdrop, rfl, rfl, rfl⟩

end Sys2Proof.Machine
end

section
/-! PROOF. The Eclipse, suspension, the watchdog and the freeze (R54 to R60, R74, R570). -/

namespace Sys2Proof.Machine

/-! ### Suspension -/

/-- A failed translation suspends the device, with its event, and the Eclipse goes on. -/
theorem Dev.suspend_facts {d : Dev} (h : d.xlatFail ≠ []) : d.suspend.is Reg.RTE_STATUS.SUSPENDED = true ∧
    d.suspend.is (Reg.RTE_EVENT.SUSPEND d.rt.tenancy) = true ∧ d.suspend.run.eclipse = d.run.eclipse := by
  obtain ⟨f, l, hf⟩ := List.exists_cons_of_ne_nil h
  have hctl : Reg.RTE_STATUS.SUSPENDED.key ≠ (Reg.HP_XLAT_CTL.SUSPENDED f.1).key := by
    simp only [Fld.key, Reg.RTE_STATUS.SUSPENDED, Reg.HP_XLAT_CTL.SUSPENDED]
    omega
  have hev : Reg.RTE_STATUS.SUSPENDED.key ≠ (Reg.RTE_EVENT.SUSPEND d.rt.tenancy).key := by
    simp only [Fld.key, Reg.RTE_STATUS.SUSPENDED, Reg.RTE_EVENT.SUSPEND]
    omega
  unfold Dev.suspend
  rw [hf]
  refine ⟨?bit, Dev.is_event_self _ _ (by decide : 0 < 1), ?run⟩
  case bit =>
    refine decide_eq_true (p := _ ≠ 0) ?_
    rw [Dev.get_event_ne _ hev, Dev.get_blockFault_ne _ _ _ _ (by decide) (by decide), Dev.get_lantern_ne _ _ _ _ _ _ _ _ (by decide),
      Dev.get_onRun, Dev.get_put_ne _ _ hctl, Dev.get_put_self]
    decide
  case run =>
    have hr : ∀ (x : Dev) (o : Owner) (code : Nat) (b : Bool) (F : Fld), ((x.blockFault o code b).event F).run = x.run := fun x o code b F =>
      Dev.run_rest ((Dev.rest_event _ F).trans (Dev.rest_blockFault x o code b))
    rw [hr, Dev.run_lantern]
    rfl

theorem Dev.suspend_of_none {d : Dev} (h : d.xlatFail = []) : d.suspend = d := by
  unfold Dev.suspend
  rw [h]

/-! ### The Eclipse -/

/-- The device with an Eclipse begun, before a suspension is looked for. -/
def Dev.eclipsed (d : Dev) : Dev :=
  let due := d.run.holds.filter fun x => decide (x.h ≤ d.holdTick)
  let d1 := d.onRun fun r => { r with eclipse := true, eclipseSince := d.now, suspendedNs := 0, eclipseHolds := due,
                                      holds := r.holds.filter fun x => !decide (x.h ≤ d.holdTick) }
  (if due.any fun x => x.why == .slip then d1.put Reg.MSH_STATUS.REBALANCE 1 else d1).put Reg.RTE_STATUS.ECLIPSE 1

theorem Dev.eclipseBegin_eq (d : Dev) : d.eclipseBegin =
    if !d.inSegment ∨ d.run.eclipse ∨ (d.run.holds.filter fun x => decide (x.h ≤ d.holdTick)).isEmpty then d else d.eclipsed.suspend := rfl

theorem Dev.eclipseBegin_of_due {d : Dev} (hi : d.inSegment = true) (he : d.run.eclipse = false)
    (hd : (d.run.holds.filter fun x => decide (x.h ≤ d.holdTick)) ≠ []) : d.eclipseBegin = d.eclipsed.suspend := by
  rw [Dev.eclipseBegin_eq]
  refine if_neg ?_
  simp only [hi, he, List.isEmpty_iff, hd]
  decide

theorem Dev.eclipsed_facts (d : Dev) : d.eclipsed.xlatFail = d.xlatFail ∧ d.eclipsed.rt = d.rt ∧ d.eclipsed.run.eclipse = true := by
  unfold Dev.eclipsed
  dsimp only
  split <;> exact ⟨rfl, rfl, rfl⟩

theorem Dev.eclipseClear_iff (d : Dev) : d.eclipseClear = true ↔ d.run.eclipse = true ∧ d.is Reg.RTE_STATUS.SUSPENDED = false ∧
    d.stopDue = false ∧ 40 ≤ d.now - d.run.eclipseSince ∧ ∀ h ∈ d.run.eclipseHolds, d.holdClear h.why = true := by
  simp only [Dev.eclipseClear, Bool.and_eq_true, Bool.not_eq_true', decide_eq_true_eq, List.all_eq_true, and_assoc]

/-- Lantern's record of an Eclipse changes only the record's buffer and registers. -/
theorem Dev.eclipseRecord_eq (d : Dev) : ∃ r x b, d.eclipseRecord = { d with regs := r, ltn := x, ltnLost := b } := by
  unfold Dev.eclipseRecord
  cases d.run.eclipseHolds with
  | nil => exact ⟨_, _, _, rfl⟩
  | cons h hs =>
    obtain ⟨r, x, b, hl⟩ := Dev.lantern_eq ({ d with regs := (d.put Reg.TIM_MILESTONE.COUNT h.ms).regs } : Dev) 3 0xFF 0 0 h.d
      (h.h % 2 ^ 40 + h.cause * 2 ^ 40 + min (2 ^ 32 - 1) (d.now - d.run.eclipseSince) * 2 ^ 48 + min (2 ^ 16 - 1) (hs.length + 1) * 2 ^ 80) none
    simp only [hl]
    exact ⟨_, _, _, rfl⟩

/-- The device with its Eclipse over. -/
def Dev.eclipseOver (d : Dev) : Dev :=
  ((d.eclipseRecord.onRun fun r => { r with eclipse := false, eclipseHolds := [] }).put Reg.RTE_STATUS.ECLIPSE 0).put Reg.MSH_STATUS.REBALANCE 0

theorem Dev.eclipseOver_facts (d : Dev) : d.eclipseOver.run = { d.run with eclipse := false, eclipseHolds := [] } ∧
    d.eclipseOver.get Reg.RTE_STATUS.ECLIPSE = 0 ∧ d.eclipseOver.get Reg.MSH_STATUS.REBALANCE = 0 ∧ d.eclipseOver.cores = d.cores := by
  obtain ⟨r, x, b, h⟩ := Dev.eclipseRecord_eq d
  refine ⟨?_, (Dev.get_put_ne _ _ (by decide)).trans (Dev.get_put_self _ _ _), Dev.get_put_self _ _ _, ?_⟩
  · rw [Dev.eclipseOver, h]
    rfl
  · rw [Dev.eclipseOver, h]
    rfl

theorem Dev.eclipseRelease_eq (d : Dev) :
    d.eclipseRelease = if !d.eclipseClear then d else if d.run.aborted then d.eclipseOver.prologue else d.eclipseOver := rfl

/-- Settles O22: each of the four commands by its guard; the suspension by `Dev.suspend_facts`, the release by `Dev.eclipseOver_facts`. -/
theorem eclipses : Obligations.Eclipses := by
  unfold Obligations.Eclipses
  refine ⟨fun s => ⟨fun hs => ?tick, fun h => ?idle, fun hi he hd => ⟨fun hx => ?plain, fun hx => ?suspend⟩⟩, Dev.eclipseClear_iff,
    fun s => ⟨fun h => ?unclear, fun h => ?release⟩, fun s => ⟨fun h => ?early, fun h => ?late⟩, fun s hs => ?watchdog,
    fun s => ⟨fun h => ?running, fun h => ?frozen⟩⟩
  case tick => simp only [Dev.holdTick, hs, Bool.false_eq_true, if_false]
  case idle =>
    refine Leaves.noEffect (d := s.dev.eclipseBegin) rfl ?_
    rw [Dev.eclipseBegin_eq]
    exact if_pos (by simpa only [Bool.not_eq_true', List.isEmpty_iff] using h)
  case plain =>
    have hl : Leaves .eclipseBegin s s.dev.eclipseBegin := rfl
    rw [Dev.eclipseBegin_of_due hi he hd, Dev.suspend_of_none (s.dev.eclipsed_facts.1.trans hx)] at hl
    exact hl
  case suspend =>
    have hl : Leaves .eclipseBegin s s.dev.eclipseBegin := rfl
    rw [Dev.eclipseBegin_of_due hi he hd] at hl
    obtain ⟨hf, hrt, hecl⟩ := s.dev.eclipsed_facts
    obtain ⟨h1, h2, h3⟩ := Dev.suspend_facts (d := s.dev.eclipsed) (by rwa [hf])
    rw [hrt] at h2
    exact ⟨_, hl, h1, h2, h3.trans hecl⟩
  case unclear =>
    refine Leaves.noEffect (d := s.dev.eclipseRelease) rfl ?_
    rw [Dev.eclipseRelease_eq, h]
    rfl
  case release =>
    obtain ⟨hrun, he, hr, hc⟩ := s.dev.eclipseOver_facts
    refine ⟨s.dev.eclipseOver, hrun, he, hr, hc, Leaves.congr (d := s.dev.eclipseRelease) rfl ?_⟩
    rw [Dev.eclipseRelease_eq, h]
    rfl
  case early => exact Leaves.noEffect (d := s.dev.routeWatchdog) rfl (if_neg (by rw [h]; decide))
  case late => exact Leaves.congr (d := s.dev.routeWatchdog) rfl (if_pos h)
  case watchdog => simp only [Dev.watchdogDue, hs, Bool.and_false, Bool.false_and, Bool.or_false, Bool.and_assoc]
  case running => exact Leaves.noEffect (d := s.dev.freezeBegin) rfl (if_neg (by rw [h]; decide))
  case frozen =>
    have hl : Leaves .freezeBegin s _ := Leaves.congr (d := s.dev.freezeBegin) rfl (if_pos h)
    have hrun : ((s.dev.onRun fun r => { r with frozen := true, freezeAt := none }).lantern 9 0xFF 0 0 (s.dev.run.tick + 1) 3 none).run =
        { s.dev.run with frozen := true, freezeAt := none } := Dev.run_lantern _ _ _ _ _ _ _ _
    exact ⟨_, hl, hrun, by simp only [Dev.held, hrun, Bool.or_true, Bool.true_or]⟩

end Sys2Proof.Machine
end

section
/-! PROOF. Segment boundaries, gates and armed launches (R43, R71, R72, R91, R92, R101, R249, R386, R430 to R434). -/

namespace Sys2Proof.Machine

/-! ### A boundary is left -/

theorem Dev.run_setPhase (p : Phase) (d : Dev) : (d.setPhase p).run = { d.run with phase := p } := rfl

/-- With no stream rewritten, none is applied and none fails. -/
theorem Dev.applyRewrites_of_none {d : Dev} (h : d.rt.rewrites = []) : d.applyRewrites = (d, none) := by
  have he : ({ d with rt := { d.rt with rewrites := [] } } : Dev) = d :=
    (congrArg (fun l => ({ d with rt := { d.rt with rewrites := l } } : Dev)) h).symm
  unfold Dev.applyRewrites
  rw [h]
  exact Prod.ext he rfl

/-- The device in the boundary after its segment: the records are written, and 33 ticks are counted. -/
def Dev.inBoundary (d : Dev) : Dev :=
  let succ := if segSucc d.seg = 2 then 0xFF
    else if segSucc d.seg = 1 ∧ d.run.repeatsLeft ≠ 0 then d.get Reg.RTE_STATUS.SEGMENT else segSuccIdx d.seg
  let d1 := (d.mirPassEnd.lantern 2 0xFF 0 0 d.run.tick ((if d.run.exitAt.isSome then 1 else 0) + succ * 2 ^ 8) none).onRun fun r =>
    { r.cleared with cont := r.cont + 33, preempt := r.preempt, tick := r.tick, freezeAt := r.freezeAt, freezeMark := r.freezeMark }
  (d1.setPhase .boundary).put Reg.TIM_RUN_TICK.TICK (d.get Reg.TIM_RUN_TICK.TICK + 33)

theorem Dev.leaveSegment_eq (d : Dev) : d.leaveSegment = d.inBoundary.applyUnits.applyComb.applySlots false := rfl

theorem Dev.inBoundary_facts (d : Dev) : d.inBoundary.run.cont = d.mirPassEnd.run.cont + 33 ∧ d.inBoundary.run.phase = .boundary ∧
    d.inBoundary.get Reg.TIM_RUN_TICK.TICK = (d.get Reg.TIM_RUN_TICK.TICK + 33) % 2 ^ 64 := by
  refine ⟨?cont, rfl, Dev.get_put_self _ _ _⟩
  simp only [Dev.inBoundary, Dev.put_run, Dev.run_setPhase, Dev.run_onRun, Dev.run_lantern]

/-! ### A segment begins -/

theorem Dev.run_mapCores (f : CoreSt → CoreSt) (d : Dev) : (d.mapCores f).run = d.run ∧ (d.mapCores f).gate = d.gate := by
  unfold Dev.mapCores
  generalize d.cores = L
  induction L generalizing d with
  | nil => exact ⟨rfl, rfl⟩
  | cons c L ih => exact ih (d.onCore c.1 f)

theorem Dev.run_mirPass (d : Dev) : d.mirPass.run = d.run ∧ d.mirPass.gate = d.gate := by
  unfold Dev.mirPass
  split <;> exact ⟨rfl, rfl⟩

theorem Dev.run_foldl_putB {α : Type} (F : α → Fld) (b : Dev → α → Bool) (L : List α) (d : Dev) :
    (L.foldl (fun d p => d.putB (F p) (b d p)) d).run = d.run ∧ (L.foldl (fun d p => d.putB (F p) (b d p)) d).gate = d.gate := by
  induction L generalizing d with
  | nil => exact ⟨rfl, rfl⟩
  | cons p L ih => exact ih (d.putB (F p) (b d p))

theorem Dev.gate_lantern (d : Dev) (ty c l tg tk dt : Nat) (p : Option Row) : (d.lantern ty c l tg tk dt p).gate = d.gate := by
  obtain ⟨r, x, b, h⟩ := Dev.lantern_eq d ty c l tg tk dt p
  rw [h]

theorem Dev.beginSegment_facts (d : Dev) : d.beginSegment.run.phase = .segment ∧ d.beginSegment.run.tick = 0 ∧ d.beginSegment.gate = none := by
  unfold Dev.beginSegment
  dsimp only
  rw [(Dev.run_mirPass _).1, (Dev.run_mirPass _).2, Dev.run_lantern, Dev.gate_lantern]
  rw [(Dev.run_foldl_putB _ Dev.sbCore _ _).1, (Dev.run_foldl_putB _ Dev.sbCore _ _).2]
  refine ⟨?_, ?_, rfl⟩
  · exact (congrArg RunSt.phase (Dev.run_mapCores _ _).1).trans rfl
  · exact (congrArg RunSt.tick (Dev.run_mapCores _ _).1).trans rfl

/-! ### Gates and relaunches -/

theorem Dev.enterGate_open {d : Dev} (hg : segGate d.seg = 0) : d.enterGate = d.afterGate := if_pos hg

theorem Dev.afterGate_unarmed {d : Dev} (h : d.is Reg.TIM_STATUS.LAUNCH_ARMED = false) : d.afterGate = d.beginSegment :=
  if_neg (by rw [h]; decide)

theorem Dev.afterGate_armed {d : Dev} (h : d.is Reg.TIM_STATUS.LAUNCH_ARMED = true) (hc : d.now ≤ d.tim.armedAt) :
    d.afterGate = (d.put Reg.RTE_STATUS.GATED 0).setPhase .relaunch := (if_pos h).trans (if_neg (Nat.not_lt.2 hc))

/-- The device at a segment's gate, the gate registered as a waiter. -/
def Dev.atGate (d : Dev) : Dev :=
  ({ d with gate := some { bcn := segGateBcn d.seg, take := segGate d.seg == 2, target := BitVec.ofNat 32 (segGateTgt d.seg),
                           seg := d.get Reg.RTE_STATUS.SEGMENT, waited := 0 },
            pwr := { d.pwr with idleSince := some d.now } } : Dev).setPhase .gate |>.put Reg.RTE_STATUS.GATED 1

theorem Dev.enterGate_gated {d : Dev} (hg : segGate d.seg ≠ 0) : d.enterGate = d.atGate.release (segGateBcn d.seg) := if_neg hg

theorem leaves_gateRelease {s : State} : Leaves .gateRelease s
    (if s.dev.gate.any GateWait.released then (s.dev.wakeUp .gateReady).gateRelease else s.dev) := rfl

/-- Settles O23: the boundary by its guard and what leaves it, the successor by SUCC, a segment's begin by its gate and the armed count. -/
theorem boundaries : Obligations.Boundaries := by
  unfold Obligations.Boundaries
  refine ⟨fun s => ⟨fun h => ?stay, fun hi hh ho hs => ?leave, fun h => ?plain, fun h => ?scoreboard⟩,
    fun d => ⟨d.inBoundary, d.inBoundary_facts.1, d.inBoundary_facts.2.1, d.inBoundary_facts.2.2, d.leaveSegment_eq⟩, fun d hw => ?after,
    fun d => ⟨fun h2 => ?done, fun h1 hn => ?again, fun h2 h1 => ?next⟩, fun d => ⟨fun hg ha => ?begin, fun hg ha hc => ?hold, fun hg => ?gate⟩,
    fun s => ⟨fun h => ?shut, fun h => ?release, fun g hg hr hp hs => ?through⟩, fun s => ⟨fun h => ?wait, fun hp ha hc hs => ?relaunch⟩,
    fun s => ⟨fun h => ?no, fun hp ha => ?taken⟩⟩
  case stay =>
    refine Leaves.noEffect (d := s.dev.segmentBoundary) rfl (if_pos ?_)
    simpa only [Dev.inSegment, decide_eq_false_iff_not, Bool.not_eq_true', Option.isSome_iff_ne_none] using h
  case leave =>
    refine Leaves.congr (d := s.dev.segmentBoundary) rfl (if_neg ?_)
    simp only [Dev.inSegment, decide_eq_true_eq] at hi
    simp [hi, hh, ho, hs]
  case plain => exact Leaves.noEffect (d := s.dev.scoreboardEnd) rfl (if_neg (by rw [h]; decide))
  case scoreboard =>
    have he : s.dev.scoreboardEnd = s.dev.segmentBoundary := if_pos h
    exact (show exec .scoreboardSegmentEnd s = _ from Leaves.congr (d := s.dev.scoreboardEnd) rfl he)
  case after =>
    intro e
    have he : d.leaveBoundary = if e.preemptPending then e.takePreemption else e.successor := by
      simp only [Dev.leaveBoundary, Dev.applyRewrites_of_none hw]
      rfl
    exact ⟨fun hp => he.trans (if_pos hp), fun hp => he.trans (if_neg (by rw [hp]; decide))⟩
  case done =>
    have he : d.successor = (d.goIdle.onRun fun r => { r with resume := .none }).event (Reg.RTE_EVENT.DONE d.rt.tenancy) := if_pos h2
    refine ⟨he, ?_⟩
    rw [he]
    exact Dev.is_event_self _ _ (by decide : 0 < 1)
  case again => exact (if_neg (by omega)).trans (if_pos ⟨h1, hn⟩)
  case next => exact (if_neg h2).trans (if_neg (by omega))
  case begin =>
    rw [Dev.enterGate_open hg, Dev.afterGate_unarmed ha]
    exact d.beginSegment_facts
  case hold => rw [Dev.enterGate_open hg, Dev.afterGate_armed ha hc]
  case gate => exact ⟨d.atGate, rfl, Dev.get_put_self _ _ _, rfl, rfl, Dev.enterGate_gated hg⟩
  case shut =>
    refine leaves_gateRelease.noEffect (if_neg (by rw [h]; decide))
  case release =>
    exact leaves_gateRelease.congr (if_pos h)
  case through =>
    unfold Dev.gateRelease
    rw [hg]
    exact if_pos ⟨hr, hp, by rw [hs]; rfl⟩
  case wait =>
    refine Leaves.noEffect (d := s.dev.relaunch) rfl (if_neg ?_)
    rintro ⟨hp, ha, hc, hs⟩
    rcases h with h | h | h | h
    · exact h hp
    · exact absurd (h.symm.trans ha) (by decide)
    · omega
    · exact h (Option.isNone_iff_eq_none.1 hs)
  case relaunch => exact Leaves.congr (d := s.dev.relaunch) rfl (if_pos ⟨hp, ha, hc, Option.isNone_iff_eq_none.2 hs⟩)
  case no =>
    refine Leaves.noEffect (d := s.dev.preemptionTaken) rfl (if_neg ?_)
    rcases h with h | h <;> simp [h]
  case taken =>
    refine Leaves.congr (d := s.dev.preemptionTaken) rfl (if_pos ?_)
    rw [hp, ha]
    rfl

/-! ### Rewritten streams -/

theorem Dev.streamWrite_of_shown {d : Dev} {b c h u : Nat} (stride : Bool) (v : BitVec 64) (hb : d.acting b = some u)
    (hu : u = 0 ∨ (d.rt.loaded = true ∧ d.rt.tenancy = u)) (hw : d.windowOn c = true) (hs : (d.shownStream c h).isSome = true) :
    let e : Dev := { d with rt := { d.rt with rewrites := d.rt.rewrites ++ [(c, h, stride, v)] } }
    d.streamWrite b c h stride v = if d.running then e else e.rewriteEntry (c, h, stride, v) := by
  intro e
  have hno : ¬ ((u ≠ 0 ∧ (!(d.rt.loaded && d.rt.tenancy == u)) = true) ∨ (!d.windowOn c) = true) := by
    rcases hu with hu | ⟨hl, ht⟩
    · simp [hu, hw]
    · simp [hl, ht, hw]
  have hsome : ¬ (d.shownStream c h).isNone = true := by rw [Option.isNone_eq_false_iff.2 hs]; decide
  simp only [Dev.streamWrite, hb, if_neg hno, if_neg hsome]
  rfl

theorem Dev.streamWrite_shut {d : Dev} {b c h : Nat} (stride : Bool) (v : BitVec 64) (hw : d.acting b = none ∨ d.windowOn c = false) :
    d.streamWrite b c h stride v = d := by
  unfold Dev.streamWrite
  cases hb : d.acting b with
  | none => rfl
  | some u =>
    rcases hw with hn | hw
    · rw [hb] at hn
      cases hn
    · exact if_pos (Or.inr (by rw [hw]; rfl))

theorem Dev.streamWrite_other {d : Dev} {b c h u : Nat} (stride : Bool) (v : BitVec 64) (hb : d.acting b = some u) (hu : u ≠ 0)
    (ht : d.rt.loaded = false ∨ d.rt.tenancy ≠ u) : d.streamWrite b c h stride v = d := by
  unfold Dev.streamWrite
  rw [hb]
  refine if_pos (Or.inl ⟨hu, ?_⟩)
  rcases ht with ht | ht <;> simp [ht]

theorem Dev.get_rewriteEntry (d : Dev) (c h : Nat) (v : BitVec 64) :
    (d.rewriteEntry (c, h, false, v)).get (Reg.STREAM_LO.BASE c h) = v.toNat ∧
      (d.rewriteEntry (c, h, true, v)).get (Reg.STREAM_HI.STRIDE c h) = v.toNat % 2 ^ 32 :=
  ⟨(Dev.get_put_self _ _ _).trans (Nat.mod_eq_of_lt v.isLt), (Dev.get_put_self _ _ _).trans (Nat.mod_mod _ _)⟩

/-! ### Armed launches -/

theorem Dev.disarmLaunch_facts (d : Dev) : d.disarmLaunch.is Reg.TIM_STATUS.LAUNCH_ARMED = false ∧
    d.disarmLaunch.get Reg.TIM_LAUNCH_AT.COUNT = 2 ^ 64 - 1 := by
  have hreg : ∀ F, d.disarmLaunch.get F =
      ((d.put Reg.TIM_STATUS.LAUNCH_ARMED 0).put Reg.TIM_LAUNCH_AT.COUNT 0xFFFFFFFFFFFFFFFF).get F := fun F => rfl
  have hget : d.disarmLaunch.get Reg.TIM_STATUS.LAUNCH_ARMED = 0 :=
    (hreg _).trans ((Dev.get_put_ne _ _ (by decide)).trans (Dev.get_put_self _ _ _))
  refine ⟨?_, (hreg _).trans (Dev.get_put_self _ _ _)⟩
  unfold Dev.is
  rw [hget]
  rfl

theorem Dev.launchArm_refused {d : Dev} {c : Nat} (hn : c ≠ 2 ^ 64 - 1)
    (h : c < d.now + 100000 ∨ (d.anyConvoy = true ∧ d.is Reg.TIM_STATUS.LOCKED = false) ∨ d.startBarred = true) :
    d.launchArm c = (d.put Reg.TIM_LAUNCH_AT.COUNT d.tim.armedAt).event Reg.TIM_EVENT.LAUNCH_REFUSED :=
  (if_neg hn).trans (if_pos (by simpa only [Bool.not_eq_true'] using h))

theorem Dev.launchArm_armed {d : Dev} {c : Nat} (hn : c ≠ 2 ^ 64 - 1)
    (h : ¬ (c < d.now + 100000 ∨ (d.anyConvoy = true ∧ d.is Reg.TIM_STATUS.LOCKED = false) ∨ d.startBarred = true)) : d.launchArm c =
      { (d.put Reg.TIM_LAUNCH_AT.COUNT c).put Reg.TIM_STATUS.LAUNCH_ARMED 1 with tim := { d.tim with armedAt := c } } :=
  (if_neg hn).trans (if_neg (by simpa only [Bool.not_eq_true'] using h))

theorem Dev.launchArm_facts (d : Dev) {c : Nat} (hc : c < 2 ^ 64) :
    let bad := c < d.now + 100000 ∨ (d.anyConvoy = true ∧ d.is Reg.TIM_STATUS.LOCKED = false) ∨ d.startBarred = true
    (c = 2 ^ 64 - 1 → (d.launchArm c).is Reg.TIM_STATUS.LAUNCH_ARMED = false ∧ (d.launchArm c).get Reg.TIM_LAUNCH_AT.COUNT = 2 ^ 64 - 1) ∧
    (c ≠ 2 ^ 64 - 1 → bad → d.launchArm c = (d.put Reg.TIM_LAUNCH_AT.COUNT d.tim.armedAt).event Reg.TIM_EVENT.LAUNCH_REFUSED) ∧
    (c ≠ 2 ^ 64 - 1 → ¬ bad → (d.launchArm c).is Reg.TIM_STATUS.LAUNCH_ARMED = true ∧ (d.launchArm c).get Reg.TIM_LAUNCH_AT.COUNT = c ∧
      (d.launchArm c).tim.armedAt = c) := by
  intro bad
  refine ⟨fun h1 => ?_, fun hn hb => Dev.launchArm_refused hn hb, fun hn hb => ?_⟩
  · rw [show d.launchArm c = d.disarmLaunch from if_pos h1]
    exact d.disarmLaunch_facts
  · rw [Dev.launchArm_armed hn hb]
    have hreg : ∀ F, ({ (d.put Reg.TIM_LAUNCH_AT.COUNT c).put Reg.TIM_STATUS.LAUNCH_ARMED 1 with tim := { d.tim with armedAt := c } } : Dev).get F =
        ((d.put Reg.TIM_LAUNCH_AT.COUNT c).put Reg.TIM_STATUS.LAUNCH_ARMED 1).get F := fun F => rfl
    refine ⟨?_, (hreg _).trans ((Dev.get_put_ne _ _ (by decide)).trans ((Dev.get_put_self _ _ _).trans (Nat.mod_eq_of_lt hc))), rfl⟩
    have h1 := (hreg Reg.TIM_STATUS.LAUNCH_ARMED).trans (Dev.get_put_self _ _ _)
    exact decide_eq_true (p := _ ≠ 0) (fun h0 => absurd (h1.symm.trans h0) (by decide))

theorem Dev.get_launchAtPart_low (d : Dev) (v : Nat) : (d.launchAtPart .low v).get Reg.TIM_LAUNCH_AT.COUNT =
    d.get Reg.TIM_LAUNCH_AT.COUNT % 2 ^ 64 / 2 ^ 32 * 2 ^ 32 + v % 2 ^ 32 := by
  refine (Dev.get_put_self _ _ _).trans ?_
  show (d.get Reg.TIM_LAUNCH_AT.COUNT / 2 ^ 32 * 2 ^ 32 + v % 2 ^ 32) % 2 ^ 64 = _
  generalize d.get Reg.TIM_LAUNCH_AT.COUNT = g
  omega

/-- The two halves of a count arm as the whole does. -/
theorem Dev.launchAtPart_halves (d : Dev) (v : Nat) : (d.launchAtPart .low (v % 2 ^ 32)).launchAtPart .high (v / 2 ^ 32 % 2 ^ 32) =
    (d.launchAtPart .low (v % 2 ^ 32)).launchArm (v % 2 ^ 64) := by
  have hlow := d.get_launchAtPart_low (v % 2 ^ 32)
  generalize d.launchAtPart .low (v % 2 ^ 32) = e at hlow ⊢
  show e.launchArm (v / 2 ^ 32 % 2 ^ 32 % 2 ^ 32 * 2 ^ 32 + e.get Reg.TIM_LAUNCH_AT.COUNT % 2 ^ 32) = _
  rw [hlow]
  congr 1
  omega

@[simp] theorem Dev.launchAtPart_whole (d : Dev) (v : Nat) : d.launchAtPart .whole v = d.launchArm v := rfl

@[simp] theorem Dev.tim_launchAtPart_low (d : Dev) (v : Nat) : (d.launchAtPart .low v).tim = d.tim :=
  d.put_tim Reg.TIM_LAUNCH_AT.COUNT (d.get Reg.TIM_LAUNCH_AT.COUNT / 2 ^ 32 * 2 ^ 32 + v % 2 ^ 32)

/-- Settles O25: stream words by who may write them, TIM_LAUNCH_AT by its part, an arming by its count, LAUNCH by what stands in its way. -/
theorem launches : Obligations.Launches := by
  unfold Obligations.Launches
  refine ⟨fun b core h stride v s => ?stream, fun d c h v => d.get_rewriteEntry c h v, fun b part v s => ⟨fun h => ?nobody, fun u hu => ⟨?other, ?mine⟩⟩,
    fun d v => ⟨d.launchAtPart_whole v, d.launchAtPart_halves v, d.get_launchAtPart_low v, d.tim_launchAtPart_low v⟩, fun d c hc => ?arm, fun s => ?launch⟩
  case stream =>
    intro c w d
    have hl : Leaves (.streamEntryWrite b core h stride v) s (s.dev.streamWrite b.toNat c h.toNat stride v) := rfl
    refine ⟨fun hw => hl.noEffect (Dev.streamWrite_shut stride v hw), fun u hb hu ht => hl.noEffect (Dev.streamWrite_other stride v hb hu ht),
      fun u hb hu hw hs => ?_⟩
    have he := Dev.streamWrite_of_shown stride v hb hu hw hs
    exact ⟨fun hr => hl.congr (he.trans (if_pos hr)), fun hr => hl.congr (he.trans (if_neg (by rw [hr]; decide)))⟩
  case nobody =>
    refine Leaves.noEffect (d := s.dev.launchAtWrite b.toNat part v.toNat) rfl ?_
    simp only [Dev.launchAtWrite, h]
  case other =>
    intro h0 hr
    refine Leaves.noEffect (d := s.dev.launchAtWrite b.toNat part v.toNat) rfl ?_
    simp only [Dev.launchAtWrite, hu, h0, hr, or_self, if_false]
  case mine =>
    intro h
    refine Leaves.congr (d := s.dev.launchAtWrite b.toNat part v.toNat) rfl ?_
    simp only [Dev.launchAtWrite, hu, if_pos h]
  case arm => exact d.launchArm_facts hc
  case launch =>
    intro c d
    have hl : Leaves .launch s s.dev.launch := rfl
    refine ⟨fun h => hl.noEffect (if_pos (by simpa only [Bool.not_eq_true'] using h)), fun hr ha hc => ?_⟩
    have hgo : ¬ (s.dev.running = true ∨ (!s.dev.is Reg.TIM_STATUS.LAUNCH_ARMED) = true ∨ s.dev.now < c) := by
      simp only [hr, ha, Nat.not_lt.2 hc]
      decide
    have he := hl.congr (if_neg hgo)
    refine ⟨fun h => he.congr (if_pos (by rw [h]; rfl)), fun h hb => he.congr ((if_neg (by rw [h]; decide)).trans (if_pos hb)),
      fun h hb hp => he.congr ((if_neg (by rw [h]; decide)).trans ((if_neg (by rw [hb]; decide)).trans (if_pos hp))),
      fun h hb hp hw => he.congr ((if_neg (by rw [h]; decide)).trans ((if_neg (by rw [hb]; decide)).trans ((if_neg (Nat.not_lt.2 hp)).trans ?_)))⟩
    rw [Dev.applyRewrites_of_none (d := s.dev.disarmLaunch) hw]

end Sys2Proof.Machine
end

section
/-! PROOF. The mirror exchange: which frames of a peer are taken, what each does, how arming is settled, how an interval ends (R370 to R376,
R453 to R456, R462). -/

namespace Sys2Proof.Machine

theorem Dev.is_of_get_one {d : Dev} {F : Fld} (h : d.get F = 1) : d.is F = true := by
  simp [Dev.is, h]

theorem Dev.is_of_get_zero {d : Dev} {F : Fld} (h : d.get F = 0) : d.is F = false := by
  simp [Dev.is, h]

/-! ### Frames of the peer -/

theorem Dev.mirFrameIn_shut {f : Frame} {g : Dev → Dev} {d : Dev} (h : d.is Reg.WMK_CTL.WAYMARK_EN = false) : d.mirFrameIn f g = d :=
  if_pos (by rw [h]; decide)

theorem Dev.mirFrameIn_damaged {f : Frame} {g : Dev → Dev} {d : Dev} (h : d.is Reg.WMK_CTL.WAYMARK_EN = true) (hi : f.intact = false) :
    d.mirFrameIn f g = d.count (Reg.WMK_P_CRC_ERR.COUNT f.port.toNat) 1 := by
  refine (if_neg (by rw [h]; decide)).trans ((if_pos (by rw [hi]; decide)).trans ?_)
  simp [Dev.dropFrame, h]

/-- The device that has heard the peer and acknowledged its frame. -/
def Dev.mirHeard (f : Frame) (d : Dev) : Dev := ({ d with heard := kset 0 d.heard f.src.toNat d.now } : Dev).mirAckOut f.num.toNat

/-- The device that has taken a frame of the peer. -/
def Dev.mirTaken (f : Frame) (d : Dev) : Dev :=
  { d.mirHeard f with mir := { (d.mirHeard f).mir with got := (d.mirHeard f).mir.got ++ [f.num.toNat] } }

theorem Dev.mirFrameIn_again {f : Frame} {g : Dev → Dev} {d : Dev} (h : d.is Reg.WMK_CTL.WAYMARK_EN = true) (hi : f.intact = true)
    (hr : f.resend = true) (hn : f.num.toNat ∈ d.mir.got) : d.mirFrameIn f g = d.mirHeard f :=
  (if_neg (by rw [h]; decide)).trans ((if_neg (by rw [hi]; decide)).trans (if_pos ⟨hr, List.contains_iff_mem.2 hn⟩))

theorem Dev.mirFrameIn_taken {f : Frame} {g : Dev → Dev} {d : Dev} (h : d.is Reg.WMK_CTL.WAYMARK_EN = true) (hi : f.intact = true)
    (hn : f.resend = false ∨ f.num.toNat ∉ d.mir.got) : d.mirFrameIn f g = g (d.mirTaken f) := by
  refine (if_neg (by rw [h]; decide)).trans ((if_neg (by rw [hi]; decide)).trans (if_neg fun hc => ?_))
  rcases hn with hn | hn
  · exact absurd hc.1 (by rw [hn]; decide)
  · exact hn (List.contains_iff_mem.1 hc.2)

/-- Taking a frame writes no register, and neither the run nor what of the Mirror is not its list of frames. -/
theorem Dev.mirTaken_eq (f : Frame) (d : Dev) :
    ∃ k x o w, d.mirTaken f = { d with heard := k, fresh := x, out := o, said := w, mir := { d.mir with got := d.mir.got ++ [f.num.toNat] } } := by
  obtain ⟨x, o, w, h⟩ := Dev.sendOn_eq ({ d with heard := kset 0 d.heard f.src.toNat d.now } : Dev) d.mir.port 511 frameAck f.num.toNat 0 1 false
    false (leBytes 64 1)
  have hh : d.mirHeard f = { ({ d with heard := kset 0 d.heard f.src.toNat d.now } : Dev) with fresh := x, out := o, said := w } := h
  exact ⟨kset 0 d.heard f.src.toNat d.now, x, o, w, by rw [Dev.mirTaken, hh]⟩

theorem Dev.is_mirTaken (f : Frame) (d : Dev) (F : Fld) : (d.mirTaken f).is F = d.is F := by
  obtain ⟨k, x, o, w, h⟩ := d.mirTaken_eq f
  rw [h]; rfl

theorem Dev.run_mirTaken (f : Frame) (d : Dev) : (d.mirTaken f).run = d.run := by
  obtain ⟨k, x, o, w, h⟩ := d.mirTaken_eq f
  rw [h]

theorem Dev.mir_mirTaken (f : Frame) (d : Dev) : (d.mirTaken f).mir = { d.mir with got := d.mir.got ++ [f.num.toNat] } := by
  obtain ⟨k, x, o, w, h⟩ := d.mirTaken_eq f
  rw [h]

theorem Dev.running_mirTaken (f : Frame) (d : Dev) : (d.mirTaken f).running = d.running := by
  obtain ⟨k, x, o, w, h⟩ := d.mirTaken_eq f
  rw [h]; rfl

/-! ### What an active Mirror does with a frame -/

theorem Dev.peerDigest_active {d : Dev} (x : MirDigest) (h : d.is Reg.MIR_STATUS.ACTIVE = true) :
    d.peerDigest x = ({ d with mir := { d.mir with peer := d.mir.peer ++ [x] } } : Dev).mirCompare :=
  (if_pos h).trans (if_neg (by rw [h]; decide))

theorem Dev.peerDigest_idle {d : Dev} (x : MirDigest) (h : d.is Reg.MIR_STATUS.ACTIVE = false) : d.peerDigest x = d :=
  if_neg (by rw [h]; decide)

theorem Dev.mirrorVariance_idle {d : Dev} (t l : Nat) (b : List Byte) (h : d.is Reg.MIR_STATUS.ACTIVE = false) : d.mirrorVariance t l b = d :=
  if_neg (by rw [h, Bool.false_and]; decide)

theorem Dev.mirrorVariance_early {d : Dev} (t l : Nat) (b : List Byte) (h : d.is Reg.MIR_STATUS.ACTIVE = true) (hs : d.mir.secondary = true)
    (hx : d.run.xfers = []) : d.mirrorVariance t l b = { d with mir := { d.mir with variance := d.mir.variance ++ [(t, l, b)] } } := by
  refine (if_pos (by rw [h, hs]; decide)).trans ?_
  unfold Dev.takeVariance
  rw [hx]; rfl

theorem Dev.mirrorStop_idle {d : Dev} (h : d.is Reg.MIR_STATUS.ACTIVE = false) : d.mirrorStop = d := if_pos (by rw [h]; decide)

theorem Dev.mirrorStop_running {d : Dev} (h : d.is Reg.MIR_STATUS.ACTIVE = true) (hr : d.running = true) :
    d.mirrorStop = d.faultAt noOwner 0x020C d.faultTick := (if_neg (by rw [h]; decide)).trans (if_pos hr)

/-! ### Arming -/

theorem Dev.armFail_facts (d : Dev) {r : Nat} (hr : r < 16) : (d.armFail r).get Reg.MIR_STATUS.ARM_FAIL_WHY = r ∧
    (d.armFail r).is Reg.MIR_EVENT.ARM_FAIL = true ∧ (d.armFail r).mir.arming = none := by
  refine ⟨?why, Dev.is_event_self _ _ (by decide), ?settled⟩
  case why =>
    exact (Dev.get_event_ne _ (by decide)).trans ((Dev.get_put_self _ _ _).trans (Nat.mod_eq_of_lt hr))
  case settled =>
    obtain ⟨a, j, o, p, w, h⟩ := Dev.event_eq (({ d with mir := { d.mir with arming := none } } : Dev).put Reg.MIR_STATUS.ARM_FAIL_WHY r)
      Reg.MIR_EVENT.ARM_FAIL
    have hm := congrArg (fun x : Dev => x.mir.arming) h
    exact hm

theorem Dev.armSettle_fails {d : Dev} {a : ArmInfo} {r : Nat} (h : (d.put Reg.MIR_STATUS.PEER_UP 1).armReason a = some r) :
    d.armSettle a = (d.put Reg.MIR_STATUS.PEER_UP 1).armFail r := by simp only [Dev.armSettle, h]

/-- The device whose arming has succeeded. -/
def Dev.armed (d : Dev) : Dev :=
  ((({ d with seen := [], mir := { d.mir with arming := none, on := false, own := [], peer := [], variance := [], trace := [] } } : Dev).put
    Reg.MIR_STATUS.ARMED 1).put Reg.MIR_STATUS.ACTIVE 1)

theorem Dev.armSettle_arms {d : Dev} {a : ArmInfo} (h : (d.put Reg.MIR_STATUS.PEER_UP 1).armReason a = none) :
    d.armSettle a = (d.put Reg.MIR_STATUS.PEER_UP 1).armed := by simp only [Dev.armSettle, h]; rfl

theorem Dev.is_armed (d : Dev) : d.armed.is Reg.MIR_STATUS.ARMED = true ∧ d.armed.is Reg.MIR_STATUS.ACTIVE = true :=
  ⟨Dev.is_of_get_one ((Dev.get_put_ne _ _ (by decide)).trans (Dev.get_put_self _ _ _)), Dev.is_of_get_one (Dev.get_put_self _ _ _)⟩

/-- The device whose arming came too late. -/
theorem Dev.armTimeout_facts (d : Dev) : let e := (d.armFail 9).put Reg.MIR_STATUS.PEER_UP 0
    e.get Reg.MIR_STATUS.ARM_FAIL_WHY = 9 ∧ e.get Reg.MIR_STATUS.PEER_UP = 0 ∧ e.is Reg.MIR_EVENT.ARM_FAIL = true ∧ e.mir.arming = none := by
  obtain ⟨hw, he, ha⟩ := d.armFail_facts (r := 9) (by decide)
  exact ⟨(Dev.get_put_ne _ _ (by decide)).trans hw, Dev.get_put_self _ _ _, (Dev.is_put_ne _ _ (by decide)).trans he, ha⟩

/-! ### An interval ends -/

/-- `e` differs from `d` in the trace and in what an event writes. -/
def Dev.Traced (d e : Dev) : Prop :=
  ∃ r j o p w t, e = { d with regs := r, justSet := j, out := o, msixPend := p, linkWait := w, mir := { d.mir with trace := t } }

theorem Dev.Traced.refl (d : Dev) : d.Traced d := ⟨_, _, _, _, _, _, rfl⟩

theorem Dev.Traced.trans {d e f : Dev} (h : d.Traced e) (h' : e.Traced f) : d.Traced f := by
  obtain ⟨r, j, o, p, w, t, rfl⟩ := h
  obtain ⟨r', j', o', p', w', t', rfl⟩ := h'
  exact ⟨_, _, _, _, _, _, rfl⟩

theorem Dev.Traced.event (d : Dev) (F : Fld) : d.Traced (d.event F) := by
  obtain ⟨r, j, o, p, w, h⟩ := Dev.event_eq d F
  exact ⟨r, j, o, p, w, d.mir.trace, by rw [h]⟩

theorem Dev.Traced.ifEvent {d e : Dev} (h : d.Traced e) (b : Prop) [Decidable b] (F : Fld) : d.Traced (if b then e.event F else e) := by
  split
  · exact h.trans (.event e F)
  · exact h

theorem Dev.Traced.foldl {α : Type} {f : Dev → α → Dev} (hf : ∀ d a, Dev.Traced d (f d a)) (l : List α) (d : Dev) : d.Traced (l.foldl f d) := by
  induction l generalizing d with
  | nil => exact .refl d
  | cons a l ih => exact (hf d a).trans (ih _)

theorem Dev.traced_traceEvents (l : List Seen) (d : Dev) : d.Traced (d.traceEvents l) := by
  unfold Dev.traceEvents
  split
  · exact .refl d
  · dsimp only
    refine Dev.Traced.ifEvent (.foldl (fun d e => ?_) _ d) _ _
    split
    · exact .refl d
    · have hadd (t : List (BitVec 128)) : d.Traced ({ d with mir := { d.mir with trace := t } }) := ⟨_, _, _, _, _, t, rfl⟩
      exact (hadd _).ifEvent _ _

/-- With no interval of the peer held nothing is compared. -/
theorem Dev.mirCompare_of_nil {d : Dev} (h : d.mir.peer = []) : d.mirCompare = d := by
  unfold Dev.mirCompare
  generalize d.mir.own = l
  induction l with
  | nil => rfl
  | cons a l ih => simpa only [List.foldl_cons, h, List.find?_nil] using ih

theorem Dev.hold_facts (c : Nat) (w : HoldWhy) (d : Dev) : ∃ r, d.hold c w = { d with run := r } := by
  unfold Dev.hold
  dsimp only
  split <;> exact ⟨_, rfl⟩

/-- The events of the interval in progress. -/
def Dev.mirMine (d : Dev) (e : Seen) : Bool := d.intervalOf e.tick == d.mir.interval

/-- The interval in progress as the device holds it. -/
def Dev.ownInterval (d : Dev) : MirDigest :=
  { pass := d.mir.pass, interval := d.mir.interval,
    digest := mirDigest (mirFolds (d.seen.filter d.mirMine)) d.mir.pass d.mir.interval, folds := mirFolds (d.seen.filter d.mirMine) }

/-- The interval's end before its frame leaves. -/
def Dev.mirClosed (d : Dev) : Dev :=
  let d1 := { d with seen := d.seen.filter (fun e => !d.mirMine e) }.traceEvents (d.seen.filter d.mirMine)
  let d2 := if 64 ≤ d.mir.own.length then d1.hold 5 .mirror else d1
  { d2 with mir := { d2.mir with own := d2.mir.own ++ [d.ownInterval], interval := d.mir.interval + 1 } }.updUnmatched

theorem Dev.mirClosed_facts (d : Dev) : d.mirClosed.mir.own = d.mir.own ++ [d.ownInterval] ∧ d.mirClosed.mir.interval = d.mir.interval + 1 ∧
    d.mirClosed.mir.peer = d.mir.peer ∧ d.mirClosed.seen = d.seen.filter (fun e => !d.mirMine e) ∧
    d.mirClosed.get Reg.MIR_STATUS.UNMATCHED = min 64 (d.mir.own.length + 1) := by
  obtain ⟨r, j, o, p, w, t, h⟩ := Dev.traced_traceEvents (d.seen.filter d.mirMine) { d with seen := d.seen.filter (fun e => !d.mirMine e) }
  have h2 (b : Prop) [Decidable b] (e : Dev) : ∃ x, (if b then e.hold 5 .mirror else e) = { e with run := x } := by
    split
    · exact Dev.hold_facts 5 .mirror e
    · exact ⟨_, rfl⟩
  obtain ⟨x, hx⟩ := h2 (64 ≤ d.mir.own.length) ({ d with seen := d.seen.filter (fun e => !d.mirMine e) }.traceEvents (d.seen.filter d.mirMine))
  unfold Dev.mirClosed
  dsimp only
  rw [hx, h]
  refine ⟨rfl, rfl, rfl, rfl, ?_⟩
  refine (Dev.get_put_self _ _ _).trans ?_
  rw [List.length_append, List.length_singleton]
  exact Nat.mod_eq_of_lt (Nat.lt_of_le_of_lt (Nat.min_le_left _ _) (by decide))

/-- The frame of an interval changes nothing else, and nothing of the peer's waits to be compared. -/
theorem Dev.mirInterval_eq {d : Dev} (h : d.mir.peer = []) :
    ∃ f o s w u, d.mirInterval = { d.mirClosed with fresh := f, out := o, said := s, wmkIssued := w, mir := { d.mirClosed.mir with unacked := u } } := by
  obtain ⟨-, -, hp, -, -⟩ := d.mirClosed_facts
  have hsent (sub : Nat) (l : List Byte) : ∃ f o s w u, (d.mirClosed.mirFrame sub 0 l).mirCompare =
      { d.mirClosed with fresh := f, out := o, said := s, wmkIssued := w, mir := { d.mirClosed.mir with unacked := u } } := by
    obtain ⟨f, o, s, w, u, he⟩ := Dev.mirFrame_eq d.mirClosed sub 0 l
    refine ⟨f, o, s, w, u, (Dev.mirCompare_of_nil ?_).trans he⟩
    rw [he]
    exact hp.trans h
  have hi : d.mirInterval = Dev.mirCompare (if d.mirMode = 0 then
      d.mirClosed.mirFrame 1 0 (leBytes 8 d.mir.pass ++ leBytes 8 d.mir.interval ++ leBytes 48 d.ownInterval.digest.toNat)
    else d.mirClosed.mirFrame 2 0 (leBytes 8 d.mir.pass ++ leBytes 8 d.mir.interval ++
      (mirFolds (d.seen.filter d.mirMine)).flatMap fun f => leBytes 8 f.toNat)) := rfl
  rw [hi]
  split
  · exact hsent _ _
  · exact hsent _ _

/-- Settles O26: frames by what stands in their way, each frame by the Mirror's state, arming by its first reason, an interval by what it
leaves. -/
theorem mirrorExchange : Obligations.MirrorExchange := by
  unfold Obligations.MirrorExchange
  refine ⟨fun f pass interval digest folds tag lin bytes m dsig latid pl role cm s => ?frames, fun d a => ?settle,
    fun s => ⟨fun h => ?early, fun h => ?late⟩, fun s => ⟨fun h => ?going, fun h hp => ?ends⟩⟩
  case frames =>
    intro d n frames answered e a x joins
    have hframe : ∀ c ∈ frames, ∃ g, Leaves c s (s.dev.mirFrameIn f g) := by
      intro c hc
      simp only [frames, List.mem_cons, List.not_mem_nil, or_false] at hc
      rcases hc with rfl | rfl | rfl | rfl | rfl <;> exact ⟨_, rfl⟩
    refine ⟨fun h c hc => ?shut, fun h hi c hc => ?damaged, fun h hi hr hn c hc => ?again, fun h hi hn => ?taken⟩
    case shut =>
      obtain ⟨g, hg⟩ := hframe c hc
      exact hg.noEffect (Dev.mirFrameIn_shut h)
    case damaged =>
      obtain ⟨g, hg⟩ := hframe c hc
      exact hg.congr (Dev.mirFrameIn_damaged h hi)
    case again =>
      obtain ⟨g, hg⟩ := hframe c hc
      exact hg.congr (Dev.mirFrameIn_again h hi hr hn)
    case taken =>
      have hgo (g : Dev → Dev) : s.dev.mirFrameIn f g = g e := Dev.mirFrameIn_taken h hi hn
      have hact : e.is Reg.MIR_STATUS.ACTIVE = d.is Reg.MIR_STATUS.ACTIVE := Dev.is_mirTaken f d _
      have hrun : e.run = d.run := Dev.run_mirTaken f d
      have hmir : e.mir = { d.mir with got := d.mir.got ++ [f.num.toNat] } := Dev.mir_mirTaken f d
      refine ⟨fun ha => ?active, fun ha => ?idle, fun ha => ?kept, fun ha => ?settles⟩
      case active =>
        have ha' := hact.trans ha
        exact ⟨Leaves.congr (d := s.dev.mirFrameIn f _) rfl ((hgo _).trans (Dev.peerDigest_active _ ha')),
          Leaves.congr (d := s.dev.mirFrameIn f _) rfl ((hgo _).trans (Dev.peerDigest_active _ ha')),
          fun hs hx => Leaves.congr (d := s.dev.mirFrameIn f _) rfl
            ((hgo _).trans (Dev.mirrorVariance_early _ _ _ ha' (by rw [hmir]; exact hs) (by rw [hrun]; exact hx))),
          fun hr => Leaves.congr (d := s.dev.mirFrameIn f _) rfl
            ((hgo _).trans (Dev.mirrorStop_running ha' ((Dev.running_mirTaken f d).trans hr)))⟩
      case idle =>
        have ha' := hact.trans ha
        exact ⟨Leaves.congr (d := s.dev.mirFrameIn f _) rfl ((hgo _).trans (Dev.peerDigest_idle _ ha')),
          Leaves.congr (d := s.dev.mirFrameIn f _) rfl ((hgo _).trans (Dev.peerDigest_idle _ ha')),
          Leaves.congr (d := s.dev.mirFrameIn f _) rfl ((hgo _).trans (Dev.mirrorVariance_idle _ _ _ ha')),
          Leaves.congr (d := s.dev.mirFrameIn f _) rfl ((hgo _).trans (Dev.mirrorStop_idle ha'))⟩
      case kept =>
        refine Leaves.congr (d := s.dev.mirFrameIn f _) rfl ((hgo _).trans (if_neg ?_))
        rw [hmir, ha]
        decide
      case settles =>
        refine Leaves.congr (d := s.dev.mirFrameIn f _) rfl ((hgo _).trans ((if_pos ?_).trans ?_))
        · rw [hmir]
          exact ha
        · show (if e.run.startWait = true then _ else _) = _
          rw [hrun]
  case settle =>
    intro e
    refine ⟨fun r hr hlt => ?fails, fun hn => ?arms⟩
    case fails =>
      have he : e = _ := Dev.armSettle_fails hr
      rw [he]
      exact Dev.armFail_facts _ hlt
    case arms =>
      have he : e = _ := Dev.armSettle_arms hn
      rw [he]
      exact ⟨(Dev.is_armed _).1, (Dev.is_armed _).2, rfl, rfl, rfl⟩
  case early => exact Leaves.noEffect (d := s.dev.armTimeout) rfl (if_neg (by rw [h]; decide))
  case late =>
    obtain ⟨hw, hu, he, ha⟩ := s.dev.armTimeout_facts
    exact ⟨_, hw, hu, he, ha, Leaves.congr (d := s.dev.armTimeout) rfl (if_pos h)⟩
  case going => exact Leaves.noEffect (d := s.dev.mirrorIntervalEnd) rfl (if_neg (by rw [h]; decide))
  case ends =>
    obtain ⟨ho, hi, -, hs, hu⟩ := s.dev.mirClosed_facts
    obtain ⟨f, o, sd, w, u, he⟩ := Dev.mirInterval_eq hp
    refine ⟨s.dev.mirrorIntervalEnd, rfl, ?_⟩
    have hx : s.dev.mirrorIntervalEnd = _ := (if_pos h).trans he
    rw [hx]
    exact ⟨ho, hi, hs, hu⟩

end Sys2Proof.Machine
end

section
/-! PROOF. Cores that retire, are tested and return; the scratch test engine (R124 to R127, R239 to R244). -/

namespace Sys2Proof.Machine

/-! ### Core commands -/

theorem Dev.onCore_congr {c : Nat} {f g : CoreSt → CoreSt} {d : Dev} (h : f (d.core c) = g (d.core c)) : d.onCore c f = d.onCore c g := by
  unfold Dev.onCore
  rw [h]

theorem Dev.coreCmd_other {b c : Nat} {ok : Bool} {f : Dev → Dev} {d : Dev} (h : d.acting b ≠ some 0 ∨ b ≠ 0) : d.coreCmd b c ok f = d := if_pos h

theorem Dev.coreCmd_refused {b c : Nat} {ok : Bool} {f : Dev → Dev} {d : Dev} (ha : d.acting b = some 0) (hb : b = 0)
    (h : d.coreFused c = false ∨ ok = false) : d.coreCmd b c ok f = (d.put Reg.RTE_CORE_STAT.CORE c).setBit Reg.RTE_CORE_STAT.REFUSED := by
  refine (if_neg (fun hc => hc.elim (· ha) (· hb))).trans (if_neg ?_)
  rcases h with h | h <;> simp [h]

theorem Dev.coreCmd_runs {b c : Nat} {ok : Bool} {f : Dev → Dev} {d : Dev} (ha : d.acting b = some 0) (hb : b = 0) (hc : d.coreFused c = true)
    (hok : ok = true) : d.coreCmd b c ok f = f (d.put Reg.RTE_CORE_STAT.CORE c) :=
  (if_neg (fun h => h.elim (· ha) (· hb))).trans (if_pos (by rw [hc, hok]; rfl))

theorem Dev.get_setPresent_false (c : Nat) (d : Dev) : (d.setPresent c false).get (Reg.CORE_STATUS.PRESENT c) = 0 := Dev.get_put_self _ _ _

/-- A core that has been told to retire. -/
def CoreSt.retired (running : Bool) (k : CoreSt) : CoreSt := { k with life := if running then 1 else 2, returning := false }

/-- Retirement of a core in service: its life, its map bit, its line in the flash, and no other core. -/
theorem Dev.retireCore_facts {c : Nat} {d : Dev} (h : (d.core c).life = 0) : let e := d.retireCore c
    e.core c = (d.core c).retired d.running ∧ e.get (Reg.CORE_STATUS.PRESENT c) = 0 ∧ e.flashCores = d.flashCores ++ [c] ∧
      ∀ x, x ≠ c → e.core x = d.core x := by
  have he : d.retireCore c = _ := if_neg (not_not_intro h)
  have hcore (x : Nat) : (d.retireCore c).core x = ((d.setPresent c false).onCore c (CoreSt.retired d.running)).core x := by
    rw [he]
    rfl
  refine ⟨(hcore c).trans (Dev.core_onCore_self _ c _), ?_, ?_, fun x hx => (hcore x).trans (Dev.core_onCore_ne _ _ hx)⟩
  · rw [he]
    exact d.get_setPresent_false c
  · rw [he]
    rfl

/-! ### The return test -/

theorem Dev.core_testFailed_ne {c e : Nat} (key : Nat) (d : Dev) (h : e ≠ c) : (d.testFailed c key).2.core e = d.core e := by
  unfold Dev.testFailed
  dsimp only
  split
  · exact Dev.core_onCore_ne _ _ h
  · split
    · exact Dev.core_onCore_ne _ _ h
    · rfl

/-- The return test's walk over the rows and spares that failed. -/
def Dev.testWalk (c : Nat) (l : List Nat) (a : Bool × Dev) : Bool × Dev :=
  l.foldl (fun (a : Bool × Dev) k => let y := a.2.testFailed c k; (a.1 && y.1, y.2)) a

theorem Dev.core_testWalk_ne {c e : Nat} (h : e ≠ c) (l : List Nat) (a : Bool × Dev) : (Dev.testWalk c l a).2.core e = a.2.core e := by
  induction l generalizing a with
  | nil => rfl
  | cons k l ih => exact (ih _).trans (Dev.core_testFailed_ne k a.2 h)

theorem CoreSt.row_foldl_queueTest (l : KMap Bool) (k : CoreSt) (bank row : Nat) :
    (l.foldl (fun k e => k.queueTest e.1) k).row bank row = k.row bank row := by
  induction l generalizing k with
  | nil => rfl
  | cons e l ih => exact (ih _).trans (CoreSt.row_queueTest k e.1 bank row)

theorem CoreSt.row_of_no_test {k : CoreSt} (bank row : Nat) (h : k.test = none) :
    k.row bank row = if kget false k.emptyRow (rowKey bank row) then 0#4096 else kget 0#4096 k.scratch (k.cells bank row) := by
  simp [CoreSt.row, CoreSt.tested, h]

theorem CoreSt.zeroed_facts (k : CoreSt) : k.zeroed.scratch = [] ∧ k.zeroed.emptyRow = [] := by
  unfold CoreSt.zeroed
  dsimp only
  have hq (l : KMap Bool) (x : CoreSt) : ∃ q, l.foldl (fun k e => k.queueTest e.1) x = { x with testQueue := q } := by
    induction l generalizing x with
    | nil => exact ⟨_, rfl⟩
    | cons e l ih =>
      obtain ⟨q, h⟩ := ih (x.queueTest e.1)
      refine ⟨q, h.trans ?_⟩
      unfold CoreSt.queueTest
      split <;> rfl
  obtain ⟨q, h⟩ := hq k.bad { k with
    scratch := [], emptyRow := [], bad := [], weak := [], lastTag := [], saveReg := 0#4096,
    lane0 := { k.lane0 with vbuf := [], vbufTag := [], scale := latchReset, scaleSrc := .kept }
    lane1 := { k.lane1 with vbuf := [], vbufTag := [], scale := latchReset, scaleSrc := .kept } }
  rw [h]
  exact ⟨rfl, rfl⟩

theorem Dev.coreTestDone_none {l : List Nat} {e : Bool} {d : Dev} (h : (d.cores.find? fun x => x.2.life == 3) = none) : d.coreTestDone l e = d := by
  simp only [Dev.coreTestDone, h]

/-- The core as its return test leaves it. -/
def CoreSt.testEnded (passed : Bool) (k : CoreSt) : CoreSt := { k.zeroed with life := if passed then 4 else 5, test := none, testQueue := [] }

theorem CoreSt.row_testEnded (p : Bool) (k : CoreSt) (bank row : Nat) : (k.testEnded p).row bank row = 0#4096 := by
  obtain ⟨hs, he⟩ := k.zeroed_facts
  rw [CoreSt.row_of_no_test _ _ rfl]
  have hs' : (k.testEnded p).scratch = [] := hs
  have he' : (k.testEnded p).emptyRow = [] := he
  rw [hs', he']
  rfl

theorem Dev.coreTestDone_some {l : List Nat} {e : Bool} {d : Dev} {c : Nat} {k : CoreSt}
    (h : (d.cores.find? fun x => x.2.life == 3) = some (c, k)) :
    let r := Dev.testWalk c (l.filter (fun k => decide (576 ≤ k % 1024)) ++ l.filter (fun k => decide (k % 1024 < 576))) (true, d)
    d.coreTestDone l e = ((r.2.onCore c (CoreSt.testEnded (r.1 && e))).put Reg.RTE_CORE_STAT.BUSY 0).setBit Reg.RTE_CORE_STAT.DONE := by
  simp only [Dev.coreTestDone, h]
  rfl

@[simp] theorem Dev.core_setBit (F : Fld) (d : Dev) (c : Nat) : (d.setBit F).core c = d.core c := by
  obtain ⟨j, h⟩ := Dev.setBit_eq d F
  rw [h]; rfl

theorem Dev.get_setBit_self (d : Dev) (F : Fld) (h : 0 < F.width) : (d.setBit F).get F = 1 := by
  obtain ⟨j, hj⟩ := Dev.setBit_eq d F
  rw [hj]
  refine (Dev.get_put_self d F 1).trans (Nat.mod_eq_of_lt ?_)
  exact Nat.one_lt_two_pow (Nat.pos_iff_ne_zero.1 h)

theorem CoreSt.cells_remapTo (key x : Nat) (k : CoreSt) : (k.remapTo key x).cells (key / 1024) (key % 1024) = rowKey (key / 1024) (576 + x) := by
  have hk : rowKey (key / 1024) (key % 1024) = key := Nat.div_add_mod' key 1024
  unfold CoreSt.cells CoreSt.remapTo
  rw [hk]
  dsimp only
  rw [kget_kset_self]

theorem Dev.testFailed_full {c key : Nat} {d : Dev} (hk : key % 1024 < 576) (h : (d.core c).freeSpare (key / 1024) = none) :
    d.testFailed c key = (false, d) := by
  simp only [Dev.testFailed, if_neg (Nat.not_le.2 hk), h]

theorem Dev.testFailed_spare {c key x : Nat} {d : Dev} (hk : key % 1024 < 576) (h : (d.core c).freeSpare (key / 1024) = some x) :
    d.testFailed c key = (true, (d.onCore c (CoreSt.remapTo key x)).flashRemap c key x) := by
  simp only [Dev.testFailed, if_neg (Nat.not_le.2 hk), h]

/-- Settles O27: each command by who gives it and the core's life, the test's end by its walk. -/
theorem coreLife : Obligations.CoreLife := by
  unfold Obligations.CoreLife
  refine ⟨fun b core s => ?commands, fun failed equal s => ⟨fun h => ?untested, fun c k h => ?ended⟩, fun c key d hk => ⟨fun h => ?full, fun x h => ?spare⟩⟩
  case commands =>
    intro c named refused
    have hretire : Leaves (.coreRetire b core) s (s.dev.coreRetire b.toNat c) := rfl
    have htest : Leaves (.coreTest b core) s (s.dev.coreTest b.toNat c) := rfl
    have hreturn : Leaves (.coreReturn b core) s (s.dev.coreReturn b.toNat c) := rfl
    refine ⟨fun h => ?other, fun ha hb => ⟨fun hf => ?absent, fun hf => ⟨fun hl => ?kept, fun hl => ?retires, fun hl => ?untestable,
      fun hl hy hp => ?tests, fun hl => ?returns, fun hl => ?unpassed⟩⟩⟩
    case other =>
      have h' : s.dev.acting b.toNat ≠ some 0 ∨ b.toNat ≠ 0 := h.imp_right fun hb h0 => hb (BitVec.eq_of_toNat_eq h0)
      exact ⟨hretire.noEffect (Dev.coreCmd_other h'), htest.noEffect (Dev.coreCmd_other h'), hreturn.noEffect (Dev.coreCmd_other h')⟩
    all_goals have hb' : b.toNat = 0 := congrArg BitVec.toNat hb
    case absent =>
      exact ⟨hretire.congr (Dev.coreCmd_refused ha hb' (.inl hf)), htest.congr (Dev.coreCmd_refused ha hb' (.inl hf)),
        hreturn.congr (Dev.coreCmd_refused ha hb' (.inl hf))⟩
    case kept => exact hretire.congr (Dev.coreCmd_refused ha hb' (.inr (decide_eq_false hl)))
    case retires =>
      have he : s.dev.coreRetire b.toNat c = named.retireCore c := Dev.coreCmd_runs ha hb' hf (decide_eq_true hl)
      exact ⟨_, hretire.congr he, Dev.retireCore_facts (d := named) hl⟩
    case untestable =>
      refine htest.congr (Dev.coreCmd_refused ha hb' (.inr ?_))
      rcases hl with hl | hl | hl
      · simp [Nat.not_le.2 hl]
      · simp [hl]
      · simp [hl]
    case tests => exact htest.congr (Dev.coreCmd_runs ha hb' hf (by rw [hy, hp, decide_eq_true hl]; rfl))
    case returns => exact hreturn.congr (Dev.coreCmd_runs ha hb' hf (decide_eq_true hl))
    case unpassed => exact hreturn.congr (Dev.coreCmd_refused ha hb' (.inr (decide_eq_false hl)))
  case untested => exact Leaves.noEffect (d := s.dev.coreTestDone (failed.map BitVec.toNat) equal) rfl (Dev.coreTestDone_none h)
  case ended =>
    refine ⟨s.dev.coreTestDone (failed.map BitVec.toNat) equal, rfl, ?_⟩
    rw [Dev.coreTestDone_some h]
    have hw (e : Nat) (he : e ≠ c) := Dev.core_testWalk_ne he ((failed.map BitVec.toNat).filter (fun k => decide (576 ≤ k % 1024)) ++
      (failed.map BitVec.toNat).filter (fun k => decide (k % 1024 < 576))) (true, s.dev)
    have hnil : failed = [] → (Dev.testWalk c ((failed.map BitVec.toNat).filter (fun k => decide (576 ≤ k % 1024)) ++
      (failed.map BitVec.toNat).filter (fun k => decide (k % 1024 < 576))) (true, s.dev)).1 = true := by rintro rfl; rfl
    generalize Dev.testWalk c _ (true, s.dev) = r at hw hnil ⊢
    simp only [Dev.core_setBit, Dev.core_put, Dev.core_onCore_self]
    refine ⟨fun hn => ?_, fun he => ?_, fun bank row => CoreSt.row_testEnded _ _ bank row, rfl,
      (Dev.get_setBit_ne _ (by decide)).trans (Dev.get_put_self _ _ _), Dev.get_setBit_self _ _ (by decide),
      fun e he => (Dev.core_onCore_ne _ _ he).trans (hw e he)⟩
    · rw [hnil hn, Bool.true_and]; rfl
    · rw [he, Bool.and_false]; rfl
  case full => exact Dev.testFailed_full hk h
  case spare => exact ⟨Dev.testFailed_spare hk h, CoreSt.cells_remapTo key x _⟩

/-! ### The scratch test engine -/

theorem Dev.freePort_free {w : Bool} {c bank : Nat} {rank : List Nat} {d : Dev} (h : d.portFree c bank w rank = true) :
    d.freePort w c bank rank = (true, d.takePort c bank w) := if_pos h

theorem Dev.freePort_taken {w : Bool} {c bank : Nat} {rank : List Nat} {d : Dev} (h : d.portFree c bank w rank = false) :
    d.freePort w c bank rank = (false, d) := if_neg (by rw [h]; decide)

theorem Dev.scratchTestStart_due {c : Nat} {d : Dev} (h : d.testDue c = true) : d.scratchTestStart c = d.onCore c fun k =>
    match k.testQueue with
    | r :: rest => { k with testQueue := rest, test := some { bank := r / 1024, row := r % 1024, step := 1, ok := true, notBefore := 0 } }
    | [] =>
      let n := k.nextRow 4672 k.testNext
      { k with testNext := n.2, testDue := k.testDue + 16777216,
               test := some { bank := n.1 / 584, row := n.1 % 584, step := if n.1 % 584 < 576 then 1 else 2, ok := true, notBefore := 0 } } := by
  refine (if_neg (by rw [h]; decide)).trans (Dev.onCore_congr ?_)
  cases (d.core c).testQueue <;> rfl

/-- A row whose test has taken step 1 reads as the save register, an empty one as zero. -/
theorem CoreSt.row_of_tested {k : CoreSt} {bank row : Nat} (h : k.tested bank row = true) :
    k.row bank row = if kget false k.emptyRow (rowKey bank row) then 0#4096 else k.saveReg := by
  simp [CoreSt.row, h]

theorem CoreSt.row_of_untested {k : CoreSt} {bank row : Nat} (h : k.tested bank row = false) :
    k.row bank row = if kget false k.emptyRow (rowKey bank row) then 0#4096 else kget 0#4096 k.scratch (k.cells bank row) := by
  simp [CoreSt.row, h]

theorem CoreSt.tested_of_test {k : CoreSt} {t : RowTest} (h : k.test = some t) (hr : t.row < 576) : k.tested t.bank t.row = decide (2 ≤ t.step) := by
  simp [CoreSt.tested, h, hr]

theorem CoreSt.testStep_one_bad {t : RowTest} {err : CellErr} {same : Bool} {now : Nat} {k : CoreSt} (hs : t.step = 1)
    (h : k.testMeetsBad t err = true) : k.testStep t err same now = { k with test := none, bad := kset false k.bad (rowKey t.bank t.row) true } := by
  simp [CoreSt.testStep, hs, h]

theorem CoreSt.testStep_one_good {t : RowTest} {err : CellErr} {same : Bool} {now : Nat} {k : CoreSt} (hs : t.step = 1)
    (h : k.testMeetsBad t err = false) : k.testStep t err same now =
      { k with saveReg := kget 0#4096 k.scratch (k.testCells t), test := some { t with step := 2, ok := t.ok, notBefore := now + 4 } } := by
  simp [CoreSt.testStep, hs, h]

/-- A later step of a row's test touches neither the save register nor the empty mark, and the row stays under test. -/
theorem CoreSt.testStep_later (t : RowTest) (err : CellErr) (same : Bool) (now : Nat) (k : CoreSt) (hr : t.row < 576) (h2 : 2 ≤ t.step)
    (h6 : t.step ≤ 6) : (k.testStep t err same now).saveReg = k.saveReg ∧ (k.testStep t err same now).emptyRow = k.emptyRow ∧
      (k.testStep t err same now).tested t.bank t.row = true := by
  obtain ⟨bank, row, step, ok, nb⟩ := t
  have hlt : ¬ 576 ≤ row := Nat.not_le.2 hr
  obtain rfl | rfl | rfl | rfl | rfl : step = 2 ∨ step = 3 ∨ step = 4 ∨ step = 5 ∨ step = 6 := by
    dsimp only at h2 h6
    omega
  all_goals simp [CoreSt.testStep, CoreSt.tested, CoreSt.testWrite, hlt, hr]

/-- Through every step of its test a row reads as before. -/
theorem CoreSt.row_testStep {k : CoreSt} {t : RowTest} (err : CellErr) (same : Bool) (now : Nat) (h : k.test = some t) (hr : t.row < 576)
    (h1 : 1 ≤ t.step) (h6 : t.step ≤ 6) : (k.testStep t err same now).row t.bank t.row = k.row t.bank t.row := by
  have ht := CoreSt.tested_of_test h hr
  rcases Nat.eq_or_lt_of_le h1 with h1 | h2
  · have hu : k.tested t.bank t.row = false := ht.trans (decide_eq_false (by omega))
    rw [CoreSt.row_of_untested hu]
    cases hm : k.testMeetsBad t err
    · have hk := CoreSt.testStep_one_good (same := same) (now := now) h1.symm hm
      have hnew : (k.testStep t err same now).tested t.bank t.row = true := by
        rw [hk]
        exact CoreSt.tested_of_test (t := { t with step := 2, ok := t.ok, notBefore := now + 4 }) rfl hr
      rw [CoreSt.row_of_tested hnew, hk]
      dsimp only
      rw [CoreSt.testCells, if_neg (Nat.not_le.2 hr)]
    · rw [CoreSt.testStep_one_bad h1.symm hm, CoreSt.row_of_no_test _ _ rfl]
      rfl
  · obtain ⟨hs, he, hn⟩ := CoreSt.testStep_later t err same now k hr h2 h6
    rw [CoreSt.row_of_tested hn, CoreSt.row_of_tested (ht.trans (decide_eq_true h2)), hs, he]

/-- Settles O28: a test begins at the row that waits or at the next of the walk, a step needs its port, and the row reads as before. -/
theorem scratchTests : Obligations.ScratchTests := by
  unfold Obligations.ScratchTests
  refine ⟨fun core s => ?start, fun core err same s => ?step, fun k t err same now h hr h1 h6 => CoreSt.row_testStep err same now h hr h1 h6,
    fun k t same now h1 => ⟨fun he => ?bad, fun hb => ?good⟩⟩
  case start =>
    intro c
    have hl : Leaves (.scratchTestStart core) s (s.dev.scratchTestStart c) := rfl
    refine ⟨fun h => hl.noEffect (if_pos (by rw [h]; rfl)), fun h => ⟨fun r rest hq => ?queued, fun hq => ?walk⟩⟩
    case queued =>
      refine (hl.congr (Dev.scratchTestStart_due h)).congr (Dev.onCore_congr ?_)
      rw [hq]
    case walk =>
      intro n
      refine (hl.congr (Dev.scratchTestStart_due h)).congr (Dev.onCore_congr ?_)
      rw [hq]
  case step =>
    intro c
    have hl : Leaves (.scratchTestStep core err same) s (s.dev.scratchTestStep c err same) := rfl
    refine ⟨fun h => hl.noEffect (by simp only [Dev.scratchTestStep, h]), fun t h => ?some⟩
    have he : s.dev.scratchTestStep c err same =
        if 7 ≤ t.step ∨ s.dev.run.cont < t.notBefore ∨ 1 < s.dev.get Reg.PWR_STATE.STATE then s.dev
        else if (s.dev.core c).outOfSpares then s.dev.retireCore c
        else if s.dev.portFree c t.bank (decide (t.step % 2 = 0)) [4, 0] then
          (s.dev.takePort c t.bank (decide (t.step % 2 = 0))).onCore c (CoreSt.testStep t err same s.dev.run.cont)
        else s.dev := by
      cases hf : s.dev.portFree c t.bank (decide (t.step % 2 = 0)) [4, 0]
      · simp only [Dev.scratchTestStep, h, Dev.freePort_taken hf, Bool.false_eq_true, if_false]
      · simp only [Dev.scratchTestStep, h, Dev.freePort_free hf, if_true]
    refine ⟨fun hw => hl.noEffect (he.trans (if_pos hw)), fun h7 hn hp => ?due⟩
    have hgo : ¬ (7 ≤ t.step ∨ s.dev.run.cont < t.notBefore ∨ 1 < s.dev.get Reg.PWR_STATE.STATE) := by omega
    have he' := he.trans (if_neg hgo)
    refine ⟨fun ho => hl.congr (he'.trans (if_pos ho)), fun ho => ?tested⟩
    have he'' := he'.trans (if_neg (by rw [ho]; decide))
    exact ⟨fun hf => hl.noEffect (he''.trans (if_neg (by rw [hf]; decide))), fun hf => hl.congr (he''.trans (if_pos hf))⟩
  case bad =>
    have hm : k.testMeetsBad t .uncorrectable = true := by
      unfold CoreSt.testMeetsBad
      rw [he]
      rfl
    rw [CoreSt.testStep_one_bad h1 hm]
    exact ⟨rfl, kget_kset_self false k.bad (rowKey t.bank t.row) true⟩
  case good =>
    have hm : k.testMeetsBad t .none = false := by
      unfold CoreSt.testMeetsBad
      rw [hb]
      exact Bool.and_false _
    rw [CoreSt.testStep_one_good h1 hm]

end Sys2Proof.Machine
end

section
/-! PROOF. The interleave map and the channels: IMAP_APPLY, retirement, test, return and loss (R282, R285, R313 to R316). -/

namespace Sys2Proof.Machine

/-! ### IMAP_APPLY -/

theorem Imap.ok_iff (e : Imap) : e.ok = true ↔ e.first % e.count = 0 ∧ e.first + e.count ≤ 96 ∧ e.size % (16 * e.count) = 0 ∧
    e.chOff + e.size / (16 * e.count) ≤ 189 := by
  simp only [Imap.ok, Bool.and_eq_true, beq_iff_eq, decide_eq_true_eq, and_assoc]

theorem Dev.imapApply_refused {b : Nat} {d : Dev} (ha : d.acting b = some 0)
    (h : d.running = true ∨ d.load.isSome = true ∨ d.crn.step.isSome = true ∨ d.digestJob.isSome = true ∨
      ((List.range 32).filterMap d.imapWritten).all Imap.ok = false ∨ imapsApart ((List.range 32).filterMap d.imapWritten) = false) :
    d.imapApply b = d.event Reg.MEM_EVENT.CMD_REFUSED := by
  refine (if_neg (not_not_intro ha)).trans (if_pos ?_)
  simpa only [Bool.not_eq_true', Bool.and_eq_false_iff] using h

theorem Dev.imapApply_applied {b : Nat} {d : Dev} (ha : d.acting b = some 0) (hr : d.running = false) (hl : d.load = none)
    (hs : d.crn.step = none) (hj : d.digestJob = none) (ho : ((List.range 32).filterMap d.imapWritten).all Imap.ok = true)
    (hp : imapsApart ((List.range 32).filterMap d.imapWritten) = true) : d.imapApply b =
      ({ d with imap := (List.range 32).filterMap d.imapWritten, rt := {}, credits := [], run := { d.run with resume := .none } } : Dev).showRoute := by
  refine (if_neg (not_not_intro ha)).trans (if_neg ?_)
  rw [hr, hl, hs, hj, ho, hp]
  decide

/-! ### A digest job that fails -/

theorem Dev.digestFail_facts {d : Dev} (h : d.digestJob.isSome = true) : d.digestFail.digestJob = none ∧
    d.digestFail.get Reg.MEM_STATUS.DIGEST_BUSY = 0 ∧ d.digestFail.get Reg.MEM_DIGEST_STAT.ERROR = 1 ∧
    d.digestFail.get Reg.MEM_DIGEST_STAT.VALID = 0 ∧ d.digestFail.is Reg.MEM_EVENT.DIGEST_FAIL = true := by
  obtain ⟨j, hj⟩ := Option.isSome_iff_exists.1 h
  have he : d.digestFail = (((({ d with digestJob := none } : Dev).put Reg.MEM_STATUS.DIGEST_BUSY 0).put Reg.MEM_DIGEST_STAT.ERROR 1).put
      Reg.MEM_DIGEST_STAT.VALID 0).event Reg.MEM_EVENT.DIGEST_FAIL := by simp only [Dev.digestFail, hj]
  rw [he]
  refine ⟨?_, ?_, ?_, ?_, Dev.is_event_self _ _ (by decide)⟩
  · obtain ⟨r, j', o, p, w, hv⟩ := Dev.event_eq (((({ d with digestJob := none } : Dev).put Reg.MEM_STATUS.DIGEST_BUSY 0).put
      Reg.MEM_DIGEST_STAT.ERROR 1).put Reg.MEM_DIGEST_STAT.VALID 0) Reg.MEM_EVENT.DIGEST_FAIL
    rw [hv]
    rfl
  all_goals simp (disch := decide) only [Dev.get_event_ne, Dev.get_put_ne, Dev.get_put_self]
  all_goals decide

/-- A digest job's failure is told in MEM_STATUS, MEM_DIGEST_STAT and its event alone. -/
theorem Dev.get_digestFail_ne (d : Dev) {F : Fld} (h1 : F.key ≠ Reg.MEM_STATUS.DIGEST_BUSY.key) (h2 : F.key ≠ Reg.MEM_DIGEST_STAT.ERROR.key)
    (h3 : F.key ≠ Reg.MEM_DIGEST_STAT.VALID.key) (h4 : F.key ≠ Reg.MEM_EVENT.DIGEST_FAIL.key) : d.digestFail.get F = d.get F := by
  unfold Dev.digestFail
  split
  · rfl
  · exact (Dev.get_event_ne _ h4).trans ((Dev.get_put_ne _ _ h3).trans ((Dev.get_put_ne _ _ h2).trans (Dev.get_put_ne _ _ h1)))

theorem Dev.digestFail_eq (d : Dev) :
    ∃ r j o p w g, d.digestFail = { d with regs := r, justSet := j, out := o, msixPend := p, linkWait := w, digestJob := g } := by
  unfold Dev.digestFail
  split
  · exact ⟨_, _, _, _, _, _, rfl⟩
  · obtain ⟨r, j, o, p, w, h⟩ := Dev.event_eq ((({ d with digestJob := none } : Dev).put Reg.MEM_STATUS.DIGEST_BUSY 0 |>.put
      Reg.MEM_DIGEST_STAT.ERROR 1).put Reg.MEM_DIGEST_STAT.VALID 0) Reg.MEM_EVENT.DIGEST_FAIL
    exact ⟨r, j, o, p, w, none, h⟩

/-! ### Retirement -/

/-- The device with a channel's map bit cleared. -/
def Dev.chUnmapped (ch : Nat) (d : Dev) : Dev :=
  if ch < 64 then d.put Reg.MEM_CH_MAP_LO.IN_SERVICE (d.get Reg.MEM_CH_MAP_LO.IN_SERVICE - 2 ^ ch)
  else d.put Reg.MEM_CH_MAP_HI.IN_SERVICE (d.get Reg.MEM_CH_MAP_HI.IN_SERVICE - 2 ^ (ch - 64))

theorem Dev.chUnmapped_eq (ch : Nat) (d : Dev) : ∃ r, d.chUnmapped ch = { d with regs := r } := by
  unfold Dev.chUnmapped
  split <;> exact ⟨_, rfl⟩

/-- A channel's retirement as the flash records it, before a digest job fails with it. -/
def Dev.chRetired (ch : Nat) (d : Dev) : Dev :=
  let e := ((d.chUnmapped ch).put (Reg.MEM_CH_STAT.STATE ch) 1).event Reg.MEM_EVENT.RETIRED
  { e with flashChans := e.flashChans ++ [ch] }

theorem Dev.chRetired_eq (ch : Nat) (d : Dev) : ∃ r j o p w, d.chRetired ch =
    { d with regs := r, justSet := j, out := o, msixPend := p, linkWait := w, flashChans := d.flashChans ++ [ch] } := by
  obtain ⟨g, hg⟩ := d.chUnmapped_eq ch
  obtain ⟨r, j, o, p, w, h⟩ := Dev.event_eq ((d.chUnmapped ch).put (Reg.MEM_CH_STAT.STATE ch) 1) Reg.MEM_EVENT.RETIRED
  refine ⟨r, j, o, p, w, ?_⟩
  unfold Dev.chRetired
  rw [h, hg]
  rfl

theorem Dev.retireChannel_mapped {ch : Nat} {d : Dev} (h : d.chMapped ch = true) : d.retireChannel ch =
    let e := (d.chRetired ch).digestFail
    if d.running then { e with chRetire := e.chRetire ++ [ch] } else e := by
  have hm (e : Dev) : e.digestFail = match e.digestJob with
      | some _ => (({ e with digestJob := none } : Dev).put Reg.MEM_STATUS.DIGEST_BUSY 0 |>.put Reg.MEM_DIGEST_STAT.ERROR 1
          |>.put Reg.MEM_DIGEST_STAT.VALID 0).event Reg.MEM_EVENT.DIGEST_FAIL
      | none => e := by
    unfold Dev.digestFail
    cases e.digestJob <;> rfl
  refine (if_neg (by rw [h]; decide)).trans ?_
  rw [hm (d.chRetired ch)]
  rfl

theorem chState_key_ne (ch : Nat) {F : Fld} (h : F.key % 64 ≠ 24) : (Reg.MEM_CH_STAT.STATE ch).key ≠ F.key := by
  simp only [Fld.key, Reg.MEM_CH_STAT.STATE] at h ⊢
  omega

theorem Dev.retireChannel_facts {ch : Nat} {d : Dev} (h : d.chMapped ch = true) : let e := d.retireChannel ch
    e.get (Reg.MEM_CH_STAT.STATE ch) = 1 ∧ e.is Reg.MEM_EVENT.RETIRED = true ∧ e.flashChans = d.flashChans ++ [ch] ∧
      e.chRetire = (if d.running then d.chRetire ++ [ch] else d.chRetire) := by
  have hget (F : Fld) : (d.retireChannel ch).get F = (d.chRetired ch).digestFail.get F := by
    rw [Dev.retireChannel_mapped h]
    dsimp only
    split <;> rfl
  obtain ⟨r, j, o, p, w, hr⟩ := d.chRetired_eq ch
  obtain ⟨r', j', o', p', w', g, hf⟩ := (d.chRetired ch).digestFail_eq
  refine ⟨?state, ?event, ?flash, ?pending⟩
  case state =>
    rw [hget, Dev.get_digestFail_ne _ (chState_key_ne ch (by decide)) (chState_key_ne ch (by decide)) (chState_key_ne ch (by decide))
      (chState_key_ne ch (by decide))]
    exact (Dev.get_event_ne _ (chState_key_ne ch (by decide))).trans (Dev.get_put_self _ _ _)
  case event =>
    have hi : (d.retireChannel ch).is Reg.MEM_EVENT.RETIRED = (d.chRetired ch).is Reg.MEM_EVENT.RETIRED :=
      Dev.is_of_get ((hget _).trans (Dev.get_digestFail_ne _ (by decide) (by decide) (by decide) (by decide)))
    exact hi.trans (Dev.is_event_self _ _ (by decide))
  case flash =>
    rw [Dev.retireChannel_mapped h, hf, hr]
    dsimp only
    split <;> rfl
  case pending =>
    rw [Dev.retireChannel_mapped h, hf, hr]
    dsimp only
    split <;> rfl

/-! ### A channel's test -/

theorem read_testedMem_self {d : Dev} {c : Nat} (m : Memory) {o : Nat} (h : d.get (Reg.MEM_CH_STAT.STATE c) = 2) (ho : physAddr o < 2 ^ 33) :
    Memory.read (d.testedMem c m) (dramKey c o) = 0#8 := by
  have hk : dramKey c o / 2 ^ 33 = c := by
    unfold dramKey
    omega
  unfold Dev.testedMem Memory.read
  rw [if_pos h, kget_kfilter, hk, bne_self_eq_false]
  rfl

theorem read_testedMem_ne (d : Dev) {c k : Nat} (m : Memory) (hk : k / 2 ^ 33 ≠ c) : Memory.read (d.testedMem c m) k = Memory.read m k := by
  unfold Dev.testedMem Memory.read
  split
  · rw [kget_kfilter, if_pos (by simpa using hk)]
  · rfl

/-- The device whose channel has been tested, before MEM_STATUS and the event tell it. -/
def Dev.chTested (ch : Nat) (pass : Bool) (d : Dev) : Dev :=
  (({ d with badBlk := kfilter (fun x => x * 256 / 2 ^ 33 != ch) d.badBlk, ckBuf := kfilter (· != ch) d.ckBuf,
             checks := kfilter (fun x => x * 4 / 2 ^ 33 != ch) d.checks } : Dev).snoopOut fun l => d.channelOf l == some ch).put
    (Reg.MEM_CH_STAT.STATE ch) (if pass then 3 else 4)

theorem Dev.channelTestDone_facts {ch : Nat} {pass : Bool} {d : Dev} (h : d.get (Reg.MEM_CH_STAT.STATE ch) = 2) : let e := d.channelTestDone ch pass
    (∀ k, k * 256 / 2 ^ 33 = ch → kget false e.badBlk k = false) ∧ e.get (Reg.MEM_CH_STAT.STATE ch) = (if pass then 3 else 4) ∧
      e.is (if pass then Reg.MEM_EVENT.TEST_DONE else Reg.MEM_EVENT.TEST_FAIL) = true := by
  have he : d.channelTestDone ch pass = (d.chTested ch pass).updTestBusy.event (if pass then Reg.MEM_EVENT.TEST_DONE else Reg.MEM_EVENT.TEST_FAIL) :=
    if_neg (not_not_intro h)
  rw [he]
  refine ⟨fun k hk => ?blocks, ?state, ?event⟩
  case blocks =>
    obtain ⟨r, j, o, p, w, hv⟩ := Dev.event_eq (d.chTested ch pass).updTestBusy (if pass then Reg.MEM_EVENT.TEST_DONE else Reg.MEM_EVENT.TEST_FAIL)
    rw [hv]
    have hb : (d.chTested ch pass).updTestBusy.badBlk = kfilter (fun x => x * 256 / 2 ^ 33 != ch) d.badBlk := by
      unfold Dev.updTestBusy Dev.chTested
      rw [Dev.snoopOut_eq]
      rfl
    dsimp only
    rw [hb, kget_kfilter, hk, bne_self_eq_false]
    rfl
  case state =>
    have hput : (d.chTested ch pass).get (Reg.MEM_CH_STAT.STATE ch) = if pass then 3 else 4 := by
      refine (Dev.get_put_self _ _ _).trans ?_
      cases pass <;> rfl
    have hev : (if pass then Reg.MEM_EVENT.TEST_DONE else Reg.MEM_EVENT.TEST_FAIL).key % 64 ≠ 24 := by cases pass <;> decide
    exact (Dev.get_event_ne _ (chState_key_ne ch hev)).trans ((Dev.get_put_ne _ _ (chState_key_ne ch (by decide))).trans hput)
  case event => exact Dev.is_event_self _ _ (by cases pass <;> decide)

/-! ### The commands -/

theorem Dev.channelRetire_fused {b c : Nat} {d : Dev} (ha : d.acting b = some 0) (hf : d.chFused c = true) :
    d.channelRetire b c = d.retireChannel c := (if_neg (not_not_intro ha)).trans (if_neg (by rw [hf]; decide))

theorem Dev.channelTest_refused {b c : Nat} {d : Dev} (ha : d.acting b = some 0)
    (h : d.chFused c = false ∨ d.get (Reg.MEM_CH_STAT.STATE c) = 0 ∨ d.chRetire.contains c = true) : d.channelTest b c = d.memRefuse :=
  (if_neg (not_not_intro ha)).trans (if_pos (by simpa only [Bool.not_eq_true'] using h))

theorem Dev.channelTest_begins {b c : Nat} {d : Dev} (ha : d.acting b = some 0) (hf : d.chFused c = true)
    (hs : d.get (Reg.MEM_CH_STAT.STATE c) ≠ 0) (hr : d.chRetire.contains c = false) : d.channelTest b c =
      (({ d with chRejoin := d.chRejoin.filter (· ≠ c) } : Dev).put (Reg.MEM_CH_STAT.STATE c) 2).updTestBusy := by
  refine (if_neg (not_not_intro ha)).trans (if_neg fun h => ?_)
  rcases h with h | h | h
  · exact absurd h (by rw [hf]; decide)
  · exact hs h
  · exact absurd h (by rw [hr]; decide)

theorem Dev.rejoin_refused {b c : Nat} {d : Dev} (ha : d.acting b = some 0) (h : d.chFused c = false ∨ d.get (Reg.MEM_CH_STAT.STATE c) ≠ 3) :
    d.rejoin b c = d.memRefuse := (if_neg (not_not_intro ha)).trans (if_pos (by simpa only [Bool.not_eq_true'] using h))

theorem Dev.rejoin_passed {b c : Nat} {d : Dev} (ha : d.acting b = some 0) (hf : d.chFused c = true) (hs : d.get (Reg.MEM_CH_STAT.STATE c) = 3) :
    d.rejoin b c = if d.running then ({ d with chRejoin := d.chRejoin.filter (· ≠ c) ++ [c] } : Dev).put Reg.MEM_STATUS.REJOIN_PENDING 1
      else ({ d with chRejoin := d.chRejoin.filter (· ≠ c) ++ [c] } : Dev).applyUnits := by
  refine (if_neg (not_not_intro ha)).trans (if_neg fun h => ?_)
  rcases h with h | h
  · exact absurd h (by rw [hf]; decide)
  · exact h hs

/-- Settles O30: each command by who gives it and the channel's state, retirement by what it writes, the test's end by the bytes it zeroes. -/
theorem memoryChannels : Obligations.MemoryChannels := by
  unfold Obligations.MemoryChannels
  refine ⟨fun b s => ?imap, Imap.ok_iff, fun b ch s => ?commands, fun ch d h => Dev.retireChannel_facts h, fun ch pass s => ?tested, fun ch s => ?lost⟩
  case imap =>
    intro es
    have hl : Leaves (.imapApply b) s (s.dev.imapApply b.toNat) := rfl
    exact ⟨fun ha => hl.noEffect (if_pos ha), fun ha => ⟨fun h => hl.congr (Dev.imapApply_refused ha h),
      fun hr hld hs hj ho hp => hl.congr (Dev.imapApply_applied ha hr hld hs hj ho hp)⟩⟩
  case commands =>
    intro c refuses
    have hretire : Leaves (.channelRetire b ch) s (s.dev.channelRetire b.toNat c) := rfl
    have htest : Leaves (.channelTest b ch) s (s.dev.channelTest b.toNat c) := rfl
    have hrejoin : Leaves (.rejoin b ch) s (s.dev.rejoin b.toNat c) := rfl
    refine ⟨fun ha => ⟨hretire.noEffect (if_pos ha), htest.noEffect (if_pos ha), hrejoin.noEffect (if_pos ha)⟩,
      fun ha => ⟨fun hf => ⟨?_, htest.congr (Dev.channelTest_refused ha (.inl hf)), hrejoin.congr (Dev.rejoin_refused ha (.inl hf))⟩,
      fun hf => ⟨hretire.congr (Dev.channelRetire_fused ha hf), fun h => htest.congr (Dev.channelTest_refused ha (.inr h)),
        fun hs hr => htest.congr (Dev.channelTest_begins ha hf hs hr), fun hs => hrejoin.congr (Dev.rejoin_refused ha (.inr hs)),
        fun hs hr => hrejoin.congr ((Dev.rejoin_passed ha hf hs).trans (if_pos hr)),
        fun hs hr => hrejoin.congr ((Dev.rejoin_passed ha hf hs).trans (if_neg (by rw [hr]; decide)))⟩⟩⟩
    exact hretire.congr ((if_neg (not_not_intro ha)).trans (if_pos (by rw [hf]; rfl)))
  case tested =>
    intro c
    have hst := stores_channelTestDone ch pass s
    refine ⟨fun h => ?untested, fun h => ?zeroed⟩
    case untested =>
      have hm : s.dev.testedMem c s.dram = s.dram := if_neg h
      have hd : s.dev.channelTestDone c pass = s.dev := if_pos h
      unfold Stores at hst
      rw [hm, hd, Dev.striped_self] at hst
      exact hst
    case zeroed =>
      exact ⟨_, _, hst, fun o _ ho => read_testedMem_self s.dram h ho, fun k hk => read_testedMem_ne s.dev s.dram hk,
        Dev.channelTestDone_facts h⟩
  case lost =>
    intro c
    have hl : Leaves (.channelLost ch) s (s.dev.channelLost c) := rfl
    exact ⟨fun h => hl.noEffect (if_pos (by rw [h]; rfl)), fun h => hl.congr (if_neg (by rw [h]; decide))⟩

end Sys2Proof.Machine
end

section
/-! PROOF. The host debug window and the non-scheduled accesses (R225 to R229). -/

namespace Sys2Proof.Machine

/-! ### The staging buffer -/

/-- Of registers written one after another, each holds what was written to it. -/
theorem Dev.get_foldl_put (f : Nat → Fld) (v : Nat → Nat) (d : Dev) {n k : Nat} (h : k < n) (hf : ∀ i, i < n → k ≠ i → (f k).key ≠ (f i).key) :
    ((List.range n).foldl (fun (d : Dev) k => d.put (f k) (v k)) d).get (f k) = v k % 2 ^ (f k).width := by
  induction n with
  | zero => omega
  | succ n ih =>
    rw [List.range_succ, List.foldl_append, List.foldl_cons, List.foldl_nil]
    by_cases hk : k = n
    · subst hk
      exact Dev.get_put_self _ _ _
    · exact (Dev.get_put_ne _ _ (hf n (by omega) hk)).trans (ih (by omega) fun i hi => hf i (by omega))

/-- The registers that are not written stay. -/
theorem Dev.get_foldl_put_ne (f : Nat → Fld) (v : Nat → Nat) (d : Dev) (n : Nat) {F : Fld} (hf : ∀ i, i < n → F.key ≠ (f i).key) :
    ((List.range n).foldl (fun (d : Dev) k => d.put (f k) (v k)) d).get F = d.get F := by
  induction n with
  | zero => rfl
  | succ n ih =>
    rw [List.range_succ, List.foldl_append, List.foldl_cons, List.foldl_nil]
    exact (Dev.get_put_ne _ _ (hf n (by omega))).trans (ih fun i hi => hf i (by omega))

theorem Dev.foldl_put_eq (f : Nat → Fld) (v : Nat → Nat) (l : List Nat) (d : Dev) :
    ∃ r, l.foldl (fun (d : Dev) k => d.put (f k) (v k)) d = { d with regs := r } := by
  induction l generalizing d with
  | nil => exact ⟨_, rfl⟩
  | cons k l ih =>
    obtain ⟨r, h⟩ := ih (d.put (f k) (v k))
    exact ⟨r, h⟩

theorem Dev.get_hdwData_putStaging (r : Row) (d : Dev) {k : Nat} (h : k < 64) :
    (d.putStaging r).get (Reg.DBG_HDW_DATA.BYTES k) = rowBits r (64 * k) 64 := by
  refine (Dev.get_foldl_put Reg.DBG_HDW_DATA.BYTES (fun k => rowBits r (64 * k) 64) d h fun i _ hk => ?_).trans
    (Nat.mod_eq_of_lt (Nat.mod_lt _ (by decide)))
  simp only [Fld.key, Reg.DBG_HDW_DATA.BYTES]
  omega

/-- The words of a number make it up again. -/
theorem foldr_words (x n : Nat) {w : Nat} (hw : 64 * n = w) :
    (List.range n).foldr (fun k a => x / 2 ^ (64 * k) % 2 ^ 64 + 2 ^ 64 * a) 0 = x % 2 ^ w := by
  subst hw
  induction n generalizing x with
  | zero => exact (Nat.mod_one x).symm
  | succ n ih =>
    have hs (k : Nat) : x / 2 ^ (64 * (k + 1)) = x / 2 ^ 64 / 2 ^ (64 * k) := by
      rw [Nat.div_div_eq_div_mul, ← Nat.pow_add]
      congr 2
      omega
    rw [List.range_succ_eq_map, List.foldr_cons, List.foldr_map]
    simp only [Nat.succ_eq_add_one, hs]
    rw [ih, Nat.mul_succ, Nat.add_comm (64 * n), Nat.pow_add, Nat.mod_mul, Nat.mul_zero, Nat.pow_zero, Nat.div_one]

theorem ofNat_toNat_mod {w : Nat} (x : BitVec w) : BitVec.ofNat w (x.toNat % 2 ^ w) = x :=
  BitVec.eq_of_toNat_eq ((BitVec.toNat_ofNat _ _).trans ((Nat.mod_mod _ _).trans (Nat.mod_eq_of_lt x.isLt)))

/-- A fold whose steps agree on the list's members. -/
theorem foldr_eq_of_mem {α β : Type} {f g : α → β → β} (b : β) {l : List α} (h : ∀ a ∈ l, ∀ x, f a x = g a x) : l.foldr f b = l.foldr g b := by
  induction l with
  | nil => rfl
  | cons a l ih => rw [List.foldr_cons, List.foldr_cons, ih fun c hc => h c (.tail _ hc), h a (.head _)]

theorem Dev.staging_of_get {d : Dev} {r : Row} (h : ∀ k, k < 64 → d.get (Reg.DBG_HDW_DATA.BYTES k) = rowBits r (64 * k) 64) : d.staging = r := by
  have hf : (List.range 64).foldr (fun k a => d.get (Reg.DBG_HDW_DATA.BYTES k) + 2 ^ 64 * a) 0 = r.toNat % 2 ^ 4096 :=
    (foldr_eq_of_mem 0 fun k hk a => by rw [h k (List.mem_range.1 hk)]; rfl).trans (foldr_words r.toNat 64 (by decide))
  unfold Dev.staging
  rw [hf]
  exact ofNat_toNat_mod r

/-- Putting a row into the buffer writes the buffer's words alone. -/
theorem Dev.putStaging_eq (r : Row) (d : Dev) : ∃ g, d.putStaging r = { d with regs := g } :=
  Dev.foldl_put_eq Reg.DBG_HDW_DATA.BYTES (fun k => rowBits r (64 * k) 64) _ d

/-! ### A row that is read or written outside the schedule -/

@[simp] theorem CoreSt.row_meetErr (key : Nat) (err : CellErr) (k : CoreSt) (bank row : Nat) : (k.meetErr key err).row bank row = k.row bank row := by
  unfold CoreSt.meetErr
  split
  · rfl
  · cases err <;> rfl

theorem CoreSt.noteRead_marks (k : CoreSt) (key : Nat) : (k.noteRead key).bad = k.bad ∧ (k.noteRead key).emptyRow = k.emptyRow := by
  obtain ⟨q, h⟩ := k.noteRead_eq key
  rw [h]
  exact ⟨rfl, rfl⟩

/-- The device after a read outside the schedule has met the words of a row. -/
def Dev.peeked (ix : Nat) (err : CellErr) (d : Dev) : Dev := d.onCore (ix / 8192) fun k => (k.meetErr (ix % 8192) err).noteRead (ix % 8192)

theorem Dev.row_peeked (ix : Nat) (err : CellErr) (d : Dev) (bank row : Nat) :
    ((d.peeked ix err).core (ix / 8192)).row bank row = (d.core (ix / 8192)).row bank row := by
  unfold Dev.peeked
  rw [Dev.core_onCore_self, CoreSt.row_noteRead, CoreSt.row_meetErr]

theorem Dev.peekRow_good {ix : Nat} {err : CellErr} {d : Dev}
    (h : kget false ((d.core (ix / 8192)).meetErr (ix % 8192) err).bad (ix % 8192) = false) :
    d.peekRow ix err = (some ((d.core (ix / 8192)).row (ix / 1024 % 8) (ix % 1024)), d.peeked ix err) := by
  have hb : kget false ((d.peeked ix err).core (ix / 8192)).bad (ix % 8192) = false := by
    rw [Dev.peeked, Dev.core_onCore_self, (CoreSt.noteRead_marks _ _).1]
    exact h
  have hbank : ix % 8192 / 1024 = ix / 1024 % 8 := by omega
  have hrow : ix % 8192 % 1024 = ix % 1024 := by omega
  refine (if_neg (by rw [show kget false ((d.onCore _ _).core _).bad _ = false from hb, Bool.false_and]; decide)).trans ?_
  rw [← d.row_peeked ix err, ← hbank, ← hrow]
  rfl

theorem Dev.peekRow_bad {ix : Nat} {err : CellErr} {d : Dev}
    (h : kget false ((d.core (ix / 8192)).meetErr (ix % 8192) err).bad (ix % 8192) = true)
    (he : kget false ((d.core (ix / 8192)).meetErr (ix % 8192) err).emptyRow (ix % 8192) = false) : d.peekRow ix err = (none, d.peeked ix err) := by
  refine if_pos ?_
  show (kget false ((d.peeked ix err).core (ix / 8192)).bad (ix % 8192) && !kget false ((d.peeked ix err).core (ix / 8192)).emptyRow (ix % 8192)) = true
  rw [Dev.peeked, Dev.core_onCore_self, (CoreSt.noteRead_marks _ _).1, (CoreSt.noteRead_marks _ _).2, h, he]
  rfl

/-- Whatever a read meets, it leaves the device in which the words have been met. -/
theorem Dev.peekRow_snd (ix : Nat) (err : CellErr) (d : Dev) : (d.peekRow ix err).2 = d.peeked ix err := by
  unfold Dev.peekRow
  dsimp only
  split <;> rfl

/-- The row as an access outside the schedule leaves it. -/
theorem Dev.row_pokeRow (core bank row : Nat) (v : Row) (whole : Bool) (d : Dev) :
    ((d.pokeRow core bank row (fun _ => v) whole).core core).row bank row = v := by
  unfold Dev.pokeRow
  rw [Dev.core_onCore_self]
  exact CoreSt.row_putRow_self (d.core core) bank row v whole

/-! ### The window's accesses -/

/-- What an access of the window does before its status is set. -/
def Dev.hdwMoved (write : Bool) (ix : Nat) (err : CellErr) (d : Dev) : Dev :=
  if write then ({ d with hdw := none } : Dev).pokeRow (ix / 8192) (ix / 1024 % 8) (ix % 1024) (fun _ => d.staging) true
  else match (({ d with hdw := none } : Dev).peekRow ix err).1 with
    | some v => (({ d with hdw := none } : Dev).peeked ix err).putStaging v
    | none => (({ d with hdw := none } : Dev).peeked ix err).setBit Reg.DBG_HDW_STATUS.ERROR

theorem Dev.serveHdw_eq (write : Bool) (ix : Nat) (err : CellErr) (d : Dev) :
    d.serveHdw write ix err = ((d.hdwMoved write ix err).put Reg.DBG_HDW_STATUS.BUSY 0).setBit Reg.DBG_HDW_STATUS.DONE := by
  unfold Dev.serveHdw Dev.hdwMoved
  cases write
  · cases hp : (({ d with hdw := none } : Dev).peekRow ix err).1 <;>
      simp only [← Dev.peekRow_snd, hp, Bool.false_eq_true, if_false]
  · rfl

theorem Dev.core_pokeRow_ne (core bank row : Nat) (f : Row → Row) (whole : Bool) (d : Dev) {c : Nat} (h : c ≠ core) :
    (d.pokeRow core bank row f whole).core c = d.core c := Dev.core_onCore_ne d _ h

/-- An access moves a row of its own core alone, and leaves the management processor's request. -/
theorem Dev.hdwMoved_other (write : Bool) (ix : Nat) (err : CellErr) (d : Dev) : (d.hdwMoved write ix err).hdw = none ∧
    (d.hdwMoved write ix err).phRow = d.phRow ∧ ∀ c, c ≠ ix / 8192 → (d.hdwMoved write ix err).core c = d.core c := by
  have hpeek : (({ d with hdw := none } : Dev).peeked ix err).hdw = none ∧ (({ d with hdw := none } : Dev).peeked ix err).phRow = d.phRow ∧
      ∀ c, c ≠ ix / 8192 → (({ d with hdw := none } : Dev).peeked ix err).core c = d.core c := ⟨rfl, rfl, fun c hc => Dev.core_onCore_ne _ _ hc⟩
  unfold Dev.hdwMoved
  cases write
  · rw [if_neg (by decide)]
    cases (({ d with hdw := none } : Dev).peekRow ix err).1 with
    | none =>
      obtain ⟨j, h⟩ := Dev.setBit_eq (({ d with hdw := none } : Dev).peeked ix err) Reg.DBG_HDW_STATUS.ERROR
      dsimp only
      rw [h]
      exact hpeek
    | some v =>
      obtain ⟨g, h⟩ := Dev.putStaging_eq v (({ d with hdw := none } : Dev).peeked ix err)
      dsimp only
      rw [h]
      exact hpeek
  · rw [if_pos rfl]
    exact ⟨rfl, rfl, fun c hc => Dev.core_pokeRow_ne _ _ _ _ _ { d with hdw := none } hc⟩

theorem Dev.core_serveHdw (write : Bool) (ix : Nat) (err : CellErr) (d : Dev) (c : Nat) :
    (d.serveHdw write ix err).core c = (d.hdwMoved write ix err).core c := by
  rw [Dev.serveHdw_eq, Dev.core_setBit, Dev.core_put]

theorem Dev.get_serveHdw_ne (write : Bool) (ix : Nat) (err : CellErr) (d : Dev) {F : Fld} (h1 : F.key ≠ Reg.DBG_HDW_STATUS.BUSY.key)
    (h2 : F.key ≠ Reg.DBG_HDW_STATUS.DONE.key) : (d.serveHdw write ix err).get F = (d.hdwMoved write ix err).get F := by
  rw [Dev.serveHdw_eq, Dev.get_setBit_ne _ h2, Dev.get_put_ne _ _ h1]

theorem Dev.hdwData_key_ne (k : Nat) {F : Fld} (h : F.key < (Reg.DBG_HDW_DATA.BYTES 0).key) : (Reg.DBG_HDW_DATA.BYTES k).key ≠ F.key := by
  simp only [Fld.key, Reg.DBG_HDW_DATA.BYTES] at h ⊢
  omega

theorem Dev.staging_serveHdw {ix : Nat} {err : CellErr} {d : Dev}
    (h : kget false ((d.core (ix / 8192)).meetErr (ix % 8192) err).bad (ix % 8192) = false) :
    (d.serveHdw false ix err).staging = (d.core (ix / 8192)).row (ix / 1024 % 8) (ix % 1024) := by
  refine Dev.staging_of_get fun k hk => ?_
  rw [Dev.get_serveHdw_ne _ _ _ _ (Dev.hdwData_key_ne k (by decide)) (Dev.hdwData_key_ne k (by decide))]
  unfold Dev.hdwMoved
  rw [if_neg (by decide), Dev.peekRow_good (d := { d with hdw := none }) h]
  exact Dev.get_hdwData_putStaging _ _ hk

theorem CoreSt.emptyRow_meetErr (key : Nat) (err : CellErr) (k : CoreSt) : (k.meetErr key err).emptyRow = k.emptyRow := by
  unfold CoreSt.meetErr
  split
  · rfl
  · cases err <;> rfl

theorem Dev.get_error_serveHdw {ix : Nat} {err : CellErr} {d : Dev}
    (h : kget false ((d.core (ix / 8192)).meetErr (ix % 8192) err).bad (ix % 8192) = true)
    (he : kget false ((d.core (ix / 8192)).meetErr (ix % 8192) err).emptyRow (ix % 8192) = false) :
    (d.serveHdw false ix err).get Reg.DBG_HDW_STATUS.ERROR = 1 := by
  rw [Dev.get_serveHdw_ne _ _ _ _ (by decide) (by decide)]
  unfold Dev.hdwMoved
  rw [if_neg (by decide), Dev.peekRow_bad (d := { d with hdw := none }) h he]
  exact Dev.get_setBit_self _ _ (by decide)

/-! ### Who is served -/

/-- A non-scheduled access with nothing waiting. -/
theorem Dev.nonScheduled_idle {c bank : Nat} {write : Bool} {err : CellErr} {d : Dev} (h : d.hdw = none) (hp : d.phRow = none) :
    d.nonScheduled c bank write err = d := by
  simp only [Dev.nonScheduled, h, hp]

theorem Dev.phRow_serveHdw (write : Bool) (ix : Nat) (err : CellErr) (d : Dev) : (d.serveHdw write ix err).phRow = d.phRow := by
  obtain ⟨j, h⟩ := Dev.setBit_eq ((d.hdwMoved write ix err).put Reg.DBG_HDW_STATUS.BUSY 0) Reg.DBG_HDW_STATUS.DONE
  rw [Dev.serveHdw_eq, h]
  exact (d.hdwMoved_other write ix err).2.1

theorem Dev.nonScheduled_hdw {c bank : Nat} {write : Bool} {err : CellErr} {d : Dev} {ix : Nat} (h : d.hdw = some (write, ix))
    (hp : d.phRow = none) (hx : ix / 1024 = c * 8 + bank) : d.nonScheduled c bank write err =
      if d.portFree c bank write [2, 0] then (d.takePort c bank write).serveHdw write ix err else d := by
  have hx' : (ix / 1024 == c * 8 + bank) = true := by simpa using hx
  cases hf : d.portFree c bank write [2, 0]
  · simp only [Dev.nonScheduled, h, hx', beq_self_eq_true, Bool.and_self, if_true, Dev.freePort_taken hf, Bool.false_eq_true, if_false, hp]
  · have hq : ((d.takePort c bank write).serveHdw write ix err).phRow = none := (Dev.phRow_serveHdw _ _ _ _).trans hp
    simp only [Dev.nonScheduled, h, hx', beq_self_eq_true, Bool.and_self, if_true, Dev.freePort_free hf, hq]

theorem Dev.nonScheduled_phimon {c bank : Nat} {err : CellErr} {d : Dev} {ix : Nat} (h : d.hdw = none) (hp : d.phRow = some ix)
    (hx : ix / 1024 = c * 8 + bank) : d.nonScheduled c bank false err =
      if d.portFree c bank false [3, 0] then (d.takePort c bank false).servePhimon ix err else d := by
  have hx' : (ix / 1024 == c * 8 + bank) = true := by simpa using hx
  cases hf : d.portFree c bank false [3, 0]
  · simp only [Dev.nonScheduled, h, hp, hx', Bool.not_false, Bool.and_self, if_true, Dev.freePort_taken hf, Bool.false_eq_true, if_false]
  · simp only [Dev.nonScheduled, h, hp, hx', Bool.not_false, Bool.and_self, if_true, Dev.freePort_free hf]

theorem Dev.hdwCmd_shut {b : Nat} {write : Bool} {d : Dev} (h : d.acting b ≠ some 0 ∨ b ≠ 0 ∨ bitOf (d.get Reg.SEC_STATUS.FEATURES) 2 = false ∨
    d.is Reg.DBG_HDW_STATUS.BUSY = true) : d.hdwCmd b write = d := by
  refine if_pos ?_
  simpa only [Bool.not_eq_true'] using h

theorem Dev.hdwCmd_open {b : Nat} {write : Bool} {d : Dev} (ha : d.acting b = some 0) (hb : b = 0)
    (hf : bitOf (d.get Reg.SEC_STATUS.FEATURES) 2 = true) (hy : d.is Reg.DBG_HDW_STATUS.BUSY = false) : d.hdwCmd b write =
      if d.rowThere (d.get Reg.DBG_HDW_ADDR.ROW) then
        ({ d with hdw := some (write, d.get Reg.DBG_HDW_ADDR.ROW) } : Dev).put Reg.DBG_HDW_STATUS.BUSY 1
      else (if write then d else d.putStaging 0#4096).setBit Reg.DBG_HDW_STATUS.DONE := by
  subst hb
  exact if_neg (by simp [ha, hf, hy])

/-- Settles O29: requests by who gives them and whether the row is there, accesses by their port, and what a served one moves. -/
theorem hostWindow : Obligations.HostWindow := by
  unfold Obligations.HostWindow
  refine ⟨fun b s => ?requests, fun core bank write err s => ?accesses, fun d ix err write => ?served⟩
  case requests =>
    intro ix
    have hr : Leaves (.hdwRead b) s (s.dev.hdwCmd b.toNat false) := rfl
    have hw : Leaves (.hdwWrite b) s (s.dev.hdwCmd b.toNat true) := rfl
    refine ⟨fun h => ?shut, fun ha hb hf hy => ?granted⟩
    case shut =>
      have h' : s.dev.acting b.toNat ≠ some 0 ∨ b.toNat ≠ 0 ∨ bitOf (s.dev.get Reg.SEC_STATUS.FEATURES) 2 = false ∨
          s.dev.is Reg.DBG_HDW_STATUS.BUSY = true := h.imp_right (Or.imp_left fun hb h0 => hb (BitVec.eq_of_toNat_eq h0))
      exact ⟨hr.noEffect (Dev.hdwCmd_shut h'), hw.noEffect (Dev.hdwCmd_shut h')⟩
    case granted =>
      have he (write : Bool) := Dev.hdwCmd_open (write := write) ha (congrArg BitVec.toNat hb) hf hy
      exact ⟨fun h => ⟨hr.congr ((he false).trans (if_pos h)), hw.congr ((he true).trans (if_pos h))⟩,
        fun h => ⟨hw.congr ((he true).trans (if_neg (by rw [h]; decide))), hr.congr ((he false).trans (if_neg (by rw [h]; decide)))⟩⟩
  case accesses =>
    intro c
    have hl (w : Bool) : Leaves (.nonScheduledAccess core bank w err) s (s.dev.nonScheduled c bank.toNat w err) := rfl
    refine ⟨fun h hp => (hl write).noEffect (Dev.nonScheduled_idle h hp), fun ix h hp hx => ?window, fun ix h hp hx => ?phimon⟩
    case window =>
      have he := Dev.nonScheduled_hdw (err := err) h hp hx
      exact ⟨fun hf => (hl write).congr (he.trans (if_pos hf)), fun hf => (hl write).noEffect (he.trans (if_neg (by rw [hf]; decide)))⟩
    case phimon =>
      have he := Dev.nonScheduled_phimon (err := err) h hp hx
      exact ⟨fun hf => (hl false).congr (he.trans (if_pos hf)), fun hf => (hl false).noEffect (he.trans (if_neg (by rw [hf]; decide)))⟩
  case served =>
    intro e
    obtain ⟨hh, -, hc⟩ := d.hdwMoved_other write ix err
    have he : e = _ := d.serveHdw_eq write ix err
    refine ⟨?_, ?_, ?_, fun c hx => (d.core_serveHdw write ix err c).trans (hc c hx), fun hw => ?stored, fun hw => ⟨fun hb => ?read, fun hb hx => ?lost⟩⟩
    · obtain ⟨j, hj⟩ := Dev.setBit_eq ((d.hdwMoved write ix err).put Reg.DBG_HDW_STATUS.BUSY 0) Reg.DBG_HDW_STATUS.DONE
      rw [he, hj]
      exact hh
    · rw [he]
      exact (Dev.get_setBit_ne _ (by decide)).trans (Dev.get_put_self _ _ _)
    · rw [he]
      exact Dev.get_setBit_self _ _ (by decide)
    case stored =>
      subst hw
      rw [show e.core (ix / 8192) = _ from d.core_serveHdw true ix err _]
      exact Dev.row_pokeRow _ _ _ _ _ _
    case read =>
      subst hw
      exact Dev.staging_serveHdw hb
    case lost =>
      subst hw
      exact Dev.get_error_serveHdw hb hx

end Sys2Proof.Machine
end

section
/-! PROOF. Digests, failed block reads, refresh, MR4 polls and the step-open copy (R291, R296 to R298, R309, R311, R312, R468, R556). -/

namespace Sys2Proof.Machine

/-! ### Digests -/

theorem Dev.digestCmd_refused {b : Nat} {d : Dev} (ha : d.acting b = some 0)
    (h : d.digestJob.isSome = true ∨ d.get Reg.MEM_DIGEST_ADDR.VALUE % 2 ^ 21 ≠ 0 ∨ d.get Reg.MEM_DIGEST_LEN.VALUE % 2 ^ 21 ≠ 0 ∨
      d.allServed (d.get Reg.MEM_DIGEST_ADDR.VALUE) (d.get Reg.MEM_DIGEST_LEN.VALUE) = false) : d.digestCmd b = d.event Reg.MEM_EVENT.CMD_REFUSED :=
  (if_neg (not_not_intro ha)).trans (if_pos (by simpa only [Bool.not_eq_true'] using h))

theorem Dev.digestCmd_begins {b : Nat} {d : Dev} (ha : d.acting b = some 0) (hj : d.digestJob = none)
    (h1 : d.get Reg.MEM_DIGEST_ADDR.VALUE % 2 ^ 21 = 0) (h2 : d.get Reg.MEM_DIGEST_LEN.VALUE % 2 ^ 21 = 0)
    (h3 : d.allServed (d.get Reg.MEM_DIGEST_ADDR.VALUE) (d.get Reg.MEM_DIGEST_LEN.VALUE) = true) : d.digestCmd b =
      ({ d with digestJob := some (d.get Reg.MEM_DIGEST_ADDR.VALUE, d.get Reg.MEM_DIGEST_LEN.VALUE), digestAt := 0 } : Dev).put
        Reg.MEM_STATUS.DIGEST_BUSY 1 := by
  refine (if_neg (not_not_intro ha)).trans (if_neg fun h => ?_)
  rcases h with h | h | h | h
  · exact absurd h (by rw [hj]; decide)
  · exact h h1
  · exact h h2
  · exact absurd h (by rw [h3]; decide)

theorem digestOut_key_ne (k : Nat) {F : Fld} (h : F.key < (Reg.MEM_DIGEST_OUT.BYTES 0).key ∨ (Reg.MEM_DIGEST_OUT.BYTES 6).key ≤ F.key)
    (hk : k < 6) : (Reg.MEM_DIGEST_OUT.BYTES k).key ≠ F.key := by
  simp only [Fld.key, Reg.MEM_DIGEST_OUT.BYTES] at h ⊢
  omega

theorem Dev.putDigest_eq (f : Nat → Fld) (bs : List Byte) (d : Dev) : ∃ r, d.putDigest f bs = { d with regs := r } := Dev.foldl_put_eq f _ _ d

theorem Dev.get_putDigest {f : Nat → Fld} (bs : List Byte) (d : Dev) {k : Nat} (hk : k < 6) (hf : ∀ i, i < 6 → k ≠ i → (f k).key ≠ (f i).key) :
    (d.putDigest f bs).get (f k) = ofLeBytes ((bs.drop (8 * k)).take 8) % 2 ^ (f k).width := Dev.get_foldl_put f _ d hk hf

theorem Dev.get_putDigest_ne {f : Nat → Fld} (bs : List Byte) (d : Dev) {F : Fld} (hf : ∀ i, i < 6 → F.key ≠ (f i).key) :
    (d.putDigest f bs).get F = d.get F := Dev.get_foldl_put_ne f _ d 6 hf

/-- The device in which a digest has ended, before its status and its event. -/
def Dev.digested (m : Memory) (a n : Nat) (d : Dev) : Dev :=
  ({ (d.useChecks a n) with digestJob := none }.put Reg.MEM_STATUS.DIGEST_BUSY 0).putDigest Reg.MEM_DIGEST_OUT.BYTES (d.rangeDigest m a n)

theorem Dev.digestDone_good {m : Memory} {a n : Nat} {d : Dev} (hj : d.digestJob = some (a, n)) (hb : d.anyBad m a n = false) :
    d.digestDone false m = (((d.digested m a n).put Reg.MEM_DIGEST_STAT.ERROR 0).put Reg.MEM_DIGEST_STAT.VALID 1).event Reg.MEM_EVENT.DIGEST_DONE := by
  simp only [Dev.digestDone, hj, hb, Bool.false_eq_true, if_false]
  rfl

theorem Dev.digested_facts (m : Memory) (a n : Nat) (d : Dev) : (d.digested m a n).digestJob = none ∧
    (d.digested m a n).get Reg.MEM_STATUS.DIGEST_BUSY = 0 ∧ ∀ k, k < 6 →
      (d.digested m a n).get (Reg.MEM_DIGEST_OUT.BYTES k) = ofLeBytes (((d.rangeDigest m a n).drop (8 * k)).take 8) % 2 ^ 64 := by
  unfold Dev.digested
  refine ⟨?_, ?_, fun k hk => ?_⟩
  · obtain ⟨r, h⟩ := Dev.putDigest_eq Reg.MEM_DIGEST_OUT.BYTES (d.rangeDigest m a n)
      ({ (d.useChecks a n) with digestJob := none }.put Reg.MEM_STATUS.DIGEST_BUSY 0)
    rw [h]
    rfl
  · exact (Dev.get_putDigest_ne _ _ fun i hi => (digestOut_key_ne i (.inl (by decide)) hi).symm).trans (Dev.get_put_self _ _ _)
  · refine Dev.get_putDigest _ _ hk fun i _ hik => ?_
    simp only [Fld.key, Reg.MEM_DIGEST_OUT.BYTES]
    omega

theorem Dev.digestDone_facts {m : Memory} {a n : Nat} {d : Dev} (hj : d.digestJob = some (a, n)) (hb : d.anyBad m a n = false) :
    let e := d.digestDone false m
    e.digestJob = none ∧ e.get Reg.MEM_STATUS.DIGEST_BUSY = 0 ∧ e.get Reg.MEM_DIGEST_STAT.ERROR = 0 ∧ e.get Reg.MEM_DIGEST_STAT.VALID = 1 ∧
      e.is Reg.MEM_EVENT.DIGEST_DONE = true ∧ ∀ k, k < 6 →
        e.get (Reg.MEM_DIGEST_OUT.BYTES k) = ofLeBytes (((d.rangeDigest m a n).drop (8 * k)).take 8) % 2 ^ 64 := by
  obtain ⟨hjob, hbusy, hout⟩ := d.digested_facts m a n
  rw [Dev.digestDone_good hj hb]
  refine ⟨?_, ?_, ?_, ?_, Dev.is_event_self _ _ (by decide), fun k hk => ?_⟩
  · obtain ⟨r, j, o, p, w, h⟩ := Dev.event_eq (((d.digested m a n).put Reg.MEM_DIGEST_STAT.ERROR 0).put Reg.MEM_DIGEST_STAT.VALID 1)
      Reg.MEM_EVENT.DIGEST_DONE
    rw [h]
    exact hjob
  · simp (disch := decide) only [Dev.get_event_ne, Dev.get_put_ne]
    exact hbusy
  · simp (disch := decide) only [Dev.get_event_ne, Dev.get_put_ne, Dev.get_put_self]
    decide
  · simp (disch := decide) only [Dev.get_event_ne, Dev.get_put_self]
    decide
  · exact (Dev.get_event_ne _ (digestOut_key_ne k (by decide) hk)).trans ((Dev.get_put_ne _ _ (digestOut_key_ne k (by decide) hk)).trans
      ((Dev.get_put_ne _ _ (digestOut_key_ne k (by decide) hk)).trans (hout k hk)))

/-! ### Failed block reads and refresh -/

theorem Dev.blockCheckFail_none {ch off n : Nat} {chk p : Bool} {by_ : BlockReader} {d : Dev}
    (h : d.addrOf ch off = none ∨ d.chServes ch = false) : d.blockCheckFail ch off chk n p by_ = d := by
  unfold Dev.blockCheckFail
  rcases h with h | h
  · simp only [h]
  · split
    · rfl
    · exact if_pos (by rw [h]; rfl)

theorem Dev.blockCheckFail_reread {ch off n a : Nat} {chk : Bool} {by_ : BlockReader} {d : Dev} (ha : d.addrOf ch off = some a)
    (h : d.chServes ch = true) : d.blockCheckFail ch off chk n false by_ =
      (((d.count (Reg.MEM_CH_STAT.RESENDS ch) n).count Reg.MEM_RESENDS.COUNT n).tally fun h =>
        { h with rereads := h.rereads + n }).rereadRecords ch (a / 256 * 256) n := by
  unfold Dev.blockCheckFail
  rw [ha]
  exact (if_neg (by rw [h]; decide)).trans (if_pos rfl)

/-- Unplanned refreshes that follow a planned one at a multiplier. -/
def extraRefreshes (mult : Nat) : Nat := if mult = 0 then 0 else if mult = 1 then 1 else 3

/-- A channel's refreshes after its next planned one. -/
def Refresh.planned (mult : Nat) (r : Refresh) : Refresh :=
  { count := r.count + 1
    waiting := (r.waiting.filter fun w => !(w.1 == refreshBank r.count && decide (w.2 + 8 < r.count / 16))) ++
      List.replicate (extraRefreshes mult) (refreshBank r.count, r.count / 16) }

theorem Dev.plannedRefresh_served {ch : Nat} {d : Dev} (h : ch < 96) : d.plannedRefresh ch = { d with
    refresh := kset {} d.refresh ch (Refresh.planned (bitsOf (d.get Reg.MEM_DERATE.MULT) (2 * (ch / 8)) 2) (kget {} d.refresh ch)) } := by
  simp only [Dev.plannedRefresh, if_neg (Nat.not_le.2 h)]
  rcases bitsOf (d.get Reg.MEM_DERATE.MULT) (2 * (ch / 8)) 2 with _ | _ | k
  · simp only [Refresh.planned, extraRefreshes, if_true]
  · simp only [Refresh.planned, extraRefreshes, Nat.zero_add, Nat.one_ne_zero, if_true, if_false]
  · simp only [Refresh.planned, extraRefreshes, if_neg (Nat.succ_ne_zero (k + 1)), if_neg (show ¬ k + 1 + 1 = 1 by omega)]

theorem Refresh.planned_slow (r : Refresh) : (r.planned 0).waiting.length ≤ r.waiting.length := by
  simp only [Refresh.planned, extraRefreshes, if_true, List.replicate_zero, List.append_nil]
  exact List.length_filter_le _ _

theorem Refresh.planned_fast {r : Refresh} {k : Nat} (hk : 0 < k) (hw : r.waiting = []) :
    (r.planned k).waiting = List.replicate (if k = 1 then 1 else 3) (r.count % 16, r.count / 16) := by
  simp only [Refresh.planned, extraRefreshes, hw, List.filter_nil, List.nil_append, if_neg (Nat.pos_iff_ne_zero.1 hk)]
  rfl

/-- The device that has done a forced refresh. -/
theorem Dev.forcedRefresh_facts {ch bank : Nat} {w : Nat × Nat} {d : Dev} (h : (kget {} d.refresh ch).atDeadline bank = some w) :
    let e := d.forcedRefresh ch bank
    kget {} e.refresh ch = { kget {} d.refresh ch with waiting := eraseFirst w (kget {} d.refresh ch).waiting } ∧
      e.get Reg.MEM_UNPLANNED.COUNT = min (d.get Reg.MEM_UNPLANNED.COUNT + 1) (2 ^ 32 - 1) ∧ e.rest = { d.rest with refresh := e.refresh } ∧
      RegsKept e d [Reg.MEM_UNPLANNED.COUNT, Reg.DBG_LTN_LOST.COUNT] := by
  have he : d.forcedRefresh ch bank = (({ d with
      refresh := kset {} d.refresh ch { kget {} d.refresh ch with waiting := eraseFirst w (kget {} d.refresh ch).waiting },
      fresh := d.fresh + 1 } : Dev).count Reg.MEM_UNPLANNED.COUNT 1).lantern 11 0xFF 0 0 d.run.tick
        (ch + 128 * 5 + 1024 * (Config.freeNat d.fresh % 2 ^ 32)) none := by
    simp only [Dev.forcedRefresh, h]
    rfl
  rw [he]
  have hr := fun (e : Dev) (dt : Nat) => (e.lantern_eq 11 0xFF 0 0 d.run.tick dt none)
  refine ⟨?waiting, ?counted, ?rest, fun F hF => ?kept⟩
  case waiting =>
    obtain ⟨r, x, l, hl⟩ := hr _ _
    rw [hl]
    exact kget_kset_self _ _ _ _
  case counted => exact (Dev.get_lantern_ne _ _ _ _ _ _ _ _ (by decide)).trans (Dev.get_count_self _ _ _)
  case rest =>
    obtain ⟨r, x, l, hl⟩ := hr _ _
    rw [hl]
    rfl
  case kept =>
    exact (Dev.get_lantern_ne _ _ _ _ _ _ _ _ (hF _ (by simp))).trans (Dev.get_count_ne _ _ (hF _ (by simp)))

/-! ### The copy engine -/

/-- A failed read of no block is none. -/
theorem Dev.meetBad_none (by_ : BlockReader) (d : Dev) : d.meetBad none by_ = d := rfl

/-- What the copy of blocks changes but for the step's count. -/
theorem Dev.copied_eq (f g : Dev → Nat → Nat) (l : List Nat) (d : Dev) : ∃ b c k s o,
    l.foldl (fun (d : Dev) j => (d.useChecks (f d j) 256).rewritten (g d j) 256) d = { d with badBlk := b, ckBuf := c, checks := k, snoop := s, out := o } := by
  induction l generalizing d with
  | nil => exact ⟨_, _, _, _, _, rfl⟩
  | cons j l ih =>
    obtain ⟨c, k, hc⟩ := Dev.useChecks_eq d (f d j) 256
    obtain ⟨b, s, o, hr⟩ := Dev.rewritten_eq (d.useChecks (f d j) 256) (g d j) 256
    obtain ⟨b', c', k', s', o', h⟩ := ih ((d.useChecks (f d j) 256).rewritten (g d j) 256)
    refine ⟨b', c', k', s', o', h.trans ?_⟩
    rw [hr, hc]

theorem Dev.copyUpTo_idle {n : Nat} {m : Memory} {d : Dev} (h : d.crn.step = none ∨ d.is Reg.CRN_STATUS.COPYING = false) : d.copyUpTo n m = d := by
  unfold Dev.copyUpTo
  rcases h with h | h
  · simp only [h]
  · split
    · exact if_neg (by rw [h]; decide)
    · rfl

theorem Dev.copyToMem_idle {n : Nat} {m : Memory} {d : Dev} (h : d.is Reg.CRN_STATUS.COPYING = false) : d.copyToMem n m = m := by
  unfold Dev.copyToMem
  split
  · exact if_neg (by rw [h]; decide)
  · rfl

theorem Dev.copyToMem_good {n : Nat} {m : Memory} {d : Dev} {x : StepOpen} (hs : d.crn.step = some x) (hc : d.is Reg.CRN_STATUS.COPYING = true)
    (hf : d.copyFails m x n = none) : d.copyToMem n m = (List.range (n - x.copied)).foldl (fun m j =>
      d.copyMem m (x.blockAt (x.copied + j)) (d.slotBlock x (x.copied + j)) 256) m := by
  simp only [Dev.copyToMem, hs, hc, if_true, hf, Option.getD_none]

/-- A copy whose reads all pass moves the step's count on, and writes no register. -/
theorem Dev.copyUpTo_good {n : Nat} {m : Memory} {d : Dev} {x : StepOpen} (hs : d.crn.step = some x) (hc : d.is Reg.CRN_STATUS.COPYING = true)
    (hf : d.copyFails m x n = none) : ∃ b c k s o, d.copyUpTo n m = { d with
      badBlk := b, ckBuf := c, checks := k, snoop := s, out := o, crn := { d.crn with step := some { x with copied := max x.copied n } } } := by
  obtain ⟨b, c, k, s, o, h⟩ := Dev.copied_eq (fun _ j => x.blockAt (x.copied + j)) (fun d j => d.slotBlock x (x.copied + j))
    (List.range (n - x.copied)) d
  refine ⟨b, c, k, s, o, ?_⟩
  simp only [Dev.copyUpTo, hs, hc, if_true, hf, Option.map_none, Dev.meetBad_none, Dev.copyTo, Option.getD_none]
  rw [h]

theorem crnDigest_key_ne {k : Nat} {F : Fld} (h : F.key < (Reg.CRN_OPEN_DIGEST.BYTES 0).key) : F.key ≠ (Reg.CRN_OPEN_DIGEST.BYTES k).key := by
  simp only [Fld.key, Reg.CRN_OPEN_DIGEST.BYTES] at h ⊢
  omega

/-- The device whose step is copied, before the digest of its slots. -/
def Dev.copyMarked (x : StepOpen) (d : Dev) : Dev :=
  ({ d with crn := { d.crn with step := some { x with complete := true } } }.put Reg.CRN_STATUS.COPYING 0).put Reg.MEM_STATUS.COPY_BUSY 0

/-- A completed copy shows its end, where no Beacon waits for it. -/
theorem Dev.copyDone_complete {m : Memory} {d : Dev} {x : StepOpen} (hs : d.crn.step = some x) (hc : d.is Reg.CRN_STATUS.COPYING = true)
    (hn : 8192 * x.addrs.length ≤ x.copied) (hd : x.done = none) : (d.copyDone m).crn.step = some { x with complete := true } ∧
      (d.copyDone m).get Reg.CRN_STATUS.COPYING = 0 ∧ (d.copyDone m).get Reg.MEM_STATUS.COPY_BUSY = 0 := by
  have he : d.copyDone m = if d.is Reg.CRN_CFG.DIGEST_EN then
      (d.copyMarked x).putDigest Reg.CRN_OPEN_DIGEST.BYTES (d.stepDigest m (x.addrs.map (d.slotAddr x.addrs))) else d.copyMarked x := by
    have hgo : ¬ ((!d.is Reg.CRN_STATUS.COPYING) = true ∨ x.copied < 8192 * x.addrs.length) := by
      rw [hc]
      simpa using hn
    obtain ⟨ten, addrs, done, copied, complete⟩ := x
    subst hd
    simp only [Dev.copyDone, hs, if_neg hgo]
    rfl
  have hput : (d.copyMarked x).get Reg.CRN_STATUS.COPYING = 0 ∧ (d.copyMarked x).get Reg.MEM_STATUS.COPY_BUSY = 0 :=
    ⟨(Dev.get_put_ne _ _ (by decide)).trans (Dev.get_put_self _ _ _), Dev.get_put_self _ _ _⟩
  rw [he]
  split
  · refine ⟨?_, (Dev.get_putDigest_ne _ _ fun i _ => crnDigest_key_ne (by decide)).trans hput.1,
      (Dev.get_putDigest_ne _ _ fun i _ => crnDigest_key_ne (by decide)).trans hput.2⟩
    obtain ⟨r, h⟩ := Dev.putDigest_eq Reg.CRN_OPEN_DIGEST.BYTES (d.stepDigest m (x.addrs.map (d.slotAddr x.addrs))) (d.copyMarked x)
    rw [h]
    rfl
  · exact ⟨rfl, hput⟩

theorem Dev.copyDone_idle {m : Memory} {d : Dev} (h : d.is Reg.CRN_STATUS.COPYING = false) : d.copyDone m = d := by
  unfold Dev.copyDone
  split
  · rfl
  · exact if_pos (.inl (by rw [h]; rfl))

/-- A block that the copy has come to is held no longer. -/
theorem Dev.writeHeld_copied {d : Dev} {x : StepOpen} {a : Nat} (h : d.crn.step = some x) (hc : x.blockOf a < x.copied) : d.writeHeld a = false := by
  simp [Dev.writeHeld, h, StepOpen.has, hc]

/-- Settles O31: digests by their range and its blocks, refreshes by the multiplier, the copy by the blocks that it copies. -/
theorem memoryChecks : Obligations.MemoryChecks := by
  unfold Obligations.MemoryChecks
  refine ⟨fun b s => ?digest, fun failed s => ?done, fun d h => Dev.digestFail_facts h, fun ch off chk n by_ s => ?reread, fun ch s => ?planned,
    fun ch bank s => ?forced, fun pkg s => ?poll, fun s => ⟨fun h => ?idle, fun x hs hc hdone => ?copied⟩,
    fun addr s => ⟨fun h => ?free, fun x hs hc hw => ?released⟩⟩
  case digest =>
    intro a n
    have hl : Leaves (.digest b) s (s.dev.digestCmd b.toNat) := rfl
    exact ⟨fun ha => hl.noEffect (if_pos ha), fun ha => ⟨fun h => hl.congr (Dev.digestCmd_refused ha h),
      fun hj h1 h2 h3 => hl.congr (Dev.digestCmd_begins ha hj h1 h2 h3)⟩⟩
  case done =>
    have hl : Leaves (.digestDone failed) s (s.dev.digestDone failed s.dram) := rfl
    refine ⟨fun h => hl.noEffect (by simp only [Dev.digestDone, h]), fun a n h => ⟨fun hf => ?_, fun hf hb => ?_, fun hf hb => ?_⟩⟩
    · exact hl.congr (by simp only [Dev.digestDone, h, hf, if_true])
    · exact hl.congr (by simp only [Dev.digestDone, h, hf, hb, Bool.false_eq_true, if_false, if_true])
    · subst hf
      exact ⟨_, hl, Dev.digestDone_facts h hb⟩
  case reread =>
    intro c
    exact ⟨fun h p => Leaves.noEffect (d := s.dev.blockCheckFail c off.toNat chk n.toNat p by_) rfl (Dev.blockCheckFail_none h),
      fun a ha h => Leaves.congr (d := s.dev.blockCheckFail c off.toNat chk n.toNat false by_) rfl (Dev.blockCheckFail_reread ha h)⟩
  case planned =>
    intro c r
    have hl : Leaves (.plannedRefresh ch) s (s.dev.plannedRefresh c) := rfl
    refine ⟨fun h => hl.noEffect (if_pos h), fun h => ⟨_, hl.congr (Dev.plannedRefresh_served h), rfl, ?_, fun e he => ?_,
      fun hk => ?_, fun k h0 h3 hk hw => ?_⟩⟩
    all_goals dsimp only
    · rw [kget_kset_self]
      rfl
    · exact kget_kset_ne _ _ _ he
    · rw [kget_kset_self, hk]
      exact Refresh.planned_slow r
    · rw [kget_kset_self, hk]
      exact Refresh.planned_fast h0 hw
  case forced =>
    intro r
    have hl : Leaves (.forcedRefresh ch bank) s (s.dev.forcedRefresh ch.toNat bank.toNat) := rfl
    exact ⟨fun h => hl.noEffect (by simp only [Dev.forcedRefresh, show (kget {} s.dev.refresh ch.toNat).atDeadline bank.toNat = none from h]),
      fun w h => ⟨_, hl, Dev.forcedRefresh_facts h⟩⟩
  case poll =>
    intro p
    have hl (r : Option (BitVec 2)) : Leaves (.mr4Poll pkg r) s (s.dev.mr4Poll p r) := rfl
    refine ⟨fun h r => (hl r).noEffect (if_pos h), fun h => ⟨fun v => (hl _).congr (if_neg (Nat.not_lt.2 h)), fun h0 => ?_, fun h1 => ?_⟩⟩
    · refine (hl none).congr ((if_neg (Nat.not_lt.2 h)).trans ?_)
      simp only [h0, Nat.zero_add]
      exact if_neg (by decide)
    · exact (hl none).congr ((if_neg (Nat.not_lt.2 h)).trans (if_pos (Nat.succ_le_succ h1)))
  case idle =>
    have hst := stores_stepCopyDone s
    have hm : s.dev.copyAllMem s.dram = s.dram := by
      unfold Dev.copyAllMem
      split
      · rename_i x hx
        exact Dev.copyToMem_idle (h.resolve_left (by rw [hx]; exact Option.some_ne_none _))
      · rfl
    have hd : s.dev.copyAll s.dram = s.dev := by
      unfold Dev.copyAll
      split
      · rename_i x hx
        have hc : s.dev.is Reg.CRN_STATUS.COPYING = false := h.resolve_left (by rw [hx]; exact Option.some_ne_none _)
        dsimp only
        rw [Dev.copyUpTo_idle (.inr hc), Dev.copyDone_idle hc]
      · rfl
    unfold Stores at hst
    rw [hm, hd, Dev.striped_self] at hst
    exact hst
  case copied =>
    intro n hf
    have hst := stores_stepCopyDone s
    have hm : s.dev.copyAllMem s.dram = s.dev.copyToMem n s.dram := by
      unfold Dev.copyAllMem
      simp only [hs]
      rfl
    have hd : s.dev.copyAll s.dram = (s.dev.copyUpTo n s.dram).copyDone (s.dev.copyToMem n s.dram) := by
      unfold Dev.copyAll
      simp only [hs]
      rfl
    obtain ⟨b, c, k, sn, o, he⟩ := Dev.copyUpTo_good hs hc hf
    have hend := Dev.copyDone_complete (m := s.dev.copyToMem n s.dram) (d := s.dev.copyUpTo n s.dram) (x := { x with copied := max x.copied n })
      (by rw [he]) (by rw [he]; exact hc) (Nat.le_max_right _ _) hdone
    exact ⟨_, _, hst, hm.trans (Dev.copyToMem_good hs hc hf), by rw [hd]; exact hend⟩
  case free =>
    have hst := stores_heldWriteRelease addr s
    have hm : s.dev.copyBlockMem addr.toNat s.dram = s.dram := by
      unfold Dev.copyBlockMem
      split
      · split
        · rename_i hw
          exact Dev.copyToMem_idle (h.resolve_left (by rw [hw]; decide))
        · rfl
      · rfl
    have hd : s.dev.copyBlock addr.toNat s.dram = s.dev := by
      unfold Dev.copyBlock
      split
      · split
        · rename_i hw
          exact Dev.copyUpTo_idle (.inr (h.resolve_left (by rw [hw]; decide)))
        · rfl
      · rfl
    unfold Stores at hst
    rw [hm, hd, Dev.striped_self] at hst
    exact hst
  case released =>
    intro n hf
    have hst := stores_heldWriteRelease addr s
    have hm : s.dev.copyBlockMem addr.toNat s.dram = s.dev.copyToMem n s.dram := by
      simp only [Dev.copyBlockMem, hs, hw, if_true]
      rfl
    have hd : s.dev.copyBlock addr.toNat s.dram = s.dev.copyUpTo n s.dram := by simp only [Dev.copyBlock, hs, hw, if_true]; rfl
    obtain ⟨b, c, k, sn, o, he⟩ := Dev.copyUpTo_good hs hc hf
    have hstep : (s.dev.copyBlock addr.toNat s.dram).crn.step = some { x with copied := max x.copied n } := by rw [hd, he]
    exact ⟨_, _, hst, hm.trans (Dev.copyToMem_good hs hc hf), hstep, Dev.writeHeld_copied hstep (Nat.lt_of_lt_of_le (Nat.lt_succ_self _) (Nat.le_max_right _ _))⟩

end Sys2Proof.Machine
end

section
/-! PROOF. Stretches of the tick clocks, sensors, the throttle and the limits (R323 to R326, R343 to R347, R556, R596). -/

namespace Sys2Proof.Machine

/-! ### Margin codes -/

/-- The device in which an island waits for its own stretch. -/
def Dev.warn (i : Nat) (d : Dev) : Dev := { d with pwr := { d.pwr with warned := kset false d.pwr.warned i true } }

theorem Dev.ownStretch_asleep {i m : Nat} {d : Dev} (h : 20 < i ∨ 2 ≤ d.get Reg.PWR_STATE.STATE) : d.ownStretch i m = d := if_pos h

theorem Dev.ownStretch_margin {i m : Nat} {d : Dev} (hi : i ≤ 20) (hs : d.get Reg.PWR_STATE.STATE < 2) (hm : m ≠ 0) : d.ownStretch i m =
    if m < d.get Reg.CLK_STRETCH_CTL.WARN then d.warn i else d :=
  (if_neg (fun h => h.elim (Nat.not_lt.2 hi) (Nat.not_le.2 hs))).trans (if_neg hm)

theorem Dev.ownStretch_lost {i : Nat} {d : Dev} (hi : i ≤ 20) (hs : d.get Reg.PWR_STATE.STATE < 2) : d.ownStretch i 0 =
    (if 0 < d.get Reg.CLK_STRETCH_CTL.WARN then d.warn i else d).marginLost :=
  (if_neg (fun h => h.elim (Nat.not_lt.2 hi) (Nat.not_le.2 hs))).trans (if_pos rfl)

/-- The fault of a lost margin. -/
def Dev.marginFault (d : Dev) : Dev := if d.running then d.faultAt noOwner 0x0A03 d.faultTick else d.blockFault noOwner 0x0A03 true

/-- The device that runs at P4 with no change pending. -/
def Dev.atP4 (d : Dev) : Dev :=
  ((({ d with pwr := { d.pwr with opp := none, oppTick := none, rail := 4 } } : Dev).put Reg.CLK_OPP.CURRENT 4).put Reg.CLK_OPP.PENDING 0).put
    Reg.CLK_OPP_AT.AT 0xFFFFFFFFFFFFFFFF

@[simp] theorem Dev.run_event (d : Dev) (F : Fld) : (d.event F).run = d.run := by
  obtain ⟨r, j, o, p, w, h⟩ := Dev.event_eq d F
  rw [h]

theorem Dev.marginLost_eq (d : Dev) : ∃ n : Nat, d.marginLost = (d.marginFault.atP4.event Reg.CLK_EVENT.MARGIN_LOST).lantern 10 0xFF 0 0 d.run.tick n none :=
  ⟨_, rfl⟩

theorem Dev.marginLost_facts (d : Dev) : let e := d.marginLost
    (d.running = true → e.run = (d.faultAt noOwner 0x0A03 d.faultTick).run) ∧ (d.running = false → e.run = d.run) ∧
      e.get Reg.CLK_OPP.CURRENT = 4 ∧ e.get Reg.CLK_OPP.PENDING = 0 ∧ e.get Reg.CLK_OPP_AT.AT = 2 ^ 64 - 1 ∧ e.pwr.opp = none ∧ e.pwr.rail = 4 ∧
      e.is Reg.CLK_EVENT.MARGIN_LOST = true := by
  obtain ⟨n, he⟩ := d.marginLost_eq
  have hrun : d.marginLost.run = d.marginFault.run := by
    rw [he, Dev.run_lantern, Dev.run_event]
    rfl
  have hpwr : d.marginLost.pwr = d.marginFault.atP4.pwr := by rw [he, Dev.pwr_lantern, Dev.pwr_event]
  have hget {F : Fld} (h1 : F.key ≠ Reg.DBG_LTN_LOST.COUNT.key) (h2 : F.key ≠ Reg.CLK_EVENT.MARGIN_LOST.key) :
      d.marginLost.get F = d.marginFault.atP4.get F := by rw [he, Dev.get_lantern_ne _ _ _ _ _ _ _ _ h1, Dev.get_event_ne _ h2]
  refine ⟨fun h => ?_, fun h => ?_, ?_, ?_, ?_, ?_, ?_, ?_⟩
  · exact hrun.trans (congrArg Dev.run (if_pos h))
  · refine hrun.trans ((congrArg Dev.run (if_neg (by rw [h]; decide))).trans ?_)
    obtain ⟨r, x, l, y, hb⟩ := Dev.blockFault_eq d noOwner 0x0A03 true
    rw [hb]
  · rw [hget (by decide) (by decide)]
    exact (Dev.get_put_ne _ _ (by decide)).trans ((Dev.get_put_ne _ _ (by decide)).trans (Dev.get_put_self _ _ _))
  · rw [hget (by decide) (by decide)]
    exact (Dev.get_put_ne _ _ (by decide)).trans (Dev.get_put_self _ _ _)
  · rw [hget (by decide) (by decide)]
    exact Dev.get_put_self _ _ _
  · rw [hpwr]
    rfl
  · rw [hpwr]
    rfl
  · rw [he, Dev.is_lantern_ne _ _ _ _ _ _ _ _ (by decide)]
    exact Dev.is_event_self _ _ (by decide)

/-! ### Stretches -/

theorem Dev.get_stretchIslands_ne (is : List Nat) (d : Dev) {F : Fld} (h : F.key ≠ Reg.MSH_SLIP_PEAK.PEAK.key) :
    (d.stretchIslands is).get F = d.get F := by
  have hl (l : List (Nat × Nat × Nat)) (g : Nat × Nat × Nat → Int) (e : Dev) :
      (l.foldl (fun (e : Dev) x => if g x = 0 then e else e.slipBy x.1 (g x)) e).get F = e.get F := by
    induction l generalizing e with
    | nil => rfl
    | cons x l ih =>
      refine (ih _).trans ?_
      dsimp only
      split
      · rfl
      · exact Dev.get_peak_ne _ _ h
  exact hl _ _ _

theorem Dev.takeStretch_facts {i : Nat} (hi : i ≤ 20) (d : Dev) : let e := d.takeStretch i
    kget false e.pwr.warned i = false ∧ e.get (Reg.CLK_STRETCH.COUNT i) = min (d.get (Reg.CLK_STRETCH.COUNT i) + 1) (2 ^ 32 - 1) ∧
      kget [] e.pwr.wins i = d.window :: d.stretchWins i ∧ e.pwr.stretches = kset 0 d.pwr.stretches i (kget 0 d.pwr.stretches i + 1) ∧
      kget 0 e.events.cur.stretched i = kget 0 d.events.cur.stretched i + 1 := by
  have hne : (Reg.CLK_STRETCH.COUNT i).key ≠ Reg.MSH_SLIP_PEAK.PEAK.key := by
    simp only [Fld.key, Reg.CLK_STRETCH.COUNT, Reg.MSH_SLIP_PEAK.PEAK]
    omega
  have hcount (e : Dev) (f : HealthMs → HealthMs) : ((e.count (Reg.CLK_STRETCH.COUNT i) 1).tally f).get (Reg.CLK_STRETCH.COUNT i) =
      min (e.get (Reg.CLK_STRETCH.COUNT i) + 1) (2 ^ 32 - 1) := Dev.get_count_self e _ 1
  have hg := Dev.get_stretchIslands_ne [i] { d with pwr := { d.pwr with
    warned := kset false d.pwr.warned i false, wins := kset [] d.pwr.wins i (d.window :: d.stretchWins i) } } hne
  obtain ⟨sl, r, h⟩ := Dev.stretchIslands_eq [i] { d with pwr := { d.pwr with
    warned := kset false d.pwr.warned i false, wins := kset [] d.pwr.wins i (d.window :: d.stretchWins i) } }
  unfold Dev.takeStretch
  refine ⟨?_, ?_, ?_, ?_, ?_⟩
  · rw [h]
    exact kget_kset_self false d.pwr.warned i false
  · rw [hcount, hg]
    rfl
  · rw [h]
    exact kget_kset_self [] d.pwr.wins i (d.window :: d.stretchWins i)
  · rw [h]
    rfl
  · rw [h]
    exact kget_kset_self 0 d.events.cur.stretched i (kget 0 d.events.cur.stretched i + 1)

/-- A window whose shadow stretch has been taken is not due again. -/
theorem Dev.shadowDue_of_done {d : Dev} (h : d.pwr.shadowed = d.window - 1) : d.shadowDue = false := by
  unfold Dev.shadowDue
  rw [h, decide_eq_false (Nat.lt_irrefl _), Bool.and_false, Bool.false_and]

theorem Dev.shadowStretch_facts {d : Dev} (h : d.shadowDue = true) : let e := d.shadowStretch
    e.get Reg.CLK_SHADOWS.COUNT = min (d.get Reg.CLK_SHADOWS.COUNT + 1) (2 ^ 32 - 1) ∧ e.pwr.shadowed = d.window - 1 ∧
      e.pwr.stretches = ((List.range 21).filter fun i => !(d.stretchWins i).contains (d.window - 2)).foldl
        (fun m i => kset 0 m i (kget 0 m i + 1)) d.pwr.stretches ∧ e.shadowDue = false := by
  have he : d.shadowStretch = _ := if_pos h
  have hg := Dev.get_stretchIslands_ne ((List.range 21).filter fun i => !(d.stretchWins i).contains (d.window - 2))
    { d with pwr := { d.pwr with shadowed := d.window - 1 } } (F := Reg.CLK_SHADOWS.COUNT) (by decide)
  obtain ⟨sl, r, hs⟩ := Dev.stretchIslands_eq ((List.range 21).filter fun i => !(d.stretchWins i).contains (d.window - 2))
    { d with pwr := { d.pwr with shadowed := d.window - 1 } }
  rw [he]
  refine ⟨?_, ?_, ?_, ?_⟩
  · refine (Dev.get_count_self _ _ _).trans ?_
    rw [hg]
    rfl
  · rw [hs]
    rfl
  · rw [hs]
    rfl
  · refine Dev.shadowDue_of_done ?_
    rw [hs]
    rfl

theorem Dev.stretchHigh_facts {i : Nat} {d : Dev} (h : d.stretchHighDue i = true) : let e := d.stretchHigh i
    kget false e.pwr.above i = true ∧ e.is Reg.CLK_EVENT.STRETCH_HIGH = true ∧ e.stretchHighDue i = false := by
  have he : d.stretchHigh i = _ := if_pos h
  have habove : kget false (d.stretchHigh i).pwr.above i = true := by
    rw [he, Dev.pwr_event]
    exact kget_kset_self false d.pwr.above i true
  refine ⟨habove, ?_, ?_⟩
  · rw [he]
    exact Dev.is_event_self _ _ (by decide)
  · unfold Dev.stretchHighDue
    rw [habove, Bool.not_true, Bool.and_false]

/-- Settles O32: margin codes by WARN, a lost margin by what it stops, each stretch by its counts. -/
theorem stretches : Obligations.Stretches := by
  unfold Obligations.Stretches
  refine ⟨fun i m s => ?margin, Dev.marginLost_facts, fun d i hi => Dev.takeStretch_facts hi d, fun s => ⟨fun h => ?_, fun h => ?_⟩,
    fun i s => ⟨fun h => ?_, fun h => ?_⟩⟩
  case margin =>
    intro n d warn
    have hown : Leaves (.ownStretch i m) s (s.dev.ownStretch n m.toNat) := rfl
    have hlost : Leaves (.clkMarginLost i) s (if n ≤ 20 then s.dev.ownStretch n 0 else s.dev) := rfl
    refine ⟨fun h => ⟨hown.noEffect (Dev.ownStretch_asleep h), hlost.noEffect ?_⟩, fun hn hs => ⟨fun hm hw => ?_, fun hm hw => ?_, fun hm => ?_, ?_⟩⟩
    · split
      · exact Dev.ownStretch_asleep h
      · rfl
    · have hm' : m.toNat ≠ 0 := fun h0 => hm (BitVec.eq_of_toNat_eq h0)
      exact hown.noEffect ((Dev.ownStretch_margin hn hs hm').trans (if_neg (Nat.not_lt.2 hw)))
    · have hm' : m.toNat ≠ 0 := fun h0 => hm (BitVec.eq_of_toNat_eq h0)
      exact hown.congr ((Dev.ownStretch_margin hn hs hm').trans (if_pos hw))
    · subst hm
      exact hown.congr (Dev.ownStretch_lost hn hs)
    · exact hlost.congr ((if_pos hn).trans (Dev.ownStretch_lost hn hs))
  · exact Leaves.noEffect (d := s.dev.shadowStretch) rfl (if_neg (by rw [h]; decide))
  · exact ⟨s.dev.shadowStretch, rfl, Dev.shadowStretch_facts h⟩
  · exact Leaves.noEffect (d := s.dev.stretchHigh i.toNat) rfl (if_neg (by rw [h]; decide))
  · exact ⟨s.dev.stretchHigh i.toNat, rfl, Dev.stretchHigh_facts h⟩

/-! ### Sensors -/

theorem Dev.dieSample_good {i : Nat} {c : Int} (d : Dev) (h : -40 ≤ c ∧ c ≤ 150) :
    d.dieSample i c = { d with dieTemp := kput d.dieTemp i c, dieBad := kset false d.dieBad i false } := by
  have hb : ¬ (c < -40 ∨ 150 < c) := by omega
  simp only [Dev.dieSample, decide_eq_false hb, Bool.false_and, Bool.false_eq_true, if_false]

theorem Dev.dieSample_bad {i : Nat} {c : Int} (d : Dev) (h : c < -40 ∨ 150 < c) : d.dieSample i c =
    { d with dieTemp := kput d.dieTemp i (if kget false d.dieBad i then 150 else c), dieBad := kset false d.dieBad i true } := by
  simp only [Dev.dieSample, decide_eq_true h, Bool.true_and]

/-- The device whose die sensors have been read, before what the registers show of it. -/
def Dev.dieRead (die : List (BitVec 5 × Int)) (d : Dev) : Dev :=
  (die.filter fun x => decide (x.1.toNat < 21)).foldl (fun (d : Dev) x => d.dieSample x.1.toNat x.2) d

theorem Dev.sensorSample_eq (die : List (BitVec 5 × Int)) (w : Nat) (d : Dev) : ∃ p, d.sensorSample die w =
    ({ (((d.dieRead die).put Reg.PWR_TEMP.DIE (intBits 8 (d.dieRead die).hottest.1)).put Reg.PWR_TEMP.ISLAND (d.dieRead die).hottest.2).put
        Reg.PWR_MODULE_W.WATTS (min 2047 w) with mod := { (d.dieRead die).mod with sampled := true }, pwr := p } : Dev).demands := ⟨_, rfl⟩

theorem Dev.sensorSample_facts (die : List (BitVec 5 × Int)) (w : Nat) (d : Dev) : let e := d.sensorSample die w
    e.dieTemp = (d.dieRead die).dieTemp ∧ e.get Reg.PWR_MODULE_W.WATTS = min 2047 w ∧ e.get Reg.PWR_TEMP.DIE = intBits 8 e.hottest.1 % 2 ^ 8 ∧
      e.get Reg.PWR_TEMP.ISLAND = e.hottest.2 % 2 ^ 5 ∧ e.mod.sampled = true := by
  obtain ⟨p, he⟩ := d.sensorSample_eq die w
  have hhot : (d.sensorSample die w).hottest = (d.dieRead die).hottest := by
    rw [he]
    rfl
  have hdem (e : Dev) {F : Fld} (h1 : F.key ≠ Reg.CLK_THROTTLE.THERMAL.key) (h2 : F.key ≠ Reg.CLK_THROTTLE.POWER.key) :
      e.demands.get F = e.get F := (Dev.get_put_ne _ _ h2).trans (Dev.get_put_ne _ _ h1)
  dsimp only
  rw [hhot, he]
  refine ⟨rfl, ?_, ?_, ?_, rfl⟩
  · rw [hdem _ (by decide) (by decide)]
    refine (Dev.get_put_self (((d.dieRead die).put Reg.PWR_TEMP.DIE (intBits 8 (d.dieRead die).hottest.1)).put Reg.PWR_TEMP.ISLAND
      (d.dieRead die).hottest.2) Reg.PWR_MODULE_W.WATTS (min 2047 w)).trans ?_
    exact Nat.mod_eq_of_lt (Nat.lt_of_le_of_lt (Nat.min_le_left _ _) (by decide))
  · rw [hdem _ (by decide) (by decide)]
    exact (Dev.get_put_ne (((d.dieRead die).put Reg.PWR_TEMP.DIE (intBits 8 (d.dieRead die).hottest.1)).put Reg.PWR_TEMP.ISLAND
      (d.dieRead die).hottest.2) (min 2047 w) (by decide)).trans ((Dev.get_put_ne _ _ (by decide)).trans (Dev.get_put_self _ _ _))
  · rw [hdem _ (by decide) (by decide)]
    exact (Dev.get_put_ne (((d.dieRead die).put Reg.PWR_TEMP.DIE (intBits 8 (d.dieRead die).hottest.1)).put Reg.PWR_TEMP.ISLAND
      (d.dieRead die).hottest.2) (min 2047 w) (by decide)).trans (Dev.get_put_self _ _ _)

/-! ### The throttle and the thermal hold -/

theorem Dev.throttleChange_facts {l : Nat} {d : Dev} (h : d.throttleStep = some l) (hl : l < 8) :
    d.throttleChange.get Reg.CLK_THROTTLE.LEVEL = l ∧ d.throttleChange.is Reg.PWR_EVENT.THROTTLE = true := by
  have he : ∃ (p : PwrSt) (n : Nat), d.throttleChange = (((({ d with pwr := p } : Dev).put Reg.CLK_THROTTLE.LEVEL l).demands.event
      Reg.PWR_EVENT.THROTTLE).lantern 10 0xFF 0 0 d.run.tick n none) := by
    simp only [Dev.throttleChange, h]
    exact ⟨_, _, rfl⟩
  obtain ⟨p, n, he⟩ := he
  rw [he]
  constructor
  · rw [Dev.get_lantern_ne _ _ _ _ _ _ _ _ (by decide), Dev.get_event_ne _ (by decide)]
    exact (Dev.get_put_ne _ _ (by decide)).trans ((Dev.get_put_ne _ _ (by decide)).trans ((Dev.get_put_self _ _ _).trans (Nat.mod_eq_of_lt hl)))
  · rw [Dev.is_lantern_ne _ _ _ _ _ _ _ _ (by decide)]
    exact Dev.is_event_self _ _ (by decide)

/-- The level moves by one. -/
theorem Dev.throttleStep_by_one {l : Nat} {d : Dev} (h : d.throttleStep = some l) :
    l + 1 = d.get Reg.CLK_THROTTLE.LEVEL ∨ l = d.get Reg.CLK_THROTTLE.LEVEL + 1 := by
  unfold Dev.throttleStep at h
  dsimp only at h
  split at h
  · exact .inr (Option.some.inj h).symm
  · split at h
    · next hd =>
      have hl := Option.some.inj h
      exact .inl (by omega)
    · exact absurd h (by simp)

/-- In a thermal hold only S4 is entered, and not in a run. -/
theorem Dev.stateDue_of_hold {n : Nat} {d : Dev} (h : d.stateDue = some n) (hh : d.is Reg.PWR_STATE.THERMAL_HOLD = true) :
    n = 4 ∧ d.running = false := by
  unfold Dev.stateDue at h
  rw [if_pos hh] at h
  split at h
  · next hd => exact ⟨(Option.some.inj h).symm, by simpa using hd.2⟩
  · exact absurd h (by simp)

/-- Settles O34: samples by what the registers show, the throttle by its step, the limits by when they are due. -/
theorem thermalLimits : Obligations.ThermalLimits := by
  unfold Obligations.ThermalLimits
  refine ⟨fun die w s => ⟨fun h => ?_, fun h => ?_⟩, fun d i c => ⟨fun h => ?_, fun h => ?_⟩, fun s => ⟨fun h => ?_, fun l h hl => ?_⟩,
    fun d l h => Dev.throttleStep_by_one h, fun s => ⟨fun h => ?_, fun h => ?_⟩, fun s => ⟨fun h => ?_, fun h => ?_⟩,
    fun d n h hh => Dev.stateDue_of_hold h hh, fun d h => ?_⟩
  · exact Leaves.noEffect (d := if s.dev.booted then s.dev.sensorSample die w else s.dev) rfl (if_neg (by rw [h]; decide))
  · exact ⟨_, Leaves.congr (d := if s.dev.booted then s.dev.sensorSample die w else s.dev) rfl (if_pos h), s.dev.sensorSample_facts die w⟩
  · rw [Dev.dieSample_good d h]
    exact ⟨kget_kput_self 0 d.dieTemp i c, kget_kset_self false d.dieBad i false⟩
  · rw [Dev.dieSample_bad d h]
    exact ⟨kget_kset_self false d.dieBad i true, kget_kput_self 0 d.dieTemp i _⟩
  · exact Leaves.noEffect (d := s.dev.throttleChange) rfl (by simp only [Dev.throttleChange, h])
  · exact ⟨s.dev.throttleChange, rfl, Dev.throttleChange_facts h hl⟩
  · exact Leaves.noEffect (d := s.dev.powerLimit) rfl (if_pos (by rw [h]; rfl))
  · exact Leaves.congr (d := s.dev.powerLimit) rfl (if_neg (by rw [h]; decide))
  · exact Leaves.noEffect (d := s.dev.thermalTrip) rfl (if_pos (by rw [h]; rfl))
  · exact Leaves.congr (d := s.dev.thermalTrip) rfl (if_neg (by rw [h]; decide))
  · unfold Dev.tripDue
    rw [h, Bool.not_true, Bool.false_and]

end Sys2Proof.Machine
end

section
/-! PROOF. Power states and wake events (R336 to R342, R347, R520, R597). -/

namespace Sys2Proof.Machine

/-! ### What registers and their events may change -/

/-- `e` differs from `d` in registers and in what an event tells the host alone. -/
def Dev.Told (d e : Dev) : Prop := ∃ r j o p w, e = { d with regs := r, justSet := j, out := o, msixPend := p, linkWait := w }

theorem Dev.Told.refl (d : Dev) : d.Told d := ⟨_, _, _, _, _, rfl⟩

theorem Dev.Told.trans {d e f : Dev} (h : d.Told e) (h' : e.Told f) : d.Told f := by
  obtain ⟨r, j, o, p, w, rfl⟩ := h
  obtain ⟨r', j', o', p', w', rfl⟩ := h'
  exact ⟨_, _, _, _, _, rfl⟩

theorem Dev.Told.put {d e : Dev} (h : d.Told e) (F : Fld) (v : Nat) : d.Told (e.put F v) := h.trans ⟨_, _, _, _, _, rfl⟩

theorem Dev.Told.putB {d e : Dev} (h : d.Told e) (F : Fld) (b : Bool) : d.Told (e.putB F b) := h.put F _

theorem Dev.Told.event {d e : Dev} (h : d.Told e) (F : Fld) : d.Told (e.event F) := h.trans (Dev.event_eq e F)

theorem Dev.Told.setBit {d e : Dev} (h : d.Told e) (F : Fld) : d.Told (e.setBit F) := by
  obtain ⟨j, hj⟩ := Dev.setBit_eq e F
  rw [hj]
  exact h.trans ⟨_, _, _, _, _, rfl⟩

theorem Dev.Told.emit {d e : Dev} (h : d.Told e) (o : Output) : d.Told (e.emit o) := h.trans ⟨_, _, _, _, _, rfl⟩

theorem Dev.Told.ite {d e f : Dev} (b : Prop) [Decidable b] (he : d.Told e) (hf : d.Told f) : d.Told (if b then e else f) := by
  split
  · exact he
  · exact hf

theorem Dev.Told.foldl {α : Type} {f : Dev → α → Dev} (hf : ∀ d a, Dev.Told d (f d a)) (l : List α) (d : Dev) : d.Told (l.foldl f d) := by
  induction l generalizing d with
  | nil => exact .refl d
  | cons a l ih => exact (hf d a).trans (ih _)

/-! ### What the entry of a state leaves -/

/-- The status bit of a link. -/
def linkFld (p sub : Nat) : Fld := if sub = 0 then Reg.WMK_P_STAT.LINK0 p else Reg.WMK_P_STAT.LINK1 p

/-- A link changes, with its event, or it does nothing. -/
theorem Dev.linkChange_cases (p sub : Nat) (up : Bool) (d : Dev) :
    d.linkChange p sub up = d ∨ d.linkChange p sub up = (d.putB (linkFld p sub) up).event Reg.WMK_EVENT.LINK_CHANGE := by
  have he : d.linkChange p sub up = if !d.portPresent p ∨ (up ∧ (!d.is (Reg.WMK_P_CFG.ENABLE p) ∨ !d.netClk ∨
      (sub = 1 ∧ !d.is (Reg.WMK_P_CFG.SPLIT p)))) then d
    else if d.is (linkFld p sub) = up then d else (d.putB (linkFld p sub) up).event Reg.WMK_EVENT.LINK_CHANGE := rfl
  rw [he]
  split
  · exact .inl rfl
  · split
    · exact .inl rfl
    · exact .inr rfl

theorem Dev.told_linkChange (p sub : Nat) (up : Bool) (d : Dev) : d.Told (d.linkChange p sub up) := by
  rcases Dev.linkChange_cases p sub up d with h | h
  · rw [h]
    exact .refl d
  · rw [h]
    exact ((Dev.Told.refl d).putB _ _).event _

theorem Dev.get_linkChange_ne (p sub : Nat) (up : Bool) (d : Dev) {F : Fld} (h0 : F.key ≠ (Reg.WMK_P_STAT.LINK0 p).key)
    (h1 : F.key ≠ (Reg.WMK_P_STAT.LINK1 p).key) (he : F.key ≠ Reg.WMK_EVENT.LINK_CHANGE.key) : (d.linkChange p sub up).get F = d.get F := by
  have hf : F.key ≠ (linkFld p sub).key := by
    unfold linkFld
    split
    · exact h0
    · exact h1
  rcases Dev.linkChange_cases p sub up d with h | h
  · rw [h]
  · rw [h]
    exact (Dev.get_event_ne _ he).trans (Dev.get_put_ne _ _ hf)

theorem Dev.told_portsDown (d : Dev) : d.Told d.portsDown :=
  .foldl (fun d p => .ite _ (.refl d) ((Dev.told_linkChange p 0 false d).trans (Dev.told_linkChange p 1 false _))) _ d

/-- Below the Waymark block, `portsDown` writes no register. -/
theorem Dev.get_portsDown (d : Dev) {F : Fld} (h : F.key < (Reg.WMK_P_STAT.LINK0 0).key) (h' : F.key < (Reg.WMK_P_STAT.LINK1 0).key)
    (he : F.key ≠ Reg.WMK_EVENT.LINK_CHANGE.key) : d.portsDown.get F = d.get F := by
  have h0 (p : Nat) : F.key ≠ (Reg.WMK_P_STAT.LINK0 p).key := by
    simp only [Fld.key, Reg.WMK_P_STAT.LINK0] at h ⊢
    omega
  have h1 (p : Nat) : F.key ≠ (Reg.WMK_P_STAT.LINK1 p).key := by
    simp only [Fld.key, Reg.WMK_P_STAT.LINK1] at h' ⊢
    omega
  unfold Dev.portsDown
  generalize List.range 8 = l
  induction l generalizing d with
  | nil => rfl
  | cons p l ih =>
    have hstep (b : Prop) [Decidable b] : (if b then d else (d.linkChange p 0 false).linkChange p 1 false).get F = d.get F := by
      split
      · rfl
      · rw [Dev.get_linkChange_ne _ _ _ _ (h0 p) (h1 p) he, Dev.get_linkChange_ne _ _ _ _ (h0 p) (h1 p) he]
    rw [List.foldl_cons, ih, hstep]

theorem Dev.mapCores_regs (f : CoreSt → CoreSt) (d : Dev) : (d.mapCores f).regs = d.regs := by
  unfold Dev.mapCores
  generalize d.cores = l
  induction l generalizing d with
  | nil => rfl
  | cons c l ih => exact (ih _).trans rfl

theorem Dev.loseFor_awake {n : Nat} (d : Dev) (h : n < 3) : d.loseFor n = d := if_pos h

theorem Dev.get_loseFor {n : Nat} (d : Dev) (h : n ≤ 3) (F : Fld) : (d.loseFor n).get F = d.get F := by
  unfold Dev.loseFor
  split
  · rfl
  · rw [if_pos (by omega)]
    have hr := Dev.mapCores_regs CoreSt.endTest d
    unfold Dev.get
    rw [hr]

theorem Dev.fusedOn_lt (d : Dev) : d.fusedOn < 2 ^ 24 := by
  unfold Dev.fusedOn
  dsimp only
  omega

theorem Dev.fusedOn_of_get {d e : Dev} (h : d.get Reg.GLB_GRADE.PORT_MASK = e.get Reg.GLB_GRADE.PORT_MASK) : d.fusedOn = e.fusedOn := by
  unfold Dev.fusedOn
  rw [h]

theorem Dev.updDomains_facts (d : Dev) : let e := d.updDomains
    e.get Reg.PWR_DOMAIN_ON.PD = domainsOn (d.get Reg.PWR_STATE.STATE) (d.is Reg.PWR_STATE.THERMAL_HOLD) &&& d.fusedOn ∧
      e.get Reg.PWR_DOMAIN_RET.PD = domainsRet (d.get Reg.PWR_STATE.STATE) &&& d.fusedOn := by
  have hlt (x : Nat) : x &&& d.fusedOn < 2 ^ 24 := Nat.lt_of_le_of_lt Nat.and_le_right d.fusedOn_lt
  exact ⟨(Dev.get_put_ne _ _ (by decide)).trans ((Dev.get_put_self _ _ _).trans (Nat.mod_eq_of_lt (hlt _))),
    (Dev.get_put_self _ _ _).trans (Nat.mod_eq_of_lt (hlt _))⟩

theorem Dev.get_updDomains_ne (d : Dev) {F : Fld} (h1 : F.key ≠ Reg.PWR_DOMAIN_ON.PD.key) (h2 : F.key ≠ Reg.PWR_DOMAIN_RET.PD.key) :
    d.updDomains.get F = d.get F := (Dev.get_put_ne _ _ h2).trans (Dev.get_put_ne _ _ h1)

/-- What a state takes from the device before PWR_STATE shows it. -/
def Dev.lostFor (n : Nat) (d : Dev) : Dev := if 4 ≤ n then (d.loseFor n).flushChecks else d.loseFor n

theorem Dev.enterState_eq (n : Nat) (d : Dev) : ∃ p, d.enterState n =
    { ((d.lostFor n).put Reg.PWR_STATE.STATE n).updDomains.portsDown with pwr := p } := ⟨_, rfl⟩

theorem Dev.get_enterState (n : Nat) (d : Dev) (F : Fld) :
    (d.enterState n).get F = ((d.lostFor n).put Reg.PWR_STATE.STATE n).updDomains.portsDown.get F := rfl

theorem Dev.lostFor_shallow {n : Nat} (d : Dev) (h : n ≤ 3) : d.lostFor n = d.loseFor n := if_neg (by omega)

theorem Dev.enterState_facts {n : Nat} (d : Dev) (hn : n ≤ 3) : let e := d.enterState n
    e.get Reg.PWR_STATE.STATE = n ∧ e.get Reg.PWR_DOMAIN_ON.PD = domainsOn n (d.is Reg.PWR_STATE.THERMAL_HOLD) &&& d.fusedOn ∧
      e.get Reg.PWR_DOMAIN_RET.PD = domainsRet n &&& d.fusedOn ∧ (n ≤ 2 → e.cores = d.cores) := by
  have hstate : ((d.lostFor n).put Reg.PWR_STATE.STATE n).get Reg.PWR_STATE.STATE = n :=
    (Dev.get_put_self _ _ _).trans (Nat.mod_eq_of_lt (Nat.lt_of_le_of_lt hn (by decide)))
  have hkept {F : Fld} (h : F.key ≠ Reg.PWR_STATE.STATE.key) : ((d.lostFor n).put Reg.PWR_STATE.STATE n).get F = d.get F := by
    rw [Dev.get_put_ne _ _ h, Dev.lostFor_shallow d hn, Dev.get_loseFor d hn]
  have hhold := Dev.is_of_get (hkept (F := Reg.PWR_STATE.THERMAL_HOLD) (by decide))
  have hfused := Dev.fusedOn_of_get (hkept (F := Reg.GLB_GRADE.PORT_MASK) (by decide))
  obtain ⟨hon, hret⟩ := ((d.lostFor n).put Reg.PWR_STATE.STATE n).updDomains_facts
  rw [hstate, hfused] at hon hret
  rw [hhold] at hon
  refine ⟨?_, ?_, ?_, fun h2 => ?_⟩
  · rw [Dev.get_enterState, Dev.get_portsDown _ (by decide) (by decide) (by decide), Dev.get_updDomains_ne _ (by decide) (by decide)]
    exact hstate
  · rw [Dev.get_enterState, Dev.get_portsDown _ (by decide) (by decide) (by decide)]
    exact hon
  · rw [Dev.get_enterState, Dev.get_portsDown _ (by decide) (by decide) (by decide)]
    exact hret
  · obtain ⟨p, he⟩ := d.enterState_eq n
    obtain ⟨r, j, o, q, w, hp⟩ := ((d.lostFor n).put Reg.PWR_STATE.STATE n).updDomains.told_portsDown
    have hc : (d.lostFor n).cores = d.cores := by rw [Dev.lostFor_shallow d hn, Dev.loseFor_awake d (by omega)]
    rw [he, hp]
    exact hc

/-- A core without a row, as S4 and S5 leave it. -/
def CoreSt.Emptied (k : CoreSt) : Prop := k.scratch = [] ∧ k.emptyRow = [] ∧ k.test = none

theorem CoreSt.Emptied.row {k : CoreSt} (h : k.Emptied) (bank row : Nat) : k.row bank row = 0#4096 := by
  obtain ⟨hs, he, ht⟩ := h
  rw [CoreSt.row_of_no_test bank row ht, hs, he]
  rfl

/-- Each core that a walk empties is empty. -/
theorem Dev.emptied_foldl_onCore (g : Dev → Nat → CoreSt → CoreSt) (hg : ∀ d c k, (g d c k).Emptied) {n c : Nat} (d : Dev) (h : c < n) :
    (((List.range n).foldl (fun (d : Dev) c => d.onCore c (g d c)) d).core c).Emptied := by
  induction n with
  | zero => omega
  | succ n ih =>
    rw [List.range_succ, List.foldl_append, List.foldl_cons, List.foldl_nil]
    by_cases hc : c = n
    · subst hc
      rw [Dev.core_onCore_self]
      exact hg _ _ _
    · rw [Dev.core_onCore_ne _ _ hc]
      exact ih (by omega)

theorem Dev.emptied_loseFor {n c : Nat} (d : Dev) (hn : 4 ≤ n) (hc : c < 256) : ((d.loseFor n).core c).Emptied := by
  have he : d.loseFor n = _ := (if_neg (by omega)).trans (if_neg (by omega))
  rw [he]
  refine Dev.emptied_foldl_onCore (fun d c k => { k.zeroed with
    remap := d.remapsOf c, test := none, outbound := [], inRoute := [], inHost := [], inReply := [], delivered := 0 }) (fun d c k => ?_) _ hc
  obtain ⟨hs, he⟩ := k.zeroed_facts
  exact ⟨hs, he, rfl⟩

theorem Dev.row_enterState_deep {n c : Nat} (d : Dev) (hn : 4 ≤ n) (hc : c < 256) (bank row : Nat) :
    ((d.enterState n).core c).row bank row = 0#4096 := by
  obtain ⟨p, he⟩ := d.enterState_eq n
  obtain ⟨r, j, o, q, w, hp⟩ := ((d.lostFor n).put Reg.PWR_STATE.STATE n).updDomains.told_portsDown
  have hk : (d.enterState n).core c = (d.loseFor n).core c := by
    rw [he, hp, Dev.lostFor, if_pos hn]
    rfl
  rw [hk]
  exact (d.emptied_loseFor hn hc).row bank row

/-! ### Waking -/

/-- The cores of islands that were off, as they come back. -/
def Dev.repowered (n : Nat) (d : Dev) : Dev :=
  if 4 ≤ d.get Reg.PWR_STATE.STATE ∨ (3 ≤ d.get Reg.PWR_STATE.STATE ∧ n < 3) then
    (List.range 256).foldl (fun (e : Dev) c => e.onCore c (CoreSt.poweredUp (decide (4 ≤ d.get Reg.PWR_STATE.STATE)) (d.fresh + 258 * c)))
      { d with fresh := d.fresh + 258 * 256 }
  else d

/-- The device that shows its new state. -/
def Dev.inState (n t : Nat) (d : Dev) : Dev :=
  { (d.put Reg.PWR_STATE.STATE n).updDomains with
    pwr := { (d.put Reg.PWR_STATE.STATE n).updDomains.pwr with selfRefresh := decide (4 ≤ n), idleSince := some t } }

theorem Dev.leaveTo_deeper {n : Nat} {d : Dev} (h : n < d.get Reg.PWR_STATE.STATE) : d.leaveTo n =
    if 2 ≤ d.get Reg.PWR_STATE.STATE then ((d.repowered n).inState n d.now).event Reg.PWR_EVENT.WOKE else (d.repowered n).inState n d.now :=
  if_neg (Nat.not_le.2 h)

theorem Dev.leaveTo_facts {n : Nat} {d : Dev} (h : n < d.get Reg.PWR_STATE.STATE) (h3 : d.get Reg.PWR_STATE.STATE < 3) (h8 : n < 8) :
    let e := d.leaveTo n
    e.get Reg.PWR_STATE.STATE = n ∧ (2 ≤ d.get Reg.PWR_STATE.STATE → e.is Reg.PWR_EVENT.WOKE = true) ∧ e.cores = d.cores := by
  have hp : d.repowered n = d := if_neg (by omega)
  have hst : (d.inState n d.now).get Reg.PWR_STATE.STATE = n :=
    (Dev.get_updDomains_ne (d.put Reg.PWR_STATE.STATE n) (by decide) (by decide)).trans ((Dev.get_put_self _ _ _).trans (Nat.mod_eq_of_lt h8))
  rw [Dev.leaveTo_deeper h, hp]
  refine ⟨?_, fun h2 => ?_, ?_⟩
  · split
    · exact (Dev.get_event_ne _ (by decide)).trans hst
    · exact hst
  · rw [if_pos h2]
    exact Dev.is_event_self _ _ (by decide)
  · split
    · obtain ⟨r, j, o, q, w, hv⟩ := Dev.event_eq (d.inState n d.now) Reg.PWR_EVENT.WOKE
      rw [hv]
      rfl
    · rfl

theorem Dev.wake_unreal {ev : WakeEvent} {d : Dev} (h : (ev = .launchNear ∧ d.is Reg.TIM_STATUS.LAUNCH_ARMED = false) ∨
    (ev = .gateReady ∧ d.gate.any (·.released) = false) ∨ (ev = .budget ∧ d.get Reg.PWR_STATE.STATE ≤ d.deepest)) : d.wake ev = d := by
  rcases h with ⟨rfl, h⟩ | ⟨rfl, h⟩ | ⟨rfl, h⟩
  · exact if_neg fun h' => Bool.false_ne_true (h.symm.trans h')
  · exact if_neg fun h' => Bool.false_ne_true (h.symm.trans h')
  · exact if_neg fun h' => Nat.not_lt.2 h (of_decide_eq_true h')

theorem Dev.wake_real {ev : WakeEvent} {d : Dev} (h1 : ev = .launchNear → d.is Reg.TIM_STATUS.LAUNCH_ARMED = true)
    (h2 : ev = .gateReady → d.gate.any (·.released) = true) (h3 : ev = .budget → d.deepest < d.get Reg.PWR_STATE.STATE) : d.wake ev = d.wakeUp ev := by
  refine if_pos ?_
  cases ev with
  | launchNear => exact h1 rfl
  | gateReady => exact h2 rfl
  | budget => exact decide_eq_true (h3 rfl)
  | _ => rfl

/-- A deeper state that is due without a hold is the deepest one of an idle device. -/
theorem Dev.stateDue_of_idle {n : Nat} {d : Dev} (h : d.stateDue = some n) (hh : d.is Reg.PWR_STATE.THERMAL_HOLD = false) :
    d.idle = true ∧ n = d.deepest ∧ d.get Reg.PWR_STATE.STATE < n := by
  unfold Dev.stateDue at h
  rw [if_neg (by rw [hh]; decide)] at h
  split at h
  · next hd =>
    obtain ⟨-, hi, hlt, -⟩ := hd
    have hn := Option.some.inj h
    exact ⟨hi, hn.symm, hn ▸ hlt⟩
  · exact absurd h (by simp)

/-- Settles O35: states by what they take and show, wake events by whether they have come about, budgets by who writes them. -/
theorem powerStates : Obligations.PowerStates := by
  unfold Obligations.PowerStates
  refine ⟨fun s => ⟨fun h => ?_, fun n h => ?_⟩, fun d n hn => d.enterState_facts hn, fun d n c bank row hn hc => d.row_enterState_deep hn hc bank row,
    fun d n => rfl, fun ev s => ?wake, fun d ev => ⟨fun hh h => ?held, fun hh he hc hs => ?cooled, fun hh hs => ⟨fun he h4 => ?traffic, fun h => ?woken⟩⟩,
    fun d n h => if_pos h, fun d n h h3 h8 => Dev.leaveTo_facts h h3 h8, fun d n h hh => Dev.stateDue_of_idle h hh,
    fun b s => ⟨fun h => ?_, fun h => ?_⟩, fun b t ns s => ?budget, by decide⟩
  · exact Leaves.noEffect (d := s.dev.powerStateEntry) rfl (by simp only [Dev.powerStateEntry, h])
  · exact Leaves.congr (d := s.dev.powerStateEntry) rfl (by simp only [Dev.powerStateEntry, h])
  case wake =>
    intro near free
    have hl : Leaves (.wake ev) s (if s.dev.mod.fw then s.dev.wake ev else s.dev) := rfl
    refine ⟨fun h => hl.noEffect ?_, fun hf h1 h2 h3 => hl.congr ((if_pos hf).trans (Dev.wake_real h1 h2 h3))⟩
    rcases h with h | h
    · exact if_neg (by rw [h]; decide)
    · rw [Dev.wake_unreal h]
      exact ite_self _
  case held =>
    refine (if_pos hh).trans (if_neg fun hc => ?_)
    obtain ⟨h1, h2, h3⟩ := hc
    rcases h with h | h | h
    · exact h h1
    · exact absurd h2 (by rw [h]; decide)
    · exact h h3
  case cooled => exact (if_pos hh).trans (if_pos ⟨he, hc, hs⟩)
  case traffic => exact (if_neg (by rw [hh]; decide)).trans ((if_neg hs).trans (if_pos ⟨he, h4⟩))
  case woken =>
    refine (if_neg (by rw [hh]; decide)).trans ((if_neg hs).trans (if_neg fun hc => ?_))
    exact h.elim (· hc.1) (fun h => Nat.not_lt.2 hc.2 h)
  · exact Leaves.noEffect (d := s.dev.ctrlWake b.toNat) rfl (if_neg (by rw [h]; decide))
  · exact Leaves.congr (d := s.dev.ctrlWake b.toNat) rfl (if_pos h)
  case budget =>
    have hl : Leaves (.pwrBudgetNsWrite b t ns) s (s.dev.budgetWrite b.toNat t.toNat ns.toNat) := rfl
    refine ⟨fun h => hl.noEffect (by simp only [Dev.budgetWrite, h]), fun u hu => ⟨fun h0 ht => hl.noEffect ?_, fun h => hl.congr ?_⟩⟩
    · simp only [Dev.budgetWrite, hu, h0, ht, or_self, if_false]
    · simp only [Dev.budgetWrite, hu, if_pos h]

end Sys2Proof.Machine
end

section
/-! PROOF. The Milestone counter's sync and the PPS pins (R425 to R429, R555, R557). -/

namespace Sys2Proof.Machine

/-! ### Sync messages -/

/-- The device that shows a sync message. -/
def Dev.syncShown (off : Int) (st : Nat) (d : Dev) : Dev :=
  let e := (d.put Reg.TIM_OFFSET.NS (intBits 32 off)).put Reg.TIM_STATUS.STEPS st
  ({ e with tim := { e.tim with
    above := if decide ((d.get Reg.TIM_CFG.SYNC_LIMIT : Int) < off.natAbs) then e.tim.above + 1 else 0 } } : Dev).put Reg.TIM_STATUS.GRANDMASTER 0

theorem Dev.syncMessage_ignored {dom st : Nat} {off : Int} {acc : Bool} {d : Dev}
    (h : d.mod.fw = false ∨ d.get Reg.TIM_CFG.SOURCE = 0 ∨ dom ≠ d.get Reg.TIM_CFG.DOMAIN) : d.syncMessage dom off st acc = d :=
  if_pos (by simpa only [Bool.not_eq_true'] using h)

theorem Dev.syncMessage_taken {dom st : Nat} {off : Int} {acc : Bool} {d : Dev} (hf : d.mod.fw = true) (hs : d.get Reg.TIM_CFG.SOURCE ≠ 0)
    (hd : dom = d.get Reg.TIM_CFG.DOMAIN) : d.syncMessage dom off st acc =
      let e := d.syncShown off st
      if d.is Reg.TIM_STATUS.LOCKED then (if 3 ≤ e.tim.above then e.syncLost else e)
      else if acc ∧ (e.maySet ∨ !decide ((d.get Reg.TIM_CFG.SYNC_LIMIT : Int) < off.natAbs)) then e.lock off else e :=
  if_neg fun h => h.elim (fun h => absurd h (by rw [hf]; decide)) fun h => h.elim hs fun h => h hd

theorem Dev.get_syncShown_ne (off : Int) (st : Nat) (d : Dev) {F : Fld} (h1 : F.key ≠ Reg.TIM_OFFSET.NS.key)
    (h2 : F.key ≠ Reg.TIM_STATUS.STEPS.key) (h3 : F.key ≠ Reg.TIM_STATUS.GRANDMASTER.key) : (d.syncShown off st).get F = d.get F :=
  (Dev.get_put_ne _ _ h3).trans ((Dev.get_put_ne _ _ h2).trans (Dev.get_put_ne _ _ h1))

theorem Dev.is_locked_syncShown (off : Int) (st : Nat) (d : Dev) : (d.syncShown off st).is Reg.TIM_STATUS.LOCKED = d.is Reg.TIM_STATUS.LOCKED :=
  Dev.is_of_get (Dev.get_syncShown_ne off st d (by decide) (by decide) (by decide))

theorem Dev.now_syncShown (off : Int) (st : Nat) (d : Dev) : (d.syncShown off st).now = d.now :=
  Dev.get_syncShown_ne off st d (by decide) (by decide) (by decide)

theorem Dev.get_offset_syncShown (off : Int) (st : Nat) (d : Dev) : (d.syncShown off st).get Reg.TIM_OFFSET.NS = intBits 32 off % 2 ^ 32 :=
  (Dev.get_put_ne _ _ (by decide)).trans ((Dev.get_put_ne (d.put Reg.TIM_OFFSET.NS (intBits 32 off)) st (by decide)).trans (Dev.get_put_self _ _ _))

theorem Dev.get_steps_syncShown (off : Int) (st : BitVec 8) (d : Dev) : (d.syncShown off st.toNat).get Reg.TIM_STATUS.STEPS = st.toNat :=
  (Dev.get_put_ne _ _ (by decide)).trans ((Dev.get_put_self (d.put Reg.TIM_OFFSET.NS (intBits 32 off)) Reg.TIM_STATUS.STEPS st.toNat).trans
    (Nat.mod_eq_of_lt st.isLt))

theorem Dev.above_syncShown_within {off : Int} {d : Dev} (st : Nat) (h : (off.natAbs : Int) ≤ d.get Reg.TIM_CFG.SYNC_LIMIT) :
    (d.syncShown off st).tim.above = 0 := if_neg fun h' => absurd (of_decide_eq_true h') (by omega)

theorem Dev.above_syncShown_over {off : Int} {d : Dev} (st : Nat) (h : d.get Reg.TIM_CFG.SYNC_LIMIT < off.natAbs) :
    (d.syncShown off st).tim.above = d.tim.above + 1 := if_pos (decide_eq_true (by omega))

/-! ### Lock and loss of sync -/

/-- The device whose counter has taken the source's value where it may, and that has locked once. -/
def Dev.timed (off : Int) (d : Dev) : Dev :=
  let e := if d.maySet then d.put Reg.TIM_MILESTONE.COUNT ((d.now : Int) - off).toNat else d
  { e with tim := { e.tim with everLocked := true, above := 0, lastPps := e.now } }

theorem Dev.lock_eq (off : Int) (d : Dev) :
    d.lock off = (((d.timed off).put Reg.TIM_STATUS.LOCKED 1).put Reg.TIM_STATUS.HOLDOVER 0).event Reg.TIM_EVENT.LOCK := rfl

theorem Dev.get_timed_ne (off : Int) (d : Dev) {F : Fld} (h : F.key ≠ Reg.TIM_MILESTONE.COUNT.key) : (d.timed off).get F = d.get F := by
  have hput : (if d.maySet then d.put Reg.TIM_MILESTONE.COUNT ((d.now : Int) - off).toNat else d).get F = d.get F := by
    split
    · exact Dev.get_put_ne _ _ h
    · rfl
  exact hput

theorem Dev.lock_facts (off : Int) (d : Dev) : let e := d.lock off
    e.is Reg.TIM_STATUS.LOCKED = true ∧ e.is Reg.TIM_STATUS.HOLDOVER = false ∧ e.is Reg.TIM_EVENT.LOCK = true ∧
      e.get Reg.TIM_STATUS.STEPS = d.get Reg.TIM_STATUS.STEPS ∧ e.tim.everLocked = true := by
  rw [Dev.lock_eq]
  refine ⟨Dev.is_of_get_one ?_, Dev.is_of_get_zero ?_, Dev.is_event_self _ _ (by decide), ?_, ?_⟩
  · exact (Dev.get_event_ne _ (by decide)).trans ((Dev.get_put_ne _ _ (by decide)).trans (Dev.get_put_self _ _ _))
  · exact (Dev.get_event_ne _ (by decide)).trans (Dev.get_put_self _ _ _)
  · exact (Dev.get_event_ne _ (by decide)).trans ((Dev.get_put_ne _ _ (by decide)).trans ((Dev.get_put_ne _ _ (by decide)).trans
      (d.get_timed_ne off (by decide))))
  · obtain ⟨r, j, o, p, w, h⟩ := Dev.event_eq (((d.timed off).put Reg.TIM_STATUS.LOCKED 1).put Reg.TIM_STATUS.HOLDOVER 0) Reg.TIM_EVENT.LOCK
    rw [h]
    rfl

theorem Dev.now_lock (d : Dev) (off : Int) : (d.lock off).now = if d.maySet then ((d.now : Int) - off).toNat % 2 ^ 64 else d.now := by
  have hput : (d.timed off).now = if d.maySet then ((d.now : Int) - off).toNat % 2 ^ 64 else d.now := by
    have hnow : (d.timed off).now = (if d.maySet then d.put Reg.TIM_MILESTONE.COUNT ((d.now : Int) - off).toNat else d).now := rfl
    rw [hnow]
    split
    · exact Dev.get_put_self _ _ _
    · rfl
  rw [Dev.lock_eq]
  exact (Dev.get_event_ne _ (by decide)).trans ((Dev.get_put_ne _ _ (by decide)).trans ((Dev.get_put_ne _ _ (by decide)).trans hput))

/-- The device that has lost sync, before a running segment stops. -/
def Dev.unlocked (d : Dev) : Dev :=
  let e := ((d.put Reg.TIM_STATUS.LOCKED 0).put Reg.TIM_STATUS.HOLDOVER 1).event Reg.TIM_EVENT.SYNC_LOST
  { e with tim := { e.tim with above := 0 } }

theorem Dev.syncLost_locked {d : Dev} (h : d.is Reg.TIM_STATUS.LOCKED = true) : d.syncLost =
    if d.running && d.routeJoined then (d.unlocked.wmkRecord 0x0704 0 0).raiseNext 0x0704 else d.unlocked := if_neg (by rw [h]; decide)

theorem Dev.unlocked_facts (d : Dev) : d.unlocked.is Reg.TIM_STATUS.LOCKED = false ∧ d.unlocked.is Reg.TIM_STATUS.HOLDOVER = true ∧
    d.unlocked.is Reg.TIM_EVENT.SYNC_LOST = true ∧
      RegsKept d.unlocked d [Reg.TIM_STATUS.LOCKED, Reg.TIM_STATUS.HOLDOVER, Reg.TIM_EVENT.SYNC_LOST] := by
  let e := ((d.put Reg.TIM_STATUS.LOCKED 0).put Reg.TIM_STATUS.HOLDOVER 1).event Reg.TIM_EVENT.SYNC_LOST
  have hl : e.is Reg.TIM_STATUS.LOCKED = false := Dev.is_of_get_zero
    ((Dev.get_event_ne _ (by decide)).trans ((Dev.get_put_ne _ _ (by decide)).trans (Dev.get_put_self _ _ _)))
  have hh : e.is Reg.TIM_STATUS.HOLDOVER = true := Dev.is_of_get_one ((Dev.get_event_ne _ (by decide)).trans (Dev.get_put_self _ _ _))
  have he : e.is Reg.TIM_EVENT.SYNC_LOST = true := Dev.is_event_self _ _ (by decide)
  have hk : RegsKept e d [Reg.TIM_STATUS.LOCKED, Reg.TIM_STATUS.HOLDOVER, Reg.TIM_EVENT.SYNC_LOST] :=
    (((RegsKept.refl d _).put 0 (by simp)).put 1 (by simp)).event (by simp)
  exact ⟨hl, hh, he, hk⟩

theorem Dev.syncLost_alone {d : Dev} (h : d.is Reg.TIM_STATUS.LOCKED = true) (hr : (d.running && d.routeJoined) = false) :
    d.syncLost = d.unlocked := (Dev.syncLost_locked h).trans (if_neg (by rw [hr]; decide))

/-- Settles O36: sync messages by lock and limit, loss of sync by what runs, pulses by width and source. -/
theorem milestoneTime : Obligations.MilestoneTime := by
  unfold Obligations.MilestoneTime
  refine ⟨fun dom off st acc s => ?message, Dev.now_lock, fun s => ⟨fun h => ?_, fun h => ?_, fun h hr => ?_⟩, fun h m s => ?pulse,
    fun s => ⟨fun h => ?_, fun h => ?_⟩⟩
  case message =>
    have hl : Leaves (.syncMessage dom off st acc) s (s.dev.syncMessage dom.toNat off st.toNat acc) := rfl
    refine ⟨fun h => hl.noEffect (Dev.syncMessage_ignored h), fun hf hs hd => ?_⟩
    have he := hl.congr (Dev.syncMessage_taken hf hs hd)
    refine ⟨fun hk ha hw => ?locks, fun hk hw => ?within, fun hk ho => ⟨_, he.congr (if_pos hk), fun h2 => ?above, fun h2 hr => ?lost⟩, fun hk ha => ?unlocked⟩
    case locks =>
      have hgo : acc ∧ ((s.dev.syncShown off st.toNat).maySet ∨ !decide ((s.dev.get Reg.TIM_CFG.SYNC_LIMIT : Int) < off.natAbs)) :=
        ⟨ha, .inr (by rw [decide_eq_false (by omega)]; rfl)⟩
      obtain ⟨h1, h2, h3, h4, h5⟩ := (s.dev.syncShown off st.toNat).lock_facts off
      exact ⟨_, he.congr ((if_neg (by rw [hk]; decide)).trans (if_pos hgo)), h1, h2, h3, h4.trans (Dev.get_steps_syncShown off st s.dev), h5⟩
    case within =>
      have h0 := Dev.above_syncShown_within st.toNat hw
      exact ⟨_, he.congr ((if_pos hk).trans (if_neg (by rw [h0]; decide))), (Dev.is_locked_syncShown _ _ _).trans hk,
        Dev.get_offset_syncShown _ _ _, Dev.get_steps_syncShown _ _ _, h0, Dev.now_syncShown _ _ _⟩
    case above =>
      have h0 := Dev.above_syncShown_over st.toNat ho
      rw [if_neg (by rw [h0]; omega)]
      exact ⟨(Dev.is_locked_syncShown _ _ _).trans hk, h0⟩
    case lost =>
      have h0 := Dev.above_syncShown_over st.toNat ho
      rw [if_pos (by rw [h0]; omega), Dev.syncLost_alone ((Dev.is_locked_syncShown _ _ _).trans hk)
        ((Bool.and_eq_false_iff).2 (.inl (show (s.dev.syncShown off st.toNat).running = false from hr)))]
      obtain ⟨h1, h2, h3, -⟩ := (s.dev.syncShown off st.toNat).unlocked_facts
      exact ⟨h1, h2, h3⟩
    case unlocked =>
      exact ⟨_, he.congr ((if_neg (by rw [hk]; decide)).trans (if_neg fun h => absurd h.1 (by rw [ha]; decide))),
        (Dev.is_locked_syncShown _ _ _).trans hk, Dev.get_offset_syncShown _ _ _, Dev.now_syncShown _ _ _⟩
  · exact Leaves.noEffect (d := s.dev.syncLost) rfl (if_pos (by rw [h]; rfl))
  · exact Leaves.congr (d := s.dev.syncLost) rfl (Dev.syncLost_locked h)
  · exact ⟨_, Leaves.congr (d := s.dev.syncLost) rfl (Dev.syncLost_alone h hr), s.dev.unlocked_facts⟩
  case pulse =>
    intro src
    have hl : Leaves (.ppsIn h m) s (s.dev.ppsIn h m) := rfl
    refine ⟨fun hno => hl.noEffect (if_pos (by simpa only [Bool.not_eq_true'] using hno)), fun hf hw hs => hl.congr (if_neg ?_)⟩
    rw [hf]
    change ¬ (_ ∨ h < 100 ∨ (src ≠ 1 ∧ src ≠ 3) ∨ (src = 3 ∧ 1000000 < m.natAbs))
    simp only [Bool.not_true, Bool.false_eq_true, false_or]
    omega
  · exact Leaves.noEffect (d := s.dev.ppsDueOut) rfl (if_neg (by rw [h]; decide))
  · have hp : s.dev.is Reg.TIM_CFG.PPS_OUT = true := (Bool.and_eq_true_iff.1 h).1
    exact Leaves.congr (d := s.dev.ppsDueOut) rfl ((if_pos h).trans (if_pos hp))

end Sys2Proof.Machine
end

section
/-! PROOF. Step shadows and restores (R466 to R470, R473 to R478, R480, R484, R488, R489). -/

namespace Sys2Proof.Machine

/-! ### What a fault leaves of the Cairn block -/

theorem Dev.crn_rest {d e : Dev} (h : d.rest = e.rest) : d.crn = e.crn := by
  have hc := congrArg Dev.crn h
  exact hc

@[simp] theorem Dev.crn_event (d : Dev) (F : Fld) : (d.event F).crn = d.crn := Dev.crn_rest (Dev.rest_event d F)

@[simp] theorem Dev.crn_blockFault (d : Dev) (o : Owner) (code : Nat) (b : Bool) : (d.blockFault o code b).crn = d.crn :=
  Dev.crn_rest (Dev.rest_blockFault d o code b)

@[simp] theorem Dev.crn_rewritten (d : Dev) (a n : Nat) : (d.rewritten a n).crn = d.crn := by
  obtain ⟨b, s, o, h⟩ := Dev.rewritten_eq d a n
  rw [h]

/-- The device without its reports, its cores and its run: what a fault leaves. -/
def Dev.outer (d : Dev) : Dev := { d.rest with cores := [], run := {}, recTen := 0 }

theorem Dev.outer_of_rest {d e : Dev} (h : d.rest = e.rest) : d.outer = e.outer := by
  unfold Dev.outer
  rw [h]

theorem Dev.outer_takeBack (u : Undo) (d : Dev) : (d.takeBack u).outer = d.outer := by
  unfold Dev.takeBack
  split <;> rfl

theorem Dev.outer_kill (o : Owner) (d : Dev) : (d.kill o).outer = d.outer := by
  have hrun (e : Dev) : (e.onRun (RunSt.kill o)).outer = e.outer := rfl
  unfold Dev.kill
  rw [hrun]
  generalize d.run.undo.filter _ = l
  induction l generalizing d with
  | nil => rfl
  | cons u l ih => exact (ih _).trans (Dev.outer_takeBack u d)

theorem Dev.outer_stopAt (t why code : Nat) (d : Dev) : (d.stopAt t why code).outer = d.outer := by
  unfold Dev.stopAt
  split
  · rfl
  · dsimp only
    split <;> rfl

theorem Dev.outer_record (o : Owner) (a b k : Nat) (x : Bool) (d : Dev) : (d.record o a b k x).outer = d.outer := by
  unfold Dev.record
  dsimp only
  rw [Dev.outer_of_rest (Dev.rest_lantern _ _ _ _ _ _ _ _)]
  have hcount : (if d.is Reg.RTE_FAULT_CODE.VALID then d.count Reg.DBG_LTN_FAULTS.COUNT 1 else d).outer = d.outer := by
    split <;> rfl
  split
  · exact Eq.trans rfl hcount
  · exact hcount

theorem Dev.outer_faultAt (o : Owner) (code t : Nat) (d : Dev) : (d.faultAt o code t).outer = d.outer := by
  unfold Dev.faultAt
  dsimp only
  rw [Dev.outer_kill, Dev.outer_stopAt]
  split
  · exact Dev.outer_record _ _ _ _ _ d
  · exact (Dev.outer_of_rest (Dev.rest_event _ _)).trans (Dev.outer_record _ _ _ _ _ d)

theorem Dev.outer_raise (o : Owner) (code : Nat) (d : Dev) : (d.raise o code).outer = d.outer := by
  unfold Dev.raise
  split
  · exact Dev.outer_kill _ _
  · exact Dev.outer_faultAt _ _ _ _

theorem Dev.outer_raiseArrival (o : Owner) (code : Nat) (d : Dev) : (d.raiseArrival o code).outer = d.outer := by
  unfold Dev.raiseArrival
  split
  · exact Dev.outer_raise _ _ _
  · split
    · exact Dev.outer_faultAt _ _ _ _
    · exact Dev.outer_of_rest (Dev.rest_blockFault _ _ _ _)

theorem Dev.crn_raiseArrival (o : Owner) (code : Nat) (d : Dev) : (d.raiseArrival o code).crn = d.crn := by
  have hc := congrArg Dev.crn (Dev.outer_raiseArrival o code d)
  exact hc

/-- A CRN fault writes its record, its event and Lantern's counts alone. -/
theorem Dev.get_crnFault_ne (code : Nat) (d : Dev) {F : Fld} (h1 : F.key ≠ Reg.CRN_ERR.VALUE.key) (h2 : F.key ≠ Reg.CRN_EVENT.ERROR.key)
    (h3 : F.key ≠ Reg.DBG_LTN_LOST.COUNT.key) (h4 : F.key ≠ Reg.DBG_LTN_FAULTS.COUNT.key) : (d.crnFault code).get F = d.get F := by
  refine (Dev.get_blockFault_ne _ _ _ _ h3 h4).trans ?_
  unfold Dev.crnError
  split
  · rfl
  · exact (Dev.get_event_ne _ h2).trans (Dev.get_put_ne _ _ h1)

theorem Dev.crn_crnError (code : Nat) (d : Dev) : (d.crnError code).crn = d.crn := by
  unfold Dev.crnError
  split
  · rfl
  · exact Dev.crn_event _ _

@[simp] theorem Dev.crn_crnFault (code : Nat) (d : Dev) : (d.crnFault code).crn = d.crn :=
  (Dev.crn_blockFault _ _ _ _).trans (Dev.crn_crnError code d)

theorem Dev.is_putB_self (d : Dev) (F : Fld) (b : Bool) (h : 0 < F.width) : (d.putB F b).is F = b := by
  have hlt : (1 : Nat) < 2 ^ F.width := Nat.one_lt_two_pow (Nat.pos_iff_ne_zero.1 h)
  cases b
  · exact Dev.is_of_get_zero ((Dev.get_put_self d F 0).trans (Nat.zero_mod _))
  · exact Dev.is_of_get_one ((Dev.get_put_self d F 1).trans (Nat.mod_eq_of_lt hlt))

theorem Dev.is_putB_ne (d : Dev) {F G : Fld} (b : Bool) (h : G.key ≠ F.key) : (d.putB F b).is G = d.is G := Dev.is_put_ne d _ h

theorem Dev.is_event_ne (d : Dev) {F G : Fld} (h : G.key ≠ F.key) : (d.event F).is G = d.is G := Dev.is_of_get (Dev.get_event_ne d h)

theorem Dev.is_put_one (d : Dev) (F : Fld) (h : 0 < F.width) : (d.put F 1).is F = true := Dev.is_putB_self d F true h

theorem Dev.is_put_zero (d : Dev) (F : Fld) (h : 0 < F.width) : (d.put F 0).is F = false := Dev.is_putB_self d F false h

/-! ### STEP.OPEN -/

/-- A closed step is gone, and its status bits are 0. -/
theorem Dev.closeStep_facts (d : Dev) : d.closeStep.crn.step = none ∧ d.closeStep.is Reg.CRN_STATUS.STEP_OPEN = false ∧
    d.closeStep.is Reg.CRN_STATUS.COPYING = false ∧ d.closeStep.is Reg.MEM_STATUS.COPY_BUSY = false := by
  refine ⟨rfl, ?_, ?_, Dev.is_put_zero _ _ (by decide)⟩
  · exact (Dev.is_put_ne _ _ (by decide)).trans ((Dev.is_put_ne _ _ (by decide)).trans (Dev.is_put_zero _ _ (by decide)))
  · exact (Dev.is_put_ne _ _ (by decide)).trans (Dev.is_put_zero _ _ (by decide))

theorem Dev.get_closeStep_ne (d : Dev) {F : Fld} (h1 : F.key ≠ Reg.CRN_STATUS.STEP_OPEN.key) (h2 : F.key ≠ Reg.CRN_STATUS.COPYING.key)
    (h3 : F.key ≠ Reg.MEM_STATUS.COPY_BUSY.key) : d.closeStep.get F = d.get F :=
  (Dev.get_put_ne _ _ h3).trans ((Dev.get_put_ne _ _ h2).trans (Dev.get_put_ne _ _ h1))

/-- The header is written only where the step opens. -/
theorem Dev.stepOpenMem_closed {i : Inst} {d : Dev} {m : Memory} (h : d.crn.step.isSome = true ∨ (d.stepOpen i m).crn.step = none) :
    d.stepOpenMem i m = m := by
  unfold Dev.stepOpenMem
  dsimp only
  split
  · next s h0 hs =>
    rcases h with h | h
    · exact absurd h (by rw [h0]; decide)
    · exact absurd (h.symm.trans hs) (by simp)
  · rfl

theorem Dev.stepOpenMem_open {i : Inst} {d : Dev} {m : Memory} {x : StepOpen} (hs : d.crn.step = none)
    (he : (d.stepOpen i m).crn.step = some x) :
    d.stepOpenMem i m = d.writeBytes m (d.get Reg.CRN_STEP_REC.BASE * 2 ^ 21) ((d.stepOpen i m).cairnHeader x.ten x.addrs) := by
  unfold Dev.stepOpenMem
  dsimp only
  rw [hs, he]

section
variable {i : Inst} {m : Memory} {d : Dev} (hu : d.unitFree i.coreN 9 2 = true)
include hu

theorem Dev.stepOpen_order (hs : d.crn.step.isSome = true) :
    d.stepOpen i m = (((d.took (ownerOf i 9 0 d) 2 1 1).crnError 0x0906).closeStep).raise (ownerOf i 9 0 d) 0x0906 := by
  unfold Dev.stepOpen
  dsimp only
  rw [Dev.takeUnit_free 1 1 hu]
  exact (if_neg Bool.false_ne_true).trans (if_pos hs)

theorem Dev.stepOpen_list (hs : d.crn.step = none) (hl : d.stepList m i = [] ∨ d.listOk d.rt.tenancy (d.stepList m i) = false) :
    d.stepOpen i m = (((d.took (ownerOf i 9 0 d) 2 1 1).crnError 0x0907).closeStep).raiseArrival (ownerOf i 9 0 d) 0x0907 := by
  have hbad : (d.stepList m i).isEmpty = true ∨ (!d.listOk d.rt.tenancy (d.stepList m i)) = true := by
    simpa only [List.isEmpty_iff, Bool.not_eq_true'] using hl
  unfold Dev.stepOpen
  dsimp only
  rw [Dev.takeUnit_free 1 1 hu]
  exact (if_neg Bool.false_ne_true).trans ((if_neg (by rw [hs]; exact Bool.false_ne_true)).trans (if_pos hbad))

end

/-- The step that a good STEP.OPEN opens. -/
def Dev.newStep (i : Inst) (l : List Nat) (d : Dev) : StepOpen :=
  { ten := d.rt.tenancy, addrs := l, done := if i.extBits 14 1 = 1 then some (i.extBits 0 14) else none }

theorem Dev.newStep_facts (i : Inst) (l : List Nat) (d : Dev) : let x := d.newStep i l
    x.ten = d.rt.tenancy ∧ x.addrs = l ∧ x.copied = 0 ∧ x.complete = false ∧
      x.done = if i.extBits 14 1 = 1 then some (i.extBits 0 14) else none :=
  ⟨rfl, rfl, rfl, rfl, rfl⟩

/-- The device whose step is open, before a serve from NEXT begins. -/
def Dev.stepOpened (i : Inst) (l : List Nat) (d : Dev) : Dev :=
  let t := d.took (ownerOf i 9 0 d) 2 1 1
  ({ t with crn := { t.crn with step := some (d.newStep i l), waitCopy := d.crn.held.isSome, slotBad := [] } }
    |>.put Reg.CRN_STEP_POS.SEGMENT (d.get Reg.RTE_STATUS.SEGMENT) |>.put Reg.CRN_STEP_POS.PASS d.run.passNo
    |>.put Reg.CRN_STEP_POS.REPEATS_LEFT d.run.repeatsLeft |>.put Reg.CRN_STATUS.STEP_OPEN 1
    |>.putB Reg.CRN_STATUS.COPYING (!d.crn.held.isSome) |>.putB Reg.MEM_STATUS.COPY_BUSY (!d.crn.held.isSome)).rewritten
      (d.get Reg.CRN_STEP_REC.BASE * 2 ^ 21) stepBytes

/-- The device in which a serve from NEXT has begun. -/
def Dev.nextBegun (hdr : List Byte) (d : Dev) : Dev :=
  ((d.put Reg.CRN_STATUS.CAIRN_ARMED 0).beginServe { src := 0, wait := false, hdr := hdr }).event Reg.CRN_EVENT.CAIRN_BEGUN

theorem Dev.stepOpen_opens {i : Inst} {m : Memory} {d : Dev} (hu : d.unitFree i.coreN 9 2 = true) (hs : d.crn.step = none)
    (hl : d.stepList m i ≠ []) (ho : d.listOk d.rt.tenancy (d.stepList m i) = true) : ∃ hdr, d.stepOpen i m =
      if d.is Reg.CRN_STATUS.CAIRN_ARMED then (d.stepOpened i (d.stepList m i)).nextBegun hdr else d.stepOpened i (d.stepList m i) := by
  have hgood : ¬ ((d.stepList m i).isEmpty = true ∨ (!d.listOk d.rt.tenancy (d.stepList m i)) = true) := by
    simpa only [List.isEmpty_iff, Bool.not_eq_true', not_or, ho, Bool.true_eq_false, not_false_eq_true, and_true] using hl
  refine ⟨(d.stepOpened i (d.stepList m i)).cairnHeader d.rt.tenancy (d.stepList m i), ?_⟩
  unfold Dev.stepOpen
  dsimp only
  rw [Dev.takeUnit_free 1 1 hu]
  exact (if_neg Bool.false_ne_true).trans ((if_neg (by rw [hs]; exact Bool.false_ne_true)).trans (if_neg hgood))

theorem Dev.stepOpened_crn (i : Inst) (l : List Nat) (d : Dev) :
    (d.stepOpened i l).crn = { d.crn with step := some (d.newStep i l), waitCopy := d.crn.held.isSome, slotBad := [] } :=
  Dev.crn_rewritten _ _ _

theorem Dev.stepOpened_facts (i : Inst) (l : List Nat) (d : Dev) : let e := d.stepOpened i l
    e.is Reg.CRN_STATUS.STEP_OPEN = true ∧ e.is Reg.CRN_STATUS.COPYING = d.crn.held.isNone ∧
      e.get Reg.CRN_STEP_POS.SEGMENT = d.get Reg.RTE_STATUS.SEGMENT % 2 ^ 8 := by
  have hr (e : Dev) (a n : Nat) (F : Fld) : (e.rewritten a n).is F = e.is F := Dev.is_of_get (Dev.get_rewritten e a n F)
  unfold Dev.stepOpened
  refine ⟨(hr _ _ _ _).trans ?_, (hr _ _ _ _).trans ?_, (Dev.get_rewritten _ _ _ _).trans ?_⟩
  · exact (Dev.is_putB_ne _ _ (by decide)).trans ((Dev.is_putB_ne _ _ (by decide)).trans (Dev.is_put_one _ _ (by decide)))
  · refine (Dev.is_putB_ne _ _ (by decide)).trans ((Dev.is_putB_self _ _ _ (by decide)).trans ?_)
    cases d.crn.held <;> rfl
  · exact (Dev.get_put_ne _ _ (by decide)).trans ((Dev.get_put_ne _ _ (by decide)).trans ((Dev.get_put_ne _ _ (by decide)).trans
      ((Dev.get_put_ne _ _ (by decide)).trans ((Dev.get_put_ne _ _ (by decide)).trans (Dev.get_put_self _ _ _)))))

theorem Dev.get_beginServe_ne (v : ServeReq) (d : Dev) {F : Fld} (h1 : F.key ≠ Reg.CRN_STATUS.SERVING.key)
    (h2 : F.key ≠ Reg.CRN_PROGRESS.SERVED.key) : (d.beginServe v).get F = d.get F := by
  let e : Dev := { d with crn := { d.crn with serve := some v } }
  exact (Dev.get_put_ne (e.put Reg.CRN_STATUS.SERVING 1) 0 h2).trans (Dev.get_put_ne e 1 h1)

theorem Dev.get_nextBegun_ne (hdr : List Byte) (d : Dev) {F : Fld} (h1 : F.key ≠ Reg.CRN_STATUS.CAIRN_ARMED.key)
    (h2 : F.key ≠ Reg.CRN_STATUS.SERVING.key) (h3 : F.key ≠ Reg.CRN_PROGRESS.SERVED.key) (h4 : F.key ≠ Reg.CRN_EVENT.CAIRN_BEGUN.key) :
    (d.nextBegun hdr).get F = d.get F :=
  (Dev.get_event_ne _ h4).trans ((Dev.get_beginServe_ne _ _ h2 h3).trans (Dev.get_put_ne _ _ h1))

theorem Dev.nextBegun_facts (hdr : List Byte) (d : Dev) : let e := d.nextBegun hdr
    e.crn = { d.crn with serve := some { src := 0, wait := false, hdr := hdr } } ∧ e.is Reg.CRN_STATUS.CAIRN_ARMED = false ∧
      e.is Reg.CRN_EVENT.CAIRN_BEGUN = true :=
  ⟨Dev.crn_event _ _, (Dev.is_event_ne _ (by decide)).trans ((Dev.is_of_get (Dev.get_beginServe_ne _ _ (by decide) (by decide))).trans
    (Dev.is_put_zero _ _ (by decide))), Dev.is_event_self _ _ (by decide)⟩

/-- What a good STEP.OPEN leaves, whether or not a serve begins with it. -/
theorem Dev.stepOpen_facts {i : Inst} {m : Memory} {d : Dev} (hu : d.unitFree i.coreN 9 2 = true) (hs : d.crn.step = none)
    (hl : d.stepList m i ≠ []) (ho : d.listOk d.rt.tenancy (d.stepList m i) = true) : let e := d.stepOpen i m
    e.crn.step = some (d.newStep i (d.stepList m i)) ∧ e.is Reg.CRN_STATUS.STEP_OPEN = true ∧
      e.is Reg.CRN_STATUS.COPYING = d.crn.held.isNone ∧ e.crn.waitCopy = d.crn.held.isSome ∧
      e.get Reg.CRN_STEP_POS.SEGMENT = d.get Reg.RTE_STATUS.SEGMENT % 2 ^ 8 ∧
      (d.is Reg.CRN_STATUS.CAIRN_ARMED = false → e.crn.serve = d.crn.serve) ∧
      (d.is Reg.CRN_STATUS.CAIRN_ARMED = true → (e.crn.serve.any fun v => v.src == 0) = true ∧ e.is Reg.CRN_STATUS.CAIRN_ARMED = false ∧
        e.is Reg.CRN_EVENT.CAIRN_BEGUN = true) := by
  obtain ⟨hdr, he⟩ := Dev.stepOpen_opens hu hs hl ho
  obtain ⟨hopen, hcopy, hseg⟩ := d.stepOpened_facts i (d.stepList m i)
  have hcrn := d.stepOpened_crn i (d.stepList m i)
  rw [he]
  cases ha : d.is Reg.CRN_STATUS.CAIRN_ARMED with
  | false =>
    rw [if_neg (by decide)]
    exact ⟨by rw [hcrn], hopen, hcopy, by rw [hcrn], hseg, fun _ => by rw [hcrn], fun h => absurd h (by decide)⟩
  | true =>
    rw [if_pos rfl]
    obtain ⟨hc, harm, hbegun⟩ := (d.stepOpened i (d.stepList m i)).nextBegun_facts hdr
    have hget {F : Fld} := (d.stepOpened i (d.stepList m i)).get_nextBegun_ne hdr (F := F)
    exact ⟨by rw [hc, hcrn], (Dev.is_of_get (hget (by decide) (by decide) (by decide) (by decide))).trans hopen,
      (Dev.is_of_get (hget (by decide) (by decide) (by decide) (by decide))).trans hcopy, by rw [hc, hcrn],
      (hget (by decide) (by decide) (by decide) (by decide)).trans hseg, fun h => absurd h (by decide), fun _ => ⟨by rw [hc]; rfl, harm, hbegun⟩⟩

/-! ### STEP.COMMIT -/

/-- The risk score asks for a Cairn (R480). -/
def Dev.AsksCairn (d : Dev) : Prop :=
  d.get Reg.CRN_RISK_THRESH.VALUE % 256 < d.get Reg.HLT_RISK.RISK ∧ d.is Reg.CRN_CFG.AUTO ∧ d.get Reg.CRN_AUTO.KIND ≠ 0

/-- The device whose step is committed, before the score asks for a Cairn. -/
def Dev.committed (i : Inst) (d : Dev) : Dev :=
  let t := d.took (ownerOf i 9 0 d) 2 1 1
  t.closeStep.put Reg.CRN_STEP.NUMBER (t.get Reg.CRN_STEP.NUMBER + 1)

theorem Dev.stepCommit_order {i : Inst} {d : Dev} (hu : d.unitFree i.coreN 9 2 = true) (hs : d.crn.step = none) :
    d.stepCommit i = ((d.took (ownerOf i 9 0 d) 2 1 1).crnError 0x0906).raise (ownerOf i 9 0 d) 0x0906 := by
  unfold Dev.stepCommit
  dsimp only
  rw [Dev.takeUnit_free 1 1 hu]
  simp only [hs, Bool.not_true, Bool.false_eq_true, if_false]

theorem Dev.stepCommit_open {i : Inst} {d : Dev} (hu : d.unitFree i.coreN 9 2 = true) (hs : d.crn.step.isSome = true)
    [Decidable d.AsksCairn] : d.stepCommit i = if d.AsksCairn then
      if d.crn.serve.isSome ∨ d.is Reg.CRN_STATUS.CAIRN_ARMED then (d.committed i).event Reg.CRN_EVENT.CAIRN_SKIPPED
      else (d.committed i).put Reg.CRN_STATUS.CAIRN_ARMED 1
    else d.committed i := by
  obtain ⟨x, hx⟩ := Option.isSome_iff_exists.1 hs
  unfold Dev.stepCommit
  dsimp only
  rw [Dev.takeUnit_free 1 1 hu]
  simp only [hx, Bool.not_true, Bool.false_eq_true, if_false]
  by_cases ha : d.AsksCairn
  · rw [if_pos ha]
    exact if_pos ha
  · rw [if_neg ha]
    exact if_neg ha

theorem Dev.committed_facts (i : Inst) (d : Dev) : let e := d.committed i
    e.crn.step = none ∧ e.is Reg.CRN_STATUS.STEP_OPEN = false ∧ e.is Reg.CRN_STATUS.COPYING = false ∧
      e.get Reg.CRN_STEP.NUMBER = (d.get Reg.CRN_STEP.NUMBER + 1) % 2 ^ Reg.CRN_STEP.NUMBER.width ∧
      e.is Reg.CRN_STATUS.CAIRN_ARMED = d.is Reg.CRN_STATUS.CAIRN_ARMED := by
  obtain ⟨hs, ho, hc, -⟩ := (d.took (ownerOf i 9 0 d) 2 1 1).closeStep_facts
  refine ⟨hs, (Dev.is_put_ne _ _ (by decide)).trans ho, (Dev.is_put_ne _ _ (by decide)).trans hc, Dev.get_put_self _ _ _, ?_⟩
  exact (Dev.is_put_ne _ _ (by decide)).trans
    (Dev.is_of_get ((Dev.get_closeStep_ne _ (by decide) (by decide) (by decide)).trans (Dev.get_took _ _ _ _ _ _)))

theorem Dev.stepCommit_facts {i : Inst} {d : Dev} (hu : d.unitFree i.coreN 9 2 = true) (hs : d.crn.step.isSome = true) :
    let e := d.stepCommit i
    e.crn.step = none ∧ e.is Reg.CRN_STATUS.STEP_OPEN = false ∧
      e.is Reg.CRN_STATUS.COPYING = false ∧ e.get Reg.CRN_STEP.NUMBER = (d.get Reg.CRN_STEP.NUMBER + 1) % 2 ^ Reg.CRN_STEP.NUMBER.width ∧
      (e.is Reg.CRN_STATUS.CAIRN_ARMED = true ↔ d.is Reg.CRN_STATUS.CAIRN_ARMED = true ∨ (d.AsksCairn ∧ d.crn.serve = none)) := by
  classical
  obtain ⟨hstep, hopen, hcopy, hnum, harm⟩ := d.committed_facts i
  rw [Dev.stepCommit_open hu hs]
  by_cases ha : d.AsksCairn
  · rw [if_pos ha]
    by_cases hv : d.crn.serve.isSome ∨ d.is Reg.CRN_STATUS.CAIRN_ARMED
    · rw [if_pos hv]
      refine ⟨by rw [Dev.crn_event]; exact hstep, (Dev.is_event_ne _ (by decide)).trans hopen, (Dev.is_event_ne _ (by decide)).trans hcopy,
        (Dev.get_event_ne _ (by decide)).trans hnum, ?_⟩
      rw [Dev.is_event_ne _ (by decide), harm]
      refine ⟨.inl, fun h => h.elim id fun h => ?_⟩
      exact hv.elim (fun hv => absurd hv (by rw [h.2]; decide)) id
    · rw [if_neg hv]
      obtain ⟨hno, hna⟩ := not_or.1 hv
      exact ⟨hstep, (Dev.is_put_ne _ _ (by decide)).trans hopen, (Dev.is_put_ne _ _ (by decide)).trans hcopy,
        (Dev.get_put_ne _ _ (by decide)).trans hnum, fun _ => .inr ⟨ha, Option.not_isSome_iff_eq_none.1 hno⟩, fun _ => Dev.is_put_one _ _ (by decide)⟩
  · rw [if_neg ha]
    refine ⟨hstep, hopen, hcopy, hnum, ?_⟩
    rw [harm]
    exact ⟨.inl, fun h => h.elim id fun h => absurd h.1 ha⟩

/-- A held write lies in a region of the open step, at a block that the copy has yet to reach. -/
theorem Dev.writeHeld_facts {d : Dev} {a : Nat} (h : d.writeHeld a = true) : ∃ x, d.crn.step = some x ∧ (x.regionOf a).isSome = true ∧
    x.complete = false ∧ x.copied ≤ x.blockOf a ∧ (d.is Reg.CRN_STATUS.COPYING = true ∨ d.crn.waitCopy = true) := by
  unfold Dev.writeHeld at h
  split at h
  · next x hx =>
    simp only [StepOpen.has, Bool.and_eq_true, Bool.or_eq_true, Bool.not_eq_true', Bool.or_eq_false_iff, decide_eq_false_iff_not,
      Nat.not_lt] at h
    obtain ⟨⟨hc, hr⟩, hcomplete, hcopied⟩ := h
    exact ⟨x, hx, hr, hcomplete, hcopied, hc⟩
  · exact absurd h (by decide)

/-- Settles O37: STEP.OPEN by the step that is open and its list, STEP.COMMIT by the open step and the score, held writes by their block. -/
theorem steps : Obligations.Steps := by
  unfold Obligations.Steps
  refine ⟨fun i s => ?opening, fun i s => ?commit, fun d a h => Dev.writeHeld_facts h⟩
  case opening =>
    dsimp only
    refine ⟨noEffect_stepOpen, fun hi hu => ?_⟩
    have hst := stores_stepOpen hi
    refine ⟨fun hs => ?order, fun hs hl => ?list, fun hs hl ho => ?good⟩
    case order =>
      rw [Dev.stepOpenMem_closed (.inl hs)] at hst
      exact (hst.leaves rfl).congr (Dev.stepOpen_order hu hs)
    case list =>
      have he := Dev.stepOpen_list (i := i) hu hs hl
      have hclosed : (s.dev.stepOpen i s.dram).crn.step = none := by
        rw [he, Dev.crn_raiseArrival]
        exact (Dev.closeStep_facts _).1
      rw [Dev.stepOpenMem_closed (.inr hclosed)] at hst
      exact (hst.leaves rfl).congr he
    case good =>
      obtain ⟨hstep, hrest⟩ := Dev.stepOpen_facts (i := i) hu hs hl ho
      have hx := Dev.newStep_facts i (s.dev.stepList s.dram i) s.dev
      rw [Dev.stepOpenMem_open hs hstep, hx.1, hx.2.1] at hst
      exact ⟨s.dev.stepOpen i s.dram, hst, ⟨_, hstep, hx⟩, hrest⟩
  case commit =>
    dsimp only
    refine ⟨fun hi => ?waits, fun hi hu => ?_⟩
    case waits =>
      have hl : Leaves (.stepCommit i) s (if s.dev.canIssue i.core then s.dev.stepCommit i else s.dev) := rfl
      exact hl.noEffect (if_neg fun h => Bool.false_ne_true (hi.symm.trans h))
    have hl : Leaves (.stepCommit i) s (s.dev.stepCommit i) := State.issue_of_canIssue hi _
    refine ⟨fun hs => hl.congr (Dev.stepCommit_order hu hs), fun hs => ⟨_, hl, ?_⟩⟩
    obtain ⟨h1, h2, h3, h4, h5⟩ := Dev.stepCommit_facts (i := i) hu hs
    refine ⟨h1, h2, h3, h4, h5.trans ?_⟩
    simp only [Dev.AsksCairn, and_assoc]

/-! ### Restores -/

theorem Dev.restoreMends_eq (d : Dev) (m : Memory) :
    ∃ b c k n o, d.restoreMends m = { d with badBlk := b, ckBuf := c, checks := k, snoop := n, out := o } := by
  unfold Dev.restoreMends
  split
  · exact Dev.copied_eq (fun d i => d.slotBlock _ i) (fun _ i => StepOpen.blockAt _ i) _ d
  · exact ⟨_, _, _, _, _, rfl⟩

theorem Dev.byZero_zero {b : Nat} {f : Dev → Dev} {d : Dev} (h : d.acting b = some 0) : d.byZero b f = f d := if_pos h

theorem Dev.byZero_other {b : Nat} {f : Dev → Dev} {d : Dev} (h : d.acting b ≠ some 0) : d.byZero b f = d := if_neg h

theorem Dev.restoreCmd_refused {d : Dev} (hr : d.is Reg.CRN_STATUS.RESTORING = false) (hf : d.fillOwn = false)
    (h : d.is Reg.CRN_STATUS.INTERRUPTED = false ∨ d.running = true) : d.restoreCmd = d.event Reg.CRN_EVENT.CMD_REFUSED :=
  (if_neg (by rw [hr, hf]; decide)).trans (if_pos (by simpa only [Bool.not_eq_true'] using h))

theorem Dev.restoreCmd_starts {d : Dev} (hr : d.is Reg.CRN_STATUS.RESTORING = false) (hf : d.fillOwn = false)
    (hi : d.is Reg.CRN_STATUS.INTERRUPTED = true) (hn : d.running = false) :
    d.restoreCmd = (d.put Reg.CRN_STATUS.RESTORING 1).put Reg.MEM_STATUS.COPY_BUSY 1 :=
  (if_neg (by rw [hr, hf]; decide)).trans (if_neg (by rw [hi, hn]; decide))

/-- The digests of VERIFY are the same. -/
def Dev.digestsAgree (d : Dev) : Bool := (List.range 6).all fun k => d.get (Reg.CRN_RESTORED_DIGEST.BYTES k) == d.get (Reg.CRN_REF_DIGEST.BYTES k)

theorem Dev.digestsAgree_iff (d : Dev) : d.digestsAgree = true ↔
    ∀ k < 6, d.get (Reg.CRN_RESTORED_DIGEST.BYTES k) = d.get (Reg.CRN_REF_DIGEST.BYTES k) := by
  simp only [Dev.digestsAgree, List.all_eq_true, List.mem_range, beq_iff_eq]

theorem Dev.verifyCmd_facts {d : Dev} (h : d.is Reg.CRN_STATUS.RESTORING = false) : d.verifyCmd.is Reg.CRN_EVENT.VERIFY_DONE = true ∧
    (d.verifyCmd.is Reg.CRN_STATUS.VERIFIED = true ↔
      ∀ k < 6, d.get (Reg.CRN_RESTORED_DIGEST.BYTES k) = d.get (Reg.CRN_REF_DIGEST.BYTES k)) := by
  have he : d.verifyCmd = (if d.digestsAgree then d.put Reg.CRN_STATUS.VERIFIED 1
      else (d.put Reg.CRN_STATUS.VERIFIED 0).crnFault 0x0909).event Reg.CRN_EVENT.VERIFY_DONE := if_neg (by rw [h]; decide)
  rw [he, ← Dev.digestsAgree_iff]
  refine ⟨Dev.is_event_self _ _ (by decide), ?_⟩
  rw [Dev.is_event_ne _ (by decide)]
  cases d.digestsAgree
  · rw [if_neg (by decide), Dev.is_of_get (Dev.get_crnFault_ne 0x0909 (d.put Reg.CRN_STATUS.VERIFIED 0) (by decide) (by decide) (by decide)
      (by decide)), Dev.is_put_zero _ _ (by decide)]
  · rw [if_pos rfl, Dev.is_put_one _ _ (by decide)]

theorem Dev.clearRepeat_facts (d : Dev) : let e := d.clearRepeat
    e.is Reg.CRN_STATUS.REPEAT_ARMED = false ∧ e.is Reg.CRN_STATUS.VERIFIED = false ∧ e.is Reg.CRN_STATUS.INTERRUPTED = false ∧
      (d.is Reg.CRN_STATUS.INTERRUPTED = true → e.crn.step = none) ∧ (d.is Reg.CRN_STATUS.INTERRUPTED = false → e.crn = d.crn) := by
  let c := (d.put Reg.CRN_STATUS.REPEAT_ARMED 0).put Reg.CRN_STATUS.VERIFIED 0
  have hr : c.is Reg.CRN_STATUS.REPEAT_ARMED = false := (Dev.is_put_ne _ _ (by decide)).trans (Dev.is_put_zero _ _ (by decide))
  have hv : c.is Reg.CRN_STATUS.VERIFIED = false := Dev.is_put_zero _ _ (by decide)
  have hi : c.is Reg.CRN_STATUS.INTERRUPTED = d.is Reg.CRN_STATUS.INTERRUPTED :=
    (Dev.is_put_ne _ _ (by decide)).trans (Dev.is_put_ne _ _ (by decide))
  have hclose {F : Fld} (h1 : F.key ≠ Reg.CRN_STATUS.INTERRUPTED.key) (h2 : F.key ≠ Reg.CRN_STATUS.STEP_OPEN.key)
      (h3 : F.key ≠ Reg.CRN_STATUS.COPYING.key) (h4 : F.key ≠ Reg.MEM_STATUS.COPY_BUSY.key) :
      (c.closeStep.put Reg.CRN_STATUS.INTERRUPTED 0).is F = c.is F :=
    (Dev.is_put_ne _ _ h1).trans (Dev.is_of_get (Dev.get_closeStep_ne c h2 h3 h4))
  cases h : d.is Reg.CRN_STATUS.INTERRUPTED
  · have he : d.clearRepeat = c := if_neg (by rw [h]; decide)
    rw [he]
    exact ⟨hr, hv, hi.trans h, fun h => absurd h (by decide), fun _ => rfl⟩
  · have he : d.clearRepeat = c.closeStep.put Reg.CRN_STATUS.INTERRUPTED 0 := if_pos h
    rw [he]
    exact ⟨(hclose (by decide) (by decide) (by decide) (by decide)).trans hr, (hclose (by decide) (by decide) (by decide) (by decide)).trans hv,
      Dev.is_put_zero _ _ (by decide), fun _ => rfl, fun h => absurd h (by decide)⟩

/-- The device whose restore has ended, before the repeat is armed. -/
def Dev.restoreClosed (d : Dev) : Dev :=
  ((d.closeStep.put Reg.CRN_STATUS.RESTORING 0).put Reg.CRN_STATUS.INTERRUPTED 0).event Reg.CRN_EVENT.RESTORE_DONE

theorem Dev.restoreEnd_failed {f : Bool} {m : Memory} {d : Dev} {x : StepOpen} (hs : d.crn.step = some x)
    (hr : d.is Reg.CRN_STATUS.RESTORING = true) (h : f = true ∨ d.crn.slotBad ≠ []) :
    d.restoreEnd f m = (d.restoreClosed.put Reg.CRN_STATUS.REPEAT_ARMED 0).crnFault 0x0908 := by
  have hbad : f = true ∨ (!d.crn.slotBad.isEmpty) = true := by
    simpa only [Bool.not_eq_true', List.isEmpty_eq_false_iff] using h
  simp only [Dev.restoreEnd, hs, hr, Bool.not_true, Bool.false_eq_true, if_false, if_pos hbad]
  rfl

theorem Dev.restoreEnd_armed {m : Memory} {d : Dev} {x : StepOpen} (hs : d.crn.step = some x) (hr : d.is Reg.CRN_STATUS.RESTORING = true)
    (h : d.crn.slotBad = []) : (d.restoreEnd false m).is Reg.CRN_STATUS.REPEAT_ARMED = true := by
  simp only [Dev.restoreEnd, hs, hr, h, Bool.not_true, Bool.false_eq_true, if_false, List.isEmpty_nil, or_self]
  exact Dev.is_put_one _ _ (by decide)

/-- Settles O38: the commands by what is in progress, a restore's end by the slots that it reads. -/
theorem restores : Obligations.Restores := by
  unfold Obligations.Restores
  refine ⟨fun b s => ?commands, fun f s => ?done, Dev.restoreMends_eq, Dev.closeStep_facts⟩
  case commands =>
    have hrestore : Leaves (.restore b) s (s.dev.byZero b.toNat Dev.restoreCmd) := rfl
    have hverify : Leaves (.verify b) s (s.dev.byZero b.toNat Dev.verifyCmd) := rfl
    have hclear : Leaves (.clearRepeat b) s (s.dev.byZero b.toNat Dev.clearRepeat) := rfl
    refine ⟨fun h => ⟨hrestore.noEffect (Dev.byZero_other h), hverify.noEffect (Dev.byZero_other h), hclear.noEffect (Dev.byZero_other h)⟩,
      fun h => ?_⟩
    have hr := hrestore.congr (Dev.byZero_zero h)
    have hv := hverify.congr (Dev.byZero_zero h)
    exact ⟨fun hb => hr.congr (if_pos hb), fun h1 h2 h3 => hr.congr (Dev.restoreCmd_refused h1 h2 h3),
      fun h1 h2 h3 h4 => hr.congr (Dev.restoreCmd_starts h1 h2 h3 h4), fun hb => hv.congr (if_pos hb),
      fun hb => ⟨_, hv, Dev.verifyCmd_facts hb⟩, ⟨_, hclear.congr (Dev.byZero_zero h), s.dev.clearRepeat_facts⟩⟩
  case done =>
    intro d r
    have hst := stores_restoreDone f s
    refine ⟨fun h => ?idle, fun x hs hr => ?some⟩
    case idle =>
      have hm : s.dev.restoredMem s.dram = s.dram := by
        unfold Dev.restoredMem
        split
        · next hr =>
          unfold Dev.restoreMem
          rw [h.resolve_right (by rw [show d.is Reg.CRN_STATUS.RESTORING = true from hr]; decide)]
        · rfl
      have hd : s.dev.restoreFinish f s.dram = s.dev := by
        unfold Dev.restoreFinish
        split
        · rfl
        · next x hx =>
          have hno : d.is Reg.CRN_STATUS.RESTORING = false :=
            h.resolve_left (by rw [show d.crn.step = some x from hx]; exact Option.some_ne_none _)
          exact if_pos (by rw [show s.dev.is Reg.CRN_STATUS.RESTORING = false from hno]; rfl)
      rw [hm, hd] at hst
      exact (hst.leaves rfl).noEffect rfl
    case some =>
      have hm : s.dev.restoredMem s.dram = d.restoreMem s.dram := if_pos hr
      rw [hm] at hst
      obtain ⟨b, c, k, n, o, he⟩ := d.restoreMends_eq s.dram
      have hrs : r.crn.step = some x := by rw [show r = _ from he]; exact hs
      have hrr : r.is Reg.CRN_STATUS.RESTORING = true := by rw [show r = _ from he]; exact hr
      have hrb : r.crn.slotBad = d.crn.slotBad := by rw [show r = _ from he]
      refine ⟨fun i hi => ?fails, fun hn => ⟨?bytes, fun h => ?bad, fun hf hb => ?armed⟩⟩
      case fails =>
        have hd : s.dev.restoreFinish f s.dram = r.meetBad (some (d.slotBlock x i)) .copyEngine := by
          simp only [Dev.restoreFinish, show s.dev.crn.step = some x from hs, show s.dev.is Reg.CRN_STATUS.RESTORING = true from hr,
            show s.dev.restoreFails s.dram x = some i from hi, Bool.not_true, Bool.false_eq_true, if_false]
          rfl
        rw [hd] at hst
        exact hst
      all_goals have hd : s.dev.restoreFinish f s.dram = r.restoreEnd f (d.restoreMem s.dram) := by
                  simp only [Dev.restoreFinish, show s.dev.crn.step = some x from hs, show s.dev.is Reg.CRN_STATUS.RESTORING = true from hr,
                    show s.dev.restoreFails s.dram x = none from hn, Bool.not_true, Bool.false_eq_true, if_false]
                  rfl
      case bytes => simp only [Dev.restoreMem, hs, hn, Option.getD_none]
      case bad =>
        rw [hd, Dev.restoreEnd_failed hrs hrr (h.imp_right fun h => by rw [hrb]; exact h)] at hst
        exact hst
      case armed =>
        rw [hd] at hst
        subst hf
        exact ⟨_, hst, Dev.restoreEnd_armed hrs hrr (hrb.trans hb)⟩

end Sys2Proof.Machine
end

section
/-! PROOF. Fills, serves and the health score (R479 to R488). -/

namespace Sys2Proof.Machine

/-! ### Convoys that a fill starts afresh -/

/-- A convoy that starts afresh changes the store counts of its port alone among the registers. -/
theorem Dev.get_freshConvoy_ne (c : Nat) (d : Dev) {F : Fld} (h : F.lo ≠ 4) (h' : F.lo ≠ 13) (hF : F.lo < 64) :
    (d.freshConvoy c).get F = d.get F := by
  unfold Dev.freshConvoy Dev.updStores
  refine (Dev.get_put_ne _ _ ?_).trans ((Dev.get_put_ne _ _ ?_).trans rfl)
  · simp only [Fld.key, Reg.WMK_P_STAT.RX_USED]
    omega
  · simp only [Fld.key, Reg.WMK_P_STAT.TX_USED]
    omega

theorem Dev.get_freshSource_ne (alt : Bool) (d : Dev) {F : Fld} (h : F.lo ≠ 4) (h' : F.lo ≠ 13) (hF : F.lo < 64) :
    (d.freshSource alt).get F = d.get F := by
  unfold Dev.freshSource
  dsimp only
  split
  · exact Dev.get_freshConvoy_ne _ d h h' hF
  · rfl

theorem Dev.crn_freshSource (alt : Bool) (d : Dev) : (d.freshSource alt).crn = d.crn := by
  unfold Dev.freshSource
  dsimp only
  split <;> rfl

/-! ### FILL and CANCEL_QUEUED -/

section
variable {d : Dev} {x y : Bool}

theorem Dev.beginFill_facts (f : FillReq) (d : Dev) : let e := d.beginFill f
    e.crn.fill = some f ∧ e.is Reg.CRN_STATUS.FILLING = true ∧ e.get Reg.CRN_PROGRESS.FILLED = 0 :=
  ⟨rfl, (Dev.is_put_ne _ _ (by decide)).trans (Dev.is_put_one _ _ (by decide)), Dev.get_put_self _ _ 0⟩

theorem not_barred (hr : x = true ∨ d.is Reg.CRN_STATUS.RESTORING = false) : ¬ ((!x) = true ∧ d.is Reg.CRN_STATUS.RESTORING = true) := by
  rintro ⟨hx, h⟩
  rcases hr with rfl | hr
  · exact Bool.false_ne_true hx
  · exact Bool.false_ne_true (hr.symm.trans h)

theorem Dev.fillCmd_barred (h : d.is Reg.CRN_STATUS.RESTORING = true) : d.fillCmd false y = d.crnFault 0x0905 := if_pos ⟨rfl, h⟩

variable (hr : x = true ∨ d.is Reg.CRN_STATUS.RESTORING = false)
include hr

theorem Dev.fillCmd_busy (hf : d.crn.fill.isSome = true) (hq : d.crn.queued.isSome = true) : d.fillCmd x y = d.crnFault 0x0905 :=
  (if_neg (not_barred hr)).trans ((if_pos hf).trans (if_pos hq))

theorem Dev.fillCmd_queues (hf : d.crn.fill.isSome = true) (hq : d.crn.queued = none) : let e := d.fillCmd x y
    e.crn.queued = some { store := x, stepMatch := y } ∧ e.crn.fill = d.crn.fill ∧ e.is Reg.CRN_STATUS.FILL_QUEUED = true := by
  have he : d.fillCmd x y = { d with crn := { d.crn with queued := some { store := x, stepMatch := y } } }.put Reg.CRN_STATUS.FILL_QUEUED 1 :=
    (if_neg (not_barred hr)).trans ((if_pos hf).trans (if_neg (by rw [hq]; exact Bool.false_ne_true)))
  rw [he]
  exact ⟨rfl, rfl, Dev.is_put_one _ _ (by decide)⟩

/-- What keeps a FILL from beginning (R486). -/
def Dev.FillBad (d : Dev) (x : Bool) : Prop :=
  (!d.xferOk (d.fillSource false) true (!x)) = true ∨ ((!x) = true ∧ (d.running = true ∨ d.crn.step.isSome = true)) ∨
    (x = true ∧ d.get Reg.CRN_STORE.SIZE < 2)

theorem Dev.fillCmd_begins (hf : d.crn.fill = none) (hx : d.xferOk (d.fillSource false) true (!x) = true)
    (hd : x = false → d.running = false ∧ d.crn.step = none) (hs : x = true → 2 ≤ d.get Reg.CRN_STORE.SIZE) :
    d.fillCmd x y = d.beginFill { store := x, stepMatch := y } := by
  have hgood : ¬ d.FillBad x := by
    rintro (h | ⟨h, hr⟩ | ⟨h, hs'⟩)
    · rw [hx] at h
      exact Bool.false_ne_true h
    · obtain ⟨hrun, hstep⟩ := hd (by simpa using h)
      rw [hrun, hstep] at hr
      exact hr.elim Bool.false_ne_true Bool.false_ne_true
    · exact absurd (hs h) (Nat.not_le.2 hs')
  exact (if_neg (not_barred hr)).trans ((if_neg (by rw [hf]; exact Bool.false_ne_true)).trans (if_neg hgood))

theorem Dev.fillCmd_refused (hf : d.crn.fill = none)
    (h : d.xferOk (d.fillSource false) true (!x) = false ∨ (x = false ∧ (d.running = true ∨ d.crn.step.isSome = true)) ∨
      (x = true ∧ d.get Reg.CRN_STORE.SIZE < 2)) : d.fillCmd x y = d.event Reg.CRN_EVENT.CMD_REFUSED := by
  have hbad : d.FillBad x := by
    simpa only [Dev.FillBad, Bool.not_eq_true'] using h
  exact (if_neg (not_barred hr)).trans ((if_neg (by rw [hf]; exact Bool.false_ne_true)).trans (if_pos hbad))

end

theorem Dev.cancelQueued_facts {d : Dev} (h : d.crn.queued.isSome = true) :
    d.cancelQueued.crn.queued = none ∧ d.cancelQueued.is Reg.CRN_STATUS.FILL_QUEUED = false := by
  have he : d.cancelQueued = { d with crn := { d.crn with queued := none } }.put Reg.CRN_STATUS.FILL_QUEUED 0 := if_pos h
  rw [he]
  exact ⟨rfl, Dev.is_put_zero _ _ (by decide)⟩

/-! ### SERVE -/

theorem Dev.serveCmd_busy {d : Dev} (h : d.serveBusy = true) {x : Nat} (hx : x ≠ 0) (y : Bool) : d.serveCmd x y = d.crnFault 0x0905 := by
  refine if_pos ⟨h, ?_⟩
  simp only [hx, false_and, decide_false, Bool.not_false]

section
variable {d : Dev} (h : d.serveBusy = false)
include h

theorem not_busy (p : Prop) : ¬ (d.serveBusy = true ∧ p) := fun hb => Bool.false_ne_true (h.symm.trans hb.1)

theorem Dev.serveCmd_next (y : Bool) : d.serveCmd 0 y = d.event Reg.CRN_EVENT.CMD_REFUSED := by
  have ha : d.nextArmed = false := (Bool.or_eq_false_iff.1 h).2
  exact (if_neg (not_busy h _)).trans ((if_neg (by simp)).trans ((if_pos rfl).trans (if_neg (by rw [ha]; exact Bool.false_ne_true))))

theorem Dev.serveCmd_noStore (hs : d.is Reg.CRN_STATUS.STORE_VALID = false) (y : Bool) : d.serveCmd 1 y = d.event Reg.CRN_EVENT.CMD_REFUSED :=
  (if_neg (not_busy h _)).trans ((if_neg (by simp)).trans ((if_neg (by decide)).trans (if_pos (.inl (by simp only [hs, Bool.not_false])))))

theorem Dev.serveCmd_store (hs : d.is Reg.CRN_STATUS.STORE_VALID = true) (hx : d.xferOk (d.fillSource false) true false = true) :
    d.serveCmd 1 false = d.beginServe { src := 1, wait := false } := by
  have hok : ¬ ((!d.is Reg.CRN_STATUS.STORE_VALID) = true ∨ (!d.xferOk (d.fillSource false) true false) = true) := by
    rw [hs, hx]
    decide
  exact (if_neg (not_busy h _)).trans ((if_neg (by simp)).trans ((if_neg (by decide)).trans ((if_neg hok).trans (if_neg (by simp)))))

end

/-! ### A fill that reaches its trailer -/

theorem Dev.fillReach_none {d : Dev} {bs : List Byte} (h : d.fillBytes bs = none) (m : Memory) :
    d.fillReach bs = d ∧ d.fillReachMem bs m = m := by
  simp only [Dev.fillReach, Dev.fillReachMem, h, and_self]

theorem Dev.fillReach_some {d : Dev} {bs x : List Byte} (h : d.fillBytes bs = some x) (m : Memory) :
    d.fillReach bs = (d.fillMends x).fillEnd x ∧ d.fillReachMem bs m = d.fillMem x m := by
  simp only [Dev.fillReach, Dev.fillReachMem, h, and_self]

/-- One with a bad manifest writes nothing, and its source fails. -/
theorem Dev.fill_badManifest {d : Dev} {f : FillReq} {x : List Byte} (hf : d.crn.fill = some f) (hm : d.manifestOk f x = false) (m : Memory) :
    (d.fillMends x).fillEnd x = d.fillFail ∧ d.fillMem x m = m := by
  have hmends : d.fillMends x = d := by simp only [Dev.fillMends, hf, hm, Bool.not_false, if_true]
  constructor
  · rw [hmends]
    simp only [Dev.fillEnd, hf, hm, Bool.not_false, if_true]
  · simp only [Dev.fillMem, hf, hm, Bool.not_false, if_true]

/-- The manifest of a fill of the store is judged by its bytes alone. -/
theorem Dev.manifestOk_store (d e : Dev) {f : FillReq} (h : f.store = true) (x : List Byte) : d.manifestOk f x = e.manifestOk f x := by
  simp only [Dev.manifestOk, h, Bool.true_or]

theorem Dev.fill_store {d : Dev} {f : FillReq} {x : List Byte} (m : Memory) (hf : d.crn.fill = some f) (hm : d.manifestOk f x = true)
    (hs : f.store = true) : let a := d.storeHalf (1 - d.get Reg.CRN_STATUS.STORE_HALF)
    d.fillMem x m = d.writeBytes m a x ∧ d.fillMends x = d.rewritten a x.length ∧
      (trailerOk x = false → (d.fillMends x).fillEnd x = ((d.fillMends x).crnFault 0x0909).fillFail) := by
  have hmends : d.fillMends x = d.rewritten (d.storeHalf (1 - d.get Reg.CRN_STATUS.STORE_HALF)) x.length := by
    simp only [Dev.fillMends, hf, hm, hs, Bool.not_true, Bool.false_eq_true, if_false, if_true]
  refine ⟨by simp only [Dev.fillMem, hf, hm, hs, Bool.not_true, Bool.false_eq_true, if_false, if_true], hmends, fun ht => ?_⟩
  have hf' : (d.fillMends x).crn.fill = some f := by
    rw [hmends, Dev.crn_rewritten]
    exact hf
  have hm' : (d.fillMends x).manifestOk f x = true := (Dev.manifestOk_store _ d hs x).trans hm
  generalize d.fillMends x = e at hf' hm'
  simp only [Dev.fillEnd, hf', hm', ht, Bool.not_true, Bool.not_false, Bool.false_eq_true, if_false, if_true]

/-- The bytes of a fill: those read from a host buffer; over a convoy the blocks that have come. -/
theorem Dev.fillBytes_of_fill {d : Dev} {f : FillReq} (bs : List Byte) (hf : d.crn.fill = some f) :
    ((d.fillSource f.alt).1 ≠ 1 → d.fillBytes bs = some bs) ∧
    ((d.fillSource f.alt).1 = 1 → (f.blocks 512 = none → d.fillBytes bs = none) ∧
      (∀ h, f.blocks 512 = some h → d.fillBytes bs = if d.manifestOk f h = true then f.blocks (cairnField h 0x20 8 / 4096) else some h) ∧
      (∀ n k x, (d.fillTake (d.fillSource f.alt).2.1 n k x).crn = { d.crn with fill := some { f with blks := f.blks ++ [(72 * n + k, x)] } })) := by
  refine ⟨fun h => ?_, fun h => ⟨fun hn => ?_, fun x hx => ?_, fun n k x => ?_⟩⟩
  · simp only [Dev.fillBytes, hf, if_neg h]
  · simp only [Dev.fillBytes, hf, if_pos h, hn]
  · simp only [Dev.fillBytes, hf, if_pos h, hx]
  · simp only [Dev.fillTake, hf, h, and_self, if_true]
    rfl

/-! ### A source that fails -/

theorem Dev.fillSourceFails_eq (w : SourceFail) (d : Dev) : d.fillSourceFails w = d.fillFail := by
  cases w <;> rfl

/-- The fill after its source has failed, its alternative taken. -/
def Dev.alternated (f : FillReq) (d : Dev) : Dev :=
  ({ d.dropSource f.alt with crn := { d.crn with fill := some { f with alt := true, blks := [] } } }.put Reg.CRN_PROGRESS.FILLED 0).event
    Reg.CRN_EVENT.ALTERNATE

/-- The alternative's convoy asks to be joined. -/
def Dev.joinsAlternative (e d : Dev) : Dev :=
  if d.get Reg.CRN_XFER_B.KIND = 1 then { e with joining := e.joining ++ [d.get Reg.CRN_XFER_B.CONVOY] } else e

theorem Dev.joinsAlternative_facts (e d : Dev) : (e.joinsAlternative d).crn = e.crn ∧ (e.joinsAlternative d).regs = e.regs := by
  unfold Dev.joinsAlternative
  split <;> exact ⟨rfl, rfl⟩

theorem Dev.fillFail_alternate {d : Dev} {f : FillReq} (hf : d.crn.fill = some f) (ha : f.alt = false) (hk : d.get Reg.CRN_XFER_B.KIND ≠ 0) :
    d.fillFail.crn.fill = some { f with alt := true, blks := [] } ∧ d.fillFail.is Reg.CRN_EVENT.ALTERNATE = true := by
  have he : d.fillFail = ((d.alternated f).joinsAlternative d).freshSource true := by
    unfold Dev.fillFail
    rw [hf]
    exact if_pos ⟨by rw [ha]; rfl, hk⟩
  obtain ⟨hcrn, hregs⟩ := (d.alternated f).joinsAlternative_facts d
  rw [he]
  constructor
  · rw [Dev.crn_freshSource, hcrn]
    exact congrArg CairnSt.fill (Dev.crn_event _ Reg.CRN_EVENT.ALTERNATE)
  · rw [Dev.is_of_get (Dev.get_freshSource_ne _ _ (by decide) (by decide) (by decide)),
      Dev.is_of_get (show ((d.alternated f).joinsAlternative d).get Reg.CRN_EVENT.ALTERNATE = (d.alternated f).get Reg.CRN_EVENT.ALTERNATE by
        unfold Dev.get; rw [hregs])]
    exact Dev.is_event_self _ _ (by decide)

theorem Dev.fillFail_ends {d : Dev} {f : FillReq} (hf : d.crn.fill = some f) (ha : f.alt = true ∨ d.get Reg.CRN_XFER_B.KIND = 0)
    (hs : f.store = true) : d.fillFail = ((d.dropSource f.alt).crnFault 0x090A).endFill := by
  have hno : ¬ ((!f.alt) = true ∧ d.get Reg.CRN_XFER_B.KIND ≠ 0) := by
    rintro ⟨h, hk⟩
    rcases ha with ha | ha
    · rw [ha] at h
      exact Bool.false_ne_true h
    · exact hk ha
  unfold Dev.fillFail
  simp only [hf, if_neg hno, hs, if_true]

/-! ### The end of a serve -/

/-- What a serve that ends has sent. -/
def Dev.serveSent (failed : Bool) (v : ServeReq) (m : Memory) (d : Dev) : Dev :=
  if failed ∨ !d.xferOk (d.serveDest v) true (v.src ≠ 1) then d
  else (d.serveOut v (d.serveImage m v)).put Reg.CRN_PROGRESS.SERVED ((d.serveImage m v).length / stepBytes)

/-- The serve is over: held slots are released. -/
def Dev.serveClosed (d : Dev) : Dev :=
  ({ d with crn := { d.crn with serve := none, held := none, waitCopy := false, swap := false } }.put Reg.CRN_STATUS.SERVING 0).event
    Reg.CRN_EVENT.SERVE_END

/-- What waited for the serve goes on: a copy, a store half (`w`, `p`: whether one waits). -/
def Dev.serveFollows (w p : Bool) (h : Nat) (d : Dev) : Dev :=
  let e := if w then (d.put Reg.CRN_STATUS.COPYING 1).put Reg.MEM_STATUS.COPY_BUSY 1 else d
  if p then (e.put Reg.CRN_STATUS.STORE_HALF h).put Reg.CRN_STATUS.STORE_VALID 1 else e

theorem Dev.serveEnd_eq {d : Dev} {v : ServeReq} (h : d.crn.serve = some v) (failed : Bool) (m : Memory) : d.serveEnd failed m =
    (d.serveSent failed v m).serveClosed.serveFollows d.crn.waitCopy d.crn.swap (1 - d.get Reg.CRN_STATUS.STORE_HALF) := by
  unfold Dev.serveEnd
  rw [h]
  rfl

theorem Dev.serveClosed_facts (d : Dev) : let e := d.serveClosed
    e.crn.serve = none ∧ e.crn.held = none ∧ e.crn.waitCopy = false ∧ e.is Reg.CRN_STATUS.SERVING = false ∧ e.is Reg.CRN_EVENT.SERVE_END = true := by
  have hcrn : d.serveClosed.crn = { d.crn with serve := none, held := none, waitCopy := false, swap := false } := Dev.crn_event _ _
  exact ⟨by rw [hcrn], by rw [hcrn], by rw [hcrn], (Dev.is_event_ne _ (by decide)).trans (Dev.is_put_zero _ _ (by decide)),
    Dev.is_event_self _ _ (by decide)⟩

theorem Dev.serveFollows_facts (w p : Bool) (h : Nat) (d : Dev) : (d.serveFollows w p h).crn = d.crn ∧
    (d.serveFollows w p h).is Reg.CRN_STATUS.SERVING = d.is Reg.CRN_STATUS.SERVING ∧
    (d.serveFollows w p h).is Reg.CRN_EVENT.SERVE_END = d.is Reg.CRN_EVENT.SERVE_END := by
  have htwo (e : Dev) {F A B : Fld} (a b : Nat) (h1 : F.key ≠ A.key) (h2 : F.key ≠ B.key) : ((e.put A a).put B b).is F = e.is F :=
    (Dev.is_put_ne _ _ h2).trans (Dev.is_put_ne _ _ h1)
  cases w <;> cases p <;> refine ⟨rfl, ?_, ?_⟩
  · rfl
  · rfl
  · exact htwo d _ _ (by decide) (by decide)
  · exact htwo d _ _ (by decide) (by decide)
  · exact htwo d _ _ (by decide) (by decide)
  · exact htwo d _ _ (by decide) (by decide)
  · exact (htwo _ _ _ (by decide) (by decide)).trans (htwo d _ _ (by decide) (by decide))
  · exact (htwo _ _ _ (by decide) (by decide)).trans (htwo d _ _ (by decide) (by decide))

theorem Dev.serveEnd_facts {d : Dev} (h : d.crn.serve.isSome = true) (failed : Bool) (m : Memory) : let e := d.serveEnd failed m
    e.crn.serve = none ∧ e.crn.held = none ∧ e.crn.waitCopy = false ∧ e.is Reg.CRN_STATUS.SERVING = false ∧ e.is Reg.CRN_EVENT.SERVE_END = true := by
  obtain ⟨v, hv⟩ := Option.isSome_iff_exists.1 h
  rw [Dev.serveEnd_eq hv]
  obtain ⟨hcrn, hserving, hend⟩ := (d.serveSent failed v m).serveClosed.serveFollows_facts d.crn.waitCopy d.crn.swap
    (1 - d.get Reg.CRN_STATUS.STORE_HALF)
  dsimp only
  rw [hcrn, hserving, hend]
  exact Dev.serveClosed_facts _

/-! ### The health score -/

theorem riskComponent_le (x full : Nat) : riskComponent x full ≤ 255 := Nat.min_le_left _ _

theorem HealthSt.stretch_le (h : HealthSt) (full : Nat) : h.stretch full ≤ 255 := by
  have hall {l : List Nat} (hl : ∀ n ∈ l, n ≤ 255) {a : Nat} (ha : a ≤ 255) : l.foldl max a ≤ 255 := by
    induction l generalizing a with
    | nil => exact ha
    | cons n l ih => exact ih (fun n hn => hl n (.tail _ hn)) (Nat.max_le.2 ⟨ha, hl n (.head _)⟩)
  refine hall (fun n hn => ?_) (by decide)
  obtain ⟨i, -, rfl⟩ := List.mem_map.1 hn
  exact riskComponent_le _ _

theorem le_foldl_max {l : List Nat} {a n : Nat} (h : n ≤ a ∨ n ∈ l) : n ≤ l.foldl max a := by
  induction l generalizing a with
  | nil => exact h.resolve_right List.not_mem_nil
  | cons m l ih =>
    refine ih ?_
    rcases h with h | h
    · exact .inl (Nat.le_trans h (Nat.le_max_left _ _))
    · rcases List.mem_cons.1 h with rfl | h
      · exact .inl (Nat.le_max_right _ _)
      · exact .inr h

theorem HealthSt.le_stretch (h : HealthSt) (full i : Nat) (hi : i ≤ 20) :
    riskComponent (100 * h.rate fun m => kget 0 m.stretched i) (max 1 (h.rate HealthMs.windows) * max 1 full) ≤ h.stretch full :=
  le_foldl_max (.inr (List.mem_map.2 ⟨i, List.mem_range.2 (Nat.lt_succ_of_le hi), rfl⟩))

/-- The TEMP component. -/
def Dev.riskTemp (d : Dev) : Nat :=
  riskComponent (sgn 8 (d.get Reg.PWR_TEMP.DIE) - ((d.get Reg.PWR_THERM_CTL.THROTTLE_C : Int) - 20)).toNat 30

/-- The weighted mean of five components. -/
def Dev.riskMean (d : Dev) (resend stretch temp link droop : Nat) : Nat :=
  min 255 ((d.get Reg.HLT_WEIGHT.RESEND * resend + d.get Reg.HLT_WEIGHT.STRETCH * stretch + d.get Reg.HLT_WEIGHT.TEMP * temp +
    d.get Reg.HLT_WEIGHT.LINK * link + d.get Reg.HLT_WEIGHT.DROOP * droop) / 16)

theorem Dev.riskMean_le (d : Dev) (resend stretch temp link droop : Nat) : d.riskMean resend stretch temp link droop ≤ 255 := Nat.min_le_left _ _

/-- The registers of the score, written. -/
def Dev.putRisk (h : HealthSt) (resend stretch temp link droop risk : Nat) (d : Dev) : Dev :=
  { d with events := h } |>.put Reg.HLT_COMP.RESEND resend |>.put Reg.HLT_COMP.STRETCH stretch |>.put Reg.HLT_COMP.TEMP temp
    |>.put Reg.HLT_COMP.LINK link |>.put Reg.HLT_COMP.DROOP droop |>.put Reg.HLT_RISK.RISK risk |>.peak Reg.HLT_RISK.PEAK risk

theorem Dev.putRisk_facts {h : HealthSt} {d : Dev} {c1 c2 c3 c4 c5 r : Nat} (h1 : c1 ≤ 255) (h2 : c2 ≤ 255) (h3 : c3 ≤ 255) (h4 : c4 ≤ 255)
    (h5 : c5 ≤ 255) (hr : r ≤ 255) : let e := d.putRisk h c1 c2 c3 c4 c5 r
    e.get Reg.HLT_COMP.RESEND = c1 ∧ e.get Reg.HLT_COMP.STRETCH = c2 ∧ e.get Reg.HLT_COMP.TEMP = c3 ∧ e.get Reg.HLT_COMP.LINK = c4 ∧
      e.get Reg.HLT_COMP.DROOP = c5 ∧ e.get Reg.HLT_RISK.RISK = r := by
  have hself (e : Dev) (F : Fld) {n : Nat} (hn : n ≤ 255) (hw : F.width = 8) : (e.put F n).get F = n := by
    rw [Dev.get_put_self, hw]
    exact Nat.mod_eq_of_lt (Nat.lt_succ_of_le hn)
  unfold Dev.putRisk
  simp (disch := decide) only [Dev.get_peak_ne, Dev.get_put_ne]
  exact ⟨hself _ _ h1 rfl, hself _ _ h2 rfl, hself _ _ h3 rfl, hself _ _ h4 rfl, hself _ _ h5 rfl, hself _ _ hr rfl⟩

/-- The device with its score updated, before the threshold's event. -/
def Dev.riskScored (x : RiskInput) (d : Dev) : Dev :=
  let h := d.events.close x.droops
  let resend := riskComponent (h.rate HealthMs.rereads) (d.get Reg.HLT_FULL.RESEND)
  let link := riskComponent (h.rate HealthMs.blocks) (d.get Reg.HLT_FULL.LINK)
  let droop := riskComponent (h.rate HealthMs.droops) (d.get Reg.HLT_FULL.DROOP)
  let stretch := h.stretch (d.get Reg.HLT_FULL.STRETCH)
  d.putRisk h resend stretch d.riskTemp link droop (d.riskMean resend stretch d.riskTemp link droop)

theorem Dev.riskUpdate_cases (x : RiskInput) (d : Dev) : d.riskUpdate x = d.riskScored x ∨ d.riskUpdate x = (d.riskScored x).event Reg.HLT_EVENT.ABOVE := by
  unfold Dev.riskUpdate
  dsimp only
  split
  · exact .inr rfl
  · exact .inl rfl

theorem Dev.riskUpdate_get (x : RiskInput) (d : Dev) : (d.riskUpdate x).events = d.events.close x.droops ∧
    ∀ F : Fld, F.key ≠ Reg.HLT_EVENT.ABOVE.key → (d.riskUpdate x).get F = (d.riskScored x).get F := by
  rcases d.riskUpdate_cases x with h | h <;> rw [h]
  · exact ⟨rfl, fun _ _ => rfl⟩
  · refine ⟨?_, fun F hF => Dev.get_event_ne _ hF⟩
    have he := congrArg Dev.events (Dev.rest_event (d.riskScored x) Reg.HLT_EVENT.ABOVE)
    exact he

theorem HealthSt.close_facts (h : HealthSt) (n : Nat) : let c := h.close n
    c.cur = {} ∧ c.past.length ≤ 1000 ∧ (∃ m, c.past = (m :: h.past).take 1000 ∧ m.rereads = h.cur.rereads ∧ m.blocks = h.cur.blocks ∧
      m.windows = h.cur.windows ∧ m.stretched = h.cur.stretched) :=
  ⟨rfl, List.length_take_le 1000 _, _, rfl, rfl, rfl, rfl, rfl⟩

theorem Dev.riskScored_facts (x : RiskInput) (d : Dev) : let e := d.riskScored x; let h := d.events.close x.droops
    e.get Reg.HLT_COMP.RESEND = riskComponent (h.rate HealthMs.rereads) (d.get Reg.HLT_FULL.RESEND) ∧
      e.get Reg.HLT_COMP.LINK = riskComponent (h.rate HealthMs.blocks) (d.get Reg.HLT_FULL.LINK) ∧
      e.get Reg.HLT_COMP.DROOP = riskComponent (h.rate HealthMs.droops) (d.get Reg.HLT_FULL.DROOP) ∧
      e.get Reg.HLT_COMP.TEMP = d.riskTemp ∧ e.get Reg.HLT_COMP.STRETCH = h.stretch (d.get Reg.HLT_FULL.STRETCH) ∧
      e.get Reg.HLT_RISK.RISK = d.riskMean (e.get Reg.HLT_COMP.RESEND) (e.get Reg.HLT_COMP.STRETCH) (e.get Reg.HLT_COMP.TEMP)
        (e.get Reg.HLT_COMP.LINK) (e.get Reg.HLT_COMP.DROOP) := by
  obtain ⟨h1, h2, h3, h4, h5, h6⟩ := Dev.putRisk_facts (d := d) (h := d.events.close x.droops) (riskComponent_le _ (d.get Reg.HLT_FULL.RESEND))
    (HealthSt.stretch_le _ (d.get Reg.HLT_FULL.STRETCH)) (show d.riskTemp ≤ 255 from riskComponent_le _ _)
    (riskComponent_le _ (d.get Reg.HLT_FULL.LINK)) (riskComponent_le _ (d.get Reg.HLT_FULL.DROOP)) (d.riskMean_le _ _ _ _ _)
  unfold Dev.riskScored
  dsimp only
  exact ⟨h1, h4, h5, h3, h2, by rw [h1, h2, h3, h4, h5]; exact h6⟩

/-- Settles O39: the commands by what is in progress, the fill by its bytes' checks, a serve's end, the score by the counts of the last 1,000 ms. -/
theorem fillsAndServes : Obligations.FillsAndServes := by
  unfold Obligations.FillsAndServes
  refine ⟨fun b s => ?commands, fun d h x y hx => Dev.serveCmd_busy h hx y,
    fun d h => ⟨fun hs y => Dev.serveCmd_noStore h hs y, Dev.serveCmd_next h, Dev.serveCmd_store h⟩, fun bs s => ?reach,
    fun d f x m hf hm hs => Dev.fill_store m hf hm hs, fun d f bs hf => Dev.fillBytes_of_fill bs hf, fun w s => ?fails,
    fun d f hf => ⟨Dev.fillFail_alternate hf, Dev.fillFail_ends hf⟩, fun f s => ?ends, fun x s => ?score⟩
  case commands =>
    have hfill (x y : Bool) : Leaves (.fill b x y) s (s.dev.byZero b.toNat fun d => d.fillCmd x y) := rfl
    have hserve (x : BitVec 2) (y : Bool) : Leaves (.serve b x y) s (s.dev.byZero b.toNat fun d => d.serveCmd x.toNat y) := rfl
    have hcairn : Leaves (.cairn b) s (s.dev.byZero b.toNat Dev.cairnCmd) := rfl
    have hcancel : Leaves (.cancelQueued b) s (s.dev.byZero b.toNat Dev.cancelQueued) := rfl
    refine ⟨fun h => ⟨fun x y => (hfill x y).noEffect (Dev.byZero_other h), fun x y => (hserve x y).noEffect (Dev.byZero_other h),
      hcairn.noEffect (Dev.byZero_other h), hcancel.noEffect (Dev.byZero_other h)⟩, fun h => ?_⟩
    have hf (x y : Bool) := (hfill x y).congr (Dev.byZero_zero h)
    have hc := hcairn.congr (Dev.byZero_zero h)
    have hq := hcancel.congr (Dev.byZero_zero h)
    exact ⟨fun x y hr => ⟨fun h1 h2 => (hf x y).congr (Dev.fillCmd_busy hr h1 h2), fun h1 h2 => ⟨_, hf x y, Dev.fillCmd_queues hr h1 h2⟩,
        fun h1 h2 h3 h4 => ⟨_, (hf x y).congr (Dev.fillCmd_begins hr h1 h2 h3 h4), Dev.beginFill_facts _ _⟩,
        fun h1 h2 => (hf x y).congr (Dev.fillCmd_refused hr h1 h2)⟩,
      fun y hr => (hf false y).congr (Dev.fillCmd_barred hr), fun x y => (hserve x y).congr (Dev.byZero_zero h), fun hb => hc.congr (if_pos hb),
      fun hb hk => hc.congr ((if_neg fun h => Bool.false_ne_true (hb.symm.trans h)).trans (if_pos hk)),
      fun hb hk => hc.congr ((if_neg fun h => Bool.false_ne_true (hb.symm.trans h)).trans (if_neg hk)),
      fun hn => hq.congr (if_neg (by rw [hn]; exact Bool.false_ne_true)), fun hs => ⟨_, hq, Dev.cancelQueued_facts hs⟩⟩
  case reach =>
    intro d
    have hst := stores_fillDone bs s
    refine ⟨fun hn => ?_, fun f x hf hx => ?_⟩
    · obtain ⟨hd, hm⟩ := Dev.fillReach_none hn s.dram
      rw [hd, hm] at hst
      exact (hst.leaves rfl).noEffect rfl
    · obtain ⟨hd, hm⟩ := Dev.fillReach_some hx s.dram
      rw [hd, hm] at hst
      refine ⟨fun hbad => ?_, fun _ => hst⟩
      obtain ⟨hd', hm'⟩ := Dev.fill_badManifest hf hbad s.dram
      rw [hm'] at hst
      exact (hst.leaves rfl).congr hd'
  case fails =>
    have hl : Leaves (.fillSourceFail w) s (s.dev.fillSourceFails w) := rfl
    exact hl.congr (Dev.fillSourceFails_eq w s.dev)
  case ends =>
    intro d
    have hl : Leaves (.serveEnd f) s (if f || s.dev.serveReady s.dram then s.dev.serveEnd f s.dram else s.dev) := rfl
    refine ⟨fun hf hr => ?_, fun hn => ?_, fun hs h => ?_⟩
    · exact hl.noEffect (if_neg (by rw [hf, hr]; exact Bool.false_ne_true))
    · have hnone : s.dev.serveEnd f s.dram = s.dev := by
        unfold Dev.serveEnd
        rw [hn]
      exact hl.noEffect (by rw [hnone, ite_self])
    · exact ⟨_, hl.congr (if_pos (by simpa only [Bool.or_eq_true] using h)), Dev.serveEnd_facts hs f s.dram⟩
  case score =>
    intro d e w h
    have hl : Leaves (.riskUpdate x) s (if s.dev.mod.fw then s.dev.riskUpdate x else s.dev) := rfl
    obtain ⟨hevents, hget⟩ := s.dev.riskUpdate_get x
    obtain ⟨hresend, hlink, hdroop, htemp, hstretch, hrisk⟩ := s.dev.riskScored_facts x
    obtain ⟨hcur, hlen, hpast⟩ := s.dev.events.close_facts x.droops
    have hcomp {F : Fld} (hF : F.key ≠ Reg.HLT_EVENT.ABOVE.key) : e.get F = (s.dev.riskScored x).get F := hget F hF
    refine ⟨fun hf => hl.noEffect (if_neg fun h => Bool.false_ne_true (hf.symm.trans h)), fun hf => hl.congr (if_pos hf), hevents, hcur, hlen,
      hpast, (hcomp (by decide)).trans hresend, (hcomp (by decide)).trans hlink, (hcomp (by decide)).trans hdroop, (hcomp (by decide)).trans htemp,
      fun i hi => ?_, ?_⟩
    · rw [hcomp (by decide), hstretch]
      exact HealthSt.le_stretch h _ i hi
    · rw [hcomp (by decide), hcomp (by decide), hcomp (by decide), hcomp (by decide), hcomp (by decide), hcomp (by decide)]
      exact hrisk

end Sys2Proof.Machine
end

section
/-! PROOF. Waymark ports and convoy entries (R421 to R423, R436, R441, R442, R586). -/

namespace Sys2Proof.Machine

/-! ### Ports -/

/-- The port with the fields of a WMK_Pp_CFG write. -/
def Dev.portCfged (q n : Nat) (d : Dev) : Dev :=
  d |>.putB (Reg.WMK_P_CFG.ENABLE q) (bitOf n 0) |>.putB (Reg.WMK_P_CFG.SPLIT q) (bitOf n 1) |>.putB (Reg.WMK_P_CFG.VLAN_EN q) (bitOf n 2)
    |>.put (Reg.WMK_P_CFG.VLAN_ID q) (bitsOf n 4 12) |>.put (Reg.WMK_P_CFG.PCP q) (bitsOf n 16 3)

/-- The port without its links. -/
def Dev.portIdle (q : Nat) (d : Dev) : Dev := (d.put (Reg.WMK_P_STAT.LINK0 q) 0).put (Reg.WMK_P_STAT.LINK1 q) 0

theorem Dev.portCfged_facts (q n : Nat) (d : Dev) : let e := d.portCfged q n
    e.is (Reg.WMK_P_CFG.ENABLE q) = bitOf n 0 ∧ e.is (Reg.WMK_P_CFG.SPLIT q) = bitOf n 1 ∧ e.is (Reg.WMK_P_CFG.VLAN_EN q) = bitOf n 2 ∧
      e.get (Reg.WMK_P_CFG.VLAN_ID q) = bitsOf n 4 12 % 2 ^ 12 ∧ e.get (Reg.WMK_P_CFG.PCP q) = bitsOf n 16 3 % 2 ^ 3 := by
  have h01 : (Reg.WMK_P_CFG.ENABLE q).key ≠ (Reg.WMK_P_CFG.SPLIT q).key := by simp only [Fld.key, Reg.WMK_P_CFG.ENABLE, Reg.WMK_P_CFG.SPLIT]; omega
  have h02 : (Reg.WMK_P_CFG.ENABLE q).key ≠ (Reg.WMK_P_CFG.VLAN_EN q).key := by
    simp only [Fld.key, Reg.WMK_P_CFG.ENABLE, Reg.WMK_P_CFG.VLAN_EN]; omega
  have h12 : (Reg.WMK_P_CFG.SPLIT q).key ≠ (Reg.WMK_P_CFG.VLAN_EN q).key := by
    simp only [Fld.key, Reg.WMK_P_CFG.SPLIT, Reg.WMK_P_CFG.VLAN_EN]; omega
  have hid {F : Fld} (hF : F.off = 0x80100 + 0x80 * q) (hlo : F.lo < 4) : F.key ≠ (Reg.WMK_P_CFG.VLAN_ID q).key := by
    simp only [Fld.key, Reg.WMK_P_CFG.VLAN_ID, hF]; omega
  have hpcp {F : Fld} (hF : F.off = 0x80100 + 0x80 * q) (hlo : F.lo < 16) : F.key ≠ (Reg.WMK_P_CFG.PCP q).key := by
    simp only [Fld.key, Reg.WMK_P_CFG.PCP, hF]; omega
  have hflag (e : Dev) {F : Fld} (hF : F.off = 0x80100 + 0x80 * q) (hlo : F.lo < 4) :
      ((e.put (Reg.WMK_P_CFG.VLAN_ID q) (bitsOf n 4 12)).put (Reg.WMK_P_CFG.PCP q) (bitsOf n 16 3)).is F = e.is F :=
    (Dev.is_put_ne _ _ (hpcp hF (by omega))).trans (Dev.is_put_ne _ _ (hid hF hlo))
  refine ⟨(hflag _ rfl (Nat.zero_lt_succ _)).trans ?_, (hflag _ rfl (Nat.lt_add_left 2 (Nat.lt_add_one 1))).trans ?_,
    (hflag _ rfl (Nat.lt_add_left 1 (Nat.lt_add_one 2))).trans ?_, ?_, Dev.get_put_self _ _ _⟩
  · exact (Dev.is_putB_ne _ _ h02).trans ((Dev.is_putB_ne _ _ h01).trans (Dev.is_putB_self _ _ _ Nat.one_pos))
  · exact (Dev.is_putB_ne _ _ h12).trans (Dev.is_putB_self _ _ _ Nat.one_pos)
  · exact Dev.is_putB_self _ _ _ Nat.one_pos
  · exact (Dev.get_put_ne _ _ (hpcp rfl (Nat.lt_add_left 11 (Nat.lt_add_one 4)))).trans (Dev.get_put_self _ _ _)

theorem Dev.get_portIdle_ne (q : Nat) (d : Dev) {F : Fld} (hF : F.off = 0x80100 + 0x80 * q) (hlo : F.lo < 64) : (d.portIdle q).get F = d.get F := by
  refine (Dev.get_put_ne _ _ ?_).trans (Dev.get_put_ne _ _ ?_)
  · simp only [Fld.key, Reg.WMK_P_STAT.LINK1, hF]
    omega
  · simp only [Fld.key, Reg.WMK_P_STAT.LINK0, hF]
    omega

theorem Dev.portIdle_facts (q : Nat) (d : Dev) :
    (d.portIdle q).is (Reg.WMK_P_STAT.LINK0 q) = false ∧ (d.portIdle q).is (Reg.WMK_P_STAT.LINK1 q) = false := by
  refine ⟨(Dev.is_put_ne _ _ ?_).trans (Dev.is_put_zero _ _ Nat.one_pos), Dev.is_put_zero _ _ Nat.one_pos⟩
  simp only [Fld.key, Reg.WMK_P_STAT.LINK0, Reg.WMK_P_STAT.LINK1]
  omega

/-- Whether a valid entry uses the port. -/
def Dev.portBusy (d : Dev) (q : Nat) : Bool := (List.range 512).any fun c => d.is (Reg.WMK_CV0.VALID c) && d.cvPort c == q

theorem Dev.portBusy_iff (d : Dev) (q : Nat) : d.portBusy q = true ↔ ∃ c < 512, d.is (Reg.WMK_CV0.VALID c) = true ∧ d.cvPort c = q := by
  simp only [Dev.portBusy, List.any_eq_true, List.mem_range, Bool.and_eq_true, beq_iff_eq]

section
variable {d : Dev} {q n : Nat}

theorem Dev.portCfgWrite_absent (h : d.portPresent q = false) : d.portCfgWrite q n = d := if_pos (by rw [h]; rfl)

variable (hp : d.portPresent q = true)
include hp

theorem Dev.portCfgWrite_refused (hs : ¬ (bitOf n 0 = d.is (Reg.WMK_P_CFG.ENABLE q) ∧ bitOf n 1 = d.is (Reg.WMK_P_CFG.SPLIT q)))
    (hu : d.portBusy q = true) : d.portCfgWrite q n = d.event Reg.WMK_EVENT.CFG_REFUSED :=
  (if_neg (by rw [hp]; exact Bool.false_ne_true)).trans (if_pos ⟨Classical.not_and_iff_not_or_not.1 hs, hu⟩)

theorem Dev.portCfgWrite_taken
    (h : (bitOf n 0 = d.is (Reg.WMK_P_CFG.ENABLE q) ∧ bitOf n 1 = d.is (Reg.WMK_P_CFG.SPLIT q)) ∨ d.portBusy q = false) : d.portCfgWrite q n =
      if (!bitOf n 0) = true ∨ bitOf n 1 ≠ d.is (Reg.WMK_P_CFG.SPLIT q) then (d.portCfged q n).portIdle q else d.portCfged q n := by
  refine (if_neg (by rw [hp]; exact Bool.false_ne_true)).trans (if_neg ?_)
  rintro ⟨hdiff, hu⟩
  rcases h with ⟨he, hs⟩ | h
  · exact hdiff.elim (fun h => h he) fun h => h hs
  · exact Bool.false_ne_true (h.symm.trans hu)

theorem Dev.portCfgWrite_facts
    (h : (bitOf n 0 = d.is (Reg.WMK_P_CFG.ENABLE q) ∧ bitOf n 1 = d.is (Reg.WMK_P_CFG.SPLIT q)) ∨ d.portBusy q = false) :
    let e := d.portCfgWrite q n
    e.is (Reg.WMK_P_CFG.ENABLE q) = bitOf n 0 ∧ e.is (Reg.WMK_P_CFG.SPLIT q) = bitOf n 1 ∧ e.is (Reg.WMK_P_CFG.VLAN_EN q) = bitOf n 2 ∧
      e.get (Reg.WMK_P_CFG.VLAN_ID q) = bitsOf n 4 12 % 2 ^ 12 ∧ e.get (Reg.WMK_P_CFG.PCP q) = bitsOf n 16 3 % 2 ^ 3 ∧
      (bitOf n 0 = false → e.is (Reg.WMK_P_STAT.LINK0 q) = false ∧ e.is (Reg.WMK_P_STAT.LINK1 q) = false) := by
  obtain ⟨h1, h2, h3, h4, h5⟩ := d.portCfged_facts q n
  rw [Dev.portCfgWrite_taken hp h]
  dsimp only
  split
  · have hget {F : Fld} := (d.portCfged q n).get_portIdle_ne q (F := F)
    exact ⟨(Dev.is_of_get (hget rfl (by simp [Reg.WMK_P_CFG.ENABLE]))).trans h1, (Dev.is_of_get (hget rfl (by simp [Reg.WMK_P_CFG.SPLIT]))).trans h2,
      (Dev.is_of_get (hget rfl (by simp [Reg.WMK_P_CFG.VLAN_EN]))).trans h3, (hget rfl (by simp [Reg.WMK_P_CFG.VLAN_ID])).trans h4,
      (hget rfl (by simp [Reg.WMK_P_CFG.PCP])).trans h5, fun _ => (d.portCfged q n).portIdle_facts q⟩
  · next hno => exact ⟨h1, h2, h3, h4, h5, fun h0 => absurd (.inl (by rw [h0]; rfl)) hno⟩

end

/-! ### Links -/

/-- The status bit of a link. -/
def linkBit (q sub : Nat) : Fld := if sub = 0 then Reg.WMK_P_STAT.LINK0 q else Reg.WMK_P_STAT.LINK1 q

/-- What a link needs to come up. -/
def Dev.LinkAble (d : Dev) (q : Nat) (sub : BitVec 1) : Prop :=
  d.is (Reg.WMK_P_CFG.ENABLE q) = true ∧ d.netClk = true ∧ (sub = 1#1 → d.is (Reg.WMK_P_CFG.SPLIT q) = true)

/-- What makes a link change do nothing. -/
def Dev.LinkBarred (d : Dev) (q sub : Nat) (up : Bool) : Prop :=
  (!d.portPresent q) = true ∨ (up = true ∧ ((!d.is (Reg.WMK_P_CFG.ENABLE q)) = true ∨ (!d.netClk) = true ∨
    (sub = 1 ∧ (!d.is (Reg.WMK_P_CFG.SPLIT q)) = true)))

theorem Dev.linkBarred_iff (d : Dev) (q : Nat) (sub : BitVec 1) (up : Bool) :
    d.LinkBarred q sub.toNat up ↔ d.portPresent q = false ∨ (up = true ∧ ¬ d.LinkAble q sub) := by
  have hsub : sub.toNat = 1 ↔ sub = 1#1 := by
    rw [← BitVec.toNat_inj]
    rfl
  simp only [Dev.LinkBarred, Dev.LinkAble, Bool.not_eq_true', Classical.not_and_iff_not_or_not, Classical.not_imp, Bool.not_eq_true, hsub]

section
variable {d : Dev} {q : Nat} {sub : BitVec 1} {up : Bool}

theorem Dev.linkChange_none (h : d.portPresent q = false ∨ d.is (linkBit q sub.toNat) = up ∨ (up = true ∧ ¬ d.LinkAble q sub)) :
    d.linkChange q sub.toNat up = d := by
  by_cases hb : d.LinkBarred q sub.toNat up
  · exact if_pos hb
  · have hF : d.is (linkBit q sub.toNat) = up := by
      rw [Dev.linkBarred_iff, not_or] at hb
      exact (h.resolve_left hb.1).resolve_right hb.2
    exact (if_neg hb).trans (if_pos hF)

theorem Dev.linkChange_taken (hp : d.portPresent q = true) (hF : d.is (linkBit q sub.toNat) ≠ up) (ha : up = true → d.LinkAble q sub) :
    d.linkChange q sub.toNat up = (d.putB (linkBit q sub.toNat) up).event Reg.WMK_EVENT.LINK_CHANGE := by
  have hb : ¬ d.LinkBarred q sub.toNat up := by
    rw [Dev.linkBarred_iff]
    rintro (h | ⟨hu, hn⟩)
    · exact Bool.false_ne_true (h.symm.trans hp)
    · exact hn (ha hu)
  exact (if_neg hb).trans (if_neg hF)

end

theorem Dev.Told.netClk {d e : Dev} (h : d.Told e) : e.netClk = d.netClk := by
  obtain ⟨r, j, o, p, w, rfl⟩ := h
  rfl

theorem Dev.netClk_netclkLoss (d : Dev) : d.netclkLoss.netClk = false :=
  (Dev.Told.foldl (fun d p => (Dev.told_linkChange p 0 false d).trans (Dev.told_linkChange p 1 false _)) (List.range 8) { d with netClk := false }).netClk

/-! ### Convoy entries -/

theorem Dev.is_updWmkStatus_ne (d : Dev) {F : Fld} (h1 : F.key ≠ Reg.WMK_STATUS.VALID.key) (h2 : F.key ≠ Reg.WMK_STATUS.JOINED.key) :
    d.updWmkStatus.is F = d.is F := (Dev.is_put_ne _ _ h2).trans (Dev.is_put_ne _ _ h1)

theorem key_valid_ne_status (k : Nat) : (Reg.WMK_CV0.VALID k).key ≠ Reg.WMK_STATUS.VALID.key ∧
    (Reg.WMK_CV0.VALID k).key ≠ Reg.WMK_STATUS.JOINED.key := by
  simp only [Fld.key, Reg.WMK_CV0.VALID, Reg.WMK_STATUS.VALID, Reg.WMK_STATUS.JOINED]
  omega

theorem key_joined_ne_status (k : Nat) : (Reg.WMK_CV0.JOINED k).key ≠ Reg.WMK_STATUS.VALID.key ∧
    (Reg.WMK_CV0.JOINED k).key ≠ Reg.WMK_STATUS.JOINED.key := by
  simp only [Fld.key, Reg.WMK_CV0.JOINED, Reg.WMK_STATUS.VALID, Reg.WMK_STATUS.JOINED]
  omega

section
variable {d : Dev} {k : Nat}

theorem Dev.convoyValid_refused (h : d.is (Reg.WMK_CV0.VALID k) = true ∨ d.convoyOk k = false) :
    d.convoyValid k true = d.event Reg.WMK_EVENT.CFG_REFUSED :=
  if_pos (by simpa only [Bool.not_eq_true'] using h)

theorem Dev.convoyValid_set (hv : d.is (Reg.WMK_CV0.VALID k) = false) (ho : d.convoyOk k = true) :
    (d.convoyValid k true).is (Reg.WMK_CV0.VALID k) = true := by
  have he : d.convoyValid k true = (d.put (Reg.WMK_CV0.VALID k) 1).updWmkStatus :=
    if_neg (by rw [hv, ho]; simp only [Bool.not_true, Bool.false_eq_true, or_self, not_false_eq_true])
  obtain ⟨h1, h2⟩ := key_valid_ne_status k
  rw [he, Dev.is_updWmkStatus_ne _ h1 h2, Dev.is_put_one _ _ Nat.one_pos]

theorem Dev.convoyValid_clear_invalid (hv : d.is (Reg.WMK_CV0.VALID k) = false) : d.convoyValid k false = d :=
  if_pos (by rw [hv]; rfl)

variable (hv : d.is (Reg.WMK_CV0.VALID k) = true)
include hv

theorem Dev.convoyValid_clear_named (hn : d.routeNames k = true) : d.convoyValid k false = d.event Reg.WMK_EVENT.CFG_REFUSED :=
  (if_neg (by rw [hv]; exact Bool.false_ne_true)).trans (if_pos hn)

theorem Dev.convoyValid_clear (hn : d.routeNames k = false) : let e := d.convoyValid k false
    e.is (Reg.WMK_CV0.VALID k) = false ∧ e.is (Reg.WMK_CV0.JOINED k) = false ∧ k ∉ e.joining := by
  let c : Dev := { d with joining := d.joining.filter (· ≠ k), peerJoin := d.peerJoin.filter (fun x => x.1 ≠ k) }
  have he : d.convoyValid k false = ((c.put (Reg.WMK_CV0.VALID k) 0).put (Reg.WMK_CV0.JOINED k) 0).updWmkStatus :=
    (if_neg (by rw [hv]; exact Bool.false_ne_true)).trans (if_neg (by rw [hn]; exact Bool.false_ne_true))
  obtain ⟨h1, h2⟩ := key_valid_ne_status k
  obtain ⟨h3, h4⟩ := key_joined_ne_status k
  have hne : (Reg.WMK_CV0.VALID k).key ≠ (Reg.WMK_CV0.JOINED k).key := by
    simp only [Fld.key, Reg.WMK_CV0.VALID, Reg.WMK_CV0.JOINED]
    omega
  rw [he]
  refine ⟨(Dev.is_updWmkStatus_ne _ h1 h2).trans ((Dev.is_put_ne _ _ hne).trans (Dev.is_put_zero _ _ Nat.one_pos)),
    (Dev.is_updWmkStatus_ne _ h3 h4).trans (Dev.is_put_zero _ _ Nat.one_pos), fun hk => ?_⟩
  have hk' : k ∈ d.joining.filter (· ≠ k) := hk
  simpa using (List.mem_filter.1 hk').2

end

theorem Dev.convoyOk_iff (d : Dev) (c : Nat) : let len := d.get (Reg.WMK_CV2.LEN c); let per := d.get (Reg.WMK_CV2.PERIOD c)
    d.convoyOk c = true ↔
      100 * (d.cvBlocks c * if d.is (Reg.WMK_P_CFG.SPLIT (d.cvPort c)) then 86 else 43) ≤ len * min 90 (max 10 (d.get Reg.WMK_TIMERS.PACE_PCT)) ∧
      2000 ≤ len ∧ (per = 0 ∨ len ≤ per) ∧ ¬ (64 ≤ d.cvPeer c ∧ d.is Reg.GLB_GRADE.CONC_LIMIT = true) := by
  simp only [Dev.convoyOk, Dev.pacePct, Bool.and_eq_true, Bool.not_eq_true', Bool.and_eq_false_iff, decide_eq_false_iff_not, Classical.not_and_iff_not_or_not,
    Bool.not_eq_true]
  exact (and_congr_left fun _ => decide_eq_true_iff).trans (by simp only [and_assoc])

/-- Settles O40: ports by ENABLE and SPLIT and the entries that use them, links by what they need, entries by R442 and the Route. -/
theorem portsAndEntries : Obligations.PortsAndEntries := by
  unfold Obligations.PortsAndEntries
  refine ⟨fun b p v s => ?port, fun p sub up s => ?link, fun b c set s => ?entry, Dev.convoyOk_iff, fun s => ⟨⟨_, rfl, s.dev.netClk_netclkLoss⟩, rfl⟩⟩
  case port =>
    dsimp only
    have hl : Leaves (.portCfgWrite b p v) s (s.dev.byZero b.toNat fun d => d.portCfgWrite p.toNat v.toNat) := rfl
    refine ⟨fun h => ?_, fun hb hp => ?_⟩
    · by_cases hb : s.dev.acting b.toNat = some 0
      · exact (hl.congr (Dev.byZero_zero hb)).noEffect (Dev.portCfgWrite_absent (h.resolve_left fun h => h hb))
      · exact hl.noEffect (Dev.byZero_other hb)
    · rw [← Dev.portBusy_iff, Bool.not_eq_true]
      have hw := hl.congr (Dev.byZero_zero hb)
      exact ⟨fun hs hu => hw.congr (Dev.portCfgWrite_refused hp hs hu), fun h => ⟨_, hw, Dev.portCfgWrite_facts hp h⟩⟩
  case link =>
    have hl : Leaves (.linkChange p sub up) s (s.dev.linkChange p.toNat sub.toNat up) := rfl
    exact ⟨fun h => hl.noEffect (Dev.linkChange_none h), fun hp hF ha => hl.congr (Dev.linkChange_taken hp hF ha)⟩
  case entry =>
    have hl : Leaves (.convoyValid b c set) s (if s.dev.reachesConvoy b.toNat c.toNat then s.dev.convoyValid c.toNat set else s.dev) := rfl
    refine ⟨fun h => hl.noEffect (if_neg fun h' => Bool.false_ne_true (h.symm.trans h')), fun h => ?_⟩
    have hr := hl.congr (if_pos h)
    refine ⟨fun hs hv => ?_, fun hs hv ho => ?_, fun hs hv => ?_, fun hs hv hn => ?_, fun hs hv hn => ?_⟩ <;> subst hs
    · exact hr.congr (Dev.convoyValid_refused hv)
    · exact ⟨_, hr, Dev.convoyValid_set hv ho⟩
    · exact hr.noEffect (Dev.convoyValid_clear_invalid hv)
    · exact hr.congr (Dev.convoyValid_clear_named hv hn)
    · exact ⟨_, hr, Dev.convoyValid_clear hv hn⟩

end Sys2Proof.Machine
end

section
/-! PROOF. Waymark frames, blocks and acknowledgements (R440, R441, R444, R453 to R457, R460, R462, R485). -/

namespace Sys2Proof.Machine

/-! ### Frames that are taken and frames that are dropped -/

theorem Dev.takeFrame_eq (d : Dev) (f : Frame) : d.takeFrame f =
    if d.is Reg.WMK_CTL.WAYMARK_EN = true ∧ f.intact = true ∧ d.is (Reg.WMK_CV0.JOINED f.convoy.toNat) = true then
      some { d with heard := kset 0 d.heard (d.cvPeer f.convoy.toNat) d.now } else none := by
  unfold Dev.takeFrame
  cases d.is Reg.WMK_CTL.WAYMARK_EN
  · rfl
  · cases f.intact
    · rfl
    · cases d.is (Reg.WMK_CV0.JOINED f.convoy.toNat) <;> rfl

theorem Dev.takeFrame_some {d e : Dev} {f : Frame} (h : d.takeFrame f = some e) :
    e = { d with heard := kset 0 d.heard (d.cvPeer f.convoy.toNat) d.now } := by
  rw [Dev.takeFrame_eq] at h
  split at h
  · exact (Option.some.inj h).symm
  · exact absurd h (by simp)

theorem Dev.dropFrame_off {d : Dev} {f : Frame} (h : d.is Reg.WMK_CTL.WAYMARK_EN = false) (b : Bool) : d.dropFrame f b = d :=
  if_pos (by rw [h]; rfl)

section
variable {d : Dev} {f : Frame} (h : d.is Reg.WMK_CTL.WAYMARK_EN = true)
include h

/-- The device with the dropped frame counted. -/
theorem Dev.dropFrame_counts : d.dropFrame f false = d.count (Reg.WMK_P_CRC_ERR.COUNT f.port.toNat) 1 :=
  (if_neg (by rw [h]; exact Bool.false_ne_true)).trans (if_neg fun h => Bool.false_ne_true h.1)

theorem Dev.dropFrame_data_counts (hx : f.intact = true ∨ d.is (Reg.WMK_CV0.JOINED f.convoy.toNat) = false ∨
    (d.count (Reg.WMK_P_CRC_ERR.COUNT f.port.toNat) 1).rx f.convoy.toNat f.num.toNat = none) :
    d.dropFrame f true = d.count (Reg.WMK_P_CRC_ERR.COUNT f.port.toNat) 1 := by
  unfold Dev.dropFrame
  rw [if_neg (by rw [h]; exact Bool.false_ne_true)]
  dsimp only
  split
  · next hc =>
    obtain ⟨-, hi, hj⟩ := hc
    have hnone := (hx.resolve_left fun h' => by rw [h'] at hi; exact Bool.false_ne_true hi).resolve_left
      fun h' => Bool.false_ne_true (h'.symm.trans hj)
    simp only [hnone]
  · rfl

variable {r : RxInst} (hi : f.intact = false) (hj : d.is (Reg.WMK_CV0.JOINED f.convoy.toNat) = true)
  (hr : (d.count (Reg.WMK_P_CRC_ERR.COUNT f.port.toNat) 1).rx f.convoy.toNat f.num.toNat = some r)
include hi hj hr

/-- A damaged DATA frame of an instance that is known. -/
theorem Dev.dropFrame_damaged : let g := d.count (Reg.WMK_P_CRC_ERR.COUNT f.port.toNat) 1
    d.dropFrame f true = if (r.lastAck.all (fun t => decide (t + d.get Reg.WMK_TIMERS.ACK_NS ≤ d.now)) && !r.closed) = true then
      g.sendAck f.convoy.toNat f.num.toNat (r.got.map (·.1)) else g := by
  have hc : true = true ∧ (!f.intact) = true ∧ d.is (Reg.WMK_CV0.JOINED f.convoy.toNat) = true := ⟨rfl, by rw [hi]; rfl, hj⟩
  unfold Dev.dropFrame
  rw [if_neg (by rw [h]; exact Bool.false_ne_true)]
  dsimp only
  rw [if_pos hc]
  simp only [hr]

theorem Dev.dropFrame_answers (ht : ∀ t, r.lastAck = some t → t + d.get Reg.WMK_TIMERS.ACK_NS ≤ d.now) (hc : r.closed = false) :
    d.dropFrame f true =
      (d.count (Reg.WMK_P_CRC_ERR.COUNT f.port.toNat) 1).sendAck f.convoy.toNat f.num.toNat (r.got.map (·.1)) := by
  refine (Dev.dropFrame_damaged h hi hj hr).trans (if_pos ?_)
  rw [hc, Bool.not_false, Bool.and_true]
  cases hl : r.lastAck with
  | none => rfl
  | some t => exact decide_eq_true (ht t hl)

theorem Dev.dropFrame_early {t : Nat} (ht : r.lastAck = some t) (hn : d.now < t + d.get Reg.WMK_TIMERS.ACK_NS) :
    d.dropFrame f true = d.count (Reg.WMK_P_CRC_ERR.COUNT f.port.toNat) 1 := by
  refine (Dev.dropFrame_damaged h hi hj hr).trans (if_neg ?_)
  rw [ht, Option.all_some, decide_eq_false (Nat.not_le.2 hn), Bool.false_and]
  exact Bool.false_ne_true

theorem Dev.dropFrame_closed (hc : r.closed = true) : d.dropFrame f true = d.count (Reg.WMK_P_CRC_ERR.COUNT f.port.toNat) 1 := by
  refine (Dev.dropFrame_damaged h hi hj hr).trans (if_neg ?_)
  rw [hc, Bool.not_true, Bool.and_false]
  exact Bool.false_ne_true

end

/-! ### DATA frames -/

/-- The CE mark of a DATA frame is counted. -/
def Dev.ceCounted (f : Frame) (e : Dev) : Dev := if f.ce then e.count (Reg.WMK_P_ECN_CE.COUNT (e.cvPort f.convoy.toNat)) 1 else e

/-- The instance's next ACK is to echo the CE mark. -/
def Dev.ceMarked (f : Frame) (e : Dev) : Dev :=
  if f.ce then (e.ceCounted f).onRx f.convoy.toNat f.num.toNat fun r => { r with echo := true } else e.ceCounted f

/-- Blocks that are stored for the port of a frame's convoy. -/
def Dev.portStored (f : Frame) (e : Dev) : Nat := (e.rxBlks.filter fun b => e.cvPort b.convoy == e.cvPort f.convoy.toNat).length

/-- A block that finds no room in the receive store. -/
def Dev.storeDropped (f : Frame) (e : Dev) : Dev := (e.ceMarked f).count (Reg.WMK_P_STORE_DROPS.COUNT (e.cvPort f.convoy.toNat)) 1

section
variable {d e : Dev} {f : Frame} (h : d.takeFrame f = some e)
include h

theorem Dev.dataFrame_closed (hn : f.num.toNat < kget 0 e.rxLow f.convoy.toNat) (w : BitVec 32768) :
    d.dataFrame f w = (e.ceCounted f).sendFullAck f.convoy.toNat f.num.toNat := by
  have he := Dev.takeFrame_some h
  subst he
  simp only [Dev.dataFrame, h]
  exact if_pos hn

variable (hn : kget 0 e.rxLow f.convoy.toNat ≤ f.num.toNat)
include hn

/-- A DATA frame of an instance that is not closed, by what is known of the instance. -/
theorem Dev.dataFrame_open (w : BitVec 32768) : d.dataFrame f w =
    match (e.ceMarked f).rx f.convoy.toNat f.num.toNat with
    | some r =>
      if r.got.any (fun g => g.1 == f.block.toNat) then
        (if r.full (e.cvBlocks f.convoy.toNat) then (e.ceMarked f).sendAck f.convoy.toNat f.num.toNat (r.got.map (·.1)) else e.ceMarked f)
      else if r.posted.isNone ∧ 256 ≤ e.portStored f then e.storeDropped f
      else (e.ceMarked f).rxStore f w
    | none => if 256 ≤ e.portStored f then e.storeDropped f else (e.ceMarked f).rxStore f w := by
  have he := Dev.takeFrame_some h
  subst he
  simp only [Dev.dataFrame, h]
  exact (if_neg (Nat.not_lt.2 hn)).trans rfl

theorem Dev.dataFrame_new (hr : (e.ceMarked f).rx f.convoy.toNat f.num.toNat = none) (w : BitVec 32768) : d.dataFrame f w =
    if 256 ≤ e.portStored f then e.storeDropped f else (e.ceMarked f).rxStore f w := by
  rw [Dev.dataFrame_open h hn, hr]

variable {r : RxInst} (hr : (e.ceMarked f).rx f.convoy.toNat f.num.toNat = some r)
include hr

theorem Dev.dataFrame_again (hg : (r.got.any fun g => g.1 == f.block.toNat) = true) (w : BitVec 32768) : d.dataFrame f w =
    if r.full (e.cvBlocks f.convoy.toNat) then (e.ceMarked f).sendAck f.convoy.toNat f.num.toNat (r.got.map (·.1)) else e.ceMarked f := by
  rw [Dev.dataFrame_open h hn, hr]
  exact if_pos hg

theorem Dev.dataFrame_stored (hg : (r.got.any fun g => g.1 == f.block.toNat) = false) (hs : e.portStored f < 256 ∨ r.posted.isSome = true)
    (w : BitVec 32768) : d.dataFrame f w = (e.ceMarked f).rxStore f w := by
  rw [Dev.dataFrame_open h hn, hr]
  refine (if_neg (by rw [hg]; exact Bool.false_ne_true)).trans (if_neg ?_)
  rintro ⟨hnone, hfull⟩
  rcases hs with hs | hs
  · exact absurd hs (Nat.not_lt.2 hfull)
  · rw [Option.isNone_iff_eq_none.1 hnone] at hs
    exact Bool.false_ne_true hs

theorem Dev.dataFrame_dropped (hg : (r.got.any fun g => g.1 == f.block.toNat) = false) (hs : 256 ≤ e.portStored f) (hp : r.posted = none)
    (w : BitVec 32768) : d.dataFrame f w = e.storeDropped f := by
  rw [Dev.dataFrame_open h hn, hr]
  exact (if_neg (by rw [hg]; exact Bool.false_ne_true)).trans (if_pos ⟨by rw [hp]; rfl, hs⟩)

end

/-! ### SIGNAL frames -/

theorem Dev.signalFrame_applies {d e : Dev} {f : Frame} (h : d.takeFrame f = some e) (b : Nat) (v : BitVec 32)
    (hn : f.num.toNat < kget 0 e.rxLow f.convoy.toNat ∨ ((e.rx f.convoy.toNat f.num.toNat).any fun r => r.closed) = true) :
    d.signalFrame f b v = e.applySignal f.convoy.toNat f.num.toNat (b, v) := by
  have he := Dev.takeFrame_some h
  subst he
  simp only [Dev.signalFrame, h]
  by_cases hlow : f.num.toNat < kget 0 d.rxLow f.convoy.toNat
  · exact if_pos hlow
  · exact (if_neg hlow).trans (if_pos (hn.resolve_left hlow))

theorem Dev.signalFrame_kept {d e : Dev} {f : Frame} (h : d.takeFrame f = some e) (b : Nat) (v : BitVec 32)
    (hn : kget 0 e.rxLow f.convoy.toNat ≤ f.num.toNat) (hc : ((e.rx f.convoy.toNat f.num.toNat).any fun r => r.closed) = false) :
    d.signalFrame f b v = e.onRx f.convoy.toNat f.num.toNat fun r => { r with signal := some (b, v) } := by
  have he := Dev.takeFrame_some h
  subst he
  simp only [Dev.signalFrame, h]
  exact (if_neg (Nat.not_lt.2 hn)).trans (if_neg fun h' => Bool.false_ne_true (hc.symm.trans h'))

/-! ### Pacing slots -/

section
variable {d : Dev} {k : Nat}

theorem Dev.blockTransmit_off (m : Memory) (h : d.is Reg.WMK_CTL.WAYMARK_EN = false ∨ d.linkOf k = false) : d.blockTransmit k m = d :=
  if_pos (by simpa only [Bool.not_eq_true'] using h)

/-- The next block of a convoy's instances that a pacing slot is open for. -/
def Dev.ready (d : Dev) (k : Nat) (t : TxInst) : Bool := t.convoy == k && d.slotOpen t && (d.nextBlock t).isSome

variable (m : Memory) (hw : d.is Reg.WMK_CTL.WAYMARK_EN = true) (hk : d.linkOf k = true)
include hw hk

theorem Dev.blockTransmit_on : d.blockTransmit k m =
    match d.txInsts.find? (d.ready k) with
    | some t =>
      match d.nextBlock t with
      | some b => d.transmit t b
      | none => d
    | none => if d.slotWanted (d.cvPort k) then d else d.serveTransmit k m :=
  (if_neg (by rw [hw, hk]; simp only [Bool.not_true, Bool.false_eq_true, or_self, not_false_eq_true])).trans rfl

theorem Dev.blockTransmit_block {t : TxInst} {b : TxBlk} (ht : d.txInsts.find? (d.ready k) = some t) (hb : d.nextBlock t = some b) :
    d.blockTransmit k m = d.transmit t b := by
  rw [Dev.blockTransmit_on m hw hk, ht]
  simp only [hb]

theorem Dev.blockTransmit_serve (ht : d.txInsts.find? (d.ready k) = none) :
    d.blockTransmit k m = if d.slotWanted (d.cvPort k) then d else d.serveTransmit k m := by
  rw [Dev.blockTransmit_on m hw hk, ht]

end

theorem Dev.serveTransmit_none {d : Dev} {k : Nat} (m : Memory) (h : d.serveOver k = none) : d.serveTransmit k m = d := by
  simp only [Dev.serveTransmit, h]

section
variable {d : Dev} {k : Nat} {v : ServeReq} {m : Memory} (hv : d.serveOver k = some v)
include hv

theorem Dev.serveTransmit_waits (h : d.now < v.nextAt ∨ d.serveNext m v = none) : d.serveTransmit k m = d := by
  unfold Dev.serveTransmit
  simp only [hv]
  by_cases hn : d.now < v.nextAt
  · exact if_pos hn
  · simp only [if_neg hn, h.resolve_left hn]

theorem Dev.serveTransmit_sends {j : Nat} {again : Bool} (hn : v.nextAt ≤ d.now) (hj : d.serveNext m v = some (j, again)) :
    d.serveTransmit k m = d.serveSend k v j again m := by
  unfold Dev.serveTransmit
  simp only [hv, if_neg (Nat.not_lt.2 hn), hj]

end

theorem Dev.sendFrame_eq (d : Dev) (c ty n k b : Nat) (e a : Bool) (l : List Byte) :
    ∃ f o s, d.sendFrame c ty n k b e a l = { d with fresh := f, out := o, said := s } := Dev.sendOn_eq d _ c ty n k b e a l

theorem Dev.crn_noteBlock (c n b : Nat) (again : Bool) (d : Dev) : (d.noteBlock c n b again).crn = d.crn := by
  unfold Dev.noteBlock
  dsimp only
  split
  · exact (Dev.crn_rest (Dev.rest_lantern _ _ _ _ _ _ _ _)).trans rfl
  · rfl

/-- The serve once block `j` has been sent. -/
def Dev.servedOn (k : Nat) (v : ServeReq) (j : Nat) (again : Bool) (m : Memory) (d : Dev) : ServeReq :=
  { v with bytes := if again then v.bytes else v.bytes ++ if again then (v.bytes.drop (4096 * j)).take 4096 else d.serveBlock m v j,
           flying := v.flying.filter (fun b => b.idx != j) ++ [{ idx := j, sent := d.now }], nextAt := d.now + d.cairnGap k }

/-- The device once block `j`, with its bytes, has been sent and noted. -/
def Dev.blockSent (k j : Nat) (again : Bool) (l : List Byte) (d : Dev) : Dev :=
  (d.sendFrame k frameData (j / 72) (j % 72) 72 false again l).noteBlock k (j / 72) (j % 72) again

theorem Dev.crn_blockSent (k j : Nat) (again : Bool) (l : List Byte) (d : Dev) : (d.blockSent k j again l).crn = d.crn := by
  obtain ⟨f, o, s, h⟩ := d.sendFrame_eq k frameData (j / 72) (j % 72) 72 false again l
  rw [Dev.blockSent, Dev.crn_noteBlock, h]

theorem Dev.crn_serveSend (k : Nat) (v : ServeReq) (j : Nat) (again : Bool) (m : Memory) (d : Dev) :
    (d.serveSend k v j again m).crn = { d.crn with serve := some (d.servedOn k v j again m) } := by
  have he : (d.serveSend k v j again m).crn = { (d.blockSent k j again
      (if again then (v.bytes.drop (4096 * j)).take 4096 else d.serveBlock m v j)).crn with serve := some (d.servedOn k v j again m) } := rfl
  rw [he, Dev.crn_blockSent]

theorem Dev.get_serveSend_blocks (k : Nat) (v : ServeReq) (j : Nat) (m : Memory) (d : Dev) :
    (d.serveSend k v j false m).get (Reg.WMK_P_TX_BLOCKS.COUNT (d.cvPort k)) =
      min (d.get (Reg.WMK_P_TX_BLOCKS.COUNT (d.cvPort k)) + 1) (2 ^ 32 - 1) := by
  have hne : (Reg.WMK_P_TX_BLOCKS.COUNT (d.cvPort k)).key ≠ Reg.CRN_PROGRESS.SERVED.key := by
    simp only [Fld.key, Reg.WMK_P_TX_BLOCKS.COUNT, Reg.CRN_PROGRESS.SERVED]
    omega
  unfold Dev.serveSend
  dsimp only
  rw [Dev.get_put_ne _ _ hne]
  obtain ⟨f, o, s, h⟩ := d.sendFrame_eq k frameData (j / 72) (j % 72) 72 false false (d.serveBlock m v j)
  rw [show (if false = true then (v.bytes.drop (4096 * j)).take 4096 else d.serveBlock m v j) = d.serveBlock m v j from rfl, h]
  exact Dev.get_count_self { d with fresh := f, out := o, said := s } _ 1

theorem Dev.serveTransmit_facts {d : Dev} {k : Nat} {v : ServeReq} {m : Memory} (hv : d.serveOver k = some v) (hn : v.nextAt ≤ d.now) (j : Nat) :
    (d.serveNext m v = some (j, false) → (d.serveTransmit k m).crn =
        { d.crn with serve := some { v with bytes := v.bytes ++ d.serveBlock m v j,
                                            flying := v.flying.filter (fun b => b.idx != j) ++ [{ idx := j, sent := d.now }],
                                            nextAt := d.now + d.cairnGap k } } ∧
      (d.serveTransmit k m).get (Reg.WMK_P_TX_BLOCKS.COUNT (d.cvPort k)) =
        min (d.get (Reg.WMK_P_TX_BLOCKS.COUNT (d.cvPort k)) + 1) (2 ^ 32 - 1)) ∧
    (d.serveNext m v = some (j, true) → (d.serveTransmit k m).crn =
        { d.crn with serve := some { v with flying := v.flying.filter (fun b => b.idx != j) ++ [{ idx := j, sent := d.now }],
                                            nextAt := d.now + d.cairnGap k } }) := by
  refine ⟨fun hj => ?_, fun hj => ?_⟩ <;> rw [Dev.serveTransmit_sends hv hn hj]
  · exact ⟨Dev.crn_serveSend k v j false m d, Dev.get_serveSend_blocks k v j m d⟩
  · exact Dev.crn_serveSend k v j true m d

/-! ### Acknowledgements of blocks -/

/-- What tells a block in the transmit store from another: convoy, instance, block. -/
def TxBlk.id (b : TxBlk) : Nat × Nat × Nat := (b.convoy, b.inst, b.blk)

/-- The blocks of the transmit store. -/
def Dev.txIds (d : Dev) : List (Nat × Nat × Nat) := d.txBlks.map TxBlk.id

theorem map_updFirst {α β : Type} (p : α → Bool) {f : α → α} {g : α → β} (h : ∀ a, g (f a) = g a) (l : List α) :
    (updFirst p f l).map g = l.map g := by
  induction l with
  | nil => rfl
  | cons a l ih =>
    unfold updFirst
    split
    · rw [List.map_cons, List.map_cons, h]
    · rw [List.map_cons, List.map_cons, ih]

theorem Dev.txBlks_rest {d e : Dev} (h : d.rest = e.rest) : d.txBlks = e.txBlks := by
  have hb := congrArg Dev.txBlks h
  exact hb

theorem Dev.rest_wmkRecord (code c b : Nat) (d : Dev) : (d.wmkRecord code c b).rest = d.rest := by
  unfold Dev.wmkRecord
  split
  · rfl
  · simp only [Dev.rest_event, Dev.rest_put]

/-- The fault of a block that has used its re-sends. -/
def Dev.retryLimit (o : Owner) (c b : Nat) (d : Dev) : Dev := ((d.wmkRecord 0x0701 c b).sendAbort c 0x0701).raiseArrival o 0x0701

theorem Dev.txBlks_retryLimit (o : Owner) (c b : Nat) (d : Dev) : (d.retryLimit o c b).txBlks = d.txBlks := by
  have hr := congrArg Dev.txBlks (Dev.outer_raiseArrival o 0x0701 ((d.wmkRecord 0x0701 c b).sendAbort c 0x0701))
  obtain ⟨f, u, s, h⟩ := (d.wmkRecord 0x0701 c b).sendFrame_eq c frameAbort 0 0 0 false false (leBytes 2 0x0701)
  have hs : ((d.wmkRecord 0x0701 c b).sendAbort c 0x0701).txBlks = (d.wmkRecord 0x0701 c b).txBlks := by
    rw [Dev.sendAbort, h]
  exact hr.trans (hs.trans (Dev.txBlks_rest (Dev.rest_wmkRecord _ _ _ d)))

section
variable {d : Dev} {bits base : Nat} {b : TxBlk}

/-- A shown block leaves the store; nothing else enters or leaves it. -/
theorem Dev.txBlks_ackBlock_shown (h : base ≤ b.blk ∧ bitOf bits (b.blk - base) = true) : (d.ackBlock bits base b).txBlks =
    d.txBlks.filter fun x => !(x.convoy == b.convoy && x.inst == b.inst && x.blk == b.blk) := by
  unfold Dev.ackBlock
  dsimp only
  rw [if_pos h]
  rfl

variable (h : ¬ (base ≤ b.blk ∧ bitOf bits (b.blk - base) = true))
include h

theorem Dev.ackBlock_unsent (ht : b.sent = none) : d.ackBlock bits base b = d := by
  unfold Dev.ackBlock
  simp only [if_neg h, ht]

variable {t : Nat} (ht : b.sent = some t)
include ht

theorem Dev.ackBlock_early (hn : d.now < t + d.get Reg.WMK_TIMERS.RESEND_GAP_NS) : d.ackBlock bits base b = d := by
  unfold Dev.ackBlock
  simp only [if_neg h, ht]
  exact if_pos hn

variable (hn : t + d.get Reg.WMK_TIMERS.RESEND_GAP_NS ≤ d.now)
include hn

theorem Dev.ackBlock_limit (hr : max 1 (d.get Reg.WMK_TIMERS.RETRY_MAX) ≤ b.resends) (hs : d.sideConvoy b.convoy = false) :
    d.ackBlock bits base b = d.retryLimit b.owner b.convoy b.blk := by
  unfold Dev.ackBlock
  simp only [if_neg h, ht]
  exact (if_neg (Nat.not_lt.2 hn)).trans (if_pos ⟨hr, by rw [hs]; rfl⟩)

theorem Dev.ackBlock_again (hr : b.resends < max 1 (d.get Reg.WMK_TIMERS.RETRY_MAX) ∨ d.sideConvoy b.convoy = true) :
    (d.ackBlock bits base b).txBlks = updFirst (fun x => x.convoy == b.convoy && x.inst == b.inst && x.blk == b.blk)
      (fun x => { x with again := true }) d.txBlks := by
  have hno : ¬ (max 1 (d.get Reg.WMK_TIMERS.RETRY_MAX) ≤ b.resends ∧ (!d.sideConvoy b.convoy) = true) := by
    rintro ⟨hm, hs⟩
    rcases hr with hr | hr
    · exact absurd hr (Nat.not_lt.2 hm)
    · rw [hr] at hs
      exact Bool.false_ne_true hs
  unfold Dev.ackBlock
  simp only [if_neg h, ht]
  rw [if_neg (Nat.not_lt.2 hn), if_neg hno]

end

/-- An ACK brings no block into the store. -/
theorem Dev.txIds_ackBlock (d : Dev) (bits base : Nat) (b : TxBlk) : (d.ackBlock bits base b).txIds ⊆ d.txIds := by
  by_cases hshown : base ≤ b.blk ∧ bitOf bits (b.blk - base) = true
  · unfold Dev.txIds
    rw [Dev.txBlks_ackBlock_shown hshown]
    exact (List.filter_sublist.map _).subset
  cases ht : b.sent with
  | none =>
    rw [Dev.ackBlock_unsent hshown ht]
    exact List.Subset.refl _
  | some t =>
    by_cases hn : d.now < t + d.get Reg.WMK_TIMERS.RESEND_GAP_NS
    · rw [Dev.ackBlock_early hshown ht hn]
      exact List.Subset.refl _
    rw [Nat.not_lt] at hn
    by_cases hl : max 1 (d.get Reg.WMK_TIMERS.RETRY_MAX) ≤ b.resends ∧ d.sideConvoy b.convoy = false
    · rw [Dev.ackBlock_limit hshown ht hn hl.1 hl.2, Dev.txIds, Dev.txBlks_retryLimit]
      exact List.Subset.refl _
    · have hr : b.resends < max 1 (d.get Reg.WMK_TIMERS.RETRY_MAX) ∨ d.sideConvoy b.convoy = true := by
        rwa [Classical.not_and_iff_not_or_not, Nat.not_le, Bool.not_eq_false] at hl
      unfold Dev.txIds
      rw [Dev.ackBlock_again hshown ht hn hr, map_updFirst]
      · exact List.Subset.refl _
      · exact fun _ => rfl

theorem Dev.not_mem_txIds_ackBlock {d : Dev} {bits base : Nat} {b : TxBlk} (h : base ≤ b.blk ∧ bitOf bits (b.blk - base) = true) :
    b.id ∉ (d.ackBlock bits base b).txIds := by
  unfold Dev.txIds
  rw [Dev.txBlks_ackBlock_shown h]
  intro hm
  obtain ⟨x, hx, hid⟩ := List.mem_map.1 hm
  have hid' : x.convoy = b.convoy ∧ x.inst = b.inst ∧ x.blk = b.blk := by simpa only [TxBlk.id, Prod.mk.injEq] using hid
  obtain ⟨h1, h2, h3⟩ := hid'
  simpa [h1, h2, h3] using (List.mem_filter.1 hx).2

/-- After an ACK, no block of the list that it shows is in the store. -/
theorem Dev.txIds_ackBlocks (bits base : Nat) (l : List TxBlk) (d : Dev) :
    (l.foldl (fun d b => d.ackBlock bits base b) d).txIds ⊆ d.txIds ∧
      ∀ b ∈ l, base ≤ b.blk → bitOf bits (b.blk - base) = true → b.id ∉ (l.foldl (fun d b => d.ackBlock bits base b) d).txIds := by
  induction l generalizing d with
  | nil => exact ⟨List.Subset.refl _, fun _ hb => absurd hb List.not_mem_nil⟩
  | cons a l ih =>
    obtain ⟨hsub, hgone⟩ := ih (d.ackBlock bits base a)
    refine ⟨List.Subset.trans hsub (d.txIds_ackBlock bits base a), fun b hb h1 h2 => ?_⟩
    rcases List.mem_cons.1 hb with rfl | hb
    · exact fun hm => Dev.not_mem_txIds_ackBlock ⟨h1, h2⟩ (hsub hm)
    · exact hgone b hb h1 h2

/-- The store after an ACK of instance `n` of convoy `c`. -/
def Dev.ackedBlocks (c n bits base : Nat) (e : Dev) : Dev :=
  (e.txBlks.filter fun b => b.convoy == c && b.inst == n).foldl (fun d b => d.ackBlock bits base b) e

theorem Dev.ackedBlocks_free (c n bits base : Nat) (e : Dev) {x : TxBlk} (hx : x ∈ (e.ackedBlocks c n bits base).txBlks) (hc : x.convoy = c)
    (hn : x.inst = n) (hb : base ≤ x.blk) : bitOf bits (x.blk - base) = false := by
  obtain ⟨hsub, hgone⟩ := Dev.txIds_ackBlocks bits base (e.txBlks.filter fun b => b.convoy == c && b.inst == n) e
  have hid : x.id ∈ (e.ackedBlocks c n bits base).txIds := List.mem_map_of_mem hx
  obtain ⟨y, hy, hyid⟩ := List.mem_map.1 (hsub hid)
  have hyid' : y.convoy = x.convoy ∧ y.inst = x.inst ∧ y.blk = x.blk := by simpa only [TxBlk.id, Prod.mk.injEq] using hyid
  obtain ⟨h1, h2, h3⟩ := hyid'
  have hmem : y ∈ e.txBlks.filter fun b => b.convoy == c && b.inst == n :=
    List.mem_filter.2 ⟨hy, by rw [h1, h2, hc, hn, beq_self_eq_true, beq_self_eq_true, Bool.and_self]⟩
  refine Bool.eq_false_iff.2 fun hshown => hgone y hmem (h3 ▸ hb) (h3 ▸ hshown) ?_
  rw [hyid]
  exact hid

/-! ### ACK frames -/

section
variable {d e : Dev} {f : Frame} (m : BitVec 512)

theorem Dev.ackFrame_mirror (hw : d.is Reg.WMK_CTL.WAYMARK_EN = true) (hi : f.intact = true) (hf : f.convoy = 511#9) (hb : f.block.toNat = 0) :
    d.ackFrame f m = ({ d with heard := kset 0 d.heard f.src.toNat d.now } : Dev).mirAcked f.num.toNat (bitOf m.toNat 0) := by
  have hshown : decide (f.block.toNat = 0 ∧ bitOf m.toNat 0 = true) = bitOf m.toNat 0 := by
    rw [hb]
    cases bitOf m.toNat 0 <;> rfl
  refine (if_pos ⟨hf, hw, hi⟩).trans ?_
  rw [hshown]

theorem Dev.ackFrame_dropped (h : d.takeFrame f = none)
    (hf : f.convoy ≠ 511#9 ∨ d.is Reg.WMK_CTL.WAYMARK_EN = false ∨ f.intact = false) : d.ackFrame f m = d.dropFrame f false := by
  have hno : ¬ (f.convoy = 511#9 ∧ d.is Reg.WMK_CTL.WAYMARK_EN = true ∧ f.intact = true) := by
    rintro ⟨h1, h2, h3⟩
    rcases hf with hf | hf | hf
    · exact hf h1
    · exact Bool.false_ne_true (hf.symm.trans h2)
    · exact Bool.false_ne_true (hf.symm.trans h3)
  refine (if_neg hno).trans ?_
  rw [h]

variable (h : d.takeFrame f = some e) (hf : f.convoy ≠ 511#9)
include h hf

theorem Dev.ackFrame_serve (ht : e.txInsts.find? (fun t => t.convoy == f.convoy.toNat && t.inst == f.num.toNat) = none) :
    d.ackFrame f m = e.serveAck f.convoy.toNat f.num.toNat m.toNat f.block.toNat := by
  refine (if_neg fun h => hf h.1).trans ?_
  simp only [h, ht]

theorem Dev.txBlks_ackFrame (ht : (e.txInsts.find? fun t => t.convoy == f.convoy.toNat && t.inst == f.num.toNat).isSome = true) :
    (d.ackFrame f m).txBlks = (e.ackedBlocks f.convoy.toNat f.num.toNat m.toNat f.block.toNat).txBlks := by
  obtain ⟨t, ht⟩ := Option.isSome_iff_exists.1 ht
  have he : d.ackFrame f m = _ := if_neg fun h => hf h.1
  rw [he]
  simp only [h, ht]
  split
  · split <;> rfl
  · rfl

end

/-! ### Acknowledgements of a serve and of MIRROR frames -/

/-- The blocks of a serve in flight after an ACK of its instance `n`. -/
def Dev.serveLeft (n bits base : Nat) (v : ServeReq) (d : Dev) : List CairnBlk :=
  (v.flying.filter fun b => !(b.idx / 72 == n && decide (base ≤ b.idx % 72) && bitOf bits (b.idx % 72 - base))).map fun b =>
    if (b.idx / 72 == n) = true ∧ b.sent + d.get Reg.WMK_TIMERS.RESEND_GAP_NS ≤ d.now then { b with again := true } else b

theorem Dev.crn_serveAck {d : Dev} {c : Nat} {v : ServeReq} (h : d.serveOver c = some v) (n bits base : Nat) :
    (d.serveAck c n bits base).crn = { d.crn with serve := some { v with flying := d.serveLeft n bits base v } } := by
  unfold Dev.serveAck
  simp only [h]
  split <;> rfl

theorem Dev.serveLeft_facts (n bits base : Nat) (v : ServeReq) (d : Dev) :
    (∀ b ∈ d.serveLeft n bits base v, b.idx / 72 = n → base ≤ b.idx % 72 → bitOf bits (b.idx % 72 - base) = false) ∧
    (∀ b ∈ v.flying, b.idx / 72 = n → ¬ (base ≤ b.idx % 72 ∧ bitOf bits (b.idx % 72 - base) = true) →
      b.sent + d.get Reg.WMK_TIMERS.RESEND_GAP_NS ≤ d.now → { b with again := true } ∈ d.serveLeft n bits base v) ∧
    (∀ b ∈ v.flying, b.idx / 72 ≠ n → b ∈ d.serveLeft n bits base v) := by
  refine ⟨fun b hb hn hbase => ?_, fun b hb hn hno hgap => List.mem_map.2 ⟨b, List.mem_filter.2 ⟨hb, ?_⟩, ?_⟩,
    fun b hb hn => List.mem_map.2 ⟨b, List.mem_filter.2 ⟨hb, ?_⟩, ?_⟩⟩
  · obtain ⟨x, hx, hxb⟩ := List.mem_map.1 hb
    have hidx : x.idx = b.idx := by
      rw [← hxb]
      split <;> rfl
    have hkept := (List.mem_filter.1 hx).2
    simpa [hidx, hn, hbase] using hkept
  · rw [Classical.not_and_iff_not_or_not] at hno
    simpa [hn] using hno
  · exact if_pos ⟨by rw [hn]; exact beq_self_eq_true n, hgap⟩
  · simp [hn]
  · exact if_neg fun h => hn (beq_iff_eq.1 h.1)

section
variable {d : Dev} {n : Nat} {x : MirOut} (h : d.mir.unacked.find? (fun x => x.inst == n) = some x)
include h

theorem Dev.mirAcked_shown : ∀ y ∈ (d.mirAcked n true).mir.unacked, y.inst ≠ n := by
  have he : (d.mirAcked n true).mir.unacked = d.mir.unacked.filter fun x => x.inst != n := by
    unfold Dev.mirAcked
    simp only [h]
    rfl
  rw [he]
  intro y hy
  simpa using (List.mem_filter.1 hy).2

theorem Dev.mirAcked_early (hn : d.now < x.sent + d.get Reg.WMK_TIMERS.RESEND_GAP_NS) : d.mirAcked n false = d := by
  unfold Dev.mirAcked
  simp only [h, Bool.false_eq_true, if_false]
  exact if_pos hn

variable (hn : x.sent + d.get Reg.WMK_TIMERS.RESEND_GAP_NS ≤ d.now)
include hn

theorem Dev.mirAcked_limit (hr : max 1 (d.get Reg.WMK_TIMERS.RETRY_MAX) ≤ x.resends) : d.mirAcked n false = d.retryLimit noOwner 511 0 := by
  unfold Dev.mirAcked
  simp only [h, Bool.false_eq_true, if_false]
  exact (if_neg (Nat.not_lt.2 hn)).trans (if_pos hr)

/-- The MIRROR frames in flight, the one numbered `n` sent again now. -/
def Dev.mirResent (n : Nat) (d : Dev) : Dev :=
  { d with mir := { d.mir with
      unacked := d.mir.unacked.map fun y => if y.inst = n then { y with sent := d.now, resends := y.resends + 1 } else y } }

theorem Dev.mirAcked_again (hr : x.resends < max 1 (d.get Reg.WMK_TIMERS.RETRY_MAX)) :
    (d.mirAcked n false).get (Reg.WMK_P_RESENDS.COUNT d.mir.port) = min (d.get (Reg.WMK_P_RESENDS.COUNT d.mir.port) + 1) (2 ^ 32 - 1) ∧
      ∀ y ∈ (d.mirAcked n false).mir.unacked, y.inst = n → y.sent = d.now ∧ 1 ≤ y.resends := by
  have he : d.mirAcked n false = (((d.mirResent n).sendMirror n true x.payload).count (Reg.WMK_P_RESENDS.COUNT d.mir.port) 1).tally
      HealthMs.block := by
    unfold Dev.mirAcked
    simp only [h, Bool.false_eq_true, if_false]
    exact (if_neg (Nat.not_lt.2 hn)).trans (if_neg (Nat.not_le.2 hr))
  obtain ⟨f, o, s, hs⟩ := (d.mirResent n).sendOn_eq (d.mirResent n).mir.port 511 frameMirror n 0 0 false true x.payload
  rw [he, Dev.sendMirror, hs]
  refine ⟨Dev.get_count_self { d.mirResent n with fresh := f, out := o, said := s } _ 1, fun y hy hyn => ?_⟩
  obtain ⟨z, -, hz⟩ := List.mem_map.1 (show y ∈ (d.mirResent n).mir.unacked from hy)
  rw [← hz] at hyn ⊢
  by_cases hzn : z.inst = n
  · rw [if_pos hzn]
    exact ⟨rfl, Nat.succ_pos _⟩
  · rw [if_neg hzn] at hyn
    exact absurd hyn hzn

end

/-! ### The receive store and the ACKs on a timer -/

theorem Dev.drainStore_none {d : Dev} {p : Nat} (h : (d.rxBlks.find? fun b => d.cvPort b.convoy == p && d.drainable b) = none) :
    d.drainStore p = d := by
  simp only [Dev.drainStore, h]

theorem Dev.drainStore_some {d : Dev} {p : Nat} {b : RxBlk} (h : (d.rxBlks.find? fun b => d.cvPort b.convoy == p && d.drainable b) = some b) :
    d.drainStore p =
      ((({ d with rxBlks := eraseFirst b d.rxBlks } : Dev).fillTake b.convoy b.inst b.blk b.data).writeBlock b).updStores p := by
  simp only [Dev.drainStore, h]

/-- The instance whose window has ended, if its ACK is due. -/
def Dev.windowDue (d : Dev) (k : Nat) : Option RxInst :=
  if d.sideConvoy k then none else d.openRx k fun r => !r.ended && decide (d.windowEnd k r.inst ≤ d.now)

theorem Dev.ackWindowEnd_none {d : Dev} {k : Nat} (h : d.windowDue k = none) : d.ackWindowEnd k = d := by
  unfold Dev.windowDue at h
  unfold Dev.ackWindowEnd
  split
  · rfl
  · next hs =>
    rw [if_neg hs] at h
    simp only [h]

theorem Dev.ackWindowEnd_some {d : Dev} {k : Nat} {r : RxInst} (h : d.windowDue k = some r) : d.ackWindowEnd k =
    (d.sendAck k r.inst ((r.got.filter fun g => decide (g.2 < d.windowEnd k r.inst)).map (·.1))).onRx k r.inst fun r => { r with ended := true } := by
  unfold Dev.windowDue at h
  unfold Dev.ackWindowEnd
  split
  · next hs => exact absurd ((if_pos hs).symm.trans h) (by simp)
  · next hs =>
    rw [if_neg hs] at h
    simp only [h]

/-- Settles O42: frames by whether they are taken, DATA by the state of its instance, ACKs by the blocks they show. -/
theorem framesAndBlocks : Obligations.FramesAndBlocks := by
  unfold Obligations.FramesAndBlocks
  refine ⟨Dev.takeFrame_eq, fun f s h => ?notTaken, fun d f => ⟨fun h => ⟨Dev.dropFrame_off h _, Dev.dropFrame_off h _⟩, fun h => ?dropped⟩,
    fun f s e => ?data, fun f s e b v => ?signal, fun c s => ?slot, fun p s => ?drain, fun c s => ?timed, fun f m s => ?ack,
    fun d bits base b t hno ht => ?block, fun d c n bits base v hv => ⟨_, Dev.crn_serveAck hv n bits base, rfl, d.serveLeft_facts n bits base v⟩,
    fun d n x h => ⟨Dev.mirAcked_shown h, Dev.mirAcked_early h, fun hn => ⟨Dev.mirAcked_again h hn, Dev.mirAcked_limit h hn⟩⟩⟩
  case notTaken =>
    have hdata (x : BitVec 32768) : Leaves (.data f x) s (s.dev.dataFrame f x) := rfl
    have hack (x : BitVec 512) : Leaves (.ack f x) s (s.dev.ackFrame f x) := rfl
    have hsignal (x : BitVec 14) (y : BitVec 32) : Leaves (.signal f x y) s (s.dev.signalFrame f x.toNat y) := rfl
    exact ⟨fun x => (hdata x).congr (by simp only [Dev.dataFrame, h]), fun hf x => (hack x).congr (Dev.ackFrame_dropped x h hf),
      fun x y => (hsignal x y).congr (by simp only [Dev.signalFrame, h])⟩
  case dropped =>
    exact ⟨Dev.dropFrame_counts h, Dev.dropFrame_data_counts h, fun r hi hj hr =>
      ⟨Dev.dropFrame_answers h hi hj hr, fun t => Dev.dropFrame_early h hi hj hr, Dev.dropFrame_closed h hi hj hr⟩⟩
  case data =>
    intro c n x e2 e3 stored h
    have hl (w : BitVec 32768) : Leaves (.data f w) s (s.dev.dataFrame f w) := rfl
    refine ⟨fun hn w => (hl w).congr (Dev.dataFrame_closed h hn w), fun hn hr => ⟨fun hs w => ?_, fun hs w => ?_⟩,
      fun r hn hr => ⟨fun hg w => (hl w).congr (Dev.dataFrame_again h hn hr hg w),
        fun hg => ⟨fun hs w => (hl w).congr (Dev.dataFrame_stored h hn hr hg hs w),
          fun hs hp w => (hl w).congr (Dev.dataFrame_dropped h hn hr hg hs hp w)⟩⟩⟩
    · exact (hl w).congr ((Dev.dataFrame_new h hn hr w).trans (if_neg (Nat.not_le.2 hs)))
    · exact (hl w).congr ((Dev.dataFrame_new h hn hr w).trans (if_pos hs))
  case signal =>
    intro c n h
    have hl : Leaves (.signal f b v) s (s.dev.signalFrame f b.toNat v) := rfl
    exact ⟨fun hn => hl.congr (Dev.signalFrame_applies h _ v hn), fun hn hc => hl.congr (Dev.signalFrame_kept h _ v hn hc)⟩
  case slot =>
    intro d k ready
    have hl : Leaves (.blockTransmit c) s (s.dev.blockTransmit c.toNat s.dram) := rfl
    refine ⟨fun h => ?_, fun hw hk ht hs => ?_, fun t b hw hk ht hb => hl.congr (Dev.blockTransmit_block s.dram hw hk ht hb)⟩
    · by_cases hoff : s.dev.is Reg.WMK_CTL.WAYMARK_EN = false ∨ s.dev.linkOf c.toNat = false
      · exact hl.noEffect (Dev.blockTransmit_off s.dram hoff)
      · rw [not_or, Bool.not_eq_false, Bool.not_eq_false] at hoff
        obtain ⟨ht, hs⟩ := (h.resolve_left fun h' => Bool.false_ne_true (h'.symm.trans hoff.1)).resolve_left
          fun h' => Bool.false_ne_true (h'.symm.trans hoff.2)
        exact hl.noEffect ((Dev.blockTransmit_serve s.dram hoff.1 hoff.2 ht).trans (if_pos hs))
    · have hserve := hl.congr ((Dev.blockTransmit_serve s.dram hw hk ht).trans (if_neg fun h => Bool.false_ne_true (hs.symm.trans h)))
      refine ⟨fun hn => hserve.noEffect (Dev.serveTransmit_none s.dram hn), fun v hv => ?_⟩
      have hfacts (j : Nat) (hn : v.nextAt ≤ s.dev.now) := Dev.serveTransmit_facts (m := s.dram) hv hn j
      exact ⟨fun h => hserve.noEffect (Dev.serveTransmit_waits hv h), fun j hn hj => ⟨_, hserve, (hfacts j hn).1 hj⟩,
        fun j hn hj => ⟨_, hserve, (hfacts j hn).2 hj⟩⟩
  case drain =>
    have hl : Leaves (.receiveStoreDrain p) s (s.dev.drainStore p.toNat) := rfl
    exact ⟨fun h => hl.noEffect (Dev.drainStore_none h), fun b h => hl.congr (Dev.drainStore_some h)⟩
  case timed =>
    have hend : Leaves (.ackWindowEnd c) s (s.dev.ackWindowEnd c.toNat) := rfl
    have hperiodic : Leaves (.ackPeriodic c) s (s.dev.ackPeriodic c.toNat) := rfl
    exact ⟨fun h => hend.noEffect (Dev.ackWindowEnd_none h), fun h => hperiodic.noEffect (by simp only [Dev.ackPeriodic, h]),
      fun r h => hend.congr (Dev.ackWindowEnd_some h), fun r h => hperiodic.congr (by simp only [Dev.ackPeriodic, h])⟩
  case ack =>
    have hl : Leaves (.ack f m) s (s.dev.ackFrame f m) := rfl
    refine ⟨fun hw hi hf hb => hl.congr (Dev.ackFrame_mirror m hw hi hf hb), fun e h hf =>
      ⟨fun ht => hl.congr (Dev.ackFrame_serve m h hf ht), fun ht => ⟨_, hl, fun x hx hc hn hb => ?_⟩⟩⟩
    rw [Dev.txBlks_ackFrame m h hf ht] at hx
    exact Dev.ackedBlocks_free _ _ _ _ e hx hc hn hb
  case block =>
    exact ⟨Dev.ackBlock_early hno ht, fun hn hs => ⟨fun hr => Dev.ackBlock_again hno ht hn (.inl hr), fun hr => Dev.ackBlock_limit hno ht hn hr hs⟩⟩

end Sys2Proof.Machine
end

section
/-! PROOF. Host writes of Beacons and host waits (R380 to R382, R387, R388). -/

namespace Sys2Proof.Machine

/-! ### Host writes -/

section
variable {d : Dev} {b n : Nat}

theorem Dev.hostSet_none (h : d.acting b = none) (v : Nat) : d.hostSet b n v = d := by
  simp only [Dev.hostSet, h]

theorem Dev.hostAdd_none (h : d.acting b = none) (v : Nat) : d.hostAdd b n v = d := by
  simp only [Dev.hostAdd, h]

variable {t : Nat} (h : d.acting b = some t)
include h

theorem Dev.hostSet_of_acting (v : Nat) :
    d.hostSet b n v = if d.ownsBeacon t n then d.signalNow sigHost t n true (BitVec.ofNat 32 v) else d := by
  simp only [Dev.hostSet, h]

theorem Dev.hostAdd_of_acting (v : Nat) :
    d.hostAdd b n v = if d.ownsBeacon t n then d.signalNow sigHost t n false (BitVec.ofNat 32 v) else d := by
  simp only [Dev.hostAdd, h]

end

/-- A wide write stores its low 32 bits, and so does a narrow one. -/
theorem beaconValue_eq (w : Bool) (v : BitVec 64) : BitVec.ofNat 32 (if w then v.toNat % 2 ^ 32 else v.toNat) = v.setWidth 32 := by
  refine BitVec.eq_of_toNat_eq ?_
  cases w
  · rw [if_neg Bool.false_ne_true, BitVec.toNat_ofNat, BitVec.toNat_setWidth]
  · rw [if_pos rfl, BitVec.toNat_ofNat, BitVec.toNat_setWidth, Nat.mod_mod]

theorem Dev.acting_off {d : Dev} (b : Nat) (h : d.mod.fw = false) : d.acting b = none := if_pos (by rw [h]; rfl)

theorem Dev.acting_zero {d : Dev} (h : d.mod.fw = true) : d.acting 0 = some 0 := (if_neg (by rw [h]; exact Bool.false_ne_true)).trans (if_pos rfl)

/-- A binding other than 0 acts for the tenancy that is enabled and bound to it. -/
theorem Dev.acting_some {d : Dev} {b t : Nat} (hb : b ≠ 0) (h : d.acting b = some t) :
    d.mod.fw = true ∧ t < 16 ∧ (kget {} d.tens t).enable = true ∧ (kget {} d.tens t).port = b := by
  have hfw : d.mod.fw = true := by
    refine Classical.byContradiction fun hno => ?_
    exact absurd ((Dev.acting_off b (Bool.eq_false_iff.2 hno)).symm.trans h) (by simp)
  have hfind : ((List.range 16).find? fun t => (kget {} d.tens t).enable && (kget {} d.tens t).port == b) = some t :=
    ((if_neg (by rw [hfw]; exact Bool.false_ne_true)).trans (if_neg hb)).symm.trans h
  have hfits := List.find?_some hfind
  obtain ⟨hen, hport⟩ := Bool.and_eq_true_iff.1 hfits
  exact ⟨hfw, List.mem_range.1 (List.mem_of_find?_eq_some hfind), hen, beq_iff_eq.1 hport⟩

/-! ### Reads of BAR2 -/

theorem Dev.bar2Byte_none {d : Dev} {b : Nat} (h : d.acting b = none) (off : Nat) : d.bar2Byte b off = 0#8 := by
  simp only [Dev.bar2Byte, h]

theorem Dev.bar2Byte_outside {d : Dev} {b t off : Nat} (h : d.acting b = some t) (ho : d.ownsBeacon t (off / 8) = false) :
    d.bar2Byte b off = 0#8 := by
  simp only [Dev.bar2Byte, h, ho, Bool.false_eq_true, if_false]

theorem Dev.bar2Byte_view {d : Dev} {b t off : Nat} (h : d.acting b = some t) (ho : d.ownsBeacon t (off / 8) = true) :
    d.bar2Byte b off = BitVec.ofNat 8 (d.beaconView (off / 8) / 2 ^ (8 * (off % 8))) := by
  simp only [Dev.bar2Byte, h, ho, if_true]
  refine BitVec.eq_of_toNat_eq ?_
  rw [BitVec.toNat_ofNat, BitVec.toNat_ofNat, bitsOf, Nat.mod_mod]

theorem Dev.bar2Read_facts (d : Dev) (b off n : Nat) : (d.bar2Read b off n).length = n ∧
    ∀ k < n, (d.bar2Read b off n)[k]? = some (d.bar2Byte b (off + k)) := by
  refine ⟨by rw [Dev.bar2Read, List.length_map, List.length_range], fun k hk => ?_⟩
  rw [Dev.bar2Read, List.getElem?_map, List.getElem?_range hk]
  rfl

/-- The parts of a slot's view do not overlap. -/
theorem view_parts {x w : Nat} (s : Nat) (hx : x < 2 ^ 32) (hw : w ≤ 255) : let v := x + 2 ^ 32 * w + 2 ^ 48 * s
    v % 2 ^ 32 = x ∧ v / 2 ^ 32 % 2 ^ 8 = w ∧ v / 2 ^ 40 % 2 ^ 8 = 0 ∧ v / 2 ^ 48 = s := by
  dsimp only
  omega

theorem Dev.beaconView_facts (d : Dev) (b : Nat) : d.beaconView b % 2 ^ 32 = (d.beacon b).toNat ∧
    d.beaconView b / 2 ^ 32 % 2 ^ 8 = min 255 (d.waiters b) ∧ d.beaconView b / 2 ^ 40 % 2 ^ 8 = 0 ∧
      d.beaconView b / 2 ^ 48 = kget 0 d.bcnSig b :=
  view_parts _ (d.beacon b).isLt (Nat.min_le_left _ _)

/-! ### ARM -/

theorem Dev.armWait_other {d : Dev} {b n : Nat} (h : d.acting b ≠ some (n / 16)) (tag : Nat) : d.armWait b n tag = d := by
  unfold Dev.armWait
  cases ha : d.acting b with
  | none => rfl
  | some t => exact if_pos fun ht => h (ha.trans (congrArg some ht.symm))

/-- The wait that ARM registers. -/
def Dev.newWait (n tag : Nat) (d : Dev) : HWait :=
  { n := n, ten := n / 16, bcn := d.get (Reg.BCN_HWAIT_A.BEACON n), take := d.is (Reg.BCN_HWAIT_A.MODE n),
    target := BitVec.ofNat 32 (d.get (Reg.BCN_HWAIT_A.TARGET n)), wd := d.is (Reg.BCN_HWAIT_A.WD_EN n),
    vector := d.get (Reg.BCN_HWAIT_A.VECTOR n), tag := tag, waited := 0 }

theorem Dev.newWait_facts (n tag : Nat) (d : Dev) : let w := d.newWait n tag
    w.n = n ∧ w.ten = n / 16 ∧ w.bcn = d.get (Reg.BCN_HWAIT_A.BEACON n) ∧ w.take = d.is (Reg.BCN_HWAIT_A.MODE n) ∧
      w.target.toNat = d.get (Reg.BCN_HWAIT_A.TARGET n) % 2 ^ 32 ∧ w.wd = d.is (Reg.BCN_HWAIT_A.WD_EN n) ∧
      w.vector = d.get (Reg.BCN_HWAIT_A.VECTOR n) ∧ w.tag = tag ∧ w.waited = 0 :=
  ⟨rfl, rfl, rfl, rfl, BitVec.toNat_ofNat _ _, rfl, rfl, rfl, rfl⟩

section
variable {d : Dev} {b n : Nat} (h : d.acting b = some (n / 16)) (tag : Nat)
include h

theorem Dev.armWait_own : d.armWait b n tag =
    if d.get (Reg.BCN_HWAIT_B.STATUS n) = 1 then
      { d.put (Reg.BCN_HWAIT_B.TAG n) tag with hwaits := d.hwaits.map fun w => if w.n = n then { w with tag := tag } else w }
    else if !d.ownsBeacon (n / 16) (d.get (Reg.BCN_HWAIT_A.BEACON n)) then d.put (Reg.BCN_HWAIT_B.TAG n) tag
    else (({ d.put (Reg.BCN_HWAIT_B.TAG n) tag with hwaits := waitInsert (d.newWait n tag) d.hwaits } : Dev).put
      (Reg.BCN_HWAIT_B.STATUS n) 1).release (d.get (Reg.BCN_HWAIT_A.BEACON n)) := by
  unfold Dev.armWait
  simp only [h]
  exact (if_neg fun h => h rfl).trans rfl

theorem Dev.armWait_registers (hs : d.get (Reg.BCN_HWAIT_B.STATUS n) ≠ 1)
    (ho : d.ownsBeacon (n / 16) (d.get (Reg.BCN_HWAIT_A.BEACON n)) = true) : d.armWait b n tag =
      (({ d.put (Reg.BCN_HWAIT_B.TAG n) tag with hwaits := waitInsert (d.newWait n tag) d.hwaits } : Dev).put
        (Reg.BCN_HWAIT_B.STATUS n) 1).release (d.get (Reg.BCN_HWAIT_A.BEACON n)) :=
  (Dev.armWait_own h tag).trans ((if_neg hs).trans (if_neg (by rw [ho]; exact Bool.false_ne_true)))

end

/-! ### The watchdog -/

theorem Dev.endWait_ends (w : HWait) {n : Nat} (hn : n < 16) (d : Dev) :
    (d.endWait w n).get (Reg.BCN_HWAIT_B.STATUS w.n) = n ∧ ∀ x ∈ (d.endWait w n).hwaits, x.n ≠ w.n := by
  refine ⟨(Dev.get_msix _ _ _ _).trans ((Dev.get_put_self _ _ _).trans (Nat.mod_eq_of_lt hn)), fun x hx => ?_⟩
  rw [Dev.endWait, Dev.hwaits_msix] at hx
  exact of_decide_eq_true (List.mem_filter.1 hx).2

/-- The wait register's waiter that has waited longer than the limit. -/
def Dev.overdue (d : Dev) (n : Nat) : Option HWait := d.hwaits.find? fun w => w.n == n && w.wd && decide (d.get Reg.BCN_WD_LIMIT.NS < w.waited)

theorem Dev.waitTimeout_none {d : Dev} {n : Nat} (h : d.get Reg.BCN_WD_LIMIT.NS = 0 ∨ d.overdue n = none) : d.waitTimeout n = d := by
  unfold Dev.waitTimeout
  dsimp only
  split
  · rfl
  · next w hw => exact if_pos (h.resolve_right fun hn => absurd (hn.symm.trans hw) (by simp))

theorem Dev.waitTimeout_some {d : Dev} {n : Nat} {w : HWait} (hl : d.get Reg.BCN_WD_LIMIT.NS ≠ 0) (hw : d.overdue n = some w) :
    (d.waitTimeout n).get (Reg.BCN_HWAIT_B.STATUS w.n) = 3 ∧ ∀ x ∈ (d.waitTimeout n).hwaits, x.n ≠ w.n := by
  have he : d.waitTimeout n =
      ((d.blockFault noOwner 0x0601 (!d.is Reg.BCN_EVENT.WD_TIMEOUT)).wdTimeout w.ten w.bcn w.tag w.n w.take).endWait w 3 := by
    unfold Dev.overdue at hw
    unfold Dev.waitTimeout
    simp only [hw]
    exact if_neg hl
  rw [he]
  exact Dev.endWait_ends w (by decide) _

theorem Dev.gateTimeout_none {d : Dev} (h : d.get Reg.BCN_WD_LIMIT.NS = 0 ∨ d.gate = none) : d.gateTimeout = d := by
  unfold Dev.gateTimeout
  dsimp only
  split
  · next g hg => exact if_pos (.inr (.inr (.inl (h.resolve_right fun hn => absurd (hn.symm.trans hg) (by simp)))))
  · rfl

theorem Dev.gateTimeout_ends {d : Dev} {g : GateWait} (hg : d.gate = some g) (hl : d.get Reg.BCN_WD_LIMIT.NS ≠ 0) (hr : g.released = false)
    (hw : d.get Reg.BCN_WD_LIMIT.NS < g.waited) (hp : d.run.phase = .gate) :
    d.gateTimeout = (d.wdTimeout d.rt.tenancy g.bcn (0xFF0000 + g.seg) 256 g.take).endAtBoundary 0x0601 0 0 := by
  unfold Dev.gateTimeout
  simp only [hg]
  refine if_neg ?_
  rintro (h | h | h | h)
  · exact h hp
  · exact Bool.false_ne_true (hr.symm.trans h)
  · exact hl h
  · exact absurd hw (Nat.not_lt.2 h)

/-- Settles O43: host writes by the tenancy acted for and its range, ARM by STATUS, the watchdog by the limit. -/
theorem hostBeacons : Obligations.HostBeacons := by
  unfold Obligations.HostBeacons
  refine ⟨fun b n s => ?writes, fun d b => ⟨Dev.acting_off b, Dev.acting_zero, fun t => Dev.acting_some⟩, fun b n tag s => ?arm,
    fun n s => ?wait, fun s => ?gate, fun d b off n => ?read, Dev.beaconView_facts⟩
  case writes =>
    have hset (w : Bool) (v : BitVec 64) : Leaves (.beaconSet b n w v) s
      (s.dev.hostSet b.toNat n.toNat (if w then v.toNat % 2 ^ 32 else v.toNat)) := rfl
    have hadd (v : BitVec 32) : Leaves (.beaconAdd b n v) s (s.dev.hostAdd b.toNat n.toNat v.toNat) := rfl
    refine ⟨fun h => ⟨fun w v => (hset w v).noEffect (Dev.hostSet_none h _), fun v => (hadd v).noEffect (Dev.hostAdd_none h _)⟩,
      fun t h => ⟨fun ho => ?outside, fun ho => ?own⟩⟩
    case outside =>
      have hno : ¬ s.dev.ownsBeacon t n.toNat = true := fun h => Bool.false_ne_true (ho.symm.trans h)
      exact ⟨fun w v => (hset w v).noEffect ((Dev.hostSet_of_acting h _).trans (if_neg hno)),
        fun v => (hadd v).noEffect ((Dev.hostAdd_of_acting h _).trans (if_neg hno))⟩
    case own =>
      refine ⟨fun w v => (hset w v).congr ?_, fun v => (hadd v).congr ?_⟩
      · rw [Dev.hostSet_of_acting h, if_pos ho, beaconValue_eq]
      · rw [Dev.hostAdd_of_acting h, if_pos ho, BitVec.ofNat_toNat, BitVec.setWidth_eq]
  case arm =>
    dsimp only
    have hl : Leaves (.arm b n tag) s (s.dev.armWait b.toNat n.toNat tag.toNat) := rfl
    refine ⟨fun h => hl.noEffect (Dev.armWait_other h _), fun h => ?_⟩
    have ha := hl.congr (Dev.armWait_own h tag.toNat)
    refine ⟨fun hs => ha.congr (if_pos hs), fun hs ho => ha.congr ((if_neg hs).trans (if_pos (by rw [ho]; rfl))), fun hs ho => ?_⟩
    obtain ⟨h1, h2, h3, h4, h5, h6, h7, h8, h9⟩ := s.dev.newWait_facts n.toNat tag.toNat
    exact ⟨s.dev.newWait n.toNat tag.toNat, h1, h2, h3, h4, h5, h6, h7, h8, h9, hl.congr (Dev.armWait_registers h tag.toNat hs ho)⟩
  case wait =>
    have hl : Leaves (.bcnWaitTimeout (.host n)) s (s.dev.waitTimeout n.toNat) := rfl
    exact ⟨fun h => hl.noEffect (Dev.waitTimeout_none h), fun w hlim hw => ⟨_, hl, Dev.waitTimeout_some hlim hw⟩⟩
  case gate =>
    have hl : Leaves (.bcnWaitTimeout .gate) s s.dev.gateTimeout := rfl
    exact ⟨fun h => hl.noEffect (Dev.gateTimeout_none h), fun g hg hlim hr hw hp => hl.congr (Dev.gateTimeout_ends hg hlim hr hw hp)⟩
  case read =>
    obtain ⟨hlen, hbyte⟩ := d.bar2Read_facts b off n
    refine ⟨hlen, fun k hk => ⟨fun h => ?_, fun t h => ⟨fun ho => ?_, fun ho => ?_⟩⟩⟩
    · exact (hbyte k hk).trans (congrArg some (Dev.bar2Byte_none h _))
    · exact (hbyte k hk).trans (congrArg some (Dev.bar2Byte_outside h ho))
    · exact (hbyte k hk).trans (congrArg some (Dev.bar2Byte_view h ho))

end Sys2Proof.Machine
end

section
/-! PROOF. Session slots, tenancies, switches, host messages and rings (R396, R397, R410 to R417, R498, R554). -/

namespace Sys2Proof.Machine

/-! ### Slots -/

theorem Dev.owe_eq (t : Nat) (d : Dev) : ∃ q, d.owe t = { d with repliesOwed := q } := by
  unfold Dev.owe
  split
  · exact ⟨_, rfl⟩
  · exact ⟨_, rfl⟩

theorem Dev.slotState_owe (t k : Nat) (d : Dev) : (d.owe t).slotState k = d.slotState k := by
  obtain ⟨q, h⟩ := d.owe_eq t
  rw [h]
  rfl

theorem Dev.slotTen_owe (t k : Nat) (d : Dev) : (d.owe t).slotTen k = d.slotTen k := by
  obtain ⟨q, h⟩ := d.owe_eq t
  rw [h]
  rfl

theorem Dev.queueSlot_waits {d : Dev} (h : d.running = true) (op : SlotOp) : d.queueSlot op = { d with slotOps := d.slotOps ++ [op] } := if_pos h

theorem Dev.queueSlot_now {d : Dev} (h : d.running = false) (op : SlotOp) : d.queueSlot op = d.applySlot true op :=
  if_neg fun h' => Bool.false_ne_true (h.symm.trans h')

/-- A tenancy's slot operation whose reply is owed waits. -/
theorem Dev.queueSlot_owe_waits {d : Dev} (t : Nat) (h : d.running = true) (op : SlotOp) :
    (d.owe t).queueSlot op = { d.owe t with slotOps := d.slotOps ++ [op] } := by
  obtain ⟨q, ho⟩ := d.owe_eq t
  rw [ho]
  exact Dev.queueSlot_waits (d := { d with repliesOwed := q }) h op

theorem Dev.queueSlot_owe_now {d : Dev} (t : Nat) (h : d.running = false) (op : SlotOp) :
    (d.owe t).queueSlot op = (d.owe t).applySlot true op := by
  obtain ⟨q, ho⟩ := d.owe_eq t
  rw [ho]
  exact Dev.queueSlot_now (d := { d with repliesOwed := q }) h op

/-- A BIND of the slot waits. -/
def Dev.bindWaits (d : Dev) (k : Nat) : Bool :=
  d.slotOps.any fun o => match o with
    | .bind _ s => s == k
    | _ => false

/-- An UNBIND of the slot waits. -/
def Dev.unbindWaits (d : Dev) (k : Nat) : Bool :=
  d.slotOps.any fun o => match o with
    | .unbind _ s => s == k
    | _ => false

theorem Dev.bindWaits_iff (d : Dev) (k : Nat) : d.bindWaits k = true ↔ ∃ u, SlotOp.bind u k ∈ d.slotOps := by
  rw [Dev.bindWaits, List.any_eq_true]
  constructor
  · rintro ⟨o, ho, hk⟩
    split at hk
    · next u s =>
      obtain rfl := beq_iff_eq.1 hk
      exact ⟨u, ho⟩
    · exact absurd hk Bool.false_ne_true
  · rintro ⟨u, hu⟩
    exact ⟨_, hu, beq_self_eq_true k⟩

theorem Dev.unbindWaits_iff (d : Dev) (k : Nat) : d.unbindWaits k = true ↔ ∃ u, SlotOp.unbind u k ∈ d.slotOps := by
  rw [Dev.unbindWaits, List.any_eq_true]
  constructor
  · rintro ⟨o, ho, hk⟩
    split at hk
    · next u s =>
      obtain rfl := beq_iff_eq.1 hk
      exact ⟨u, ho⟩
    · exact absurd hk Bool.false_ne_true
  · rintro ⟨u, hu⟩
    exact ⟨_, hu, beq_self_eq_true k⟩

section
variable {d : Dev} {b k : Nat}

theorem Dev.bindSlot_none (h : d.acting b = none) : d.bindSlot b k = d := by
  simp only [Dev.bindSlot, h]

theorem Dev.unbindSlot_none (h : d.acting b = none) : d.unbindSlot b k = d := by
  simp only [Dev.unbindSlot, h]

variable {t : Nat} (h : d.acting b = some t)
include h

theorem Dev.bindSlot_of_acting : d.bindSlot b k =
    if (!d.mayOwe t) = true ∨ d.slotState k ≠ 0 ∨ d.bindWaits k = true then d.event (Reg.SES_EVENT.CMD_REFUSED t)
    else (d.owe t).queueSlot (.bind t k) := by
  simp only [Dev.bindSlot, h]
  rfl

theorem Dev.unbindSlot_of_acting : d.unbindSlot b k =
    if (!d.mayOwe t) = true ∨ d.slotState k ≠ 1 ∨ d.slotTen k ≠ t ∨ d.unbindWaits k = true then d.event (Reg.SES_EVENT.CMD_REFUSED t)
    else (d.owe t).queueSlot (.unbind t k) := by
  simp only [Dev.unbindSlot, h]
  rfl

theorem Dev.bindSlot_refused (hr : d.mayOwe t = false ∨ d.slotState k ≠ 0 ∨ ∃ u, SlotOp.bind u k ∈ d.slotOps) :
    d.bindSlot b k = d.event (Reg.SES_EVENT.CMD_REFUSED t) :=
  (Dev.bindSlot_of_acting h).trans (if_pos (by rwa [Dev.bindWaits_iff, Bool.not_eq_true']))

theorem Dev.unbindSlot_refused
    (hr : d.mayOwe t = false ∨ d.slotState k ≠ 1 ∨ d.slotTen k ≠ t ∨ ∃ u, SlotOp.unbind u k ∈ d.slotOps) :
    d.unbindSlot b k = d.event (Reg.SES_EVENT.CMD_REFUSED t) :=
  (Dev.unbindSlot_of_acting h).trans (if_pos (by rwa [Dev.unbindWaits_iff, Bool.not_eq_true']))

variable (ho : d.mayOwe t = true)
include ho

theorem Dev.bindSlot_taken (hs : d.slotState k = 0) (hw : ∀ u, SlotOp.bind u k ∉ d.slotOps) :
    (d.running = false → d.bindSlot b k = ((d.owe t).setSlotWord k 0 (BitVec.ofNat 32 (1 + 16 * t))).complete t 0) ∧
    (d.running = true → d.bindSlot b k = { d.owe t with slotOps := d.slotOps ++ [.bind t k] }) := by
  have he : d.bindSlot b k = (d.owe t).queueSlot (.bind t k) := by
    refine (Dev.bindSlot_of_acting h).trans (if_neg ?_)
    rw [Dev.bindWaits_iff, ho]
    rintro (h | h | ⟨u, hu⟩)
    · exact Bool.false_ne_true h
    · exact h hs
    · exact hw u hu
  refine ⟨fun hr => ?_, fun hr => he.trans (Dev.queueSlot_owe_waits t hr _)⟩
  rw [he, Dev.queueSlot_owe_now t hr]
  exact if_pos ((Dev.slotState_owe t k d).trans hs)

theorem Dev.unbindSlot_taken (hs : d.slotState k = 1) (ht : d.slotTen k = t) (hw : ∀ u, SlotOp.unbind u k ∉ d.slotOps) :
    (d.running = false → d.unbindSlot b k = ((d.owe t).freeSlot k).complete t 0) ∧
    (d.running = true → d.unbindSlot b k = { d.owe t with slotOps := d.slotOps ++ [.unbind t k] }) := by
  have he : d.unbindSlot b k = (d.owe t).queueSlot (.unbind t k) := by
    refine (Dev.unbindSlot_of_acting h).trans (if_neg ?_)
    rw [Dev.unbindWaits_iff, ho]
    rintro (h | h | h | ⟨u, hu⟩)
    · exact Bool.false_ne_true h
    · exact h hs
    · exact h ht
    · exact hw u hu
  refine ⟨fun hr => ?_, fun hr => he.trans (Dev.queueSlot_owe_waits t hr _)⟩
  rw [he, Dev.queueSlot_owe_now t hr]
  refine (if_pos ⟨?_, (Dev.slotTen_owe t k d).trans ht⟩).trans rfl
  rw [Dev.slotState_owe, hs]
  decide

end

theorem Dev.slotWordWrite_none {d : Dev} {b t : Nat} (w : Nat) (v : BitVec 32)
    (h : d.acting b ≠ some t ∨ d.slotState (d.get (Reg.SES_SLOT_SEL.SLOT t)) = 0 ∨ d.slotTen (d.get (Reg.SES_SLOT_SEL.SLOT t)) ≠ t) :
    d.slotWordWrite b t w v = d := if_pos h

section
variable {d : Dev} {b t : Nat} (w : BitVec 5) (v : BitVec 32) (ha : d.acting b = some t)
  (hs : d.slotState (d.get (Reg.SES_SLOT_SEL.SLOT t)) ≠ 0) (ht : d.slotTen (d.get (Reg.SES_SLOT_SEL.SLOT t)) = t)
include ha hs ht

theorem Dev.slotWordWrite_queues :
    d.slotWordWrite b t w.toNat v = d.queueSlot (.write t (d.get (Reg.SES_SLOT_SEL.SLOT t)) w.toNat v) := by
  refine if_neg ?_
  rintro (h | h | h)
  · exact h ha
  · exact hs h
  · exact h ht

theorem Dev.slotWordWrite_now (hr : d.running = false) : d.slotWordWrite b t w.toNat v =
    if w.toNat = 0 then d.setSlotWord (d.get (Reg.SES_SLOT_SEL.SLOT t)) 0
      (BitVec.ofNat 32 ((d.slotWord (d.get (Reg.SES_SLOT_SEL.SLOT t)) 0).toNat % 2 ^ 8 + bitsOf v.toNat 8 8 * 2 ^ 8))
    else d.setSlotWord (d.get (Reg.SES_SLOT_SEL.SLOT t)) w.toNat v := by
  rw [Dev.slotWordWrite_queues w v ha hs ht, Dev.queueSlot_now hr]
  exact if_pos ⟨hs, ht⟩

end

/-! ### Tenancies -/

theorem Dev.tenApply_none {d : Dev} {b : Nat} (t : Nat) (h : d.acting b = none) : d.tenApply b t = d := by
  simp only [Dev.tenApply, h]

theorem Dev.tenApply_other {d : Dev} {b u : Nat} (t : Nat) (hu : u ≠ 0) (h : d.acting b = some u) :
    d.tenApply b t = d.event (Reg.SES_EVENT.CMD_REFUSED u) := by
  simp only [Dev.tenApply, h]
  exact if_pos hu

theorem Dev.tenApply_zero {d : Dev} {b : Nat} (t : Nat) (h : d.acting b = some 0) : d.tenApply b t =
    if (!d.mayOwe 0) = true ∨ (!d.tenOk t (d.tenRegs t)) = true then d.event (Reg.SES_EVENT.CMD_REFUSED 0)
    else ((({ d with tens := kset {} d.tens t (d.tenRegs t) } : Dev).updViews).owe 0).complete 0 0 := by
  simp only [Dev.tenApply, h]
  exact (if_neg fun h => h rfl).trans rfl

/-! ### Switch requests -/

theorem Dev.switchCmd_none {d : Dev} {b : Nat} (h : d.acting b = none) : d.switchCmd b = d := by
  simp only [Dev.switchCmd, h]

section
variable {d : Dev} {b t : Nat} (h : d.acting b = some t)
include h

theorem Dev.switchCmd_of_acting : d.switchCmd b =
    if (!(kget {} d.tens t).enable) = true ∨ (!d.mayOwe t) = true ∨ d.switchOwed.contains t = true then d.event (Reg.SES_EVENT.CMD_REFUSED t)
    else if d.resident = some t then (d.owe t).complete t 0
    else (({ d with switchOwed := d.switchOwed ++ [t] } : Dev).owe t).requestSwitch t := by
  simp only [Dev.switchCmd, h]
  rfl

theorem Dev.switchCmd_refused (hr : d.mayOwe t = false ∨ (kget {} d.tens t).enable = false ∨ t ∈ d.switchOwed) :
    d.switchCmd b = d.event (Reg.SES_EVENT.CMD_REFUSED t) := by
  refine (Dev.switchCmd_of_acting h).trans (if_pos ?_)
  rw [Bool.not_eq_true', Bool.not_eq_true', List.contains_iff_mem]
  exact or_left_comm.1 hr

theorem Dev.switchCmd_taken (ho : d.mayOwe t = true) (he : (kget {} d.tens t).enable = true) (hn : t ∉ d.switchOwed) : d.switchCmd b =
    if d.resident = some t then (d.owe t).complete t 0
    else (({ d with switchOwed := d.switchOwed ++ [t] } : Dev).owe t).requestSwitch t := by
  refine (Dev.switchCmd_of_acting h).trans (if_neg ?_)
  rw [ho, he, List.contains_iff_mem]
  rintro (h | h | h)
  · exact Bool.false_ne_true h
  · exact Bool.false_ne_true h
  · exact hn h

end

/-- Request `t` comes before request `u` or is it (R413). -/
def Dev.Beats (d : Dev) (t u : Nat) : Prop :=
  (kget {} d.tens u).prio < (kget {} d.tens t).prio ∨ ((kget {} d.tens u).prio = (kget {} d.tens t).prio ∧ t ≤ u)

theorem Dev.Beats.refl (d : Dev) (t : Nat) : d.Beats t t := .inr ⟨rfl, Nat.le_refl _⟩

theorem Dev.Beats.trans {d : Dev} {t u v : Nat} (h : d.Beats t u) (h' : d.Beats u v) : d.Beats t v := by
  unfold Dev.Beats at *
  omega

/-- One request against the best so far. -/
def Dev.better (d : Dev) (w : Option Nat) (t : Nat) : Option Nat :=
  match w with
  | none => some t
  | some u => if (kget {} d.tens u).prio < (kget {} d.tens t).prio ∨ ((kget {} d.tens u).prio = (kget {} d.tens t).prio ∧ t < u) then some t else some u

theorem Dev.better_facts (d : Dev) (w : Option Nat) (t : Nat) : ∃ r, d.better w t = some r ∧ d.Beats r t ∧ (r = t ∨ w = some r) ∧
    ∀ u, w = some u → d.Beats r u := by
  cases w with
  | none => exact ⟨t, rfl, .refl d t, .inl rfl, fun u hu => absurd hu (by simp)⟩
  | some u =>
    by_cases hb : (kget {} d.tens u).prio < (kget {} d.tens t).prio ∨ ((kget {} d.tens u).prio = (kget {} d.tens t).prio ∧ t < u)
    · refine ⟨t, if_pos hb, .refl d t, .inl rfl, fun v hv => ?_⟩
      obtain rfl := Option.some.inj hv
      exact hb.imp_right fun h => ⟨h.1, Nat.le_of_lt h.2⟩
    · refine ⟨u, if_neg hb, ?_, .inr rfl, fun v hv => ?_⟩
      · unfold Dev.Beats
        omega
      · obtain rfl := Option.some.inj hv
        exact .refl d u

theorem Dev.foldl_better {d : Dev} (l : List Nat) {w : Option Nat} {t : Nat} (h : l.foldl d.better w = some t) :
    (t ∈ l ∨ w = some t) ∧ (∀ u ∈ l, d.Beats t u) ∧ ∀ u, w = some u → d.Beats t u := by
  induction l generalizing w with
  | nil =>
    refine ⟨.inr h, fun u hu => absurd hu List.not_mem_nil, fun u hu => ?_⟩
    obtain rfl := Option.some.inj (hu.symm.trans h)
    exact .refl d _
  | cons a l ih =>
    obtain ⟨r, hr, hra, hrw, hru⟩ := d.better_facts w a
    obtain ⟨hin, hall, hbest⟩ := ih (w := d.better w a) h
    have htr := hbest r hr
    refine ⟨?_, fun u hu => ?_, fun u hu => htr.trans (hru u hu)⟩
    · rcases hin with hin | hin
      · exact .inl (List.mem_cons_of_mem _ hin)
      · obtain rfl := Option.some.inj (hr.symm.trans hin)
        exact hrw.imp (fun h => List.mem_cons.2 (.inl h)) id
    · rcases List.mem_cons.1 hu with rfl | hu
      · exact htr.trans hra
      · exact hall u hu

theorem Dev.winner_facts {d : Dev} {t : Nat} (h : d.winner = some t) : t ∈ d.switchReqs ∧ ∀ u ∈ d.switchReqs, d.Beats t u := by
  have hw : d.switchReqs.foldl d.better none = some t := h
  obtain ⟨hin, hall, -⟩ := Dev.foldl_better d.switchReqs hw
  exact ⟨hin.resolve_right (by simp), hall⟩

/-! ### What a switch leaves -/

/-- The device without its reports, its cores, Beacons and waiters, and what a write of memory, a register or a frame changes. -/
def Dev.bare (d : Dev) : Dev :=
  { d.rest with cores := [], beacons := [], hwaits := [], gate := none, badBlk := [], snoop := [], said := [], txRows := [], txBlks := [],
                txInsts := [], rxInsts := [], rxBlks := [] }

theorem Dev.bare_of_rest {d e : Dev} (h : d.rest = e.rest) : d.bare = e.bare := by
  unfold Dev.bare
  rw [h]

/-- What a list of operations keeps that each of them keeps. -/
theorem foldl_keeps {α β : Type} {f : Dev → α → Dev} {p : Dev → β} (h : ∀ d a, p (f d a) = p d) (l : List α) (d : Dev) : p (l.foldl f d) = p d := by
  induction l generalizing d with
  | nil => rfl
  | cons a l ih => exact (ih _).trans (h d a)

theorem Dev.bare_mapCores (f : CoreSt → CoreSt) (d : Dev) : (d.mapCores f).bare = d.bare :=
  foldl_keeps (f := fun (d : Dev) (c : Nat × CoreSt) => d.onCore c.1 f) (p := Dev.bare) (fun _ _ => rfl) d.cores d

theorem Dev.bare_msix (v n : Nat) (d : Dev) : (d.msix v n).bare = d.bare := Dev.bare_of_rest (Dev.rest_msix d v n)

theorem Dev.bare_endWait (w : HWait) (n : Nat) (d : Dev) : (d.endWait w n).bare = d.bare := (Dev.bare_msix _ _ _).trans rfl

theorem Dev.bare_tryWait (w : HWait) (d : Dev) : (d.tryWait w).bare = d.bare := by
  unfold Dev.tryWait
  dsimp only
  split
  · split
    · rfl
    · exact (Dev.bare_endWait _ _ _).trans rfl
  · split
    · exact Dev.bare_endWait _ _ _
    · rfl

theorem Dev.bare_tryGate (n : Nat) (d : Dev) : (d.tryGate n).bare = d.bare := by
  unfold Dev.tryGate
  split
  · dsimp only
    split
    · rfl
    · split
      · split <;> rfl
      · split <;> rfl
  · rfl

theorem Dev.bare_release (n : Nat) (d : Dev) : (d.release n).bare = d.bare := by
  have hwaits (l : List HWait) (d : Dev) : (l.foldl (fun d w => d.tryWait w) d).bare = d.bare :=
    foldl_keeps (f := fun (d : Dev) w => d.tryWait w) (p := Dev.bare) (fun d w => d.bare_tryWait w) l d
  have hgate (c : Prop) [Decidable c] (d : Dev) : (if c then d else d.tryGate n).bare = d.bare := by
    split
    · rfl
    · exact d.bare_tryGate n
  have hgate' (c : Prop) [Decidable c] (d : Dev) : (if c then d.tryGate n else d).bare = d.bare := by
    split
    · exact d.bare_tryGate n
    · rfl
  exact (hwaits _ _).trans ((hgate' _ _).trans ((hwaits _ _).trans (hgate _ d)))

theorem Dev.bare_releaseOf (t : Nat) (d : Dev) : (d.releaseOf t).bare = d.bare :=
  foldl_keeps (f := fun (d : Dev) b => d.release b) (p := Dev.bare) (fun d b => d.bare_release b) _ d

theorem Dev.bare_rewritten (a n : Nat) (d : Dev) : (d.rewritten a n).bare = d.bare := by
  obtain ⟨b, s, o, h⟩ := Dev.rewritten_eq d a n
  rw [h]
  rfl

theorem Dev.bare_sendAbort (c code : Nat) (d : Dev) : (d.sendAbort c code).bare = d.bare := by
  obtain ⟨f, o, s, h⟩ := d.sendFrame_eq c frameAbort 0 0 0 false false (leBytes 2 code)
  rw [Dev.sendAbort, h]
  rfl

/-- The rows and blocks of a tenancy's convoys are discarded. -/
def Dev.wmkDiscard (own : Nat → Bool) (d : Dev) : Dev :=
  { d with txRows := d.txRows.filter (fun r => !own r.convoy), txBlks := d.txBlks.filter (fun b => !own b.convoy),
           txInsts := d.txInsts.filter (fun x => !own x.convoy), rxInsts := d.rxInsts.filter (fun x => !own x.convoy),
           rxBlks := d.rxBlks.filter (fun b => !own b.convoy) }

theorem Dev.wmkSwitch_eq (t : Nat) (d : Dev) : ∃ (l : List Nat) (own : Nat → Bool), d.wmkSwitch t =
    (List.range 8).foldl (fun d p => d.updStores p) ((l.foldl (fun (d : Dev) c => d.sendAbort c 0) d).wmkDiscard own) := by
  refine ⟨d.openConvoys.filter fun c => d.get (Reg.WMK_CV0.TENANCY c) == t, fun c => d.get (Reg.WMK_CV0.TENANCY c) == t, ?_⟩
  unfold Dev.wmkSwitch Dev.wmkDiscard
  dsimp only

/-- What an ABORT, the discarding and the stores' counts keep, a switch keeps of Waymark. -/
theorem Dev.wmkSwitch_keeps {β : Type} {p : Dev → β} (habort : ∀ (d : Dev) c, p (d.sendAbort c 0) = p d)
    (hdiscard : ∀ own (d : Dev), p (d.wmkDiscard own) = p d) (hstores : ∀ (d : Dev) k, p (d.updStores k) = p d) (t : Nat) (d : Dev) :
    p (d.wmkSwitch t) = p d := by
  obtain ⟨l, own, h⟩ := d.wmkSwitch_eq t
  rw [h, foldl_keeps hstores, hdiscard, foldl_keeps habort]

theorem Dev.bare_wmkSwitch (t : Nat) (d : Dev) : (d.wmkSwitch t).bare = d.bare :=
  Dev.wmkSwitch_keeps (p := Dev.bare) (fun d c => d.bare_sendAbort c 0) (fun _ _ => rfl) (fun _ _ => rfl) t d

/-- Host waits, gate and Beacons. -/
def Dev.waits (d : Dev) : List HWait × Option GateWait × KMap (BitVec 32) := (d.hwaits, d.gate, d.beacons)

theorem Dev.waits_sendAbort (c code : Nat) (d : Dev) : (d.sendAbort c code).waits = d.waits := by
  obtain ⟨f, o, s, h⟩ := d.sendFrame_eq c frameAbort 0 0 0 false false (leBytes 2 code)
  rw [Dev.sendAbort, h]
  rfl

theorem Dev.waits_wmkSwitch (t : Nat) (d : Dev) : (d.wmkSwitch t).waits = d.waits :=
  Dev.wmkSwitch_keeps (p := Dev.waits) (fun d c => d.waits_sendAbort c 0) (fun _ _ => rfl) (fun _ _ => rfl) t d

theorem Dev.waits_rewritten (a n : Nat) (d : Dev) : (d.rewritten a n).waits = d.waits := by
  obtain ⟨b, s, o, h⟩ := Dev.rewritten_eq d a n
  rw [h]
  rfl

theorem Dev.endWaits_facts (n : Nat) (l : List HWait) (d : Dev) : let e := l.foldl (fun (d : Dev) w => d.endWait w n) d
    e.bare = d.bare ∧ e.gate = d.gate ∧ e.beacons = d.beacons ∧ ∀ x ∈ e.hwaits, x ∈ d.hwaits ∧ ∀ w ∈ l, x.n ≠ w.n := by
  induction l generalizing d with
  | nil => exact ⟨rfl, rfl, rfl, fun x hx => ⟨hx, fun w hw => absurd hw List.not_mem_nil⟩⟩
  | cons a l ih =>
    obtain ⟨hb, hg, hv, hw⟩ := ih (d.endWait a n)
    have hgate : (d.endWait a n).gate = d.gate := by
      obtain ⟨o, p, q, h⟩ := Dev.msix_eq (({ d with hwaits := d.hwaits.filter (fun x => x.n ≠ a.n) } : Dev).put (Reg.BCN_HWAIT_B.STATUS a.n) n)
        (d.viewOf a.ten) a.vector
      exact (congrArg Dev.gate h).trans rfl
    refine ⟨hb.trans (d.bare_endWait a n), hg.trans hgate, hv.trans ?_, fun x hx => ?_⟩
    · rw [Dev.endWait, Dev.beacons_msix]
      rfl
    · obtain ⟨hx', hne⟩ := hw x hx
      rw [Dev.endWait, Dev.hwaits_msix] at hx'
      obtain ⟨hin, hna⟩ := List.mem_filter.1 hx'
      refine ⟨hin, fun w hw => ?_⟩
      rcases List.mem_cons.1 hw with rfl | hw
      · exact of_decide_eq_true hna
      · exact hne w hw

theorem Dev.beacon_zeroBeacons {d : Dev} {t b : Nat} (h : d.ownsBeacon t b = true) : (d.zeroBeacons t).beacon b = 0#32 := by
  unfold Dev.beacon Dev.zeroBeacons
  rw [kget_kfilter, h]
  rfl

/-! ### The resident tenancy leaves -/

/-- The device with a context for tenancy `u`. -/
def Dev.withContext (u : Nat) (d : Dev) : Dev :=
  { d with contexts := d.contexts.filter (fun c => c.1 ≠ u) ++ [(u, d.saveContext)], fresh := d.fresh + 1 }

/-- The device with the context of tenancy `u` saved. -/
def Dev.contextSaved (u : Nat) (d : Dev) : Dev :=
  if d.rt.loaded then (d.saveRanges u).foldl (fun d r => d.rewritten r.1 r.2) (d.withContext u) else d

theorem Dev.contexts_bare {d e : Dev} (h : d.bare = e.bare) : d.contexts = e.contexts ∧ d.tens = e.tens ∧ d.afterSwitch = e.afterSwitch ∧
    d.resident = e.resident ∧ d.switchReqs = e.switchReqs := by
  have hc := congrArg Dev.contexts h
  have ht := congrArg Dev.tens h
  have ha := congrArg Dev.afterSwitch h
  have hr := congrArg Dev.resident h
  have hs := congrArg Dev.switchReqs h
  exact ⟨hc, ht, ha, hr, hs⟩

theorem Dev.contextSaved_facts (u : Nat) (d : Dev) : let e := d.contextSaved u
    (d.rt.loaded = true → e.contexts = d.contexts.filter (fun c => c.1 ≠ u) ++ [(u, d.saveContext)]) ∧
      (d.rt.loaded = false → e.contexts = d.contexts) ∧ e.waits = d.waits ∧ e.tens = d.tens ∧ e.afterSwitch = d.afterSwitch := by
  unfold Dev.contextSaved
  cases h : d.rt.loaded with
  | false =>
    rw [if_neg Bool.false_ne_true]
    exact ⟨fun h => absurd h Bool.false_ne_true, fun _ => rfl, rfl, rfl, rfl⟩
  | true =>
    rw [if_pos rfl]
    have hb (l : List (Nat × Nat)) (s : Dev) : (l.foldl (fun (d : Dev) r => d.rewritten r.1 r.2) s).bare = s.bare :=
      foldl_keeps (f := fun (d : Dev) (r : Nat × Nat) => d.rewritten r.1 r.2) (p := Dev.bare) (fun d r => d.bare_rewritten r.1 r.2) l s
    have hw (l : List (Nat × Nat)) (s : Dev) : (l.foldl (fun (d : Dev) r => d.rewritten r.1 r.2) s).waits = s.waits :=
      foldl_keeps (f := fun (d : Dev) (r : Nat × Nat) => d.rewritten r.1 r.2) (p := Dev.waits) (fun d r => d.waits_rewritten r.1 r.2) l s
    obtain ⟨hc, ht, ha, -, -⟩ := Dev.contexts_bare (hb (d.saveRanges u) (d.withContext u))
    exact ⟨fun _ => hc.trans rfl, fun h => absurd h.symm Bool.false_ne_true, (hw (d.saveRanges u) (d.withContext u)).trans rfl, ht.trans rfl,
      ha.trans rfl⟩

/-- The device without the Beacons and the gate of the tenancy that leaves. -/
def Dev.ungated (u : Nat) (d : Dev) : Dev := { (d.contextSaved u).zeroBeacons u with gate := none }

/-- The device without the tenancy's host waits either. -/
def Dev.unwaited (u : Nat) (d : Dev) : Dev :=
  (((d.contextSaved u).zeroBeacons u).hwaits.filter fun w => w.ten == u).foldl (fun (d : Dev) w => d.endWait w 4) (d.ungated u)

theorem Dev.switchOut_eq (u : Nat) (d : Dev) : d.switchOut u = (d.unwaited u).wmkSwitch u := by
  unfold Dev.switchOut Dev.unwaited Dev.ungated Dev.contextSaved Dev.withContext
  dsimp only

theorem Dev.switchOut_facts (u : Nat) (d : Dev) : let e := d.switchOut u
    (d.rt.loaded = true → e.contexts = d.contexts.filter (fun c => c.1 ≠ u) ++ [(u, d.saveContext)]) ∧
      (d.rt.loaded = false → e.contexts = d.contexts) ∧ (∀ w ∈ e.hwaits, w.ten ≠ u) ∧ e.gate = none ∧ e.afterSwitch = d.afterSwitch ∧
      ∀ b, d.ownsBeacon u b = true → e.beacon b = 0#32 := by
  obtain ⟨hload, hnone, hwaits, htens, hafter⟩ := d.contextSaved_facts u
  obtain ⟨hb, hg, hv, hw⟩ := Dev.endWaits_facts 4 (((d.contextSaved u).zeroBeacons u).hwaits.filter fun w => w.ten == u) (d.ungated u)
  obtain ⟨hc, -, ha, -, -⟩ := Dev.contexts_bare ((Dev.bare_wmkSwitch u (d.unwaited u)).trans hb)
  have hs := Dev.waits_wmkSwitch u (d.unwaited u)
  have hhw := congrArg Prod.fst hs
  have hgt := congrArg (fun x => x.2.1) hs
  have hbc := congrArg (fun x => x.2.2) hs
  rw [Dev.switchOut_eq]
  refine ⟨fun h => Eq.trans hc (hload h), fun h => Eq.trans hc (hnone h), fun x hx hu => ?_, Eq.trans hgt hg, Eq.trans ha hafter, fun b ho => ?_⟩
  · have hx' : x ∈ (d.unwaited u).hwaits := by
      rw [← show ((d.unwaited u).wmkSwitch u).hwaits = (d.unwaited u).hwaits from hhw]
      exact hx
    obtain ⟨hin, hne⟩ := hw x hx'
    exact hne x (List.mem_filter.2 ⟨hin, beq_iff_eq.2 hu⟩) rfl
  · have ho' : (d.contextSaved u).ownsBeacon u b = true := by
      unfold Dev.ownsBeacon at ho ⊢
      rw [htens]
      exact ho
    have hbe : ((d.unwaited u).wmkSwitch u).beacons = ((d.contextSaved u).zeroBeacons u).beacons := Eq.trans hbc hv
    unfold Dev.beacon
    rw [hbe]
    exact Dev.beacon_zeroBeacons ho'

theorem Dev.leaveResident_idle {d : Dev} (h : d.running = false) : let e := d.leaveResident
    (d.resident = none → e = d) ∧
    (∀ u, d.resident = some u →
      (d.rt.loaded = true → e.contexts = d.contexts.filter (fun c => c.1 ≠ u) ++ [(u, d.saveContext)]) ∧
      (d.rt.loaded = false → e.contexts = d.contexts) ∧
      (∀ w ∈ e.hwaits, w.ten ≠ u) ∧ e.gate = none ∧ e.afterSwitch = d.afterSwitch ∧ (∀ b, d.ownsBeacon u b = true → e.beacon b = 0#32)) := by
  have hd : (if d.running then d.takePreemption else d) = d := if_neg fun h' => Bool.false_ne_true (h.symm.trans h')
  unfold Dev.leaveResident
  rw [hd]
  refine ⟨fun hn => by simp only [hn], fun u hu => ?_⟩
  simp only [hu]
  exact d.switchOut_facts u

end Sys2Proof.Machine
end

section
/-! PROOF. Tenancy switches, host messages and rings (R396, R397, R412 to R417, R554), and what hosts do with slots and tenancies. -/

namespace Sys2Proof.Machine

/-! ### The incoming tenancy -/

theorem Dev.rest_showRoute (d : Dev) : d.showRoute.rest = d.rest := by
  have hstep (d : Dev) (c : Nat) : (match d.rt.prog c with
      | some p => (d.put (Reg.CORE_STATUS.PLACED c) 1).put (Reg.CORE_STATUS.DESC_COUNT c) p.descs.length
      | none => ((d.put (Reg.CORE_STATUS.PLACED c) 0).put (Reg.CORE_STATUS.DESC_COUNT c) 0)).rest = d.rest := by
    cases d.rt.prog c <;> rfl
  unfold Dev.showRoute
  exact (foldl_keeps (p := Dev.rest) hstep _ _).trans rfl

/-- The resident tenancy, the requests, what waits for a switch, the Beacons and the Route. -/
def Dev.ses (d : Dev) : Option Nat × List Nat × List (Nat × AfterSwitch) × KMap (BitVec 32) × RouteSt :=
  (d.resident, d.switchReqs, d.afterSwitch, d.beacons, d.rt)

theorem Dev.ses_of_rest {d e : Dev} (h : d.rest = e.rest) : d.ses = e.ses := by
  have hs := congrArg Dev.ses h
  exact hs

/-- The device in which tenancy `t` is resident, its Beacons zero, before its context comes back. -/
def Dev.incoming (t : Nat) (d : Dev) : Dev :=
  { ((d.mapCores CoreSt.zeroed).zeroBeacons t).releaseOf t with resident := some t, switchReqs := d.switchReqs.filter (· ≠ t) }

theorem Dev.beacon_releaseOf_zero {d : Dev} {b : Nat} (h : d.beacon b = 0#32) (t : Nat) : (d.releaseOf t).beacon b = 0#32 := by
  have hall (l : List Nat) (d : Dev) (h : d.beacon b = 0#32) : (l.foldl (fun (d : Dev) n => d.release n) d).beacon b = 0#32 := by
    induction l generalizing d with
    | nil => exact h
    | cons n l ih =>
      refine ih _ ?_
      obtain ⟨hle, hne⟩ := d.lowers_release n
      by_cases hb : b = n
      · subst hb
        rw [h] at hle
        exact BitVec.eq_of_toNat_eq (Nat.le_zero.1 hle)
      · exact (hne b hb).trans h
  exact hall _ d h

theorem Dev.incoming_facts (t : Nat) (d : Dev) : let e := d.incoming t
    e.resident = some t ∧ t ∉ e.switchReqs ∧ e.contexts = d.contexts ∧ e.afterSwitch = d.afterSwitch ∧
      ∀ b, d.ownsBeacon t b = true → e.beacon b = 0#32 := by
  have hcores := Dev.contexts_bare (d.bare_mapCores CoreSt.zeroed)
  have hrel := Dev.contexts_bare (Dev.bare_releaseOf t ((d.mapCores CoreSt.zeroed).zeroBeacons t))
  obtain ⟨hc, ht, ha, -, -⟩ := hcores
  obtain ⟨hc', -, ha', -, -⟩ := hrel
  refine ⟨rfl, fun hm => ?_, hc'.trans hc, ha'.trans ha, fun b ho => ?_⟩
  · have hm' : t ∈ d.switchReqs.filter (· ≠ t) := hm
    simpa using (List.mem_filter.1 hm').2
  · have ho' : (d.mapCores CoreSt.zeroed).ownsBeacon t b = true := by
      unfold Dev.ownsBeacon at ho ⊢
      rw [ht]
      exact ho
    exact Dev.beacon_releaseOf_zero (Dev.beacon_zeroBeacons ho') t

section
variable {d : Dev} {t : Nat}

/-- No context: no Route. -/
theorem Dev.switchIn_none (x : Bool) (h : (d.contexts.find? fun c => c.1 == t) = none) :
    (d.switchIn t x).1.ses = { d with rt := {} }.ses := by
  unfold Dev.switchIn
  simp only [h]
  exact Dev.ses_of_rest ((Dev.rest_showRoute _).trans rfl) |>.trans rfl

variable {c : Nat × Ctx} (h : (d.contexts.find? fun c => c.1 == t) = some c)
include h

/-- A context whose digest fails: no Route. -/
theorem Dev.switchIn_fails : (d.switchIn t false).1.ses = { d with rt := {} }.ses ∧
    (d.switchIn t false).1.is (Reg.SES_EVENT.RESTORE_FAIL t) = true := by
  unfold Dev.switchIn
  simp only [h, Bool.not_false, if_true]
  exact ⟨(Dev.ses_of_rest ((Dev.rest_event _ _).trans (Dev.rest_showRoute _))).trans rfl, Dev.is_event_self _ _ Nat.one_pos⟩

/-- A context that is intact: its Route. -/
theorem Dev.switchIn_intact : (d.switchIn t true).1.ses = { d with rt := c.2.rt }.ses := by
  have hregs (l : List (Nat × Nat)) (d : Dev) : (l.foldl (fun (d : Dev) r => { d with regs := kset 0 d.regs r.1 r.2 }) d).ses = d.ses :=
    foldl_keeps (f := fun (d : Dev) (r : Nat × Nat) => { d with regs := kset 0 d.regs r.1 r.2 }) (p := Dev.ses) (fun _ _ => rfl) l d
  unfold Dev.switchIn
  simp only [h, Bool.not_true, Bool.false_eq_true, if_false]
  exact (hregs _ _).trans ((Dev.ses_of_rest (Dev.rest_showRoute _)).trans rfl)

end

/-! ### The reports of a switch -/

/-- The register fields, and what `Dev.ses` lists. -/
def Dev.sesRegs (d : Dev) : (Option Nat × List Nat × List (Nat × AfterSwitch) × KMap (BitVec 32) × RouteSt) × KMap Nat := (d.ses, d.regs)

theorem Dev.sesRegs_reply (r : RingRec) (d : Dev) : (d.reply r).sesRegs = d.sesRegs := by
  unfold Dev.reply
  split <;> rfl

theorem Dev.sesRegs_complete (t code : Nat) (d : Dev) : (d.complete t code).sesRegs = d.sesRegs :=
  (Dev.sesRegs_reply _ _).trans rfl

theorem Dev.sesRegs_switchRecord (t code : Nat) (d : Dev) : (d.switchRecord t code).sesRegs = d.sesRegs := by
  unfold Dev.switchRecord
  split
  · exact (Dev.sesRegs_complete _ _ _).trans rfl
  · obtain ⟨q, h⟩ := d.owe_eq t
    rw [h]
    exact (Dev.sesRegs_complete _ _ _).trans rfl

theorem Dev.get_sesRegs {d e : Dev} (h : d.sesRegs = e.sesRegs) (F : Fld) : d.get F = e.get F := by
  have hr : d.regs = e.regs := congrArg Prod.snd h
  unfold Dev.get
  rw [hr]

/-- The records of a switch, before the events of the tenancy that has become resident. -/
def Dev.switchRecords (old : Option Nat) (t code : Nat) (d : Dev) : Dev :=
  match old with
  | some u => ((d.switchRecord u 0).switchRecord t code).event (Reg.SES_EVENT.SWITCHED u)
  | none => d.switchRecord t code

theorem Dev.switchRecords_facts (old : Option Nat) (t code : Nat) (d : Dev) : (d.switchRecords old t code).ses = d.ses ∧
    (d.switchRecords old t code).get (Reg.SES_EVENT.RESTORE_FAIL t) = d.get (Reg.SES_EVENT.RESTORE_FAIL t) := by
  cases old with
  | none =>
    have h := Dev.sesRegs_switchRecord t code d
    exact ⟨congrArg Prod.fst h, Dev.get_sesRegs h _⟩
  | some u =>
    have h := (Dev.sesRegs_switchRecord t code (d.switchRecord u 0)).trans (Dev.sesRegs_switchRecord u 0 d)
    have hne : (Reg.SES_EVENT.RESTORE_FAIL t).key ≠ (Reg.SES_EVENT.SWITCHED u).key := by
      simp only [Fld.key, Reg.SES_EVENT.RESTORE_FAIL, Reg.SES_EVENT.SWITCHED]
      omega
    exact ⟨(Dev.ses_of_rest (Dev.rest_event _ _)).trans (congrArg Prod.fst h), (Dev.get_event_ne _ hne).trans (Dev.get_sesRegs h _)⟩

theorem Dev.switchReport_facts (old : Option Nat) (t : Nat) (ok : Bool) (d : Dev) : let e := d.switchReport old t ok
    e.ses = d.ses ∧ e.is (Reg.SES_EVENT.SWITCHED t) = true ∧ e.is (Reg.SES_EVENT.RESTORE_FAIL t) = d.is (Reg.SES_EVENT.RESTORE_FAIL t) := by
  have he : d.switchReport old t ok = ((d.switchRecords old t (if ok then 0 else 0x0606)).event (Reg.SES_EVENT.SWITCHED t)).lantern 8 0xFF 0 0 0
      (old.getD t + t * 2 ^ 4 + (if ok then 0 else 2 ^ 8)) none := by
    cases old <;> rfl
  obtain ⟨hs, hf⟩ := d.switchRecords_facts old t (if ok then 0 else 0x0606)
  have hlost (F : Fld) (hlo : F.lo = 1 ∨ F.lo = 2) : F.key ≠ Reg.DBG_LTN_LOST.COUNT.key := by
    simp only [Fld.key, Reg.DBG_LTN_LOST.COUNT]
    omega
  have hne : (Reg.SES_EVENT.RESTORE_FAIL t).key ≠ (Reg.SES_EVENT.SWITCHED t).key := by
    simp only [Fld.key, Reg.SES_EVENT.RESTORE_FAIL, Reg.SES_EVENT.SWITCHED]
    omega
  rw [he]
  exact ⟨(Dev.ses_of_rest ((Dev.rest_lantern _ _ _ _ _ _ _ _).trans (Dev.rest_event _ _))).trans hs,
    (Dev.is_of_get (Dev.get_lantern_ne _ _ _ _ _ _ _ _ (hlost _ (.inl rfl)))).trans (Dev.is_event_self _ _ Nat.one_pos),
    Dev.is_of_get ((Dev.get_lantern_ne _ _ _ _ _ _ _ _ (hlost _ (.inr rfl))).trans ((Dev.get_event_ne _ hne).trans hf))⟩

theorem Dev.get_updSession_ne (d : Dev) {F : Fld} (h : F.lo = 2) : d.updSession.get F = d.get F := by
  have hne {G : Fld} (h2 : G.lo ≠ 2) (h64 : G.lo < 64) : F.key ≠ G.key := by
    simp only [Fld.key, h]
    omega
  exact (Dev.get_put_ne _ _ (hne (by decide) (by decide))).trans ((Dev.get_put_ne _ _ (hne (by decide) (by decide))).trans
    ((Dev.get_put_ne _ _ (hne (by decide) (by decide))).trans (Dev.get_put_ne _ _ (hne (by decide) (by decide)))))

/-- Nothing that waited for the tenancy: nothing more is carried out. -/
theorem Dev.afterSwitchAll_nothing {t : Nat} {d : Dev} (h : ∀ a ∈ d.afterSwitch, a.1 ≠ t) :
    d.afterSwitchAll t = { d with afterSwitch := d.afterSwitch.filter fun a => a.1 != t } := by
  have hnil : (d.afterSwitch.filter fun a => a.1 == t) = [] :=
    List.filter_eq_nil_iff.2 fun a ha => by simpa using h a ha
  unfold Dev.afterSwitchAll
  rw [hnil]
  rfl

theorem Dev.switchReady_winner {d : Dev} (h : d.switchReady = false) (x : Bool) : d.tenancySwitch x = d := by
  unfold Dev.tenancySwitch
  split
  · rfl
  · exact if_pos (by rw [h]; rfl)

theorem Dev.tenancySwitch_eq {d : Dev} {t : Nat} (hr : d.switchReady = true) (hw : d.winner = some t) (x : Bool) : d.tenancySwitch x =
    (((d.leaveResident.incoming t).switchIn t x).1.updSession.switchReport d.resident t ((d.leaveResident.incoming t).switchIn t x).2).afterSwitchAll
      t := by
  unfold Dev.tenancySwitch
  simp only [hw]
  exact (if_neg (by rw [hr]; exact Bool.false_ne_true)).trans rfl

/-- What a served switch leaves, by what `switchIn` leaves. -/
theorem Dev.tenancySwitch_facts {d i : Dev} {t : Nat} {x ok : Bool} {rt : RouteSt} (hr : d.switchReady = true) (hw : d.winner = some t)
    (hnone : ∀ a ∈ d.leaveResident.afterSwitch, a.1 ≠ t) (hi : (d.leaveResident.incoming t).switchIn t x = (i, ok))
    (hs : i.ses = { d.leaveResident.incoming t with rt := rt }.ses) : let e := d.tenancySwitch x
    e.resident = some t ∧ t ∉ e.switchReqs ∧ e.is (Reg.SES_EVENT.SWITCHED t) = true ∧
      (∀ b, d.leaveResident.ownsBeacon t b = true → e.beacon b = 0#32) ∧ e.rt = rt ∧
      e.is (Reg.SES_EVENT.RESTORE_FAIL t) = i.is (Reg.SES_EVENT.RESTORE_FAIL t) := by
  obtain ⟨hres, hreq, -, hafter, hbcn⟩ := d.leaveResident.incoming_facts t
  obtain ⟨hses, hsw, hfail⟩ := i.updSession.switchReport_facts d.resident t ok
  have hses' := hses.trans (Eq.trans (show i.updSession.ses = i.ses from rfl) hs)
  have hrt := congrArg (fun x => x.2.2.2.2) hses'
  have hresident := congrArg (fun x => x.1) hses'
  have hreqs := congrArg (fun x => x.2.1) hses'
  have haft := congrArg (fun x => x.2.2.1) hses'
  have hbc := congrArg (fun x => x.2.2.2.1) hses'
  have he := Dev.tenancySwitch_eq hr hw x
  rw [hi, Dev.afterSwitchAll_nothing (by
    intro a ha
    refine hnone a ?_
    rw [← hafter]
    have ha' : a ∈ (i.updSession.switchReport d.resident t ok).afterSwitch := ha
    rw [show (i.updSession.switchReport d.resident t ok).afterSwitch = (d.leaveResident.incoming t).afterSwitch from haft] at ha'
    exact ha')] at he
  rw [he]
  refine ⟨hresident.trans hres, fun hm => hreq ?_, hsw, fun b ho => ?_, hrt, hfail.trans (Dev.is_of_get (Dev.get_updSession_ne _ rfl))⟩
  · rw [← show (i.updSession.switchReport d.resident t ok).switchReqs = (d.leaveResident.incoming t).switchReqs from hreqs]
    exact hm
  · have hb := hbcn b ho
    unfold Dev.beacon at hb ⊢
    rw [show (i.updSession.switchReport d.resident t ok).beacons = (d.leaveResident.incoming t).beacons from hbc]
    exact hb

theorem Dev.tenancySwitch_served {d : Dev} {t : Nat} (hr : d.switchReady = true) (hw : d.winner = some t)
    (hnone : ∀ a ∈ d.leaveResident.afterSwitch, a.1 ≠ t) (x : Bool) : let e := d.tenancySwitch x
    e.resident = some t ∧ t ∉ e.switchReqs ∧ e.is (Reg.SES_EVENT.SWITCHED t) = true ∧
      (∀ b, d.leaveResident.ownsBeacon t b = true → e.beacon b = 0#32) ∧
      ((d.leaveResident.contexts.find? fun c => c.1 == t) = none → e.rt = {}) ∧
      (∀ c, (d.leaveResident.contexts.find? fun c => c.1 == t) = some c →
        (x = true → e.rt = c.2.rt) ∧ (x = false → e.rt = {} ∧ e.is (Reg.SES_EVENT.RESTORE_FAIL t) = true)) := by
  obtain ⟨-, -, hctx, -⟩ := d.leaveResident.incoming_facts t
  rw [← hctx]
  cases hc : (d.leaveResident.incoming t).contexts.find? fun c => c.1 == t with
  | none =>
    obtain ⟨h1, h2, h3, h4, h5, -⟩ := Dev.tenancySwitch_facts hr hw hnone rfl (Dev.switchIn_none x hc)
    exact ⟨h1, h2, h3, h4, fun _ => h5, fun c h => absurd h (by simp)⟩
  | some c =>
    cases x with
    | true =>
      obtain ⟨h1, h2, h3, h4, h5, -⟩ := Dev.tenancySwitch_facts hr hw hnone rfl (Dev.switchIn_intact hc)
      refine ⟨h1, h2, h3, h4, fun h => absurd h (by simp), fun k hk => ⟨fun _ => ?_, fun h => absurd h.symm Bool.false_ne_true⟩⟩
      obtain rfl := Option.some.inj hk
      exact h5
    | false =>
      obtain ⟨hs, hf⟩ := Dev.switchIn_fails hc
      obtain ⟨h1, h2, h3, h4, h5, h6⟩ := Dev.tenancySwitch_facts hr hw hnone rfl hs
      exact ⟨h1, h2, h3, h4, fun h => absurd h (by simp), fun k hk => ⟨fun h => absurd h Bool.false_ne_true, fun _ => ⟨h5, h6.trans hf⟩⟩⟩

/-! ### Host messages -/

/-- The device with LEN and TAG of a write of SES_MSG_CTL. -/
def Dev.msgCtl (n ctl : Nat) (d : Dev) : Dev :=
  (d.put (Reg.SES_MSG_CTL.LEN n) (bitsOf ctl 24 6)).put (Reg.SES_MSG_CTL.TAG n) (bitsOf ctl 0 24)

section
variable {d : Dev} {b n ctl : Nat}

theorem Dev.sendMsg_other (h : d.acting b ≠ some n) : d.sendMsg b n ctl = d := if_pos h

theorem Dev.ringCfg_other (h : d.acting b ≠ some n) : d.ringCfg b n ctl = d := if_pos h

variable (h : d.acting b = some n)
include h

theorem Dev.sendMsg_idle (hb : bitOf ctl 31 = false ∨ d.is (Reg.SES_MSG_CTL.BUSY n) = true) : d.sendMsg b n ctl = d.msgCtl n ctl :=
  (if_neg fun h' => h' h).trans (if_pos (by rwa [Bool.not_eq_true']))

variable (hs : bitOf ctl 31 = true) (hb : d.is (Reg.SES_MSG_CTL.BUSY n) = false)
include hs hb

/-- A message that is sent, by its receipt and its destination. -/
theorem Dev.sendMsg_sends : d.sendMsg b n ctl =
    let e := d.msgCtl n ctl
    let m := e.hostMsg n
    if m.receipt = true ∧ (!d.mayOwe n) = true then e.event (Reg.SES_EVENT.CMD_REFUSED n)
    else if d.msgToComb m = true then e.postMsg m
    else if d.resident ≠ some n ∧ bitsOf m.dest 21 3 = 0 ∧ (kget {} d.tens n).enable = true then
      ((({ e with afterSwitch := d.afterSwitch ++ [(n, .message m)] } : Dev).put (Reg.SES_MSG_CTL.BUSY n) 1).requestSwitch n)
    else if d.msgToCore m = true then e.postMsg m
    else e.event (Reg.SES_EVENT.CMD_REFUSED n) :=
  (if_neg fun h' => h' h).trans ((if_neg (by rw [hs, hb]; decide)).trans rfl)

end

/-- A message that is posted joins the host messages, its receipt owed. -/
theorem Dev.postMsg_eq (n ctl : Nat) (d : Dev) : let e := d.msgCtl n ctl; let m := e.hostMsg n
    e.postMsg m = (({ (if m.receipt then e.owe n else e) with hostMsgs := d.hostMsgs ++ [m] } : Dev).put (Reg.SES_MSG_CTL.BUSY n) 1).hostForward := by
  intro e m
  have hh : (if m.receipt then e.owe m.ten else e).hostMsgs = d.hostMsgs := by
    split
    · obtain ⟨q, ho⟩ := e.owe_eq m.ten
      rw [ho]
      rfl
    · rfl
  unfold Dev.postMsg
  dsimp only
  rw [hh]
  rfl

/-! ### Rings -/

theorem Dev.ringCfg_facts {d : Dev} {b n c : Nat} (h : d.acting b = some n) : let e := d.ringCfg b n c
    e.is (Reg.SES_RING_CFG.ENABLE n) = bitOf c 31 ∧
      (12 ≤ bitsOf c 0 5 ∧ bitsOf c 0 5 ≤ 20 → e.get (Reg.SES_RING_CFG.LOG2SIZE n) = bitsOf c 0 5 % 2 ^ 5) ∧
      (bitOf c 31 = true → e.get (Reg.SES_RING_PROD.INDEX n) = 0 ∧ e.get (Reg.SES_RING_CONS.INDEX n) = 0) := by
  let d0 := d.putB (Reg.SES_RING_CFG.ENABLE n) (bitOf c 31)
  let d1 := if 12 ≤ bitsOf c 0 5 ∧ bitsOf c 0 5 ≤ 20 then d0.put (Reg.SES_RING_CFG.LOG2SIZE n) (bitsOf c 0 5) else d0.count Reg.DBG_INPUT_REJ.COUNT 1
  have he : d.ringCfg b n c =
      if bitOf c 31 then (d1.put (Reg.SES_RING_PROD.INDEX n) 0).put (Reg.SES_RING_CONS.INDEX n) 0 else d1 := if_neg fun h' => h' h
  have hlo {F G : Fld} (hF : F.lo = 31) (hG : G.lo = 0) : F.key ≠ G.key := by
    simp only [Fld.key, hF, hG]
    omega
  have hprod : (Reg.SES_RING_PROD.INDEX n).key ≠ (Reg.SES_RING_CONS.INDEX n).key := by
    simp only [Fld.key, Reg.SES_RING_PROD.INDEX, Reg.SES_RING_CONS.INDEX]
    omega
  have hsize : (Reg.SES_RING_CFG.LOG2SIZE n).key ≠ (Reg.SES_RING_PROD.INDEX n).key ∧
      (Reg.SES_RING_CFG.LOG2SIZE n).key ≠ (Reg.SES_RING_CONS.INDEX n).key := by
    simp only [Fld.key, Reg.SES_RING_CFG.LOG2SIZE, Reg.SES_RING_PROD.INDEX, Reg.SES_RING_CONS.INDEX]
    omega
  have hen : d1.is (Reg.SES_RING_CFG.ENABLE n) = bitOf c 31 := by
    have h0 := Dev.is_putB_self d (Reg.SES_RING_CFG.ENABLE n) (bitOf c 31) Nat.one_pos
    by_cases hr : 12 ≤ bitsOf c 0 5 ∧ bitsOf c 0 5 ≤ 20
    · exact (congrArg (fun e : Dev => e.is (Reg.SES_RING_CFG.ENABLE n)) (if_pos hr)).trans ((Dev.is_put_ne _ _ (hlo rfl rfl)).trans h0)
    · exact (congrArg (fun e : Dev => e.is (Reg.SES_RING_CFG.ENABLE n)) (if_neg hr)).trans ((Dev.is_put_ne _ _ (hlo rfl rfl)).trans h0)
  have hlog (hr : 12 ≤ bitsOf c 0 5 ∧ bitsOf c 0 5 ≤ 20) : d1.get (Reg.SES_RING_CFG.LOG2SIZE n) = bitsOf c 0 5 % 2 ^ 5 :=
    (congrArg (fun e : Dev => e.get (Reg.SES_RING_CFG.LOG2SIZE n)) (if_pos hr)).trans (Dev.get_put_self _ _ _)
  dsimp only
  rw [he]
  cases hb : bitOf c 31 with
  | false =>
    rw [if_neg Bool.false_ne_true]
    exact ⟨hen.trans hb, hlog, fun h => absurd h Bool.false_ne_true⟩
  | true =>
    rw [if_pos rfl]
    refine ⟨(Dev.is_put_ne _ _ (hlo rfl rfl)).trans ((Dev.is_put_ne _ _ (hlo rfl rfl)).trans (hen.trans hb)), fun hr => ?_,
      fun _ => ⟨(Dev.get_put_ne _ _ hprod).trans ((Dev.get_put_self _ _ _).trans (Nat.zero_mod _)), (Dev.get_put_self _ _ _).trans (Nat.zero_mod _)⟩⟩
    exact (Dev.get_put_ne _ _ hsize.2).trans ((Dev.get_put_ne _ _ hsize.1).trans (hlog hr))

/-- Settles O44: slots by STATE and what waits, tenancies by R411, switches by the winner and its context, messages by destination and receipt. -/
theorem slotsAndTenancies : Obligations.SlotsAndTenancies := by
  unfold Obligations.SlotsAndTenancies
  refine ⟨fun b n s => ?slots, fun b t w v s => ?words, fun b t s => ?apply, fun b s => ?switch, fun d t => Dev.winner_facts, fun x s => ?served,
    fun d => Dev.leaveResident_idle, fun b t c s => ?messages⟩
  case slots =>
    have hb : Leaves (.bind b n) s (s.dev.bindSlot b.toNat n.toNat) := rfl
    have hu : Leaves (.unbind b n) s (s.dev.unbindSlot b.toNat n.toNat) := rfl
    refine ⟨fun h => ⟨hb.noEffect (Dev.bindSlot_none h), hu.noEffect (Dev.unbindSlot_none h)⟩, fun t h =>
      ⟨fun hr => hb.congr (Dev.bindSlot_refused h hr), fun hr => hu.congr (Dev.unbindSlot_refused h hr), fun ho hs hw => ?_, fun ho hs ht hw => ?_⟩⟩
    · obtain ⟨hnow, hwait⟩ := Dev.bindSlot_taken h ho hs hw
      exact ⟨fun hr => hb.congr (hnow hr), fun hr => hb.congr (hwait hr)⟩
    · obtain ⟨hnow, hwait⟩ := Dev.unbindSlot_taken h ho hs ht hw
      exact ⟨fun hr => hu.congr (hnow hr), fun hr => hu.congr (hwait hr)⟩
  case words =>
    have hl : Leaves (.slotWordWrite b t w v) s (s.dev.slotWordWrite b.toNat t.toNat w.toNat v) := rfl
    have hw0 : w.toNat = 0 ↔ w = 0#5 := by
      rw [← BitVec.toNat_inj]
      rfl
    refine ⟨fun h => hl.noEffect (Dev.slotWordWrite_none _ v h), fun ha hs ht => ⟨fun hr => ?_, fun hr hw => ?_, fun hr hw => ?_⟩⟩
    · exact hl.congr ((Dev.slotWordWrite_queues w v ha hs ht).trans (Dev.queueSlot_waits hr _))
    · exact hl.congr ((Dev.slotWordWrite_now w v ha hs ht hr).trans (if_neg fun h => hw (hw0.1 h)))
    · exact hl.congr ((Dev.slotWordWrite_now w v ha hs ht hr).trans (if_pos (hw0.2 hw)))
  case apply =>
    have hl : Leaves (.tenApply b t) s (s.dev.tenApply b.toNat t.toNat) := rfl
    refine ⟨fun h => hl.noEffect (Dev.tenApply_none _ h), fun u hu h => hl.congr (Dev.tenApply_other _ hu h), fun h => ?_⟩
    have hz := hl.congr (Dev.tenApply_zero _ h)
    refine ⟨fun hr => hz.congr (if_pos (by simpa only [Bool.not_eq_true'] using hr)), fun hok ho => hz.congr (if_neg ?_)⟩
    rw [ho, hok]
    decide
  case switch =>
    have hl : Leaves (.switch b) s (s.dev.switchCmd b.toNat) := rfl
    refine ⟨fun h => hl.noEffect (Dev.switchCmd_none h), fun t h hr => hl.congr (Dev.switchCmd_refused h hr), fun t h ho he hn => ?_⟩
    have ht := hl.congr (Dev.switchCmd_taken h ho he hn)
    exact ⟨fun hr => ht.congr (if_pos hr), fun hr => ht.congr (if_neg hr)⟩
  case served =>
    have hst := stores_tenancySwitch x s
    refine ⟨fun h => ?_, fun t hr hw hnone => ⟨s.dev.tenancySwitch x, ?_, Dev.tenancySwitch_served hr hw hnone x⟩⟩
    · have hm : (if s.dev.switchReady then s.dev.switchMem s.dram else s.dram) = s.dram := if_neg fun h' => Bool.false_ne_true (h.symm.trans h')
      rw [hm] at hst
      exact (hst.leaves rfl).noEffect (Dev.switchReady_winner h x)
    · rw [if_pos hr] at hst
      exact hst
  case messages =>
    have hsend : Leaves (.send b t c) s (s.dev.sendMsg b.toNat t.toNat c.toNat) := rfl
    have hring : Leaves (.ringEnable b t c) s (s.dev.ringCfg b.toNat t.toNat c.toNat) := rfl
    refine ⟨fun h => ⟨hsend.noEffect (Dev.sendMsg_other h), hring.noEffect (Dev.ringCfg_other h)⟩, fun h =>
      ⟨fun hi => hsend.congr (Dev.sendMsg_idle h hi), fun h31 hb => ⟨fun hrec hno => ?refused, fun hrec => ?accepted⟩,
        ⟨_, hring, Dev.ringCfg_facts h⟩⟩⟩
    case refused =>
      exact (hsend.congr (Dev.sendMsg_sends h h31 hb)).congr (if_pos ⟨hrec, by rw [hno]; rfl⟩)
    case accepted =>
      let m := (s.dev.msgCtl t.toNat c.toNat).hostMsg t.toNat
      have hown : ¬ (m.receipt = true ∧ (!s.dev.mayOwe t.toNat) = true) := by
        rintro ⟨h1, h2⟩
        rcases hrec with hrec | hrec
        · exact Bool.false_ne_true (hrec.symm.trans h1)
        · rw [hrec] at h2
          exact Bool.false_ne_true h2
      have hm := (hsend.congr (Dev.sendMsg_sends h h31 hb)).congr (if_neg hown)
      refine ⟨fun hd => ?_, fun hc haway => ?_, fun hc haway hcore => ?_⟩
      · by_cases hc : s.dev.msgToComb m = true
        · exact (hm.congr (if_pos hc)).congr (Dev.postMsg_eq _ _ _)
        · obtain ⟨haway, hcore⟩ := hd.resolve_left hc
          exact (hm.congr ((if_neg hc).trans ((if_neg haway).trans (if_pos hcore)))).congr (Dev.postMsg_eq _ _ _)
      · exact hm.congr ((if_neg fun h => Bool.false_ne_true (hc.symm.trans h)).trans (if_pos haway))
      · exact hm.congr ((if_neg fun h => Bool.false_ne_true (hc.symm.trans h)).trans ((if_neg haway).trans
          (if_neg fun h => Bool.false_ne_true (hcore.symm.trans h))))

end Sys2Proof.Machine
end

section
/-! PROOF. Coherence, address translation, the host link and MSI-X (R506, R509, R515 to R518, R553, R555). -/

namespace Sys2Proof.Machine

/-! ### Output -/

/-- Outputs that go out one after the other. -/
theorem Dev.foldl_emit {α : Type} (g : α → Output) (l : List α) (d : Dev) :
    l.foldl (fun (d : Dev) x => d.emit (g x)) d = { d with out := d.out ++ l.map g } := by
  induction l generalizing d with
  | nil => exact congrArg (fun o => { d with out := o }) (List.append_nil _).symm
  | cons x l ih =>
    exact (ih _).trans (congrArg (fun o => { d with out := o }) (List.append_assoc d.out [g x] (l.map g)))

/-! ### Coherence and translations -/

theorem Dev.backInvalidate_absent {b line : Nat} {d : Dev} (h : (b, line) ∉ d.snoop) : d.backInvalidate b line = d :=
  if_neg fun h' => h (List.contains_iff_mem.1 h')

theorem Dev.backInvalidate_held {b line : Nat} {d : Dev} (h : (b, line) ∈ d.snoop) : d.backInvalidate b line =
    ({ d with snoop := d.snoop.filter (· ≠ (b, line)) } : Dev).emit (.cxl b cxlBISnpInv line) :=
  if_pos (List.contains_iff_mem.2 h)

theorem Dev.xlatAnswer_unasked {v pg : Nat} {w : Bool} {d : Dev} (h : (v, pg, w) ∉ d.xlatPend) (ok error : Bool) :
    d.xlatAnswer v pg w ok error = d :=
  if_pos (by rw [Bool.eq_false_iff.2 fun h' => h (List.contains_iff_mem.1 h')]; rfl)

theorem Dev.xlatAnswer_asked {v pg : Nat} {w : Bool} {d : Dev} (h : (v, pg, w) ∈ d.xlatPend) (ok error : Bool) :
    d.xlatAnswer v pg w ok error =
      (if ok then (({ d with xlatPend := eraseFirst (v, pg, w) d.xlatPend } : Dev).cachePage v pg).releaseLines v pg
        else ({ d with xlatPend := eraseFirst (v, pg, w) d.xlatPend } : Dev).xlatFails v pg w error).retrySettle v pg :=
  if_neg (by rw [List.contains_iff_mem.2 h]; exact Bool.false_ne_true)

/-- A view without entries has room for one. -/
theorem Dev.mem_ats_cachePage {v : Nat} (pg : Nat) {d : Dev} (h : ∀ e ∈ d.ats, e.1 ≠ v) : (v, pg) ∈ (d.cachePage v pg).ats := by
  have hnone : d.ats.filter (fun e => e.1 == v) = [] :=
    List.filter_eq_nil_iff.2 fun e he h' => h e he (beq_iff_eq.1 h')
  have hlen : ((d.ats ++ [(v, pg)]).filter fun e => e.1 == v).length ≤ 4096 := by
    rw [List.filter_append, hnone, List.nil_append]
    exact Nat.le_trans (List.length_filter_le _ _) (by decide : 1 ≤ 4096)
  have hnew : d.ats.contains (v, pg) ≠ true := fun h' => h _ (List.contains_iff_mem.1 h') rfl
  have heq : d.cachePage v pg = { d with ats := d.ats ++ [(v, pg)] } := (if_neg hnew).trans (if_pos hlen)
  rw [heq]
  exact List.mem_append_right _ (List.mem_singleton.2 rfl)

theorem Dev.ats_settleInvalidates (d : Dev) : d.settleInvalidates.ats = d.ats := by
  unfold Dev.settleInvalidates
  dsimp only
  rw [Dev.foldl_emit (fun x : Nat × Nat × Nat => .cxl x.1 cxlInvalidateDone (x.2.1 * 4096))]

theorem Dev.mem_ats_invalidateRequest {v pg n : Nat} {d : Dev} {x : Nat × Nat} (h : x ∈ (d.invalidateRequest v pg n).ats) :
    x ∈ d.ats ∧ ¬(x.1 = v ∧ pg ≤ x.2 ∧ x.2 < pg + n) := by
  have h' : x ∈ d.ats.filter (fun e => !(e.1 == v && decide (pg ≤ e.2 ∧ e.2 < pg + n))) := by
    rw [Dev.invalidateRequest, Dev.ats_settleInvalidates] at h
    exact h
  obtain ⟨hmem, hout⟩ := List.mem_filter.1 h'
  refine ⟨hmem, fun ⟨hv, hr⟩ => ?_⟩
  rw [hv, beq_self_eq_true, decide_eq_true hr] at hout
  exact Bool.false_ne_true hout

/-! ### RETRY -/

/-- The device that a RETRY leaves, but for the requests it sends. -/
def Dev.retried (v : Nat) (d : Dev) : Dev :=
  { d with xlatFail := d.xlatFail.filter (fun f => f.1 != v),
           xlatRetry := (d.xlatFail.filter fun f => f.1 == v).map fun f => (f.1, f.2.1, f.2.2.1),
           xlatPend := d.xlatPend ++ (d.xlatFail.filter fun f => f.1 == v).map fun f => (f.1, f.2.1, f.2.2.1) }

theorem Dev.retryCmd_suspended {v : Nat} {d : Dev} (h : d.is (Reg.HP_XLAT_CTL.SUSPENDED v) = true) :
    ∃ o, d.retryCmd v = { d.retried v with out := o } :=
  ⟨_, (if_neg (by rw [h]; exact Bool.false_ne_true)).trans
    (Dev.foldl_emit (fun f : Nat × Nat × Bool × Bool => .cxl v cxlTranslate (f.2.1 * 4096)) _ (d.retried v))⟩

theorem Dev.mem_xlatFail_retried {v : Nat} {d : Dev} {f : Nat × Nat × Bool × Bool} (h : f ∈ (d.retried v).xlatFail) : f ∈ d.xlatFail ∧ f.1 ≠ v :=
  have ⟨hmem, hne⟩ := List.mem_filter.1 h
  ⟨hmem, bne_iff_ne.1 hne⟩

theorem Dev.mem_xlatRetry_retried {v : Nat} {d : Dev} {f : Nat × Nat × Bool × Bool} (h : f ∈ d.xlatFail) (hv : f.1 = v) :
    (f.1, f.2.1, f.2.2.1) ∈ (d.retried v).xlatRetry :=
  List.mem_map.2 ⟨f, List.mem_filter.2 ⟨h, beq_iff_eq.2 hv⟩, rfl⟩

/-! ### The link -/

theorem Dev.fillFromHost_congr {d e : Dev} (hc : e.crn = d.crn) (hs : ∀ a, (e.fillSource a).1 = (d.fillSource a).1) :
    e.fillFromHost = d.fillFromHost := by
  simp only [Dev.fillFromHost, hc, hs]

theorem Dev.serveOnHost_congr {d e : Dev} (hc : e.crn = d.crn) (hs : ∀ a, (e.fillSource a).1 = (d.fillSource a).1)
    (hk : e.get Reg.CRN_AUTO.KIND = d.get Reg.CRN_AUTO.KIND) : e.serveOnHost = d.serveOnHost := by
  simp only [Dev.serveOnHost, hc, hs, hk]

theorem Dev.fillSource_blockFault (d : Dev) (o : Owner) (code : Nat) (b a : Bool) :
    ((d.blockFault o code b).fillSource a).1 = (d.fillSource a).1 := by
  cases a
  · exact Dev.get_blockFault_ne d o code b (by decide) (by decide)
  · exact Dev.get_blockFault_ne d o code b (by decide) (by decide)

/-- The device whose link is down: no translation is cached. -/
def Dev.linkLost (d : Dev) : Dev := { d with linkUp := false, ats := [] }

/-- What the loss of the link stops beside the Route. -/
def Dev.cairnOff (m : Memory) (d : Dev) : Dev :=
  let f := if d.fillFromHost then d.fillFail else d
  if f.serveOnHost then f.serveEnd true m else f

theorem Dev.cairnOff_unused {m : Memory} {d : Dev} (hf : d.fillFromHost = false) (hs : d.serveOnHost = false) : d.cairnOff m = d := by
  have hfill : (if d.fillFromHost then d.fillFail else d) = d := if_neg (by rw [hf]; exact Bool.false_ne_true)
  unfold Dev.cairnOff
  rw [hfill]
  exact if_neg (by rw [hs]; exact Bool.false_ne_true)

theorem Dev.hostLinkDown_up {m : Memory} {d : Dev} (h : d.linkUp = true) :
    d.hostLinkDown m = (if d.usesHost then d.linkLost.raiseArrival noOwner 0x0801 else d.linkLost).cairnOff m :=
  if_neg (by rw [h]; exact Bool.false_ne_true)

theorem Dev.hostLinkDown_down {m : Memory} {d : Dev} (h : d.linkUp = false) : d.hostLinkDown m = d := if_pos (by rw [h]; rfl)

theorem Dev.hostLinkDown_unused {m : Memory} {d : Dev} (h : d.linkUp = true) (hu : d.usesHost = false) (hf : d.fillFromHost = false)
    (hs : d.serveOnHost = false) : d.hostLinkDown m = d.linkLost := by
  rw [Dev.hostLinkDown_up h, hu]
  exact Dev.cairnOff_unused (d := d.linkLost) hf hs

/-- Outside a run a Route that uses the host is only a fault of the block. -/
theorem Dev.raiseArrival_idle {d : Dev} {o : Owner} {code : Nat} (h : d.running = false) : d.raiseArrival o code = d.blockFault o code true := by
  unfold Dev.raiseArrival
  rw [h]
  rfl

theorem Dev.hostLinkDown_route {m : Memory} {d : Dev} (h : d.linkUp = true) (hu : d.usesHost = true) (hf : d.fillFromHost = false)
    (hs : d.serveOnHost = false) (hr : d.running = false) : d.hostLinkDown m = d.linkLost.blockFault noOwner 0x0801 true := by
  have hsrc := Dev.fillSource_blockFault d.linkLost noOwner 0x0801 true
  have hcrn := Dev.crn_blockFault d.linkLost noOwner 0x0801 true
  rw [Dev.hostLinkDown_up h, hu]
  refine (congrArg (Dev.cairnOff m) (Dev.raiseArrival_idle (d := d.linkLost) hr)).trans (Dev.cairnOff_unused ?_ ?_)
  · exact (Dev.fillFromHost_congr hcrn hsrc).trans hf
  · exact (Dev.serveOnHost_congr hcrn hsrc (Dev.get_blockFault_ne _ _ _ _ (by decide) (by decide))).trans hs

/-- What a view shows of the link. -/
def Dev.putLink (x g l c : Bool) (v : Nat) (d : Dev) : Dev :=
  d |>.putB (Reg.HP_LINK.CXL v) c |>.putB (Reg.HP_LINK.LATOPT v) l |>.put (Reg.HP_LINK.WIDTH v) (if x then 2 else 1)
    |>.put (Reg.HP_LINK.SPEED v) (if g then 2 else 1)

/-- What waited for the link leaves in order. -/
theorem Dev.hostLinkUp_reset {x g l c : Bool} {d : Dev} (h : d.mod.perst = false) :
    let e := d.hostLinkUp x g l c
    e.linkUp = true ∧ e.linkWait = [] ∧ e.out = d.out ++ d.linkWait := by
  dsimp only
  unfold Dev.hostLinkUp
  rw [h]
  dsimp only
  rw [if_neg Bool.false_ne_true]
  generalize hregs : (List.range 16).foldl _ d = d1
  have hout : d1.out = d.out := by
    rw [← hregs]
    exact foldl_keeps (f := fun (d : Dev) (v : Nat) => d.putLink x g l c v) (p := Dev.out) (fun _ _ => rfl) (List.range 16) d
  have hall := Dev.foldl_emit (fun o : Output => o) d.linkWait { d1 with linkUp := true, linkWait := [] }
  rw [List.map_id'] at hall
  refine ⟨(congrArg Dev.linkUp hall), (congrArg Dev.linkWait hall), (congrArg Dev.out hall).trans ?_⟩
  exact congrArg (· ++ d.linkWait) hout

/-! ### MSI-X -/

/-- The vector is no longer masked and no longer pending. -/
def Dev.unmasked (k : Nat) (d : Dev) : Dev :=
  { d with msixMask := kset true d.msixMask k false, msixPend := kset false d.msixPend k false }

theorem Dev.msix_unmasked {v n : Nat} {d : Dev} (h : kget true d.msixMask (v * 64 + n) = false) :
    d.msix v n = if d.linkUp then d.emit (.msix v n) else { d with linkWait := d.linkWait ++ [.msix v n] } :=
  if_neg (by rw [h]; exact Bool.false_ne_true)

theorem Dev.msixUnmask_clear {v n : Nat} {d : Dev} (h : kget false d.msixPend (v * 64 + n) = false) :
    d.msixUnmask v n = d.unmasked (v * 64 + n) := if_neg (by rw [h]; exact Bool.false_ne_true)

theorem Dev.msixUnmask_pending {v n : Nat} {d : Dev} (h : kget false d.msixPend (v * 64 + n) = true) : d.msixUnmask v n =
    if d.linkUp then (d.unmasked (v * 64 + n)).emit (.msix v n)
    else { d.unmasked (v * 64 + n) with linkWait := d.linkWait ++ [.msix v n] } :=
  (if_pos h).trans (Dev.msix_unmasked (d := d.unmasked (v * 64 + n)) (kget_kset_self true d.msixMask (v * 64 + n) false))

/-- MSIX_UNMASK, by whether the vector was pending and whether the link is up. -/
theorem Dev.msixUnmask_facts (v n : Nat) (d : Dev) :
    let k := v * 64 + n
    let e := d.msixUnmask v n
    kget true e.msixMask k = false ∧ kget false e.msixPend k = false ∧
      (kget false d.msixPend k = false → e.out = d.out ∧ e.linkWait = d.linkWait) ∧
      (kget false d.msixPend k = true → d.linkUp = true → e.out = d.out ++ [.msix v n]) ∧
      (kget false d.msixPend k = true → d.linkUp = false → e.linkWait = d.linkWait ++ [.msix v n]) := by
  intro k e
  have hmask : kget true (kset true d.msixMask k false) k = false := kget_kset_self ..
  have hpend : kget false (kset false d.msixPend k false) k = false := kget_kset_self ..
  cases hp : kget false d.msixPend k with
  | false =>
    have he : e = d.unmasked k := Dev.msixUnmask_clear hp
    rw [he]
    exact ⟨hmask, hpend, fun _ => ⟨rfl, rfl⟩, nofun, nofun⟩
  | true =>
    have he := Dev.msixUnmask_pending hp
    cases hl : d.linkUp with
    | true =>
      have he : e = (d.unmasked k).emit (.msix v n) := he.trans (if_pos hl)
      rw [he]
      exact ⟨hmask, hpend, nofun, fun _ _ => rfl, nofun⟩
    | false =>
      have he : e = { d.unmasked k with linkWait := d.linkWait ++ [.msix v n] } :=
        he.trans (if_neg (by rw [hl]; exact Bool.false_ne_true))
      rw [he]
      exact ⟨hmask, hpend, nofun, nofun, fun _ _ => rfl⟩

/-! ### The obligation -/

/-- Settles O47: each command is read off its equation; an error is no grant, so a completion with one fails whatever it says of the
grant. -/
theorem translationAndLink : Obligations.TranslationAndLink := by
  unfold Obligations.TranslationAndLink
  refine ⟨fun b line s => ?backInvalidate, fun b line s => rfl, fun b pg w s => ?answer, fun d v pg => Dev.mem_ats_cachePage pg,
    fun b pg n s => ⟨_, rfl, fun x hx => Dev.mem_ats_invalidateRequest hx⟩, fun b s => ?retry, fun s => ?down, fun x g l c s => ?up,
    fun b n s => ⟨_, rfl, Dev.msixUnmask_facts b.toNat n.toNat s.dev⟩⟩
  case backInvalidate =>
    have hl : Leaves (.backInvalidate b line) s (s.dev.backInvalidate b.toNat line.toNat) := rfl
    refine ⟨fun h => hl.noEffect (Dev.backInvalidate_absent h), fun h => ⟨_, hl.congr (Dev.backInvalidate_held h), fun hx => ?_, rfl⟩⟩
    exact of_decide_eq_true (List.mem_filter.1 hx).2 rfl
  case answer =>
    have hc : ∀ g e, Leaves (.translationCompletion b pg w g e) s (s.dev.xlatAnswer b.toNat pg.toNat w (g && !e) e) := fun _ _ => rfl
    have ht : Leaves (.atsTimeout b pg w) s (s.dev.xlatAnswer b.toNat pg.toNat w false true) := rfl
    refine ⟨fun h => ⟨fun g e => (hc g e).noEffect (Dev.xlatAnswer_unasked h _ _), ht.noEffect (Dev.xlatAnswer_unasked h _ _)⟩, fun h => ?_⟩
    refine ⟨(hc true false).congr (Dev.xlatAnswer_asked h _ _), fun g => ?_, (hc false false).congr (Dev.xlatAnswer_asked h _ _),
      ht.congr (Dev.xlatAnswer_asked h _ _)⟩
    have herr : (g && !true) = false := Bool.and_false g
    exact (hc g true).congr ((congrArg (s.dev.xlatAnswer _ _ w · true) herr).trans (Dev.xlatAnswer_asked h _ _))
  case retry =>
    have hl : Leaves (.retry b) s (if s.dev.mod.fw then s.dev.retryCmd b.toNat else s.dev) := rfl
    refine ⟨fun h => hl.noEffect ?_, fun hf hs => ?_⟩
    · cases hf : s.dev.mod.fw with
      | false => exact if_neg Bool.false_ne_true
      | true =>
        have hs := h.resolve_left (fun h' => nomatch hf.symm.trans h')
        exact (if_pos rfl).trans (if_pos (by rw [hs]; rfl))
    · obtain ⟨o, ho⟩ := Dev.retryCmd_suspended hs
      refine ⟨_, hl.congr ((if_pos hf).trans ho), fun f hfail => Dev.mem_xlatFail_retried hfail, fun f hfail hv => ?_⟩
      have hretry := Dev.mem_xlatRetry_retried hfail hv
      exact ⟨List.mem_append_right _ hretry, hretry⟩
  case down =>
    have hl : Leaves .hostLinkDown s (s.dev.hostLinkDown s.dram) := rfl
    exact ⟨fun h => hl.noEffect (Dev.hostLinkDown_down h), fun h hu hf hs => hl.congr (Dev.hostLinkDown_unused h hu hf hs),
      fun h hu hf hs hr => hl.congr (Dev.hostLinkDown_route h hu hf hs hr), fun h => hl.congr (Dev.hostLinkDown_up h)⟩
  case up =>
    have hl : Leaves (.hostLinkUp x g l c) s (s.dev.hostLinkUp x g l c) := rfl
    exact ⟨fun h => hl.noEffect (if_pos h), fun h => ⟨_, hl, Dev.hostLinkUp_reset h⟩⟩

end Sys2Proof.Machine
end

section
/-! PROOF. DOE mailboxes and Lantern's host ring (R519, R528, R542, R543, R559 to R563). -/

namespace Sys2Proof.Machine

/-! ### DOE mailboxes -/

section Mailbox
variable {d : Dev} {k : Nat}

theorem Dev.doeServed_unready (h : d.mod.ready = false) (b : Nat) : d.doeServed b = false := by
  simp [Dev.doeServed, h]

theorem Dev.doeServed_recovery (h : d.mod.fw = false) {b : Nat} (hb : b ≠ 0) : d.doeServed b = false := by
  simp [Dev.doeServed, h, hb]

theorem Dev.getCert_served (hs : d.doeServed k = true) (hr : d.inRecovery = false) (w : Nat) : d.getCert k w =
    if 1 < w then ({ d with fresh := d.fresh + 1 } : Dev).emit (.doe k [0xFF, 1, BitVec.ofNat 8 (1 + Config.freeNat d.fresh % 2), 0])
    else d.emit (.doe k ([0x81, 1, 0, 0] ++ leBytes 4 (if w = 0 then d.sec.idCert else d.sec.aliasCert.getD {}).der.length ++
      (if w = 0 then d.sec.idCert else d.sec.aliasCert.getD {}).der)) :=
  (if_neg (by rw [hs]; exact Bool.false_ne_true)).trans (if_neg (by rw [hr]; exact Bool.false_ne_true))

theorem Dev.getCert_recovery (hs : d.doeServed k = true) (hr : d.inRecovery = true) (w : Nat) :
    d.getCert k w = d.emit (.doe k [0xFF, 1, 3, 0]) := (if_neg (by rw [hs]; exact Bool.false_ne_true)).trans (if_pos hr)

theorem Dev.getMeasurements_served (hs : d.doeServed k = true) (hr : d.inRecovery = false) (x fuses : Nat) : d.getMeasurements k x fuses =
    ({ d with fresh := d.fresh + 1 } : Dev).emit (.doe k (d.measureBody fuses k x ++
      ecdsaSign d.aliasPriv (sigNonce d.fresh) (sha384 (d.measureBody fuses k x)))) :=
  (if_neg (by rw [hs]; exact Bool.false_ne_true)).trans (if_neg (by rw [hr]; exact Bool.false_ne_true))

theorem Dev.getMeasurements_recovery (hs : d.doeServed k = true) (hr : d.inRecovery = true) (x fuses : Nat) :
    d.getMeasurements k x fuses = d.emit (.doe k [0xFF, 1, 3, 0]) := (if_neg (by rw [hs]; exact Bool.false_ne_true)).trans (if_pos hr)

/-- An attestation request that is not served gets its error byte. -/
theorem Dev.doeError_attestation (hs : d.doeServed k = true) {r : List Byte} (hv : ofLeBytes (r.take 2) = 0x1F3D) (ht : (r.getD 2 0).toNat = 1)
    (he : d.attestError (r.drop 8) ≠ 0) : d.doeError k r = d.emit (.doe k [0xFF, 1, BitVec.ofNat 8 (d.attestError (r.drop 8)), 0]) := by
  have hnot : ¬((ofLeBytes (r.take 2) = 1 ∧ (r.getD 2 0).toNat = 0) ∨ (ofLeBytes (r.take 2) = 0x1E98 ∧ (r.getD 2 0).toNat = 2)) := by omega
  exact (if_neg (by rw [hs]; exact Bool.false_ne_true)).trans ((if_neg hnot).trans ((if_pos ⟨hv, ht⟩).trans (if_neg he)))

/-- A request of another type gets the DOE error response. -/
theorem Dev.doeError_unknown (hs : d.doeServed k = true) {r : List Byte} (h1 : ofLeBytes (r.take 2) ≠ 1) (h2 : ofLeBytes (r.take 2) ≠ 0x1E98)
    (h3 : ofLeBytes (r.take 2) ≠ 0x1F3D) : d.doeError k r = d.emit (.doe k []) := by
  have hnot : ¬((ofLeBytes (r.take 2) = 1 ∧ (r.getD 2 0).toNat = 0) ∨ (ofLeBytes (r.take 2) = 0x1E98 ∧ (r.getD 2 0).toNat = 2)) := by omega
  exact (if_neg (by rw [hs]; exact Bool.false_ne_true)).trans ((if_neg hnot).trans (if_neg fun h => h3 h.1))

end Mailbox

/-- The checksum byte adds itself to the sum of the table's bytes. -/
theorem sum_cdatWith (c : Byte) : ((cdatWith c).map BitVec.toNat).sum = ((cdatWith 0).map BitVec.toNat).sum + c.toNat := by
  unfold cdatWith
  dsimp only
  generalize [0, 0] ++ leBytes 2 24 ++ [0, 0, 0, 0] ++ leBytes 8 0 ++ leBytes 8 (567 * 2 ^ 30) ++ dslbis 1 1000 380 ++ dslbis 2 1000 380 ++
    dslbis 4 1000 110 ++ dslbis 5 1000 110 ++ [4, 0] ++ leBytes 2 24 ++ [0, 1, 0, 0] ++ leBytes 8 0 ++ leBytes 8 (567 * 2 ^ 30) = body
  have hzero : (0 : Byte).toNat = 0 := rfl
  simp only [List.map_append, List.sum_append, List.map_cons, List.map_nil, List.sum_cons, List.sum_nil, hzero]
  omega

/-- The checksum byte is what the other bytes leave of 256. -/
theorem cdat_sum : (cdat.map BitVec.toNat).sum % 256 = 0 := by
  unfold cdat
  rw [sum_cdatWith, BitVec.toNat_ofNat]
  omega

/-! ### Lantern's host ring -/

theorem bitsOf_one (x i : Nat) : bitsOf x i 1 = if bitOf x i then 1 else 0 := by
  have h : (x.testBit i).toNat = x / 2 ^ i % 2 := Nat.toNat_testBit x i
  unfold bitsOf bitOf
  rw [Nat.pow_one, ← h]
  cases x.testBit i <;> rfl

/-- DBG_LTN_CTL takes a write. -/
def Dev.ltnCtl (ctl : Nat) (d : Dev) : Dev :=
  (d.putB Reg.DBG_LTN_CTL.ENABLE (bitOf ctl 0)).putB Reg.DBG_LTN_CTL.RING_EN (bitOf ctl 1)

theorem Dev.ringEnable_eq (ctl : Nat) (d : Dev) : d.ringEnable ctl =
    if bitOf ctl 1 then ((d.ltnCtl ctl).put Reg.DBG_LTN_PROD.INDEX 0).put Reg.DBG_LTN_CONS.INDEX 0 else d.ltnCtl ctl := by
  unfold Dev.ringEnable
  rw [bitsOf_one, bitsOf_one]
  rfl

theorem Dev.ltnCtl_facts (ctl : Nat) (d : Dev) :
    (d.ltnCtl ctl).is Reg.DBG_LTN_CTL.ENABLE = bitOf ctl 0 ∧ (d.ltnCtl ctl).is Reg.DBG_LTN_CTL.RING_EN = bitOf ctl 1 :=
  ⟨(Dev.is_putB_ne _ _ (by decide)).trans (Dev.is_putB_self _ _ _ (by decide)), Dev.is_putB_self _ _ _ (by decide)⟩

theorem Dev.ringEnable_facts (ctl : Nat) (d : Dev) :
    let e := d.ringEnable ctl
    e.is Reg.DBG_LTN_CTL.ENABLE = bitOf ctl 0 ∧ e.is Reg.DBG_LTN_CTL.RING_EN = bitOf ctl 1 ∧
      (bitOf ctl 1 = true → e.get Reg.DBG_LTN_PROD.INDEX = 0 ∧ e.get Reg.DBG_LTN_CONS.INDEX = 0) := by
  dsimp only
  obtain ⟨hen, hring⟩ := Dev.ltnCtl_facts ctl d
  rw [Dev.ringEnable_eq]
  cases hb : bitOf ctl 1 with
  | false =>
    rw [if_neg Bool.false_ne_true]
    exact ⟨hen, hring.trans hb, nofun⟩
  | true =>
    rw [if_pos rfl]
    refine ⟨(Dev.is_put_ne _ _ (by decide)).trans ((Dev.is_put_ne _ _ (by decide)).trans hen),
      (Dev.is_put_ne _ _ (by decide)).trans ((Dev.is_put_ne _ _ (by decide)).trans (hring.trans hb)), fun _ => ⟨?_, ?_⟩⟩
    · exact (Dev.get_put_ne _ _ (by decide)).trans (Dev.get_put_self _ _ 0)
    · exact Dev.get_put_self _ _ 0

/-- Bytes of the ring that the host has not yet read. -/
def Dev.ltnOpen (d : Dev) : Nat := (d.get Reg.DBG_LTN_PROD.INDEX + 2 ^ 32 - d.get Reg.DBG_LTN_CONS.INDEX) % 2 ^ 32

/-- The ring has lost its oldest record. -/
def Dev.ltnDropped (rest : List LtnRec) (d : Dev) : Dev :=
  { d.count Reg.DBG_LTN_LOST.COUNT 1 with ltn := markLost rest, ltnLost := d.ltnLost || rest.isEmpty }

/-- The image of a record has gone to the ring, in two pieces where it passes the end. -/
def Dev.ltnWritten (r : LtnRec) (d : Dev) : Dev :=
  let prod := d.get Reg.DBG_LTN_PROD.INDEX
  let base := d.get Reg.DBG_LTN_BASE.ADDR * 2 ^ 12
  let n := min r.size (d.ltnSize - prod % d.ltnSize)
  let d1 := d.emit (.hostWrite 0 (base + prod % d.ltnSize) (r.image.take n))
  if n = r.size then d1 else d1.emit (.hostWrite 0 base (r.image.drop n))

/-- The record has left the queue. -/
def Dev.ltnSent (r : LtnRec) (rest : List LtnRec) (d : Dev) : Dev :=
  ({ d.ltnWritten r with ltn := rest } : Dev).put Reg.DBG_LTN_PROD.INDEX ((d.get Reg.DBG_LTN_PROD.INDEX + r.size) % 2 ^ 32)

theorem Dev.lanternRecord_eq {r : LtnRec} {rest : List LtnRec} {d : Dev} (hq : d.ltn = r :: rest) (hen : d.is Reg.DBG_LTN_CTL.RING_EN = true)
    (hl : d.linkUp = true) : d.lanternRecord = if d.ltnSize < d.ltnOpen + r.size then d.ltnDropped rest else d.ltnSent r rest := by
  have hopen : ¬((!d.is Reg.DBG_LTN_CTL.RING_EN) = true ∨ (!d.linkUp) = true) := by
    rw [hen, hl]
    exact fun h => h.elim Bool.false_ne_true Bool.false_ne_true
  unfold Dev.lanternRecord
  rw [hq]
  exact if_neg hopen

theorem Dev.lanternRecord_shut {d : Dev} (h : d.ltn = [] ∨ d.is Reg.DBG_LTN_CTL.RING_EN = false ∨ d.linkUp = false) : d.lanternRecord = d := by
  unfold Dev.lanternRecord
  cases hq : d.ltn with
  | nil => rfl
  | cons r rest =>
    refine if_pos ((h.resolve_left ?_).imp (fun h => ?_) (fun h => ?_))
    · rw [hq]
      exact List.cons_ne_nil r rest
    · rw [h]; rfl
    · rw [h]; rfl

theorem Dev.out_ltnWritten {r : LtnRec} {d : Dev} (h : d.get Reg.DBG_LTN_PROD.INDEX % d.ltnSize + r.size ≤ d.ltnSize) :
    (d.ltnWritten r).out = d.out ++ [.hostWrite 0 (d.get Reg.DBG_LTN_BASE.ADDR * 2 ^ 12 + d.get Reg.DBG_LTN_PROD.INDEX % d.ltnSize)
      (r.image.take r.size)] := by
  have hn : min r.size (d.ltnSize - d.get Reg.DBG_LTN_PROD.INDEX % d.ltnSize) = r.size := Nat.min_eq_left (by omega)
  unfold Dev.ltnWritten
  dsimp only
  rw [hn, if_pos rfl]
  rfl

theorem Dev.ltnSent_facts (r : LtnRec) (rest : List LtnRec) (d : Dev) :
    let e := d.ltnSent r rest
    e.ltn = rest ∧ e.get Reg.DBG_LTN_PROD.INDEX = (d.get Reg.DBG_LTN_PROD.INDEX + r.size) % 2 ^ 32 ∧ e.out = (d.ltnWritten r).out :=
  ⟨rfl, (Dev.get_put_self _ _ _).trans (Nat.mod_mod_of_dvd _ (Nat.dvd_refl _)), rfl⟩

theorem Dev.ltnDropped_facts (rest : List LtnRec) (d : Dev) :
    let e := d.ltnDropped rest
    e.out = d.out ∧ e.get Reg.DBG_LTN_LOST.COUNT = min (d.get Reg.DBG_LTN_LOST.COUNT + 1) (2 ^ 32 - 1) ∧
      e.get Reg.DBG_LTN_PROD.INDEX = d.get Reg.DBG_LTN_PROD.INDEX :=
  ⟨rfl, Dev.get_count_self d Reg.DBG_LTN_LOST.COUNT 1, Dev.get_count_ne d 1 (by decide)⟩

/-! ### The obligation -/

/-- Settles O48: a mailbox's answer is read off the equation of its request; the ring's commands off theirs. -/
theorem doeAndLantern : Obligations.DoeAndLantern := by
  unfold Obligations.DoeAndLantern
  refine ⟨fun b s => ?mailbox, cdat_sum, fun d => ⟨d.doeServed_unready, fun h b => d.doeServed_recovery h⟩, fun b c s => ?enable, fun s => ?record⟩
  case mailbox =>
    have hd : Leaves (.doeDiscovery b) s (s.dev.doeDiscovery b.toNat) := rfl
    have ht : Leaves (.tableAccess b) s (s.dev.tableAccess b.toNat) := rfl
    have hc : ∀ w, Leaves (.getCert b w) s (s.dev.getCert b.toNat w.toNat) := fun _ => rfl
    have hm : ∀ x, Leaves (.getMeasurements b x) s (s.dev.getMeasurements b.toNat x.toNat s.fuses.toNat) := fun _ => rfl
    have he : ∀ r, Leaves (.doeErrorResponse b r) s (s.dev.doeError b.toNat r) := fun _ => rfl
    refine ⟨fun hs => ?unserved, fun hs => ⟨hd.congr (if_pos hs), ht.congr (if_pos hs), fun hr => ?recovery, fun hr => ?attest, ?error, ?unknown⟩⟩
    case unserved =>
      have hno : ¬s.dev.doeServed b.toNat = true := Bool.eq_false_iff.1 hs
      have hyes : (!s.dev.doeServed b.toNat) = true := by rw [hs]; rfl
      exact ⟨hd.noEffect (if_neg hno), ht.noEffect (if_neg hno), fun w => (hc w).noEffect (if_pos hyes), fun x => (hm x).noEffect (if_pos hyes),
        fun r => (he r).noEffect (if_pos hyes)⟩
    case recovery => exact ⟨fun w => (hc w).congr (Dev.getCert_recovery hs hr _), fun x => (hm x).congr (Dev.getMeasurements_recovery hs hr _ _)⟩
    case attest =>
      refine ⟨fun w hw => ?_, fun w hw => ?_, fun x => (hm x).congr (Dev.getMeasurements_served hs hr _ _)⟩
      · refine ⟨1 + Config.freeNat s.dev.fresh % 2, by omega, _, (hc w).congr ((Dev.getCert_served hs hr _).trans (if_pos hw)), rfl⟩
      · have hzero : (w = 0#8) = (w.toNat = 0) := propext ⟨fun h => by rw [h]; rfl, fun h => BitVec.eq_of_toNat_eq h⟩
        refine (hc w).congr ((Dev.getCert_served hs hr _).trans ((if_neg (Nat.not_lt.2 hw)).trans ?_))
        simp only [hzero]
    case error => exact fun r hv ht hr => (he r).congr (Dev.doeError_attestation hs hv ht hr)
    case unknown => exact fun r h1 h2 h3 => (he r).congr (Dev.doeError_unknown hs h1 h2 h3)
  case enable =>
    have hl : Leaves (.lanternRingEnable b c) s (s.dev.byZero b.toNat fun d => d.ringEnable c.toNat) := rfl
    exact ⟨fun h => hl.noEffect (Dev.byZero_other h), fun h => ⟨_, hl.congr (Dev.byZero_zero h), Dev.ringEnable_facts c.toNat s.dev⟩⟩
  case record =>
    have hl : Leaves .lanternRecord s s.dev.lanternRecord := rfl
    refine ⟨fun h => hl.noEffect (Dev.lanternRecord_shut h), fun r rest hq hen hup => ⟨fun hroom => ?_, fun hfull => ?_⟩⟩
    · obtain ⟨hrest, hprod, hout⟩ := Dev.ltnSent_facts r rest s.dev
      exact ⟨_, hl.congr ((Dev.lanternRecord_eq hq hen hup).trans (if_neg (Nat.not_lt.2 hroom))), hrest, hprod,
        fun hfit => hout.trans (Dev.out_ltnWritten hfit)⟩
    · exact ⟨_, hl.congr ((Dev.lanternRecord_eq hq hen hup).trans (if_pos hfull)), Dev.ltnDropped_facts rest s.dev⟩

end Sys2Proof.Machine
end

section
/-! PROOF. Security faults and firmware images (R525 to R531, R546). -/

namespace Sys2Proof.Machine

/-! ### Security faults -/

/-- The registers in which a security fault shows, without its report. -/
def Dev.faultShown (c : Nat) (d : Dev) : Dev :=
  (if d.is Reg.SEC_EVENT.ERROR then d else d.put Reg.SEC_ERR.CODE c).setBit Reg.SEC_EVENT.ERROR

/-- The fields that a security fault may change. -/
def faultFields : List Fld := [Reg.SEC_ERR.CODE, Reg.SEC_EVENT.ERROR, Reg.DBG_LTN_LOST.COUNT, Reg.DBG_LTN_FAULTS.COUNT]

theorem Dev.secFault_eq (c : Nat) (d : Dev) : d.secFault c =
    if d.mod.fw then (d.faultShown c).blockFault noOwner c (!d.is Reg.SEC_EVENT.ERROR) else (d.faultShown c).emit (.bootLine 0 c) := rfl

/-- A security fault reports what it has shown. -/
theorem Dev.get_secFault_shown (c : Nat) (d : Dev) {F : Fld} (h1 : F.key ≠ Reg.DBG_LTN_LOST.COUNT.key) (h2 : F.key ≠ Reg.DBG_LTN_FAULTS.COUNT.key) :
    (d.secFault c).get F = (d.faultShown c).get F := by
  rw [Dev.secFault_eq]
  cases d.mod.fw with
  | false => rfl
  | true => exact Dev.get_blockFault_ne _ _ _ _ h1 h2

theorem Dev.is_secFault_error (c : Nat) (d : Dev) : (d.secFault c).is Reg.SEC_EVENT.ERROR = true :=
  (Dev.is_of_get (Dev.get_secFault_shown c d (by decide) (by decide))).trans (Dev.is_setBit_self _ _ (by decide))

theorem Dev.code_secFault (c : Nat) (d : Dev) :
    (d.secFault c).get Reg.SEC_ERR.CODE = if d.is Reg.SEC_EVENT.ERROR then d.get Reg.SEC_ERR.CODE else c % 2 ^ 16 := by
  refine (Dev.get_secFault_shown c d (by decide) (by decide)).trans ((Dev.get_setBit_ne _ (by decide)).trans ?_)
  cases d.is Reg.SEC_EVENT.ERROR with
  | false => exact Dev.get_put_self d _ c
  | true => rfl

theorem Dev.get_secFault_ne (c : Nat) (d : Dev) {F : Fld} (h : ∀ G ∈ faultFields, F.key ≠ G.key) : (d.secFault c).get F = d.get F := by
  refine (Dev.get_secFault_shown c d (h _ (by simp [faultFields])) (h _ (by simp [faultFields]))).trans ?_
  refine (Dev.get_setBit_ne _ (h _ (by simp [faultFields]))).trans ?_
  cases d.is Reg.SEC_EVENT.ERROR with
  | false => exact Dev.get_put_ne d c (h _ (by simp [faultFields]))
  | true => rfl

theorem Dev.sec_secFault (c : Nat) (d : Dev) : (d.secFault c).sec = d.sec := by
  have hshown : (d.faultShown c).sec = d.sec := by
    refine (Dev.sec_setBit _ _).trans ?_
    cases d.is Reg.SEC_EVENT.ERROR <;> rfl
  rw [Dev.secFault_eq]
  cases d.mod.fw with
  | false => exact hshown
  | true => exact (congrArg Dev.sec (Dev.rest_blockFault _ _ _ _) :).trans hshown

/-! ### The checks of an image -/

theorem imageOk_checks {f : Nat} {bs : List Byte} (h : imageOk f bs = true) :
    imgNat bs 0 4 = 0x57464B52 ∧ imgNat bs 4 2 = 1 ∧ bs.length = 4096 + imgNat bs 0x00C 4 ∧ bs.length ≤ 8388608 ∧ imgNat bs 0x006 1 ≤ 1 ∧
      f.testBit (832 + imgNat bs 0x006 1) = false ∧ svnFloor f ≤ imgNat bs 0x008 4 ∧
      ofLeBytes (sha384 ((bs.drop 0x040).take 97)) = bitsOf f (384 * imgNat bs 0x006 1) 384 ∧
      ecdsaVerify ((bs.drop 0x040).take 97) (imgDigest bs) ((bs.drop 0x100).take 96) = true := by
  simp only [imageOk, Bool.and_eq_true, beq_iff_eq, decide_eq_true_eq, Bool.not_eq_true'] at h
  obtain ⟨⟨⟨⟨⟨⟨⟨⟨hmark, hversion⟩, hfits⟩, hlength⟩, hslot⟩, hkey⟩, hhash⟩, hfloor⟩, hsig⟩ := h
  exact ⟨hmark, hversion, hlength, by omega, hslot, hkey, hfloor, hhash, hsig⟩

/-! ### RECOVER and UPDATE -/

/-- The image that recovery has staged. -/
def Dev.staged (d : Dev) : List Byte := (List.range (min 8388608 (d.get Reg.SEC_IMG_LEN.VALUE))).map fun i => kget 0#8 d.sec.staging i

theorem Dev.recoverCmd_taken {d : Dev} (hr : d.inRecovery = true) (hs : d.get Reg.SEC_STATUS.STAGE = 2) (hb : d.is Reg.SEC_STATUS.BUSY = false) :
    d.recoverCmd 0 = if d.get Reg.SEC_IMG_LEN.VALUE ≤ 8388608 && imageOk d.sec.sensed.toNat d.staged then
      (d.beginFlash d.staged true).put Reg.SEC_STATUS.STAGE 3 else d.secFault 0x0902 := by
  refine if_neg ?_
  rw [hr, hs, hb]
  decide

theorem Dev.recoverCmd_other {b : Nat} {d : Dev} (h : ¬(b = 0 ∧ d.inRecovery = true ∧ d.get Reg.SEC_STATUS.STAGE = 2 ∧ d.is Reg.SEC_STATUS.BUSY = false)) :
    d.recoverCmd b = d := by
  refine if_pos ?_
  refine Classical.byContradiction fun hno => ?_
  simp only [not_or, Classical.not_not, Bool.not_eq_true', Bool.not_eq_false, Bool.not_eq_true] at hno
  exact h hno

theorem Dev.updateCmd_taken {m : Memory} {d : Dev} (ha : d.acting 0 = some 0) (hb : d.is Reg.SEC_STATUS.BUSY = false) :
    d.updateCmd 0 m = if d.get Reg.SEC_IMG_ADDR.VALUE % 4096 == 0 && d.inSpace 0 (d.get Reg.SEC_IMG_ADDR.VALUE) (d.get Reg.SEC_IMG_LEN.VALUE) &&
        imageOk d.sec.sensed.toNat (d.memBytes m (d.get Reg.SEC_IMG_ADDR.VALUE) (d.get Reg.SEC_IMG_LEN.VALUE)) then
      d.beginFlash (d.memBytes m (d.get Reg.SEC_IMG_ADDR.VALUE) (d.get Reg.SEC_IMG_LEN.VALUE)) false else d.secFault 0x0902 := by
  refine if_neg ?_
  rw [ha, hb]
  decide

theorem Dev.updateCmd_other {b : Nat} {m : Memory} {d : Dev} (h : ¬(b = 0 ∧ d.acting b = some 0 ∧ d.is Reg.SEC_STATUS.BUSY = false)) :
    d.updateCmd b m = d := by
  refine if_pos ?_
  refine Classical.byContradiction fun hno => ?_
  simp only [not_or, Classical.not_not, Bool.not_eq_true] at hno
  obtain ⟨hact, hzero, hbusy⟩ := hno
  exact h ⟨hzero, hact, hbusy⟩

theorem Dev.beginFlash_facts (bs : List Byte) (r : Bool) (d : Dev) :
    let e := d.beginFlash bs r
    e.sec.flashJob = some (bs, r) ∧ e.is Reg.SEC_STATUS.BUSY = true ∧ e.get Reg.SEC_STATUS.STAGE = d.get Reg.SEC_STATUS.STAGE :=
  ⟨rfl, Dev.is_put_one _ _ (by decide), Dev.get_put_ne _ _ (by decide)⟩

/-! ### The end of programming -/

/-- The flash holds the image; the command has not yet answered. -/
def Dev.flashed (j : List Byte × Bool) (equal : Bool) (d : Dev) : Dev :=
  let d1 := ({ d with sec := { d.sec with flashJob := none, flash := flashOf j.1, flashBroken := !equal } } : Dev).put Reg.SEC_STATUS.BUSY 0
  if j.2 then d1.put Reg.SEC_STATUS.STAGE (if equal then 4 else 2) else d1

theorem Dev.flashDone_eq {d : Dev} {j : List Byte × Bool} (h : d.sec.flashJob = some j) (equal : Bool) :
    d.flashDone equal = if equal then (d.flashed j equal).secDone else (d.flashed j equal).secFault 0x0902 := by
  unfold Dev.flashDone
  rw [h]
  rfl

theorem Dev.flashDone_idle {d : Dev} (h : d.sec.flashJob = none) (equal : Bool) : d.flashDone equal = d := by
  unfold Dev.flashDone
  rw [h]

theorem Dev.flashed_facts (j : List Byte × Bool) (equal : Bool) (d : Dev) :
    let e := d.flashed j equal
    e.sec = { d.sec with flashJob := none, flash := flashOf j.1, flashBroken := !equal } ∧ e.is Reg.SEC_STATUS.BUSY = false ∧
      (j.2 = true → e.get Reg.SEC_STATUS.STAGE = if equal then 4 else 2) := by
  intro e
  have hbusy : ∀ d : Dev, (d.put Reg.SEC_STATUS.BUSY 0).is Reg.SEC_STATUS.BUSY = false := fun d => Dev.is_put_zero d Reg.SEC_STATUS.BUSY (by decide)
  cases hj : j.2 with
  | false =>
    have he : e = ({ d with sec := { d.sec with flashJob := none, flash := flashOf j.1, flashBroken := !equal } } : Dev).put Reg.SEC_STATUS.BUSY 0 :=
      if_neg (by rw [hj]; exact Bool.false_ne_true)
    rw [he]
    exact ⟨rfl, hbusy _, nofun⟩
  | true =>
    have he : e = (({ d with sec := { d.sec with flashJob := none, flash := flashOf j.1, flashBroken := !equal } } : Dev).put
        Reg.SEC_STATUS.BUSY 0).put Reg.SEC_STATUS.STAGE (if equal then 4 else 2) := if_pos hj
    rw [he]
    refine ⟨rfl, (Dev.is_put_ne _ _ (by decide)).trans (hbusy _), fun _ => (Dev.get_put_self _ _ _).trans ?_⟩
    cases equal <;> rfl

/-- The answer of the command leaves the flash and STATUS as they are. -/
theorem Dev.flashDone_facts {d : Dev} {j : List Byte × Bool} (h : d.sec.flashJob = some j) (equal : Bool) :
    let e := d.flashDone equal
    e.sec = (d.flashed j equal).sec ∧ e.get Reg.SEC_STATUS.BUSY = (d.flashed j equal).get Reg.SEC_STATUS.BUSY ∧
      e.get Reg.SEC_STATUS.STAGE = (d.flashed j equal).get Reg.SEC_STATUS.STAGE ∧ (equal = true → e.is Reg.SEC_EVENT.DONE = true) ∧
      (equal = false → e.is Reg.SEC_EVENT.ERROR = true) := by
  dsimp only
  rw [Dev.flashDone_eq h]
  cases equal with
  | true =>
    exact ⟨Dev.sec_setBit _ _, Dev.get_setBit_ne _ (by decide), Dev.get_setBit_ne _ (by decide), fun _ => Dev.is_setBit_self _ _ (by decide), nofun⟩
  | false =>
    exact ⟨Dev.sec_secFault _ _, Dev.get_secFault_ne _ _ (by decide), Dev.get_secFault_ne _ _ (by decide), nofun,
      fun _ => Dev.is_secFault_error _ _⟩

/-! ### The obligation -/

/-- Settles O49: RECOVER and UPDATE by whether they may run and whether the image is good; the end of programming by its comparison. -/
theorem firmwareImages : Obligations.FirmwareImages := by
  unfold Obligations.FirmwareImages
  refine ⟨fun b s => ?recover, fun b s => ?update, fun eq s => ?done, fun f bs => imageOk_checks, fun d c => ⟨d.is_secFault_error c, d.code_secFault c⟩⟩
  case recover =>
    have hl : Leaves (.recover b) s (s.dev.recoverCmd b.toNat) := rfl
    refine ⟨fun h => hl.noEffect (Dev.recoverCmd_other fun ⟨hb, hmay⟩ => h ⟨BitVec.eq_of_toNat_eq hb, hmay⟩), ?_, ?_⟩
    · rintro ⟨rfl, hr, hs, hb⟩ hbad
      exact hl.congr ((Dev.recoverCmd_taken hr hs hb).trans (if_neg fun h => hbad ((Bool.and_eq_true_iff.1 h).imp_left of_decide_eq_true)))
    · rintro ⟨rfl, hr, hs, hb⟩ hgood
      have heq := (Dev.recoverCmd_taken hr hs hb).trans (if_pos (Bool.and_eq_true_iff.2 (hgood.imp_left decide_eq_true)))
      obtain ⟨hjob, hbusy, -⟩ := Dev.beginFlash_facts s.dev.staged true s.dev
      exact ⟨_, hl.congr heq, hjob, Dev.get_put_self _ _ 3, (Dev.is_put_ne _ _ (by decide)).trans hbusy⟩
  case update =>
    have hl : Leaves (.update b) s (s.dev.updateCmd b.toNat s.dram) := rfl
    refine ⟨fun h => hl.noEffect (Dev.updateCmd_other fun ⟨hb, hmay⟩ => h ⟨BitVec.eq_of_toNat_eq hb, hmay⟩), ?_, ?_⟩
    · rintro ⟨rfl, ha, hb⟩ hbad
      refine hl.congr ((Dev.updateCmd_taken ha hb).trans (if_neg fun h => hbad ?_))
      simpa only [Bool.and_eq_true, beq_iff_eq, and_assoc] using h
    · rintro ⟨rfl, ha, hb⟩ hgood
      have heq := (Dev.updateCmd_taken ha hb).trans (if_pos (by simpa only [Bool.and_eq_true, beq_iff_eq, and_assoc] using hgood))
      exact ⟨_, hl.congr heq, Dev.beginFlash_facts _ false s.dev⟩
  case done =>
    have hl : Leaves (.flashProgramDone eq) s (s.dev.flashDone eq) := rfl
    refine ⟨fun h => hl.noEffect (Dev.flashDone_idle h eq), fun j hj => ⟨_, hl, ?_⟩⟩
    obtain ⟨hsec, hbusy, hstage, hdone, herror⟩ := Dev.flashDone_facts hj eq
    obtain ⟨hsec', hbusy', hstage'⟩ := Dev.flashed_facts j eq s.dev
    have hall := hsec.trans hsec'
    exact ⟨congrArg SecSt.flashJob hall, congrArg SecSt.flash hall, congrArg SecSt.flashBroken hall, (Dev.is_of_get hbusy).trans hbusy', hdone, herror,
      fun h => hstage.trans (hstage' h)⟩

end Sys2Proof.Machine
end

section
/-! PROOF. Fuse commands and debug authorisation (R533 to R537, R545). -/

namespace Sys2Proof.Machine

/-! ### Fuse commands -/

section FuseCommand
variable {d : Dev} {b : Nat} {ok : Bool} (bits : Nat)

theorem Dev.fuseCmd_other (h : d.acting b ≠ some 0 ∨ b ≠ 0) : d.fuseCmd b ok bits = d := if_pos h

theorem Dev.fuseCmd_refused (ha : d.acting b = some 0) (hb : b = 0)
    (h : (d.running = true ∨ d.load.isSome = true ∨ d.sec.fuseJob.isSome = true ∨ d.sec.flashJob.isSome = true) ∨ ok = false) :
    d.fuseCmd b ok bits = d.secFault 0x0904 := by
  refine (if_neg (not_or.2 ⟨not_not_intro ha, not_not_intro hb⟩)).trans (if_pos ?_)
  simpa only [Bool.or_eq_true, Bool.not_eq_true', or_assoc] using h

theorem Dev.fuseCmd_begins (ha : d.acting b = some 0) (hb : b = 0)
    (h : ¬(d.running = true ∨ d.load.isSome = true ∨ d.sec.fuseJob.isSome = true ∨ d.sec.flashJob.isSome = true)) (hok : ok = true) :
    d.fuseCmd b ok bits = ({ d with sec := { d.sec with fuseJob := some (BitVec.ofNat 4096 bits) } } : Dev).put Reg.SEC_STATUS.BUSY 1 := by
  refine (if_neg (not_or.2 ⟨not_not_intro ha, not_not_intro hb⟩)).trans (if_neg fun hbusy => ?_)
  simp only [Bool.or_eq_true, Bool.not_eq_true', hok, Bool.true_eq_false, or_false, or_assoc] at hbusy
  exact h hbusy

end FuseCommand

/-- The bits of a fuse command are blown. -/
def Dev.blown (d : Dev) : Dev :=
  ((({ d with sec := { d.sec with fuseJob := none } } : Dev).put Reg.SEC_STATUS.BUSY 0).put Reg.SEC_STATUS.FUSE_PENDING 1).secDone

theorem Dev.fuseDone_idle {d : Dev} (h : d.sec.fuseJob = none) (f : BitVec 4096) : d.fuseDone = d ∧ d.fusesAfter f = f := by
  simp only [Dev.fuseDone, Dev.fusesAfter, h, and_self]

theorem Dev.fuseDone_blown {d : Dev} {bits : BitVec 4096} (h : d.sec.fuseJob = some bits) (f : BitVec 4096) :
    d.fuseDone = d.blown ∧ d.fusesAfter f = f ||| bits := by
  simp only [Dev.fuseDone, Dev.fusesAfter, h, and_true]
  rfl

theorem Dev.blown_facts (d : Dev) :
    d.blown.sec.fuseJob = none ∧ d.blown.is Reg.SEC_STATUS.BUSY = false ∧ d.blown.is Reg.SEC_STATUS.FUSE_PENDING = true ∧
      d.blown.is Reg.SEC_EVENT.DONE = true := by
  refine ⟨congrArg SecSt.fuseJob (Dev.sec_setBit _ _), ?_, ?_, Dev.is_setBit_self _ _ (by decide)⟩
  · exact (Dev.is_setBit_ne _ (by decide)).trans ((Dev.is_put_ne _ _ (by decide)).trans (Dev.is_put_zero _ _ (by decide)))
  · exact (Dev.is_setBit_ne _ (by decide)).trans (Dev.is_put_one _ _ (by decide))

/-! ### Challenges -/

/-- The words of a challenge. -/
def Dev.chalWord (mask : Nat) (owner : Bool) (d : Dev) : Nat → Nat
  | 4 => d.get Reg.GLB_SERIAL.SERIAL
  | 5 => mask + 256 * (if owner then 1 else 0)
  | i => (Config.randomBits (d.fresh + i)).toNat

/-- A challenge stands, with its bytes in SEC_CHAL. -/
def Dev.chalPut (mask : Nat) (owner : Bool) (d : Dev) : Dev :=
  (List.range 6).foldl (fun (e : Dev) k => e.put (Reg.SEC_CHAL.BYTES k) (d.chalWord mask owner k))
    { d with fresh := d.fresh + 4, sec := { d.sec with chal := some (mask, if owner then 1 else 0, d.now) } }

/-- The challenge is given. -/
def Dev.challenged (mask : Nat) (owner : Bool) (d : Dev) : Dev := ((d.chalPut mask owner).setBit Reg.SEC_EVENT.CHAL_READY).secDone

section Challenge
variable {d : Dev} {b mask : Nat} {owner : Bool}

theorem Dev.challengeCmd_other (h : d.acting b ≠ some 0 ∨ b ≠ 0 ∨ d.is Reg.SEC_STATUS.BUSY = true) : d.challengeCmd b mask owner = d := if_pos h

theorem Dev.challengeCmd_taken (ha : d.acting b = some 0) (hb : b = 0) (hbusy : d.is Reg.SEC_STATUS.BUSY = false) :
    d.challengeCmd b mask owner = if d.get Reg.SEC_STATUS.FAILS = 3 ∨ (d.evalInForce ∧ !owner) then d.secFault 0x0903
      else d.challenged mask owner := by
  refine if_neg ?_
  rw [hbusy]
  exact not_or.2 ⟨not_not_intro ha, not_or.2 ⟨not_not_intro hb, Bool.false_ne_true⟩⟩

end Challenge

theorem Dev.get_chalPut (mask : Nat) (owner : Bool) (d : Dev) {k : Nat} (h : k < 6) :
    (d.chalPut mask owner).get (Reg.SEC_CHAL.BYTES k) = d.chalWord mask owner k % 2 ^ 64 :=
  Dev.get_foldl_put Reg.SEC_CHAL.BYTES (d.chalWord mask owner) _ h fun i _ hi => by
    simp only [Fld.key, Reg.SEC_CHAL.BYTES]
    omega

theorem secChal_key_ne {k : Nat} (hk : k < 6) {F : Fld} (h : F.key < (Reg.SEC_CHAL.BYTES 0).key) : (Reg.SEC_CHAL.BYTES k).key ≠ F.key := by
  simp only [Fld.key, Reg.SEC_CHAL.BYTES] at h ⊢
  omega

theorem Dev.get_challenged (mask : Nat) (owner : Bool) (d : Dev) {k : Nat} (h : k < 6) :
    (d.challenged mask owner).get (Reg.SEC_CHAL.BYTES k) = d.chalWord mask owner k % 2 ^ 64 :=
  (Dev.get_setBit_ne _ (secChal_key_ne h (by decide))).trans
    ((Dev.get_setBit_ne _ (secChal_key_ne h (by decide))).trans (Dev.get_chalPut mask owner d h))

theorem Dev.sec_challenged (mask : Nat) (owner : Bool) (d : Dev) :
    (d.challenged mask owner).sec = { d.sec with chal := some (mask, if owner then 1 else 0, d.now) } := by
  obtain ⟨r, hr⟩ := Dev.foldl_put_eq Reg.SEC_CHAL.BYTES (d.chalWord mask owner) (List.range 6)
    { d with fresh := d.fresh + 4, sec := { d.sec with chal := some (mask, if owner then 1 else 0, d.now) } }
  have hput : (d.chalPut mask owner).sec = { d.sec with chal := some (mask, if owner then 1 else 0, d.now) } := congrArg Dev.sec hr
  exact (Dev.sec_setBit _ _).trans ((Dev.sec_setBit _ _).trans hput)

/-- What a challenge shows. -/
theorem Dev.challenged_facts (m : BitVec 8) (owner : Bool) (d : Dev) :
    let e := d.challenged m.toNat owner
    e.sec.chal = some (m.toNat, if owner then 1 else 0, d.now) ∧ e.is Reg.SEC_EVENT.CHAL_READY = true ∧ e.is Reg.SEC_EVENT.DONE = true ∧
      e.get (Reg.SEC_CHAL.BYTES 4) = d.get Reg.GLB_SERIAL.SERIAL % 2 ^ 64 ∧
      e.get (Reg.SEC_CHAL.BYTES 5) = m.toNat + (if owner then 256 else 0) ∧
      ∀ i < 4, e.get (Reg.SEC_CHAL.BYTES i) = (Config.randomBits (d.fresh + i)).toNat := by
  refine ⟨congrArg SecSt.chal (Dev.sec_challenged _ _ d), (Dev.is_setBit_ne _ (by decide)).trans (Dev.is_setBit_self _ _ (by decide)),
    Dev.is_setBit_self _ _ (by decide), Dev.get_challenged _ _ d (by decide), ?mask, fun i hi => ?random⟩
  case mask =>
    refine (Dev.get_challenged _ _ d (by decide)).trans ?_
    have hm : m.toNat < 256 := m.isLt
    have hword : d.chalWord m.toNat owner 5 = m.toNat + (if owner then 256 else 0) := by cases owner <;> rfl
    rw [hword]
    exact Nat.mod_eq_of_lt (by split <;> omega)
  case random =>
    refine (Dev.get_challenged _ _ d (by omega)).trans ?_
    have hword : d.chalWord m.toNat owner i = (Config.randomBits (d.fresh + i)).toNat := by
      unfold Dev.chalWord
      split
      · omega
      · omega
      · rfl
    rw [hword]
    exact Nat.mod_eq_of_lt (BitVec.isLt _)

/-! ### Responses -/

theorem Dev.responseOk_iff (d : Dev) : d.responseOk = true ↔ ∃ c, d.sec.chal = some c ∧ d.now ≤ c.2.2 + 60000000000 ∧
    d.fuse (if c.2.1 = 0 then 840 else 1224) 384 ≠ 0 ∧
    ofLeBytes (sha384 (d.respBytes.take 97)) = d.fuse (if c.2.1 = 0 then 840 else 1224) 384 ∧
    ecdsaVerify (d.respBytes.take 97) (sha384 d.chalBytes) ((d.respBytes.drop 97).take 96) = true := by
  unfold Dev.responseOk
  cases d.sec.chal with
  | none => exact ⟨nofun, fun ⟨_, h, _⟩ => nomatch h⟩
  | some c => simp only [Bool.and_eq_true, decide_eq_true_eq, bne_iff_ne, beq_iff_eq, Option.some.injEq, exists_eq_left', and_assoc]

/-- A response that passes ends its challenge. -/
def Dev.answered (c : Nat × Nat × Nat) (d : Dev) : Dev :=
  ({ d with sec := { d.sec with chal := none, lastKey := c.2.1 + 1 } } : Dev).secDone

/-- It enables the features of the mask, where the policy lets it. -/
def Dev.enabled (c : Nat × Nat × Nat) (d : Dev) : Dev :=
  if d.mayEnable then (d.answered c).put Reg.SEC_STATUS.FEATURES (d.get Reg.SEC_STATUS.FEATURES ||| c.1 % 64) else d.answered c

section Respond
variable {d : Dev} {b : Nat}

theorem Dev.respondCmd_other (h : d.acting b ≠ some 0 ∨ b ≠ 0 ∨ d.is Reg.SEC_STATUS.BUSY = true) : d.respondCmd b = d := if_pos h

variable (ha : d.acting b = some 0) (hb : b = 0) (hbusy : d.is Reg.SEC_STATUS.BUSY = false)
include ha hb hbusy

theorem Dev.respond_mayRun : ¬(d.acting b ≠ some 0 ∨ b ≠ 0 ∨ d.is Reg.SEC_STATUS.BUSY = true) := by
  rw [hbusy]
  exact not_or.2 ⟨not_not_intro ha, not_or.2 ⟨not_not_intro hb, Bool.false_ne_true⟩⟩

theorem Dev.respondCmd_fails (h : d.responseOk = false) :
    d.respondCmd b = (d.put Reg.SEC_STATUS.FAILS (min 3 (d.get Reg.SEC_STATUS.FAILS + 1))).secFault 0x0903 :=
  (if_neg (Dev.respond_mayRun ha hb hbusy)).trans (if_neg (by rw [h]; exact Bool.false_ne_true))

theorem Dev.respondCmd_passes {c : Nat × Nat × Nat} (h : d.responseOk = true) (hc : d.sec.chal = some c) : d.respondCmd b = d.enabled c := by
  refine (if_neg (Dev.respond_mayRun ha hb hbusy)).trans ((if_pos h).trans ?_)
  rw [hc]
  rfl

end Respond

theorem Dev.enabled_facts (c : Nat × Nat × Nat) (d : Dev) :
    let e := d.enabled c
    e.sec.chal = none ∧ e.sec.lastKey = c.2.1 + 1 ∧ e.is Reg.SEC_EVENT.DONE = true ∧
      e.get Reg.SEC_STATUS.FEATURES = if d.mayEnable then (d.get Reg.SEC_STATUS.FEATURES ||| c.1 % 64) % 2 ^ Reg.SEC_STATUS.FEATURES.width
        else d.get Reg.SEC_STATUS.FEATURES := by
  have hsec : (d.answered c).sec = { d.sec with chal := none, lastKey := c.2.1 + 1 } := Dev.sec_setBit _ _
  have hdone : (d.answered c).is Reg.SEC_EVENT.DONE = true := Dev.is_setBit_self _ _ (by decide)
  dsimp only
  unfold Dev.enabled
  cases d.mayEnable with
  | false => exact ⟨congrArg SecSt.chal hsec, congrArg SecSt.lastKey hsec, hdone, Dev.get_setBit_ne _ (by decide)⟩
  | true =>
    exact ⟨congrArg SecSt.chal hsec, congrArg SecSt.lastKey hsec, (Dev.is_put_ne _ _ (by decide)).trans hdone, Dev.get_put_self _ _ _⟩

theorem Dev.mayEnable_iff (d : Dev) : d.mayEnable = true ↔ d.fuse 834 2 = 1 ∨ (d.fuse 834 2 = 0 ∧ d.evalInForce = true) := by
  simp only [Dev.mayEnable, Bool.or_eq_true, Bool.and_eq_true, beq_iff_eq]

/-! ### The obligation -/

/-- Settles O50: every command by who sends it and what stands in its way; fuse bits are joined to the array, so none is cleared. -/
theorem fusesAndDebug : Obligations.FusesAndDebug := by
  unfold Obligations.FusesAndDebug
  refine ⟨fun b k p s => ⟨rfl, rfl, rfl, rfl, rfl⟩, fun d b ok bits => ?command, fun s => ?done, fun d f i h => Dev.getLsbD_fusesAfter h,
    fun b m o s => ?challenge, fun b s => ?respond, fun d => ⟨d.responseOk_iff, d.mayEnable_iff⟩⟩
  case command =>
    refine ⟨Dev.fuseCmd_other bits, Dev.fuseCmd_refused bits, fun ha hb hfree hok => ?_⟩
    rw [Dev.fuseCmd_begins bits ha hb hfree hok]
    exact ⟨rfl, Dev.is_put_one _ _ (by decide)⟩
  case done =>
    have hl : exec .fuseProgramDone s = .next { s with dev := s.dev.fuseDone, fuses := s.dev.fusesAfter s.fuses } := rfl
    refine ⟨fun h => ?_, fun bits h => ?_⟩
    · obtain ⟨hdev, hfuses⟩ := Dev.fuseDone_idle h s.fuses
      rw [hdev, hfuses] at hl
      exact hl
    · obtain ⟨hdev, hfuses⟩ := Dev.fuseDone_blown h s.fuses
      rw [hdev, hfuses] at hl
      exact ⟨_, hl, s.dev.blown_facts⟩
  case challenge =>
    have hl : Leaves (.challenge b m o) s (s.dev.challengeCmd b.toNat m.toNat o) := rfl
    have hzero : b = 0#4 ↔ b.toNat = 0 := ⟨fun h => by rw [h]; rfl, fun h => BitVec.eq_of_toNat_eq h⟩
    have hbar : (s.dev.get Reg.SEC_STATUS.FAILS = 3 ∨ (s.dev.evalInForce = true ∧ o = false)) ↔
        (s.dev.get Reg.SEC_STATUS.FAILS = 3 ∨ (s.dev.evalInForce ∧ !o)) := by
      rw [Bool.not_eq_true']
    refine ⟨fun h => hl.noEffect (Dev.challengeCmd_other (h.imp_right (Or.imp_left (mt hzero.2)))), fun ha hb hbusy => ?_⟩
    have heq := Dev.challengeCmd_taken (mask := m.toNat) (owner := o) ha (hzero.1 hb) hbusy
    exact ⟨fun h => hl.congr (heq.trans (if_pos (hbar.1 h))), fun h => ⟨_, hl.congr (heq.trans (if_neg (mt hbar.2 h))), Dev.challenged_facts m o s.dev⟩⟩
  case respond =>
    have hl : Leaves (.respond b) s (s.dev.respondCmd b.toNat) := rfl
    have hzero : b = 0#4 ↔ b.toNat = 0 := ⟨fun h => by rw [h]; rfl, fun h => BitVec.eq_of_toNat_eq h⟩
    refine ⟨fun h => hl.noEffect (Dev.respondCmd_other (h.imp_right (Or.imp_left (mt hzero.2)))), fun ha hb hbusy => ⟨fun h => ?_, fun h => ?_⟩⟩
    · exact hl.congr (Dev.respondCmd_fails ha (hzero.1 hb) hbusy h)
    · obtain ⟨c, hc, -⟩ := s.dev.responseOk_iff.1 h
      exact ⟨c, hc, _, hl.congr (Dev.respondCmd_passes ha (hzero.1 hb) hbusy h hc), Dev.enabled_facts c s.dev⟩

end Sys2Proof.Machine
end

section
/-! PROOF. Boot: fuses, the self-test, the image in flash, recovery, the alias certificate, DRAM training (R526 to R545, R590). -/

namespace Sys2Proof.Machine

/-! ### The release of PERST# -/

section Release
variable {d : Dev} {ok : Bool} {fuses : BitVec 4096}

/-- The fuses of a powered module are sensed. -/
def Dev.sensed (fuses : BitVec 4096) (d : Dev) : Dev :=
  ((({ d with mod := { d.mod with perst := false } } : Dev).emit (.bootLine 1 0)).senseFuses fuses)

theorem Dev.perstRelease_released (h : d.mod.perst = false) : d.perstRelease ok fuses = d := if_pos (by rw [h]; rfl)

theorem Dev.perstRelease_unpowered (h : d.mod.perst = true) (hp : d.pwrgd = false) :
    d.perstRelease ok fuses = { d with mod := { d.mod with perst := false } } :=
  (if_neg (by rw [h]; exact Bool.false_ne_true)).trans (if_pos (by rw [hp]; rfl))

theorem Dev.perstRelease_powered (h : d.mod.perst = true) (hp : d.pwrgd = true) : d.perstRelease ok fuses =
    if !ok then (d.sensed fuses).secFault 0x0901
    else if (d.sensed fuses).flashOk then ((d.sensed fuses).emit (.bootLine 3 0)).bootImage
    else ((d.sensed fuses).emit (.bootLine 3 1)).enterRecovery :=
  (if_neg (by rw [h]; exact Bool.false_ne_true)).trans (if_neg (by rw [hp]; exact Bool.false_ne_true))

/-- Only a boot in the evaluated configuration blows fuses. -/
theorem Dev.bootFuses_kept (h : bitOf fuses.toNat 836 = false ∨ ok = false ∨ d.mod.perst = false) : d.bootFuses ok fuses = fuses := by
  refine if_neg fun hall => ?_
  simp only [Bool.and_eq_true] at hall
  obtain ⟨⟨⟨⟨hperst, -⟩, hok⟩, -⟩, heval⟩ := hall
  rcases h with h | h | h
  · exact Bool.false_ne_true (h.symm.trans heval)
  · exact Bool.false_ne_true (h.symm.trans hok)
  · exact Bool.false_ne_true (h.symm.trans hperst)

end Release

/-! ### An image that boots -/

/-- The image's digest and slot are held; the firmware runs. -/
def Dev.bootHeld (d : Dev) : Dev :=
  { d with sec := { d.sec with m1 := BitVec.ofNat 384 (ofLeBytes (imgDigest d.flashImage)), slot := imgNat d.flashImage 0x006 1 },
           mod := { d.mod with fw := true, ready := true, dramRails := true },
           pwr := { d.pwr with idleSince := some d.now } }

/-- The security registers of a boot. -/
def Dev.bootRegs (d : Dev) : Dev :=
  d.bootHeld |>.put Reg.SEC_STATUS.STAGE 1 |>.put Reg.SEC_SVN.RUNNING (imgNat d.flashImage 0x008 4 % 256)
    |>.put Reg.SEC_STATUS.FEATURES (if d.fuse 834 2 == 0 && !d.evalInForce then 0x3F else 0)

/-- Every view is its own binding. -/
def Dev.bootViews (d : Dev) : Dev := (List.range 16).foldl (fun (d : Dev) v => d.put (Reg.HP_VIEW.BINDING v) v) d.bootRegs

theorem Dev.bootImage_eq (d : Dev) : d.bootImage = d.bootViews.issueAlias := rfl

theorem Dev.sec_bootHeld (d : Dev) : d.bootHeld.sec =
    { d.sec with m1 := BitVec.ofNat 384 (ofLeBytes (imgDigest d.flashImage)), slot := imgNat d.flashImage 0x006 1 } := rfl

theorem Dev.mod_bootHeld (d : Dev) : d.bootHeld.mod = { d.mod with fw := true, ready := true, dramRails := true } := rfl

theorem Dev.sec_bootViews (d : Dev) : d.bootViews.sec = d.bootHeld.sec :=
  foldl_keeps (f := fun (d : Dev) (v : Nat) => d.put (Reg.HP_VIEW.BINDING v) v) (p := Dev.sec) (fun _ _ => rfl) (List.range 16) d.bootRegs

theorem Dev.mod_bootViews (d : Dev) : d.bootViews.mod = d.bootHeld.mod :=
  foldl_keeps (f := fun (d : Dev) (v : Nat) => d.put (Reg.HP_VIEW.BINDING v) v) (p := Dev.mod) (fun _ _ => rfl) (List.range 16) d.bootRegs

theorem Dev.sensed_bootViews (d : Dev) : d.bootViews.sec.sensed = d.sec.sensed := by
  rw [d.sec_bootViews, d.sec_bootHeld]

theorem Dev.fuse_bootViews (d : Dev) (lo n : Nat) : d.bootViews.fuse lo n = d.fuse lo n := by
  unfold Dev.fuse
  rw [d.sensed_bootViews]

theorem hpView_key_ne {F : Fld} (h : F.key < (Reg.HP_VIEW.BINDING 0).key) (v : Nat) : F.key ≠ (Reg.HP_VIEW.BINDING v).key := by
  simp only [Fld.key, Reg.HP_VIEW.BINDING] at h ⊢
  omega

theorem Dev.get_bootViews_ne (d : Dev) {F : Fld} (h : F.key < (Reg.HP_VIEW.BINDING 0).key) : d.bootViews.get F = d.bootRegs.get F :=
  Dev.get_foldl_put_ne Reg.HP_VIEW.BINDING (fun v => v) d.bootRegs 16 fun v _ => hpView_key_ne h v

theorem Dev.stage_bootViews (d : Dev) : d.bootViews.get Reg.SEC_STATUS.STAGE = 1 :=
  (d.get_bootViews_ne (by decide)).trans ((Dev.get_put_ne _ _ (by decide)).trans ((Dev.get_put_ne _ _ (by decide)).trans (Dev.get_put_self _ _ 1)))

theorem Dev.running_bootViews (d : Dev) : d.bootViews.get Reg.SEC_SVN.RUNNING = imgNat d.flashImage 0x008 4 % 256 :=
  (d.get_bootViews_ne (by decide)).trans ((Dev.get_put_ne _ _ (by decide)).trans ((Dev.get_put_self _ _ _).trans
    (Nat.mod_mod_of_dvd _ (Nat.dvd_refl 256))))

theorem Dev.features_bootViews (d : Dev) :
    d.bootViews.get Reg.SEC_STATUS.FEATURES = if d.fuse 834 2 = 0 ∧ d.evalInForce = false then 0x3F else 0 := by
  have hopen : (d.fuse 834 2 == 0 && !d.evalInForce) = true ↔ d.fuse 834 2 = 0 ∧ d.evalInForce = false := by
    rw [Bool.and_eq_true, beq_iff_eq, Bool.not_eq_true']
  refine (d.get_bootViews_ne (by decide)).trans ((Dev.get_put_self _ _ _).trans ?_)
  simp only [hopen]
  split <;> rfl

theorem Dev.binding_bootViews (d : Dev) (v : Fin 16) : d.bootViews.get (Reg.HP_VIEW.BINDING v) = v := by
  refine (Dev.get_foldl_put Reg.HP_VIEW.BINDING (fun v => v) d.bootRegs v.isLt fun i _ hi => ?_).trans (Nat.mod_eq_of_lt v.isLt)
  simp only [Fld.key, Reg.HP_VIEW.BINDING]
  omega

/-- The alias certificate: its key is the alias key's, its extension what boot measured, its signature the DIK's. -/
theorem Dev.issueAlias_facts (d : Dev) :
    let e := d.issueAlias
    ∃ c : Cert, e.sec.aliasCert = some c ∧ c.key = publicOf e.aliasPriv ∧ c.serial = d.fuse 1864 64 ∧
      c.ext = leBytes 48 Config.bootRomDigest.toNat ++ leBytes 48 e.sec.m1.toNat ++ leBytes 4 (e.get Reg.SEC_SVN.RUNNING) ++
        [BitVec.ofNat 8 (d.fuse 834 2), BitVec.ofNat 8 (d.fuse 836 1)] ∧
      ∃ n, c.sig = ecdsaSign (dikOf (secretOf d.sec.sensed.toNat)) n (sha384 (Config.certBody c.key c.serial c.ext)) :=
  ⟨_, rfl, rfl, rfl, rfl, _, rfl⟩

theorem Dev.slot_issueAlias (d : Dev) : d.issueAlias.sec.slot = d.sec.slot := rfl

theorem Dev.mod_issueAlias (d : Dev) : d.issueAlias.mod = d.mod := rfl

theorem Dev.get_issueAlias (d : Dev) (F : Fld) : d.issueAlias.get F = d.get F := rfl

theorem Dev.m1_issueAlias (d : Dev) : d.issueAlias.sec.m1 = d.sec.m1 := rfl

theorem Dev.bootImage_facts (d : Dev) :
    let e := d.bootImage
    e.mod.fw = true ∧ e.mod.ready = true ∧ e.mod.dramRails = true ∧ e.mod.trained = d.mod.trained ∧ e.get Reg.SEC_STATUS.STAGE = 1 ∧
      e.get Reg.SEC_SVN.RUNNING = imgNat d.flashImage 0x008 4 % 256 ∧ e.sec.slot = imgNat d.flashImage 0x006 1 ∧
      e.sec.m1.toNat = ofLeBytes (imgDigest d.flashImage) % 2 ^ 384 ∧
      e.get Reg.SEC_STATUS.FEATURES = (if d.fuse 834 2 = 0 ∧ d.evalInForce = false then 0x3F else 0) ∧
      (∀ v : Fin 16, e.get (Reg.HP_VIEW.BINDING v) = v) := by
  dsimp only
  rw [Dev.bootImage_eq]
  simp only [Dev.mod_issueAlias, Dev.mod_bootViews, Dev.mod_bootHeld, Dev.get_issueAlias, Dev.slot_issueAlias, Dev.m1_issueAlias,
    Dev.sec_bootViews, Dev.sec_bootHeld, Dev.stage_bootViews, Dev.running_bootViews, Dev.features_bootViews, Dev.binding_bootViews,
    BitVec.toNat_ofNat, implies_true, and_self]

/-! ### The obligation -/

/-- Settles O52: a release is read off by what stands in its way; a boot writes its registers, then the certificate. -/
theorem boot : Obligations.Boot := by
  unfold Obligations.Boot
  refine ⟨fun ok s => ?release, fun d f i ok => ⟨fun h => Dev.getLsbD_bootFuses h ok, Dev.bootFuses_kept⟩, fun d => ?image,
    fun d => ⟨rfl, rfl, Dev.get_put_self _ _ 2, fun F hF => Dev.get_put_ne _ _ hF⟩, fun s => ?training⟩
  case release =>
    have hl : exec (.perstRelease ok) s = .next { s with dev := s.dev.perstRelease ok s.fuses, fuses := s.dev.bootFuses ok s.fuses } := rfl
    have hnext : ∀ e, s.dev.perstRelease ok s.fuses = e →
        exec (.perstRelease ok) s = .next { s with dev := e, fuses := s.dev.bootFuses ok s.fuses } := fun _ h => h ▸ hl
    refine ⟨fun h => hnext _ (Dev.perstRelease_released h), fun h hp => hnext _ (Dev.perstRelease_unpowered h hp), fun h hp => ?_⟩
    have heq := Dev.perstRelease_powered (ok := ok) (fuses := s.fuses) h hp
    refine ⟨fun hok => hnext _ (heq.trans (if_pos (by rw [hok]; rfl))), fun hok himg => hnext _ (heq.trans ?_), fun hok himg => hnext _ (heq.trans ?_)⟩
    · exact (if_neg (by rw [hok]; exact Bool.false_ne_true)).trans (if_pos himg)
    · exact (if_neg (by rw [hok]; exact Bool.false_ne_true)).trans (if_neg fun h' => Bool.false_ne_true (himg.symm.trans h'))
  case image =>
    obtain ⟨hfw, hready, hrails, htrained, hstage, hsvn, hslot, hm1, hfeat, hviews⟩ := d.bootImage_facts
    have halias := d.bootViews.issueAlias_facts
    simp only [d.fuse_bootViews, d.sensed_bootViews] at halias
    exact ⟨hfw, hready, hrails, htrained, hstage, hsvn, hslot, hm1, hfeat, hviews, halias⟩
  case training =>
    have hl : Leaves .dramTrainingDone s s.dev.trainingDone := rfl
    refine ⟨fun h => hl.noEffect (if_pos (h.imp_left fun h => by rw [h]; rfl)), fun hf ht => hl.congr (if_neg ?_)⟩
    rw [hf, ht]
    decide

end Sys2Proof.Machine
end

section
/-! PROOF. Phimon's commands (R566 to R571). -/

namespace Sys2Proof.Machine

/-! ### Access levels -/

/-- A command of level 1: nothing without the firmware. -/
theorem phimon_leaves {c : Instr} {s : State} {f : Dev → Dev} {e : Dev} (hl : Leaves c s (s.dev.phimon f)) (he : f s.dev = e) :
    (s.dev.mod.fw = false → NoEffect c s) ∧ (s.dev.mod.fw = true → Leaves c s e) :=
  ⟨fun h => hl.noEffect (if_neg (by rw [h]; exact Bool.false_ne_true)), fun h => hl.congr ((if_pos h).trans he)⟩

theorem Dev.phLevel_two (d : Dev) : d.phLevel = 2 ↔ bitOf (d.get Reg.SEC_STATUS.FEATURES) 3 = true := by
  unfold Dev.phLevel
  cases bitOf (d.get Reg.SEC_STATUS.FEATURES) 3
  · exact ⟨nofun, nofun⟩
  · exact ⟨fun _ => rfl, fun _ => rfl⟩

/-- A command of level 2: err 3 at level 1. -/
theorem phimon2_leaves {c : Instr} {s : State} {f : Dev → Dev} {e : Dev} (hl : Leaves c s (s.dev.phimon2 f)) (he : f s.dev = e) :
    (s.dev.mod.fw = false → NoEffect c s) ∧
      (s.dev.mod.fw = true → bitOf (s.dev.get Reg.SEC_STATUS.FEATURES) 3 = false → Leaves c s (s.dev.say 3 [])) ∧
      (s.dev.mod.fw = true → bitOf (s.dev.get Reg.SEC_STATUS.FEATURES) 3 = true → Leaves c s e) := by
  obtain ⟨hoff, hon⟩ := phimon_leaves hl rfl
  refine ⟨hoff, fun hf h => (hon hf).congr (if_neg fun h' => ?_), fun hf h => (hon hf).congr ((if_pos (s.dev.phLevel_two.2 h)).trans he)⟩
  exact Bool.false_ne_true (h.symm.trans (s.dev.phLevel_two.1 h'))

/-! ### What each command answers -/

theorem Dev.phRd_eq (a : Nat) (w : Bool) (d : Dev) :
    d.phRd a w = if a % (if w then 8 else 4) = 0 then d.say 0 [d.readBar0 a w] else d.say 5 [] := ite_not _ _ _

theorem Dev.phWr_eq (fuses : Nat) (m : Memory) (a : Nat) (w : Bool) (v : Nat) (d : Dev) :
    d.phWr fuses m a w v = if a % (if w then 8 else 4) = 0 then (d.mgmtWrite fuses m a w v).say 0 [] else d.say 5 [] := ite_not _ _ _

theorem Dev.phLantern_eq (k : Nat) (d : Dev) : d.phLantern k =
    if 1 ≤ k ∧ k ≤ 64 then d.say 0 ((d.ltn.drop (d.ltn.length - k)).map fun r => ofLeBytes r.image) else d.say 2 [] := by
  unfold Dev.phLantern
  by_cases h : 1 ≤ k ∧ k ≤ 64
  · exact (if_neg (by omega)).trans (if_pos h).symm
  · exact (if_pos (by omega)).trans (if_neg h).symm

theorem Dev.phBaud_eq (rate : Nat) (d : Dev) : d.phBaud rate =
    if rate ∈ [115200, 230400, 460800, 921600, 1000000, 2000000, 3000000] then { d.say 0 [] with mod := { d.mod with baud := rate } }
    else d.say 2 [] := by
  unfold Dev.phBaud
  simp only [List.contains_iff_mem]
  rfl

theorem Dev.phRead_eq (ix : Nat) (d : Dev) : d.phRead ix =
    if d.rowThere ix = false then d.say 5 [] else if d.phRow.isSome then d.say 4 [] else { d with phRow := some ix } := by
  simp only [Dev.phRead, Bool.not_eq_true']

theorem Dev.phTick_eq (n : BitVec 32) (d : Dev) : d.phTick n.toNat =
    if n = 0#32 then d.say 2 [] else if d.run.frozen then (d.unfreeze (some n.toNat)).say 0 [] else d.say 4 [] := by
  have hzero : (n.toNat = 0) = (n = 0#32) := propext ⟨fun h => BitVec.eq_of_toNat_eq h, fun h => by rw [h]; rfl⟩
  simp only [Dev.phTick, hzero]

theorem Dev.phUnknown_error (line : List Byte) (d : Dev) : ∃ err ∈ [1, 2], d.phUnknown line = d.say err [] := by
  unfold Dev.phUnknown
  dsimp only
  split
  · exact ⟨2, by decide, rfl⟩
  · exact ⟨1, by decide, rfl⟩

/-! ### The freeze -/

theorem Dev.phFreeze_refused {d : Dev} (h : ¬(d.inSegment = true ∧ d.run.frozen = false)) :
    d.phFreeze .now = d.say 4 [] ∧ ∀ x : BitVec 40, d.phFreeze (.at x) = d.say 4 [] := by
  have hno : (!d.inSegment) = true ∨ d.run.frozen = true := by
    cases hi : d.inSegment with
    | false => exact Or.inl rfl
    | true => exact Or.inr (eq_true_of_ne_false fun hf => h ⟨hi, hf⟩)
  exact ⟨if_pos hno, fun x => if_pos (hno.imp_right Or.inl)⟩

theorem Dev.phFreeze_early {d : Dev} {x : BitVec 40} (hx : x.toNat < d.run.tick + 24) : d.phFreeze (.at x) = d.say 4 [] :=
  if_pos (Or.inr (Or.inr hx))

section Freeze
variable {d : Dev} (h : d.inSegment = true ∧ d.run.frozen = false)
include h

theorem Dev.phFreeze_ready : ¬((!d.inSegment) = true ∨ d.run.frozen = true) := by
  rw [h.1, h.2]
  decide

theorem Dev.phFreeze_now : d.phFreeze .now = ({ d with run := { d.run with freezeAt := some (d.run.tick + 24) } } : Dev).say 0 [] :=
  if_neg (Dev.phFreeze_ready h)

theorem Dev.phFreeze_at {x : BitVec 40} (hx : d.run.tick + 24 ≤ x.toNat) :
    d.phFreeze (.at x) = ({ d with run := { d.run with freezeAt := some x.toNat } } : Dev).say 0 [] :=
  if_neg fun h' => Dev.phFreeze_ready h (h'.imp_right fun h' => h'.resolve_right (Nat.not_lt.2 hx))

end Freeze

theorem Dev.unfreeze_facts (n : Option Nat) (d : Dev) :
    (d.unfreeze n).run.frozen = false ∧ (d.unfreeze n).run.freezeAt = n.map (d.run.tick + 1 + ·) := by
  have hrun : (d.unfreeze n).run = { d.run with frozen := false, freezeAt := n.map (d.run.tick + 1 + ·) } := by
    unfold Dev.unfreeze
    exact congrArg Dev.run (Dev.rest_lantern _ _ _ _ _ _ _ _)
  rw [hrun]
  exact ⟨rfl, rfl⟩

/-! ### The obligation -/

/-- Settles O53: each command by the level it needs, then by its own equation. -/
theorem phimonCommands : Obligations.PhimonCommands := by
  unfold Obligations.PhimonCommands
  refine ⟨fun _ _ _ => rfl, fun a w b n k rate line s => ?level1, fun a w v b x n ix f s => ?level2, fun d => ?freeze,
    fun d n => d.unfreeze_facts n⟩
  case level1 =>
    obtain ⟨err, herr, hanswer⟩ := s.dev.phUnknown_error line
    exact ⟨phimon_leaves (f := Dev.phStatus) rfl rfl, phimon_leaves (f := Dev.phFaults) rfl rfl,
      phimon_leaves (f := Dev.phRd a.toNat w) rfl (Dev.phRd_eq _ _ _), phimon_leaves (f := Dev.phBcn b.toNat) rfl rfl,
      phimon_leaves (f := Dev.phCore n.toNat) rfl rfl, phimon_leaves (f := Dev.phLantern k) rfl (Dev.phLantern_eq _ _),
      phimon_leaves (f := fun d => d.say 0 [d.phLevel]) rfl rfl, phimon_leaves (f := Dev.phBaud rate) rfl (Dev.phBaud_eq _ _),
      err, herr, phimon_leaves (f := Dev.phUnknown line) rfl hanswer⟩
  case level2 =>
    exact ⟨phimon2_leaves (f := Dev.phWr s.fuses.toNat s.dram a.toNat w v.toNat) rfl (Dev.phWr_eq _ _ _ _ _ _),
      phimon2_leaves (f := Dev.phSignal b.toNat true x) rfl rfl, phimon2_leaves (f := Dev.phSignal b.toNat false x) rfl rfl,
      phimon2_leaves (f := Dev.phRead ix.toNat) rfl (Dev.phRead_eq _ _), phimon2_leaves (f := Dev.phFreeze f) rfl rfl,
      phimon2_leaves (f := Dev.phTick n.toNat) rfl (Dev.phTick_eq _ _), phimon2_leaves (f := Dev.phRun) rfl rfl,
      phimon2_leaves (f := Dev.phStop) rfl rfl⟩
  case freeze =>
    exact ⟨fun _ => rfl, Dev.phFreeze_refused, Dev.phFreeze_now, fun h x => ⟨Dev.phFreeze_early, Dev.phFreeze_at h⟩⟩

end Sys2Proof.Machine
end

section
/-! PROOF. The board-management SMBus and boundary scan (R534, R587, R588). -/

namespace Sys2Proof.Machine

/-! ### The SMBus -/

section Smbus
variable {c : Instr} {s : State}

/-- The sequencer answers a command while V3P3 is in regulation. -/
theorem smbus_answers {bs : List Byte} (hl : Leaves c s (s.dev.smbus bs)) :
    (0 ∈ s.dev.mod.rails → Leaves c s { s.dev with out := s.dev.out ++ [.smbus bs] }) ∧ (0 ∉ s.dev.mod.rails → NoEffect c s) :=
  ⟨fun h => hl.congr (if_pos (List.contains_iff_mem.2 h)), fun h => hl.noEffect (if_neg (mt List.contains_iff_mem.1 h))⟩

theorem smbusWrite_refused (hl : Leaves c s s.dev.smbusWrite) :
    (0 ∈ s.dev.mod.rails → Leaves c s { s.dev with out := s.dev.out ++ [.nack] }) ∧ (0 ∉ s.dev.mod.rails → NoEffect c s) :=
  ⟨fun h => hl.congr (if_pos (List.contains_iff_mem.2 h)), fun h => hl.noEffect (if_neg (mt List.contains_iff_mem.1 h))⟩

end Smbus

/-- Before the firmware runs no power sample is at hand: the reading is a free value. -/
theorem Dev.smbusPin_unsampled {d : Dev} (h : d.mod.fw = false) : d.smbusPin =
    ({ d with fresh := d.fresh + 1 } : Dev).smbus (leBytes 2 (Config.freeNat d.fresh % 2 ^ 16)) :=
  if_neg (by rw [h]; exact Bool.false_ne_true)

theorem Dev.smbus_facts (bs : List Byte) (d : Dev) :
    let e := d.smbus bs
    e.regs = d.regs ∧ e.mod = d.mod ∧ (0 ∉ d.mod.rails → e.out = d.out) ∧ (0 ∈ d.mod.rails → e.out = d.out ++ [.smbus bs]) := by
  dsimp only
  by_cases h : 0 ∈ d.mod.rails
  · rw [show d.smbus bs = d.emit (.smbus bs) from if_pos (List.contains_iff_mem.2 h)]
    exact ⟨rfl, rfl, fun h' => absurd h h', fun _ => rfl⟩
  · rw [show d.smbus bs = d from if_neg (mt List.contains_iff_mem.1 h)]
    exact ⟨rfl, rfl, fun _ => rfl, fun h' => absurd h' h⟩

/-! ### Boundary scan -/

theorem tapKnown_iff (c : BitVec 8) : tapKnown c = true ↔ c = 0xFF#8 ∨ ∃ n < 4, Config.tapCode n = c := by
  simp only [tapKnown, Bool.or_eq_true, beq_iff_eq, List.any_eq_true, List.mem_range]

section Tap
variable {d : Dev}

theorem Dev.tapPrivate_iff (c : BitVec 8) : d.tapPrivate (.shiftIR c) = true ↔
    1 ∈ d.mod.rails ∧ ¬(c = 0xFF#8 ∨ ∃ n < 4, Config.tapCode n = c) ∧ bitOf (d.get Reg.SEC_STATUS.FEATURES) 5 = true := by
  have hknown : (!tapKnown c) = true ↔ ¬(c = 0xFF#8 ∨ ∃ n < 4, Config.tapCode n = c) := by
    rw [← tapKnown_iff, Bool.not_eq_true', Bool.not_eq_true]
  simp only [Dev.tapPrivate, Bool.and_eq_true, List.contains_iff_mem, hknown, and_assoc]

theorem Dev.tapAccess_unpowered (h : 1 ∉ d.mod.rails) (op : TapOp) (f : Nat) : d.tapAccess op f = d :=
  if_pos (by rw [Bool.eq_false_iff.2 (mt List.contains_iff_mem.1 h)]; rfl)

/-- The captured pin levels. -/
def Dev.pins (d : Dev) : List Bool := (List.range 64).map fun i => bitOf (Config.freeNat d.fresh) i

/-- The TAP holds `t` and has shifted `o` out. -/
def Dev.tapPut (t : TapSt) (o : List Bool) (d : Dev) : Dev := ({ d with mod := { d.mod with tap := t } } : Dev).emit (.tap o)

variable (h : 1 ∈ d.mod.rails)
include h

theorem Dev.tap_powered : ¬(!d.mod.rails.contains 1) = true := by
  rw [List.contains_iff_mem.2 h]
  decide

theorem Dev.tapAccess_shiftIR (c : BitVec 8) (f : Nat) : d.tapAccess (.shiftIR c) f =
    ({ d with fresh := d.fresh + 1 } : Dev).tapPut { d.mod.tap with ir := c, fresh := false } ([true, false] ++ d.pins.take 6) :=
  if_neg (Dev.tap_powered h)

theorem Dev.tapAccess_shiftDR (bits : List Bool) (f : Nat) : d.tapAccess (.shiftDR bits) f =
    if d.mod.tap.fresh || d.mod.tap.ir == Config.tapCode 0 then
      d.tapPut d.mod.tap (shiftOut ((List.range 32).map fun i => bitOf (d.idcode f) i) bits)
    else if d.mod.tap.boundary then
      ({ d with fresh := d.fresh + 1 } : Dev).tapPut { d.mod.tap with cells := bits } (shiftOut d.pins bits)
    else d.tapPut d.mod.tap (shiftOut [false] bits) :=
  if_neg (Dev.tap_powered h)

end Tap

/-- IDCODE is selected after a reset and by its code. -/
theorem tap_idcode_iff (t : TapSt) : (t.fresh || t.ir == Config.tapCode 0) = true ↔ t.fresh = true ∨ t.ir = Config.tapCode 0 := by
  rw [Bool.or_eq_true, beq_iff_eq]

/-! ### The obligation -/

/-- Settles O54: the SMBus commands answer as the rail lets them; a TAP access is read off by what the TAP holds. -/
theorem smbusAndScan : Obligations.SmbusAndScan := by
  unfold Obligations.SmbusAndScan
  refine ⟨fun mv c s => ?smbus, fun _ => rfl, fun c bits s => ?scan⟩
  case smbus =>
    have hcores : Leaves .smbusCores s (s.dev.smbusCores s.fuses.toNat) := rfl
    have hpin : Leaves .smbusPin s s.dev.smbusPin := rfl
    have hwrite : Leaves (.smbusWrite c) s (if c.toNat < 256 then s.dev.smbusWrite else s.dev) := rfl
    refine ⟨smbus_answers rfl, smbus_answers rfl, fun h => smbus_answers (hcores.congr (if_pos h)), fun h => smbus_answers (hcores.congr (if_neg ?_)),
      smbus_answers rfl, fun h => smbus_answers (hpin.congr (if_pos h)), fun h => ⟨_, hpin.congr (Dev.smbusPin_unsampled h), Dev.smbus_facts _ _⟩,
      smbus_answers rfl, smbus_answers rfl, smbus_answers rfl, smbus_answers rfl, smbusWrite_refused (hwrite.congr (if_pos c.isLt))⟩
    rw [h]
    exact Bool.false_ne_true
  case scan =>
    have hdr : Leaves (.boundaryScanAccess (.shiftDR bits)) s (s.dev.tapAccess (.shiftDR bits) s.fuses.toNat) := leaves_boundaryScanAccess rfl
    refine ⟨fun h => ⟨?_, hdr.noEffect (Dev.tapAccess_unpowered h _ _)⟩, fun h => ⟨fun hk hp => ?foreign, fun hk => ?ir, fun ht => ?idcode,
      fun ht hi hb => ?bypass, fun ht hi hb => ?boundary⟩⟩
    · have hno : s.dev.tapPrivate (.shiftIR c) = false := Bool.eq_false_iff.2 fun h' => h ((Dev.tapPrivate_iff c).1 h').1
      exact (leaves_boundaryScanAccess hno).noEffect (Dev.tapAccess_unpowered h _ _)
    case foreign => exact exec_boundaryScanAccess_private ((Dev.tapPrivate_iff c).2 ⟨h, hk, hp⟩)
    case ir =>
      have hno : s.dev.tapPrivate (.shiftIR c) = false := by
        refine Bool.eq_false_iff.2 fun h' => ?_
        obtain ⟨-, hunknown, hfeature⟩ := (Dev.tapPrivate_iff c).1 h'
        exact hk.elim hunknown fun hoff => Bool.false_ne_true (hoff.symm.trans hfeature)
      refine ⟨_, (leaves_boundaryScanAccess hno).congr (Dev.tapAccess_shiftIR h c _), rfl, rfl, rfl, rfl, _, rfl, rfl, ?_⟩
      simp [Dev.pins]
    case idcode => exact hdr.congr ((Dev.tapAccess_shiftDR h bits _).trans (if_pos ((tap_idcode_iff _).2 ht)))
    case bypass =>
      have hid : ¬(s.dev.mod.tap.fresh || s.dev.mod.tap.ir == Config.tapCode 0) = true := fun h' =>
        ((tap_idcode_iff _).1 h').elim (fun h' => Bool.false_ne_true (ht.symm.trans h')) hi
      exact hdr.congr ((Dev.tapAccess_shiftDR h bits _).trans ((if_neg hid).trans (if_neg (by rw [hb]; exact Bool.false_ne_true))))
    case boundary =>
      have hid : ¬(s.dev.mod.tap.fresh || s.dev.mod.tap.ir == Config.tapCode 0) = true := fun h' =>
        ((tap_idcode_iff _).1 h').elim (fun h' => Bool.false_ne_true (ht.symm.trans h')) hi
      exact ⟨_, hdr.congr ((Dev.tapAccess_shiftDR h bits _).trans ((if_neg hid).trans (if_pos hb))), rfl, rfl⟩

end Sys2Proof.Machine
end

section
/-! PROOF. One step of the machine, and the state after power-on. -/

namespace Sys2Proof.Machine

/-! ### An idle step -/

/-- Only commands of its own or free slots make a step more than the device's. -/
theorem State.idle_plain {s : State} (h : s.dev.idleStep.2 ≠ [] ∨ (s.dev.copyNext = none ∧ s.dev.digestNext = none)) :
    s.idle = { s with dev := s.dev.idleStep.1, pending := s.dev.idleStep.2 } := by
  refine if_neg fun ⟨hnone, hslots⟩ => ?_
  rcases h with h | ⟨hcopy, hdigest⟩
  · exact h (List.isEmpty_iff.1 hnone)
  · rw [hcopy, hdigest] at hslots
    exact hslots.elim Bool.false_ne_true Bool.false_ne_true

/-- A step in which only time passes serves the copy engine and the digest engines. -/
theorem State.idle_serves {s : State} (h : s.dev.idleStep.2 = []) (hslots : s.dev.copyNext ≠ none ∨ s.dev.digestNext ≠ none) :
    let m := s.dev.idleStep.1.freeSlotsMem s.dram
    s.idle = { s with dev := (s.dev.idleStep.1.freeSlots s.dram).striped s.dram m, dram := m } :=
  if_pos ⟨List.isEmpty_iff.2 h, hslots.imp Option.isSome_iff_ne_none.2 Option.isSome_iff_ne_none.2⟩

section IdleStep
variable {d : Dev}

theorem Dev.idleStep_unpowered (h : d.pwrgd = false) : d.idleStep = (d, []) := if_pos (by rw [h]; rfl)

theorem Dev.idleStep_firmless (hp : d.pwrgd = true) (hf : d.mod.fw = false) : d.idleStep = (d.timePasses, []) :=
  (if_neg (by rw [hp]; exact Bool.false_ne_true)).trans (if_pos (by rw [hf]; rfl))

/-- What a running device does, in its order. -/
theorem Dev.idleStep_running (hp : d.pwrgd = true) (hf : d.mod.fw = true) : d.idleStep =
    let e := d.settle
    if !e.parked.isEmpty ∧ e.pwr.mr4Over.isEmpty then ({ e with parked := [] }, e.parked)
    else if !e.heldWrites.isEmpty ∧ !e.crn.waitCopy then ({ e with heldWrites := [] }, e.heldWrites)
    else if !e.dueAny.isEmpty then (e, e.dueAny)
    else if !e.dueWaits.isEmpty then (e, e.dueWaits)
    else e.phaseStep :=
  (if_neg (by rw [hp]; exact Bool.false_ne_true)).trans (if_neg (by rw [hf]; exact Bool.false_ne_true))

end IdleStep

theorem not_isEmpty_iff {α : Type} {l : List α} : (!l.isEmpty) = true ↔ l ≠ [] := by
  rw [Bool.not_eq_true', List.isEmpty_eq_false_iff]

theorem not_isEmpty_nil {α : Type} {l : List α} (h : l = []) : ¬(!l.isEmpty) = true := fun h' => not_isEmpty_iff.1 h' h

theorem step_nil {s : State} (h : s.pending = []) : step s = .next s.idle := by
  unfold step
  rw [h]

theorem step_cons {c : Instr} {rest : List Instr} {s : State} (h : s.pending = c :: rest) : step s = exec c { s with pending := rest } := by
  unfold step
  rw [h]

/-! ### The obligations -/

/-- Settles O55: the queue's front runs; an idle step is read off its conditions in their order. -/
theorem stepAtFront : Obligations.StepAtFront := by
  unfold Obligations.StepAtFront
  refine ⟨fun c rest s h => step_cons h, fun s h => ⟨fun hx => (step_nil h).trans (congrArg _ (State.idle_plain hx)),
    fun hx hslots => (step_nil h).trans (congrArg _ (State.idle_serves hx hslots))⟩, fun d => ⟨Dev.idleStep_unpowered, Dev.idleStep_firmless,
    fun hp hf => ?running⟩, fun _ _ _ => ⟨rfl, rfl⟩⟩
  case running =>
    have heq := Dev.idleStep_running hp hf
    refine ⟨fun hparked hover => heq.trans (if_pos ⟨not_isEmpty_iff.2 hparked, List.isEmpty_iff.2 hover⟩), fun hparked => ?_⟩
    have hfirst := heq.trans (if_neg fun h => not_isEmpty_nil hparked h.1)
    refine ⟨fun hheld hwait => hfirst.trans (if_pos ⟨not_isEmpty_iff.2 hheld, by rw [hwait]; rfl⟩), fun hheld => ?_⟩
    have hsecond := hfirst.trans (if_neg fun h => not_isEmpty_nil hheld h.1)
    exact ⟨fun hany => hsecond.trans (if_pos (not_isEmpty_iff.2 hany)),
      fun hany hwaits => hsecond.trans ((if_neg (not_isEmpty_nil hany)).trans (if_pos (not_isEmpty_iff.2 hwaits))),
      fun hany hwaits => hsecond.trans ((if_neg (not_isEmpty_nil hany)).trans (if_neg (not_isEmpty_nil hwaits)))⟩

/-- Every field reads its reset value. -/
theorem reset_get (F : Fld) : State.reset.dev.get F = F.rst := rfl

/-- A field whose reset value is 1 at one index alone. -/
theorem reset_is_first {F : Nat → Fld} (h : ∀ k, (F k).rst = if k = 0 then 1 else 0) (k : Nat) :
    State.reset.dev.is (F k) = decide (k = 0) := by
  unfold Dev.is
  rw [reset_get, h]
  split <;> simp [*]

/-- Settles O56: nothing has been written, so every field, Beacon, slot word and byte reads its reset value. -/
theorem resetState : Obligations.ResetState := by
  unfold Obligations.ResetState
  refine ⟨reset_get, rfl, reset_is_first fun _ => rfl, rfl, rfl, rfl, reset_is_first fun _ => rfl, rfl, rfl, rfl, rfl, rfl, ?_, rfl,
    fun _ => rfl, fun _ _ => rfl, ?_, rfl, rfl, ?_, rfl, rfl, rfl, fun _ => rfl, rfl⟩
  · exact Dev.is_of_get_one rfl
  · rfl
  · rfl

end Sys2Proof.Machine
end
